-- ==== Sys2Proof/Word.lean ====
section
/-! DEFINITION. The word and byte types of the Varod and the plain container the state is made of. -/

namespace Sys2Proof

/-- A 64-bit register or memory word (R39). -/
abbrev Word := BitVec 64

/-- A byte of memory (R1). -/
abbrev Byte := BitVec 8

/-- A finite table from a number to a value, as plain data: the entry of a key is the first pair that holds it. -/
abbrev Map (α : Type) := List (Nat × α)

end Sys2Proof
end

