-- ==== Sys2Proof/Config.lean ====
section
/-! DEFINITION. What one Varod fixes: the constants of its tables, and the free values, which are constants without a
body, so that nothing can be proved of the value one takes. -/

namespace Sys2Proof.Config

/-- Lanes of a gang, read in LANES (Table 2.5). -/
def lanes : Nat := 32
/-- K cells of the MXE array, read in TILEK (Table 2.5). -/
def tileK : Nat := 128
/-- N cells of the MXE array, read in TILEN (Table 2.5). -/
def tileN : Nat := 64
/-- Clusters of the device (R17). -/
def clusters : Nat := 384
/-- SCs of a cluster; cores 16 to 19 are its GCs (R23). -/
def scs : Nat := 16
/-- Cores of a cluster (R23, R24). -/
def cores : Nat := 20
/-- Copy tags of a cluster (R26). -/
def tags : Nat := 2560
/-- Children a core may have outstanding (R299). -/
def children : Nat := 64
/-- Contexts a cellar heap holds beyond the 4,096 that R302 promises (free, log 7). -/
opaque heapExtra : Nat
/-- Contexts a core's cellar heap holds: at least 4,096 (R302). -/
def heapRoom : Nat := heapExtra + 4096
/-- Contexts the overflow lists of one partition hold together (R303). -/
def overflowRoom : Nat := 65536
/-- MXE contributions the storage of a coherence point stages by itself (R181). -/
def stagedHere : Nat := 16
/-- Contributions the 256 MiB staging area of a partition holds, one 8 KiB tile each (R181). -/
def stagingRoom : Nat := 32768
/-- Off-core gang records of a cluster (R434). -/
def offCoreRoom : Nat := 64
/-- Core clock in MHz in early and in full service (Table 14.4, R406). -/
def clockMhz (full : Bool) : Nat := if full then 2000 else 1000

/-- The core cycles that pass in the n-th step: the model gives no times, only that they are not negative (DESIGN CHOICE, log 2:
safe). -/
opaque freeCycles : Nat → Nat
/-- The n-th undefined register value (R15, R64, R65; free values are log 7, DESIGN CHOICE: safe). -/
opaque freeWord : Nat → Word
/-- The byte at an address of storage whose contents are undefined since the n-th step (R15, R207, R343, R246). -/
opaque freeByte : Nat → Nat → Byte
/-- The word a read of another device's memory returns in the n-th step, at a physical address (R378). -/
opaque remoteByte : Nat → Nat → Byte
/-- Whether another device grants this device's partition the access, in the n-th step: partition, address, write (R378). -/
opaque remoteGrant : Nat → Nat → Nat → Bool → Bool
/-- The i-th field left open of what the n-th step writes: park codes and operands of a save image, and the length of its spill region
(R428, R429). -/
opaque freeField : Nat → Nat → Nat
/-- The firmware image that the ROM reads over the board management bus at power-on (R401). -/
opaque bootImage : List Byte
/-- The firmware version a firmware image carries, and the configuration that firmware runs with (R401, R402). -/
opaque firmwareVersion : List Byte → Nat
opaque firmwareConfig : List Byte → List Nat
/-- The SM3 digest of the vendor key, held in fuses (R394, R401). -/
opaque vendorKeyDigest : List Byte
/-- Whether a signature over a digest verifies under the public key with an SM3 digest: key digest, digest, signature (R394, R401). -/
opaque verifies : List Byte → List Byte → List Byte → Bool
/-- Whether the SMC has assigned the host a GLK address window onto a granule of a partition (R379): partition, granule. -/
opaque glkWindow : Nat → Nat → Bool
/-- The slice the RKE has placed a page's frame at (R21, R283). -/
opaque homeSlice : Nat → Nat
/-- The SMC's route table (R454): the entry of a device number. -/
opaque route : Nat → Nat
/-- The 32-bit CRC of a flit (R449). -/
opaque crc32 : List Byte → Nat
/-- The bytes of a message in the slots of a flit's payload: its kind, numbers and data (R449, R454). -/
opaque messageBytes : Nat → List Nat → List Byte → List Byte
/-- Whether, in the n-th step, a bank of a cluster in cache mode holds a line: step, cluster, bank, first byte (R200, R207). -/
opaque cachedIn : Nat → Nat → Nat → Nat → Bool
/-- Whether, in the n-th step, a fetch returns a word that the loader has replaced, where it may (R389). -/
opaque oldFetch : Nat → Bool
/-- Whether, in the n-th step, an instruction cache holds the word at a key (R200). -/
opaque cachedText : Nat → Nat → Bool
/-- Whether, in the n-th step, a translation cache holds what a page-table line in host memory says (R450). -/
opaque cachedTable : Nat → Nat → Bool
/-- Whether the GLK port trains at GLK-3 (R448). -/
opaque glk3 : Bool
/-- The flits of a virtual channel the far end of a link can hold (R441). -/
opaque linkCapacity : Nat → Nat
/-- The SM3 digest (R394, R402). -/
opaque sm3 : List Byte → List Byte
/-- The bytes a logged event is hashed as (R402): its kind and its numbers. -/
opaque eventBytes : Nat → List Nat → List Byte
/-- The device identity key's signature, and the SM3 digest of its public half (R403, R442). -/
opaque sign : List Byte → List Byte
opaque identityDigest : List Byte
/-- Whether an identity key, by its SM3 digest, is that of a device of this device's class (R442). -/
opaque sameClass : List Byte → Bool
/-- The native code of a loop pseudo-form (R78, R397). -/
opaque nativeLoop : BitVec 32 → BitVec 32
/-- The signature with the device's code key (R397). -/
opaque codeSign : List Byte → List Byte
/-- The priority, from 0 to 3 by its last two bits, of a request whose command names none (R426, R431): code, and its first word. -/
opaque requestPriority : Nat → Nat → Nat
/-- The bytes of a command as it lies in the command mailbox: code and words (R457, R458). -/
opaque commandBytes : Nat → List Nat → List Byte
/-- The address, reported by the firmware, at which the mailboxes are reached over GLK (R457). -/
opaque mailboxAddr : Nat
/-- The default grant limit of a kernel (R291), of which an image's tables hold nothing: image digest, kernel number. -/
opaque grantlimOf : Nat → Nat → Nat

end Sys2Proof.Config
end

