-- ==== Sys2Proof/Syntax.lean ====
section
/-! DEFINITION. The abstract syntax: one constructor for each row of spec/opcode_table.json, that is, for each
encoded instruction (R79 to R103) and for each event of the device that the table lists as a step of its own. -/

namespace Sys2Proof

/-- A register field: w, f (R39, R40). -/
abbrev Reg := BitVec 5

/-- A predicate number in a destination field (R32). -/
abbrev PReg := BitVec 3

/-- A predicate source field: bits [2:0] the number, bit [3] the negate bit (R32). -/
abbrev PSrc := BitVec 4

/-- An engine context (R36). -/
abbrev Ctx := BitVec 4

/-- A load command of the SMC (R395): the image's address, the partition, the ASID and the two bases. -/
structure LoadRequest where
  image : Nat
  part : Nat
  asid : BitVec 16
  codeBase : Word
  dataBase : Word
  deriving DecidableEq, Repr

/-- A flit of a GLK or PFX link (R449): the fields of its header (Table 14.2), its payload and its CRC. -/
structure Flit where
  seq : BitVec 12
  vc : BitVec 3
  gen : BitVec 1
  msgs : BitVec 16
  rs : Bool
  vcs : BitVec 3
  ack : BitVec 12
  crdt : BitVec 16
  payload : List Byte
  crc : BitVec 32
  deriving DecidableEq, Repr

/-- A host or remote-device access (R451, R455): a physical address of device memory or, with `home`, of the host's own memory; the
bytes of a write or the length of a read, and the ordering mark. -/
structure HostReq where
  addr : Nat
  home : Bool
  write : Bool
  bytes : List Byte
  len : Nat
  /-- an ordered write, an acquire read or a fence message (R451) -/
  ordered : Bool
  /-- an atomic: its operation code of Table 3.13, operand and expected value (Table 14.1, R454) -/
  atomic : Option (Nat × Word × Word)
  deriving DecidableEq, Repr

/-- A page the RKE moves (R212): its first 64 KiB frame, and the level of its leaf (R382: 0 of 64 KiB, 1 of 64 MiB, 2 of 64 GiB). -/
structure RackedPage where
  frame : Nat
  level : Nat
  deriving DecidableEq, Repr

/-- The steps of the device: the rows of spec/opcode_table.json. -/
inductive Instr where
  -- Integer family, opcode 0x01 (R84, R140 to R142).
  | add (d a b : Reg)
  | sub (d a b : Reg)
  | mul (d a b : Reg)
  | mulh (d a b : Reg)
  | mulhu (d a b : Reg)
  | div (d a b : Reg)
  | divu (d a b : Reg)
  | rem (d a b : Reg)
  | remu (d a b : Reg)
  | and (d a b : Reg)
  | or (d a b : Reg)
  | xor (d a b : Reg)
  | andn (d a b : Reg)
  | sll (d a b : Reg)
  | srl (d a b : Reg)
  | sra (d a b : Reg)
  | ror (d a b : Reg)
  | clz (d a : Reg)
  | ctz (d a : Reg)
  | popc (d a : Reg)
  | brev (d a : Reg)
  | bswap (d a : Reg)
  | min (d a b : Reg)
  | max (d a b : Reg)
  | minu (d a b : Reg)
  | maxu (d a b : Reg)
  | slt (d a b : Reg)
  | sltu (d a b : Reg)
  | sel (n : BitVec 3) (d a b : Reg)
  | bfxu (d a b : Reg)
  | bfxs (d a b : Reg)
  | bfi (d a b : Reg)
  -- Immediate family, opcodes 0x02 to 0x08 (R85, R143).
  | addi (d a : Reg) (imm : BitVec 15)
  | andi (d a : Reg) (imm : BitVec 15)
  | ori (d a : Reg) (imm : BitVec 15)
  | xori (d a : Reg) (imm : BitVec 15)
  | slti (d a : Reg) (imm : BitVec 15)
  | slli (d a : Reg) (n : BitVec 6)
  | srli (d a : Reg) (n : BitVec 6)
  | srai (d a : Reg) (n : BitVec 6)
  | rori (d a : Reg) (n : BitVec 6)
  | slliw (d a : Reg) (n : BitVec 5)
  | srliw (d a : Reg) (n : BitVec 5)
  | sraiw (d a : Reg) (n : BitVec 5)
  | roriw (d a : Reg) (n : BitVec 5)
  | lui (d : Reg) (imm : BitVec 20)
  -- Constant window, opcode 0x09 (R86, R144).
  | ldk (d : Reg) (k : BitVec 8)
  | addk (d a : Reg) (k : BitVec 8)
  | subk (d a : Reg) (k : BitVec 8)
  | andk (d a : Reg) (k : BitVec 8)
  | ldkf (d : Reg) (k : BitVec 8)
  -- Predicates, opcode 0x0A (R87, R145).
  | cpeq (d : PReg) (a b : Reg)
  | cpne (d : PReg) (a b : Reg)
  | cplt (d : PReg) (a b : Reg)
  | cpltu (d : PReg) (a b : Reg)
  | cpge (d : PReg) (a b : Reg)
  | cpgeu (d : PReg) (a b : Reg)
  | pand (d : PReg) (a b : PSrc)
  | por (d : PReg) (a b : PSrc)
  | pxor (d : PReg) (a b : PSrc)
  | pmovw (d : PReg) (a : Reg)
  | wmovp (d : Reg) (a : PSrc)
  -- Control flow, opcodes 0x10 to 0x12 (R88, R317).
  | br (p : PReg) (neg : BitVec 1) (off : BitVec 21)
  | jal (d : Reg) (off : BitVec 20)
  | jalr (d a : Reg)
  -- Floating point, opcode 0x18 (R89, R148 to R152); `p` is fn[0], 0 for FP32 and 1 for FP64.
  | fadd (d a b : Reg) (p : BitVec 1)
  | fsub (d a b : Reg) (p : BitVec 1)
  | fmul (d a b : Reg) (p : BitVec 1)
  | fdiv (d a b : Reg) (p : BitVec 1)
  | fsqrt (d a : Reg) (p : BitVec 1)
  | fmadd (d a b : Reg) (p : BitVec 1)
  | fmsub (d a b : Reg) (p : BitVec 1)
  | fnmadd (d a b : Reg) (p : BitVec 1)
  | fnmsub (d a b : Reg) (p : BitVec 1)
  | fmin (d a b : Reg) (p : BitVec 1)
  | fmax (d a b : Reg) (p : BitVec 1)
  | fsgnj (d a b : Reg) (p : BitVec 1)
  | fsgnjn (d a b : Reg) (p : BitVec 1)
  | fsgnjx (d a b : Reg) (p : BitVec 1)
  | fceq (d : PReg) (a b : Reg) (p : BitVec 1)
  | fclt (d : PReg) (a b : Reg) (p : BitVec 1)
  | fcle (d : PReg) (a b : Reg) (p : BitVec 1)
  | fcun (d : PReg) (a b : Reg) (p : BitVec 1)
  | fclass (d a : Reg) (p : BitVec 1)
  | frint (d a : Reg) (p : BitVec 1)
  | fmov (d a : Reg)
  | fmvwf (d a : Reg)
  | fmvfw (d a : Reg)
  -- Conversions, opcode 0x19 (R90, R154 to R157): `s` the source and `t` the destination format field.
  | cvt (d a b : Reg) (s t : BitVec 4) (sat : BitVec 1)
  | cvti (d a : Reg) (s t : BitVec 4) (sat : BitVec 1)
  -- Special functions, opcode 0x1A (R91, R153).
  | fexp2 (d a : Reg)
  | flog2 (d a : Reg)
  | frsqrt (d a : Reg)
  | fsin (d a : Reg)
  | fcos (d a : Reg)
  -- Packed narrow arithmetic, opcode 0x1B (R92, R158 to R160): `e` the element format field.
  | nadd (d a b : Reg) (e : BitVec 4) (sat : BitVec 1)
  | nsub (d a b : Reg) (e : BitVec 4) (sat : BitVec 1)
  | nmul (d a b : Reg) (e : BitVec 4) (sat : BitVec 1)
  | nfma (d a b : Reg) (e : BitVec 4) (sat : BitVec 1)
  | nmin (d a b : Reg) (e : BitVec 4) (sat : BitVec 1)
  | nmax (d a b : Reg) (e : BitVec 4) (sat : BitVec 1)
  | ndot (d a b : Reg) (e : BitVec 4) (sat : BitVec 1)
  -- The format prefix, opcode 0x1C (R53 to R57).
  | pfx (fa fb : BitVec 4) (sel : BitVec 6)
  -- M-format memory, opcodes 0x20 to 0x24 and 0x29 (R93, R237, R247).
  | ld (d a : Reg) (off : BitVec 11) (sz : BitVec 2) (acq : BitVec 1)
  | ldu (d a : Reg) (off : BitVec 11) (sz : BitVec 2) (acq : BitVec 1)
  | st (d a : Reg) (off : BitVec 11) (sz : BitVec 2) (rel : BitVec 1)
  | ldf (d a : Reg) (off : BitVec 11) (sz : BitVec 2) (acq : BitVec 1)
  | stf (d a : Reg) (off : BitVec 11) (sz : BitVec 2) (rel : BitVec 1)
  | pref (h : BitVec 2) (a : Reg) (off : BitVec 11) (sz : BitVec 2)
  -- Indexed memory, opcode 0x25 (R94).
  | ldIndexed (d a b : Reg) (sz ord : BitVec 2) (scope : BitVec 3)
  | lduIndexed (d a b : Reg) (sz ord : BitVec 2) (scope : BitVec 3)
  | stIndexed (d a b : Reg) (sz ord : BitVec 2) (scope : BitVec 3)
  | ldfIndexed (d a b : Reg) (sz ord : BitVec 2) (scope : BitVec 3)
  | stfIndexed (d a b : Reg) (sz ord : BitVec 2) (scope : BitVec 3)
  -- Atomics, opcode 0x26 (R95, R240, R241): `z` selects 4 or 8 bytes.
  | aadd (d a b : Reg) (z : BitVec 1) (ord : BitVec 2) (scope : BitVec 3)
  | aand (d a b : Reg) (z : BitVec 1) (ord : BitVec 2) (scope : BitVec 3)
  | aor (d a b : Reg) (z : BitVec 1) (ord : BitVec 2) (scope : BitVec 3)
  | axor (d a b : Reg) (z : BitVec 1) (ord : BitVec 2) (scope : BitVec 3)
  | amin (d a b : Reg) (z : BitVec 1) (ord : BitVec 2) (scope : BitVec 3)
  | amax (d a b : Reg) (z : BitVec 1) (ord : BitVec 2) (scope : BitVec 3)
  | aminu (d a b : Reg) (z : BitVec 1) (ord : BitVec 2) (scope : BitVec 3)
  | amaxu (d a b : Reg) (z : BitVec 1) (ord : BitVec 2) (scope : BitVec 3)
  | aswap (d a b : Reg) (z : BitVec 1) (ord : BitVec 2) (scope : BitVec 3)
  | acas (d a b : Reg) (z : BitVec 1) (ord : BitVec 2) (scope : BitVec 3)
  | afaddF32 (d a b : Reg) (ord : BitVec 2) (scope : BitVec 3)
  | afaddBf16 (d a b : Reg) (ord : BitVec 2) (scope : BitVec 3)
  -- Fences and cache operations, opcodes 0x27 and 0x28 (R96, R97, R243 to R246).
  | fence (pairs : BitVec 4) (scope : BitVec 3)
  | ifence
  | cflush (a : Reg)
  | cclean (a : Reg)
  | cinval (a : Reg)
  | czero (a : Reg)
  -- Lane operations, opcode 0x30 (R98, R146, R147).
  | shfl (d a b : Reg)
  | shflup (d a b : Reg)
  | shfldn (d a b : Reg)
  | shflx (d a b : Reg)
  | fshfl (d a b : Reg)
  | fshflup (d a b : Reg)
  | fshfldn (d a b : Reg)
  | fshflx (d a b : Reg)
  | vall (d : PReg) (a : PSrc)
  | vany (d : PReg) (a : PSrc)
  | vbal (d : Reg) (a : PSrc)
  | lmask (d : Reg)
  -- Queues, work lists, ready queues and messages, opcode 0x34 (R99, R261 to R271); `wlpop` holds d[4:1] of its even d.
  | qpush (a b : Reg)
  | qpop (d a : Reg)
  | qtry (d a : Reg)
  | qlen (d a : Reg)
  | wlpush (a b : Reg)
  | wlpop (d : BitVec 4)
  | rqpush (a b : Reg)
  | rqpop (d : Reg)
  | msend (a b : Reg)
  | mrecv (d : Reg)
  -- Thread operations, launch, gang call, barriers and waits, opcodes 0x35 to 0x39 (R99, R100).
  | spawn (d a b : Reg)
  | join (a : Reg)
  | exit
  | sleep
  | wake (a : Reg)
  | yield
  | migrate (a : Reg)
  | launch (d a : Reg)
  | gcall (off : BitVec 20)
  | gret
  | bsync (g : BitVec 8)
  | barv (g : BitVec 8)
  | bwait (g : BitVec 8)
  | bquery (d : Reg) (g : BitVec 8)
  | wait (ld st cp tl : BitVec 4)
  | pwait (a : Reg)
  -- MXE commands, opcode 0x40 engine 0 (R101, R187 to R194).
  | mcfg (a : Reg) (c : Ctx) (i : BitVec 2)
  | msel (a : Reg) (c : Ctx)
  | mlds (a b : Reg) (c : Ctx)
  | mswp (c : Ctx)
  | mma (a b : Reg) (c : Ctx)
  | mmas (a b : Reg) (c : Ctx)
  | mzero (b : Reg) (c : Ctx)
  | mdrn (a b : Reg) (c : Ctx)
  | mdrna (a b : Reg) (c : Ctx)
  | mdrno (a b : Reg) (c : Ctx)
  | mrdr (a b : Reg) (c : Ctx)
  | mwrr (a b : Reg) (c : Ctx)
  | mstat (a : Reg) (c : Ctx) (i : BitVec 2)
  -- CPE commands, opcode 0x40 engine 1 (R248 to R259); the copies hold b[4:1] of their even b.
  | ccopy (a : Reg) (b : BitVec 4)
  | cgath (a : Reg) (b : BitVec 4)
  | cscat (a : Reg) (b : BitVec 4)
  | cstat (a : Reg) (i : BitVec 1)
  | pquery (a b : Reg) (i : BitVec 1)
  | lquery (a b : Reg)
  -- ENB commands, opcode 0x40 engine 2 (R355 to R359).
  | ncfg (a : Reg) (c : Ctx) (i : BitVec 2)
  | nld (a b : Reg) (c : Ctx)
  | ninj (a b : Reg)
  | ntick (a : Reg) (c : Ctx)
  | nrd (a b : Reg) (c : Ctx) (i : BitVec 2)
  | nspk (a b : Reg) (c : Ctx)
  -- STE commands, opcode 0x40 engine 3 (R363 to R372).
  | tcfg (a : Reg) (c : Ctx) (i : BitVec 2)
  | tdesc (a b : Reg) (c : Ctx)
  | texp (a b : Reg) (c : Ctx)
  | tback (a b : Reg) (c : Ctx)
  | troot (a : Reg) (c : Ctx)
  | trdn (a b : Reg) (c : Ctx) (i : BitVec 2)
  | tvl (a b : Reg) (c : Ctx)
  -- Stream commands and the placement hint, opcode 0x40 engines 4 and 5 (R333, R283).
  | scfg (a b : Reg) (n : BitVec 2)
  | son (n : BitVec 2)
  | soff (n : BitVec 2)
  | hplace (a b : Reg)
  -- System, trap, save and restore, opcodes 0x60 to 0x62 (R102, R404 to R407, R443 to R447).
  | sysrd (d : Reg) (r : BitVec 12)
  | syswr (a : Reg) (r : BitVec 12)
  | sysset (d a : Reg) (r : BitVec 12)
  | sysclr (d a : Reg) (r : BitVec 12)
  | feat (d a : Reg)
  | timer (a : Reg)
  | svc
  | brk
  | rft
  | wfi
  | msvw (d a b : Reg)
  | mrsw (d a b : Reg)
  | msvf (d a b : Reg)
  | mrsf (d a b : Reg)
  -- The Elpol loop pseudo-form, opcode 0x7E (R76 to R78).
  | eloop (i n : Reg) (s : BitVec 2) (p : PReg) (off : BitVec 10)
  -- Events of threads and their memory accesses.
  | subnormalAssistComplete (k : Nat)
  | loadPerformed (k i : Nat)
  | storePerformed (k i : Nat)
  | atomicPerformed (k i : Nat)
  | csmctlWrite (k i : Nat)
  | fbfcmdRetry (k i : Nat)
  | fbfcmdAbort (k i : Nat)
  | controlWordWrite (k i : Nat)
  | gangStop (part : Nat)
  | timerExpiry (cl core : Nat)
  | timerTrapTaken (k : Nat)
  | messageInterruptTrap (k : Nat)
  | messagePlaced (i : Nat)
  | mrecvComplete (k i : Nat)
  | wakePlaced (i : Nat)
  | stallLimitExpiry (k : Nat)
  | queuePushPlace (i : Nat)
  | queuePopServe (i : Nat)
  | queuePopComplete (k i : Nat)
  | wlpopComplete (k i : Nat)
  -- Events of slots, work lists and launches.
  | rotationBoundary (cl core : Nat)
  | slotFill (cl core slot : Nat)
  | loadLevelInterval
  | worklistEntryArrives (i : Nat)
  | launchQueueWake (part q : Nat)
  | launchAccept (i : Nat)
  | launchDepctrRead (part serial : Nat)
  | launchPlace (part serial : Nat)
  | launchComplete (part serial : Nat)
  | launchedGangStart (cl core : Nat)
  -- Events of the grant, migration, children and barriers.
  | grantArrival (i : Nat)
  | grantKeyDeadline (cl key : Nat)
  | grantPack (cl : Nat)
  | gangStart (cl : Nat)
  | callerResume (i : Nat)
  | migrationArrival (i : Nat)
  | cellarMove (cl core : Nat)
  | exitNotice (i : Nat)
  | barrierArrival (k g : Nat)
  -- Events of control words, supervisor registers and faults.
  | csmBankSwitchComplete (cl bank : Nat)
  | syswrAsid (k : Nat)
  | syswrAstb (k : Nat)
  | lqcfgWrite (k : Nat)
  | faultRoutingWrite (k : Nat)
  | fbfRetryOnInvalidation (cl i : Nat)
  | fbfEntryFreed (cl : Nat)
  | recordDelivery (row : Nat)
  -- Events of the matrix engine.
  | mxeGrant (cl cls : Nat)
  | mxePassComplete (cl i : Nat)
  | mxePlaneLoadComplete (cl i : Nat)
  | mxeTileOpComplete (cl i : Nat)
  | mxeDrainComplete (cl i : Nat)
  | mdrnoContributionArrival (cl i : Nat)
  | mxeCommandFail (cl i : Nat)
  -- Events of the copy engine, streams, neuron banks and search trees.
  | cpeGrant (cl : Nat)
  | cpeLineWritten (cl i : Nat)
  | cpeCommandComplete (cl i : Nat)
  | cpeCommandFail (cl i : Nat)
  | streamElementRead (k n : Nat)
  | neuronModeSwitch (cl i : Nat)
  | enbCommandExecute (cl : Nat)
  | neuronEventArrival (i : Nat)
  | ntickArrival (k : Nat)
  | tickRecvGather (part g : Nat)
  | tickStep (cl : Nat)
  | steCommandBegin (cl i : Nat)
  | steCommandComplete (cl i : Nat)
  | steCommandFail (cl i : Nat)
  -- Events of racking, stops and switches.
  | rackPage (page : RackedPage) (dst : Nat)
  | rackBlockEnd (pte : Nat)
  | switchOutAtT (part : Nat)
  | saveComplete (part : Nat)
  | switchInRestart (part : Nat)
  | gangOffCore (cl core slot : Nat)
  | hostReplyRead (k : Nat)
  | gangReturn (cl i : Nat)
  -- SMC commands (R458); `auth` says that the command carries a signature that verifies.
  | smcCreatePartition (halfDies : BitVec 8) (granules keys : List Nat) (auth : Bool)
  | smcDestroyPartition (part : Nat) (auth : Bool)
  | smcLoadImage (req : LoadRequest)
  | smcRaiseSecver (v : Nat) (auth : Bool)
  | smcStop (part : Nat)
  | smcResume (part tr : Nat)
  | smcRelease (part : Nat)
  | smcSwitchOut (part prio t : Nat)
  | smcSwitchIn (part tr : Nat)
  | smcCheckpoint (auth : Bool)
  | smcRestore (i : Nat) (auth : Bool)
  | smcQuote (nonce : List Byte)
  | smcReadLog
  | smcGrantPfx (granule dev part : Nat) (write auth : Bool)
  | smcWithdrawPfx (granule dev part : Nat) (auth : Bool)
  | smcSetBudget (cl ref cap : Nat) (auth : Bool)
  | smcHostWindowBase (granule base : Nat) (auth : Bool)
  | smcInvalidCommand (code : Nat)
  -- Events of bring-up, links, errors and fetch.
  | powerOn
  | firmwareImageReceived (image : List Byte)
  | dieRelease (die : Nat)
  | fullServiceStep (ddrGib : Nat)
  | coreRailOvercurrent (ref : Nat)
  | linkFlitReceive (port : Nat) (flit : Flit)
  | linkReplayRequest (port seq : Nat)
  | linkDown (port : Nat)
  | hostAccess (acc : HostReq)
  | hostSnoopTimeout
  | pfxRemoteAccess (dev part : Nat) (acc : HostReq)
  | uncorrectableError (storage addr : Nat) (k : Nat) (scrub : Bool)
  | correctableError
  | illegalInstruction
  | resumeRestart (part : Nat)
  deriving DecidableEq, Repr

end Sys2Proof
end

