-- ==== Sys2Proof/Machine/State.lean ====
section
/-! DEFINITION. The state of one Varod device as plain data, the reasons a step can stop, and the state after reset. -/

namespace Sys2Proof.Machine

/-- Memory: address and byte pairs, addresses strictly rising, no byte equal to what an unlisted address reads as. -/
abbrev Mem := List Host.Cell

/-- Why a step of the model stops. -/
inductive Fault where
  /-- The agenda names an event whose operands lie outside the device (a cluster above 383, a bank above 15, ...), which
  no device can produce. Raised by `step` for the model's own agenda. Safe: no behaviour of the device is lost. -/
  | badAgenda
  deriving DecidableEq, Repr

/-- Why a step has no meaning. -/
inductive Refusal where
  /-- The instruction has no meaning yet. Raised by `exec`. Safe: nothing is claimed of it. -/
  | notModelled (mnemonic : String)
  deriving DecidableEq, Repr

/-- A register of a thread: w, f or p (R39, R40, R42). -/
inductive RegRef where
  | w (r : Reg)
  | f (r : Reg)
  | p (n : PReg)
  deriving DecidableEq, Repr

/-- Why a thread or lane is parked (R9, Table 9.6, R312). -/
inductive ParkWhy where
  /-- `wait`: the bounds of ld, st, cp and tl, 15 for none (R330) -/
  | counters (ld st cp tl : Nat)
  /-- an absent scratch line, by its first byte (R209, R331) -/
  | presence (line : Nat)
  /-- a counter at 63: 0 ld, 1 st, 2 cp, 3 tl (R236) -/
  | counterFull (which : Nat)
  /-- a full reservation, ENB or STE table of an engine: 0, 2, 3 (R173, R356, R364) -/
  | tableFull (engine : Nat)
  /-- no copy tag (R26) -/
  | noTag
  /-- an element of stream n that has not arrived (R49) -/
  | stream (n : Nat)
  /-- a `qpush` waiting for room (R262) -/
  | queuePush
  /-- a `qpop` or `qtry` whose request is in transit or waits for an entry (R263) -/
  | queuePop
  /-- `mrecv` on an empty mailbox (R270) -/
  | mailbox
  /-- a `gcall` on its way to the grant, or waiting for a key or room in one (R292) -/
  | grantRoom
  /-- a caller held in an open key (R292, R296) -/
  | grantKey
  /-- a caller whose key has packed (R296, R312) -/
  | grantPacked
  /-- `join`: the counter's address (R320) -/
  | join (va : Word)
  | sleep
  /-- `bsync`, `bwait`, or a second arrival: group and phase (R329) -/
  | barrier (g phase : Nat)
  /-- `ntick` of group g (R349) -/
  | tick (g : Nat)
  /-- registers not yet written (R138, R326, R327) -/
  | scoreboard (rs : List RegRef)
  /-- `fence` or `ifence`: whether earlier loads and earlier stores are waited for (R243, R244) -/
  | fence (ld st : Bool)
  /-- a release that waits for the thread's earlier accesses (R216) -/
  | release
  /-- a `gcall` whose release waits for the thread's earlier accesses (R292, R296) -/
  | grantRelease
  /-- an access whose walk reads page-table lines that a write is still to change, by their numbers (R211) -/
  | tableWrite (lines : List Nat)
  /-- a replayable fault held in the FBF, or waiting for an entry there (R418, R422) -/
  | fault
  /-- a frame that is being racked (R212) -/
  | racking (frame : Nat)
  /-- a CSM bank that is switching mode (R207) -/
  | bank (cl b : Nat)
  /-- the subnormal assist: the instruction and the prefix in force (R125, R162) -/
  | assist (i : Instr) (pfx : Option (BitVec 4 × BitVec 4 × BitVec 6))
  /-- `svc` of a gang waiting until every counter of the lanes of its set, by key, is zero (R434) -/
  | svcDrain (keys : List Nat)
  /-- `svc` of a gang lane waiting on the host for the reply to its request (R434) -/
  | host
  /-- `svc` of a gang lane while the host ring is not enabled (R414) -/
  | hostOff
  /-- `svc` of a gang lane whose request is still to be written (R417, R434) -/
  | ring
  /-- a lane of a gang whose reply has been read, while another lane still waits for one (R436) -/
  | replied
  /-- a lane of a gang held off-core whose stall count has expired there (R469) -/
  | stalled
  /-- a lane of a gang held off-core whose queue's bank has left FIFO mode: it takes the queue fault when its gang returns (R265, R469) -/
  | queueGone
  /-- a lane of a gang held off-core whose access FBFCMD ended, by its address: it takes the protection fault when its gang
  returns (R421, R434) -/
  | aborted (va : Word)
  /-- `exit`, `svc` (all counters) or `gret` (cp and tl) waiting for counters (R321, R327, R434) -/
  | drain (all : Bool)
  /-- `launch` before acceptance (R332) -/
  | launch
  | wfi
  /-- `texp` waiting for its command (R368) -/
  | texp
  /-- a fetch from a revoked image (R390, R411) -/
  | revoked
  /-- a `syswr` (1), `sysset` (2) or `sysclr` (3) of ASID, ASTB, LQCFG, FHBASE, FHCFG or HRBASE waiting for its condition: the
  register, the operand, and the register that takes the old value (R386, R409, R410, R414) -/
  | sysWrite (fn : Nat) (reg : BitVec 12) (value : Word) (dst : Reg)
  deriving DecidableEq, Repr

/-- A gang lane's request to the host (R417, R434): the base and the ASID of the host ring as they stood when its set issued `svc`, the
index once reserved, the lanes of the set and its place among them (Table 13.11). -/
structure HostCall where
  base : Word
  asid : BitVec 16
  index : Option Nat
  nb : Nat
  pos : Nat
  deriving DecidableEq, Repr

/-- A park: why, and the core cycle it began (R310). -/
structure Park where
  why : ParkWhy
  since : Nat
  deriving DecidableEq, Repr

/-- The three states of a stream register (R48). -/
inductive StreamState where
  | unbound
  | readBound
  | writeBound
  deriving DecidableEq, Repr

/-- An element read ahead: its value, or the detail code of its failure (R335, R336). -/
inductive StreamElem where
  | value (v : Word)
  | failed (detail : Nat)
  deriving DecidableEq, Repr

/-- The stream record of one of f28 to f31 (R48, R333, Table 13.12). -/
structure Stream where
  base : Word
  desc : Word
  pos : Word
  state : StreamState
  /-- a stream is recorded (CFG) -/
  cfg : Bool
  /-- elements read ahead of consumption, oldest first (R335) -/
  ahead : List StreamElem
  /-- an append has failed: later appends are discarded (R336) -/
  dead : Bool
  /-- the model's own number of the binding, which tells its appends from those of an earlier one -/
  bind : Nat
  deriving DecidableEq, Repr

def Stream.reset : Stream :=
  { base := 0, desc := 0, pos := 0, state := .unbound, cfg := false, ahead := [], dead := false, bind := 0 }

/-- What an outstanding memory operation does when it is performed. -/
inductive OutKind where
  /-- a load into a register; `signed` extends the sign (R237) -/
  | load (dst : RegRef) (signed : Bool)
  /-- a store, `czero`, or the words of `msvw` and `msvf` (R237, R245, R446) -/
  | store
  /-- `cflush`, `cclean`, `cinval` (R245) -/
  | cache (fn : Nat)
  /-- an atomic: operation code of Table 3.13, destination, operand and expected value (R240) -/
  | atomic (op : Nat) (dst : RegRef) (operand expected : Word)
  /-- `mrsw` of registers d to b (R446) -/
  | restoreW (d b : Reg)
  /-- `mrsf` of registers d to b, with the stream states read with them (R446, R447) -/
  | restoreF (d b : Reg) (streams : List (Nat × Stream))
  /-- an append to stream n: its binding, and the address of its element (R50, R336) -/
  | append (n bind : Nat) (va : Word)
  /-- a queue entry taken, waiting for its stamp: destination, value, producer core, stamp (R230, R263) -/
  | pop (dst : Reg) (v : Word) (core stamp : Nat)
  /-- a `qtry` whose request is on its way to its bank (R263) -/
  | popWait (dst : Reg)
  /-- a `qlen` of a queue of a cluster (R264) -/
  | queueLen (dst : Reg) (cl q : Nat)
  /-- a work-list entry taken, waiting for its stamp (R266) -/
  | work (dst : Reg) (v0 v1 : Word) (core stamp : Nat)
  /-- a message taken, waiting for its stamp (R270) -/
  | message (dst : Reg) (v : Word) (core stamp : Nat)
  deriving DecidableEq, Repr

/-- An outstanding operation of a thread (R10, R236): the physical address of each byte in order, the bytes it writes,
its order and scope codes, its PC, its write-issue number and its instruction. -/
structure OutOp where
  kind : OutKind
  addrs : List Nat
  data : List Byte
  order : BitVec 2
  scope : BitVec 3
  pc : Word
  /-- write-issue number on its core (R230) -/
  serial : Nat
  /-- the model's own number of the instruction that made it: the lanes of one gang instruction share it (R225, R239) -/
  inst : Nat
  /-- page-table lines its translation was built from (R211) -/
  lines : List Nat
  /-- its effective address -/
  va : Word
  deriving DecidableEq, Repr

/-- A pending deferred engine fault (R186, R256, R337): engine (0 MXE, 1 CPE, 2 ENB, 3 STE, 4 stream append, 5 stream
read), detail code, faulting address and the failing command's PC. -/
structure Deferred where
  engine : Nat
  detail : Nat
  value : Word
  pc : Word
  deriving DecidableEq, Repr

/-- A spawned thread's tie to its entry in the child table of the core that spawned it (R301, R319). -/
structure ChildRef where
  cl : Nat
  core : Nat
  entry : Nat
  deriving DecidableEq, Repr

/-- An SC thread or a GC lane-thread (R43). -/
structure Thread where
  /-- the model's own name of the thread, kept when it migrates -/
  uid : Nat
  pc : Word
  w : Vector Word 32
  f : Vector Word 32
  p : Vector Bool 8
  /-- XSTAT (Table 2.6) -/
  xstat : Word
  fflags : Word
  rndseed : Word
  grantlim : Word
  asid : BitVec 16
  /-- f28 to f31 (R48) -/
  streams : Vector Stream 4
  /-- counters of outstanding operations (R37, R236) -/
  ld : Nat
  st : Nat
  cp : Nat
  tl : Nat
  /-- trap registers (Table 13.2) -/
  tpc : Word
  tstat : Word
  tcause : Word
  tval : Word
  tscr : Word
  tepc : Word
  park : Option Park
  /-- the host request whose reply has not been read (R434, R436) -/
  call : Option HostCall
  /-- outstanding memory operations in program order (R213, R236) -/
  out : List OutOp
  /-- registers whose value is still to be written (R138) -/
  busy : List RegRef
  deferred : List Deferred
  child : Option ChildRef
  /-- the partition and serial of its launch (R276) -/
  launch : Option (Nat × Nat)
  /-- its launch's task queue, the owner of its slot (R285, R286) -/
  tq : Nat
  /-- phase of its last arrival, by group (R328); under 256, the tick of its `ntick` arrival plus one, 0 for one refused (R349) -/
  last : Map Nat
  /-- the caller whose place in a packed gang this lane holds (R294): the caller's key -/
  caller : Option Nat
  /-- it has issued an instruction at its position (R322) -/
  begun : Bool
  /-- registers whose storage holds an uncorrectable error, until they are rewritten (R438) -/
  badRegs : List RegRef
  deriving DecidableEq, Repr

/-- A migration context (R301), with the model's bookkeeping of the thread it carries. -/
structure MigCtx where
  pc : Word
  asid : BitVec 16
  xstat : Word
  fflags : Word
  child : Option ChildRef
  /-- w8 to w15 -/
  regs : Vector Word 8
  uid : Nat
  launch : Option (Nat × Nat)
  tq : Nat
  last : Map Nat
  deferred : List Deferred
  /-- an explicit `migrate` under XSTAT.SS: its step trap is taken at the resumption (R439) -/
  stepped : Bool
  deriving DecidableEq, Repr

/-- A launch record as read (Table 9.1). -/
structure LaunchRec where
  ver : Nat
  sigop : Nat
  image : Nat
  entry : Nat
  args : Word
  argsz : Nat
  csz : Nat
  const : Word
  nthr : Nat
  ngang : Nat
  groups : Word
  depctr : Word
  signal : Word
  sigval : Word
  prio : Nat
  tq : Nat
  place : Word
  /-- a reserved field is not zero -/
  reserved : Bool
  deriving DecidableEq, Repr

/-- Things in transit on the mesh's channels (R19): requests, migration contexts, events. -/
inductive Flight where
  /-- a message: sender and its uid, destination, value, sending core and stamp (R269) -/
  | message (src uid dst : Nat) (v : Word) (core stamp : Nat)
  /-- a wake: sender and its uid if a thread, destination (R322) -/
  | wake (src : Option (Nat × Nat)) (dst : Nat)
  /-- an event's two words and the threads whose tl it holds (R345, R358) -/
  | event (w0 w1 : Word) (srcs : List Nat)
  /-- a migration context on its way to an SC (R300) -/
  | migration (ctx : MigCtx) (cl core : Nat)
  /-- a child's exit notice, with the child's XSTAT.SUP (R321) -/
  | exitNotice (cl core entry : Nat) (sup : Bool)
  /-- a work-list entry moved to another SC (R304) -/
  | work (cl core : Nat) (v0 v1 : Word) (pcore stamp : Nat)
  /-- a push to a queue of a cluster: thread and its uid, cluster, queue, value, producing core, stamp (R262) -/
  | push (k uid cl q : Nat) (v : Word) (core stamp : Nat)
  /-- a pop or, with `once`, a qtry (R263) -/
  | pop (k cl q : Nat) (dst : Reg) (once : Bool)
  /-- a gcall on its way to its grant (R292): caller, target -/
  | gcall (k : Nat) (target : Word)
  /-- a barrier arrival: the thread's uid, partition, group, phase (R306) -/
  | arrival (uid part g phase : Nat)
  /-- an `ntick` arrival: the threads of its issuing set, partition, group, tick, SENT and RECV (R349, R355) -/
  | tick (ks : List Nat) (part g t sent recv : Nat)
  /-- a launch record for a launch unit to read: partition, cluster, queue, ASID, SUP, its address, the issuer and its wd
  (R276, R280) -/
  | launch (part cl : Nat) (queue : Option Nat) (asid : BitVec 16) (sup : Bool) (va : Word) (issuer : Option (Nat × Reg))
  /-- a lane's results on their way to its caller (R294, R327) -/
  | results (k : Nat) (w10 w11 f10 f11 : Word)
  deriving DecidableEq, Repr

/-- A posted engine command (R173, R249, R356, R364). -/
structure Cmd where
  /-- the model's own number of the command, in posting order -/
  seq : Nat
  fn : Nat
  /-- the issuing SC thread or gang slot (R174): cluster, core, slot -/
  issuer : Nat × Nat × Nat
  /-- keys of the threads whose counter it raised -/
  keys : List Nat
  /-- the gang it was issued in, or not: rows then follow lanes (R188) -/
  gang : Bool
  ctx : Nat
  /-- the latched context words, with a prefix's formats and selector in place (R168) -/
  words : List Word
  /-- per lane: lane, a operand, b operand -/
  ops : List (Nat × Word × Word)
  /-- per lane: the scale bytes read from f registers (R172) -/
  scales : List (List Byte)
  dst : Reg
  pc : Word
  asid : BitVec 16
  sup : Bool
  /-- core cycle of the post (R174) -/
  posted : Nat
  /-- the step of the post: the issuing lanes' accesses of earlier steps happen before the command's own (R228) -/
  inst : Nat
  deriving DecidableEq, Repr

/-- A stationary plane of the MXE (R170). -/
structure Plane where
  /-- elements of B in row-major order, 64 to a row -/
  b : List (BitVec 64)
  fb : Nat
  kb : Nat
  pt : Nat
  scale : Option (List Byte)
  hb : Nat
  deriving DecidableEq, Repr

/-- A granted or begun engine command with what it holds. -/
structure Running where
  cmd : Cmd
  /-- rows of a pass as read before its grant: row number, elements (R184) -/
  rows : List (Nat × List (BitVec 64))
  /-- bytes or elements done, or nodes walked (R260, R371) -/
  done : Nat
  /-- the plane a pass uses (R164) -/
  plane : Option Plane
  /-- the tile a drain read at its grant (R174) -/
  tile : List (BitVec 32)
  /-- a contribution of an ordered drain has arrived and is staged (R180) -/
  staged : Bool
  /-- elements whose address has been read and whose own access is still to be performed: number, address (R252, R253) -/
  elems : List (Nat × Word)
  /-- the rest of the walk of a `troot` whose root has moved, in order: a node to visit, by its index and 0, or a run to push, by its first
  node and its length (R371); `done` counts the nodes visited -/
  walk : Option (List (Nat × Nat))
  /-- where the ranges of an `mlds` or the rows of a drain lie, as translated before its grant: first byte and length of each piece (R184) -/
  place : List (Nat × Nat)
  /-- the page-table lines of those translations, by their numbers (R211) -/
  lines : List Nat
  deriving DecidableEq, Repr

/-- An MXE context (R167). -/
structure MxCtx where
  cfg : Word
  base : Word
  sts : Word
  cnt : Word
  deriving DecidableEq, Repr

/-- The reset values of Tables 6.2 to 6.5. -/
def MxCtx.reset : MxCtx := { cfg := 0x433#64, base := 0, sts := 0, cnt := 0 }

/-- The matrix engine of a cluster (R163 to R199). -/
structure Mxe where
  ctx : Vector MxCtx 16
  active : Option Plane
  shadow : Option Plane
  table : List Cmd
  running : List Running
  /-- the last `mlds` granted (R174) -/
  lastLoad : Option Nat
  /-- budget level L, signed (R176), as it stood at cycle `levelAt` -/
  level : Int
  levelAt : Nat
  qchg : Vector Nat 16
  /-- first cycle at which the array input is free (R164) -/
  inputFree : Nat
  deriving DecidableEq, Repr

def Mxe.reset : Mxe :=
  { ctx := Vector.replicate 16 MxCtx.reset, active := none, shadow := none, table := [], running := [], lastLoad := none,
    level := 16384, levelAt := 0, qchg := Vector.replicate 16 0, inputFree := 0 }

/-- An entry of the range-lock table (R229): a run of physical lines, its kind, the command that holds it, and the element it is
held for, when it is an element's (R253); for a calendar, its bank (R343). -/
structure RltEntry where
  line : Nat
  lines : Nat
  dest : Bool
  engine : Nat
  seq : Nat
  core : Nat
  slot : Nat
  elem : Option Nat
  deriving DecidableEq, Repr

/-- Presence of a scratch line that is not present (R208): absent, with the copy that fills it, or failed. -/
inductive Presence where
  | absent (seq : Nat)
  | failed
  deriving DecidableEq, Repr

/-- A FIFO queue (R261): entries (value, producing core, stamp), oldest first; pushes and pops waiting at the bank. -/
structure Fifo where
  entries : List (Word × Nat × Nat)
  pushes : List (Nat × Word × Nat × Nat)
  pops : List (Nat × Reg)
  deriving DecidableEq, Repr

/-- An access parked in the fault buffer (R418). -/
structure FbfEntry where
  /-- the parked thread, or none for an engine's or the launch unit's access -/
  key : Option Nat
  /-- the engine and command number, for an engine access; 6 a launch unit's, 7 an exit notice's, with the core, 8 a
  collector's, 9 a lane's of a gang held off-core, by its name × 20 + core, 10 the reading of a host's reply (R321, R417, R434,
  R436, R475) -/
  engine : Option (Nat × Nat)
  asid : BitVec 16
  vpn : Nat
  va : Word
  cause : Nat
  write : Bool
  fetch : Bool
  sup : Bool
  /-- physical lines of the page table its walk read, and the frame for 0x05 -/
  lines : List Nat
  /-- a line it recorded has been invalidated since its walk (R419) -/
  poked : Bool
  deriving DecidableEq, Repr

/-- An open key of the grant (R291). -/
structure GrantKey where
  asid : BitVec 16
  target : Word
  callers : List Nat
  launch : Option (Nat × Nat)
  limit : Nat
  deadline : Nat
  /-- the deadline's GTIME has been reached (R293) -/
  due : Bool
  deriving DecidableEq, Repr

/-- What a packed caller hands its lane (R291, R292): its key, w10 to w17, f10 to f13 and XSTAT. -/
structure CallerArgs where
  key : Nat
  w : Vector Word 8
  f : Vector Word 4
  xstat : Word
  launch : Option (Nat × Nat)
  deriving DecidableEq, Repr

/-- A gang launch request of the grant's launch queue (R293). -/
structure GangReq where
  asid : BitVec 16
  target : Word
  callers : List CallerArgs
  launch : Option (Nat × Nat)
  deriving DecidableEq, Repr

/-- A gang in a gang slot (R288): its active mask, whether a pack started it, and the cycle it last issued or was filled. -/
structure Gang where
  mask : BitVec 32
  packed : Bool
  since : Nat
  launch : Option (Nat × Nat)
  deriving DecidableEq, Repr

/-- A gang held off-core (R434): its GC, the gang slot it left, its gang, and its lanes with their registers. -/
structure OffGang where
  core : Nat
  slot : Nat
  gang : Gang
  lanes : List (Nat × Thread)
  deriving DecidableEq, Repr

/-- A child-table entry (R319): join counter address and the ASID it was checked in. -/
structure Child where
  jc : Word
  asid : BitVec 16
  deriving DecidableEq, Repr

/-- A thread or gang made pending on a core by placement (R282): partition, launch serial, index, task queue. -/
structure Pending where
  part : Nat
  serial : Nat
  index : Nat
  tq : Nat
  deriving DecidableEq, Repr

/-- A `yield` that has retired (R324): its slot, its lanes, the cycle it retired, and the slots that were ready and have not issued
since. -/
structure YieldHold where
  slot : Nat
  lanes : List Nat
  since : Nat
  waits : List Nat
  deriving DecidableEq, Repr

/-- The state of one core beside its threads. -/
structure Core where
  /-- the child table (R319) -/
  children : Map Child
  /-- children waiting for a slot, oldest first (R299) -/
  waiting : List Thread
  /-- the arrival queue, the cellar heap and the overflow list (R300 to R303) -/
  arrivals : List MigCtx
  heap : List MigCtx
  overflow : List MigCtx
  /-- the ready queue, priorities 0 to 3, oldest first (R267) -/
  ready : Vector (List Word) 4
  /-- the work list, newest first: words, producing core, stamp (R266) -/
  work : List (Word × Word × Nat × Nat)
  /-- the core timer: slot and GTIME (R407) -/
  timer : Option (Nat × Word)
  /-- the slot whose timer trap is pending (R473) -/
  timerDue : Option Nat
  /-- slot owners (R285) -/
  owner : Vector Nat 16
  pending : List Pending
  /-- gang slots of a GC (R288) -/
  gangs : Map Gang
  /-- the launch whose constant image the window holds (R62) -/
  image : Option (Nat × Nat)
  /-- write-issue count (R230) -/
  wIssue : Nat
  /-- the slot that issued last, the cycle each slot last issued, and the first cycle the core may issue again (R287, R288, R138) -/
  lastSlot : Nat
  issued : Map Nat
  issueFrom : Nat
  /-- yields whose hold has not ended (R324) -/
  yields : List YieldHold
  deriving DecidableEq, Repr

def Core.reset : Core :=
  { children := [], waiting := [], arrivals := [], heap := [], overflow := [], ready := Vector.replicate 4 [], work := [],
    timer := none, timerDue := none, owner := Vector.replicate 16 0, pending := [], gangs := [], image := none,
    wIssue := 0, lastSlot := 15, issued := [], issueFrom := 0, yields := [] }

/-- An ENB context (Tables 11.1 and 11.2). -/
structure EnbCtx where
  ctl : Word
  lev : Word
  fob : Word
  cal : Word
  /-- the address space and the privilege the fan-out table is read in: those `ncfg` wrote word 2 with -/
  asid : BitVec 16
  sup : Bool
  deriving DecidableEq, Repr

def EnbCtx.reset : EnbCtx := { ctl := 0x10#64, lev := 0x10000#64, fob := 0, cal := 0, asid := 0, sup := false }

/-- The event neuron banks of a cluster (R341 to R360); neuron records lie in the AM, calendars in CSM scratch. -/
structure Enb where
  ctx : Vector EnbCtx 16
  queue : List Cmd
  ct : Int
  cl : Int
  sent : Vector Nat 16
  recv : Vector Nat 16
  /-- spike bitmaps: bank, neuron numbers that spiked in the last tick step (R351) -/
  spikes : Map (List Nat)
  /-- ticks whose completion the home has signalled and whose step is still to run (R350) -/
  due : List Nat
  deriving DecidableEq, Repr

def Enb.reset : Enb :=
  { ctx := Vector.replicate 16 EnbCtx.reset, queue := [], ct := 0, cl := -1, sent := Vector.replicate 16 0,
    recv := Vector.replicate 16 0, spikes := [], due := [] }

/-- An STE context (Table 11.11). -/
structure SteCtx where
  desc : Word
  expl : Word
  loss : Word
  opts : Word
  deriving DecidableEq, Repr

def SteCtx.reset : SteCtx := { desc := 0, expl := 0x3F800000#64, loss := 0x40000000#64, opts := 0x4000#64 }

/-- The search-tree engine of a cluster (R363, R364). -/
structure Ste where
  ctx : Vector SteCtx 16
  table : List Cmd
  running : List Running
  deriving DecidableEq, Repr

def Ste.reset : Ste := { ctx := Vector.replicate 16 SteCtx.reset, table := [], running := [] }

/-- One cluster (R23) beside the memories, which lie in `State.mem` and `State.am`. -/
structure Cluster where
  /-- CSMCTL (R205) -/
  csmctl : Word
  /-- TQWGT (R284) -/
  tqwgt : Word
  /-- BUDCFG (R462), and the REF the SMC set by command, which R463 lowers BUDCFG.REF from -/
  budcfg : Word
  refSet : Nat
  /-- mode switches under way: bank and the mode it leaves, oldest first (R207) -/
  switching : List (Nat × Nat)
  /-- presence of scratch lines that are not present, by line of the cluster's scratch (R208) -/
  presence : Map Presence
  /-- FIFO queues by bank × 16 + queue (R261) -/
  fifos : Map Fifo
  rlt : List RltEntry
  fbf : List FbfEntry
  /-- accesses waiting for an FBF entry, oldest first (R422) -/
  fbfWait : List FbfEntry
  /-- the agent whose held access an abort is ending, and the page it is to (R421) -/
  aborting : Option ((Nat × Nat) × Nat)
  grant : Map GrantKey
  /-- callers waiting for a key or for room, oldest first (R292) -/
  grantWait : List (Nat × Word)
  gangQueue : List GangReq
  offCore : List OffGang
  mxe : Mxe
  /-- posted and granted CPE commands (R249) -/
  cpe : List Cmd
  cpeRun : List Running
  enb : Enb
  ste : Ste
  cores : Map Core
  deriving DecidableEq, Repr

def Cluster.reset : Cluster :=
  { csmctl := 0, tqwgt := 0x1111111111111111#64, budcfg := 0x480000004000#64, refSet := 72, switching := [], presence := [], fifos := [],
    rlt := [], fbf := [], fbfWait := [], aborting := none, grant := [], grantWait := [], gangQueue := [], offCore := [], mxe := Mxe.reset,
    cpe := [], cpeRun := [], enb := Enb.reset, ste := Ste.reset, cores := [] }

/-- A kernel of a loaded image (R393, R398): Elpol entry offset, address of its entry in the running body, `.args` size,
offset and size of its constant image in the image, launch template (R46) and default grant limit (R291).
(PRESUMED, log 8: unsafe.) -/
structure Kernel where
  entry : Nat
  run : Word
  argsz : Nat
  constOff : Nat
  constSize : Nat
  template : BitVec 32
  grantlim : Nat
  deriving DecidableEq, Repr

/-- A loaded image (R395). -/
structure Image where
  asid : BitVec 16
  digest : Nat
  secv : Nat
  revoked : Bool
  /-- a body of the image was accepted (Table 9.2) -/
  accepted : Bool
  kernels : List Kernel
  frames : List Nat
  /-- the address of its text, the text's words and whether it is a native body (R396, R397) -/
  codeBase : Word
  words : Nat
  native : Bool
  deriving DecidableEq, Repr

/-- How far a launch has come (R276 to R281). -/
inductive LaunchStage where
  /-- accepted, waiting for its dependence counter (R279) -/
  | waiting
  /-- ready to be placed: threads and gangs still held in the launch unit (R282) -/
  | placing
  /-- every thread and gang is placed -/
  | placed
  /-- completed with a status -/
  | done (status : Nat)
  deriving DecidableEq, Repr

/-- An accepted launch (R276). -/
structure Launch where
  r : LaunchRec
  cl : Nat
  queue : Option Nat
  asid : BitVec 16
  sup : Bool
  stage : LaunchStage
  /-- threads and gangs already made pending (R282) -/
  placedThr : Nat
  placedGang : Nat
  /-- the status its checks gave, 0 when it may run (Table 9.2) -/
  status : Nat
  /-- clusters its placement mask selects within the partition (R282) -/
  clusters : List Nat
  /-- its constant image, once read (R59) -/
  const : List Byte
  /-- its reads made: 0 neither, 1 its counter has read zero (R279), 2 its constant image is read too (R475) -/
  reads : Nat
  /-- a thread or gang of it has started (R400) -/
  started : Bool
  /-- writes of its completion made, or refused (R277, R475) -/
  signals : Nat
  deriving DecidableEq, Repr

/-- A launch queue of a partition (R278, R410): LQADDR and LQCFG as last written, the descriptor's address as registered, HEAD,
none until it is read from the descriptor of a new registration, and whether HEAD is still to be stored there. -/
structure LaunchQueue where
  lqaddr : Word
  cfg : Word
  addr : Word
  head : Option Nat
  due : Bool
  halted : Bool
  deriving DecidableEq, Repr

/-- An entry of the group table buffer (R305, R306, R349). -/
structure Group where
  serial : Nat
  /-- cluster and core mask of each member word -/
  members : List (Nat × BitVec 20)
  phase : Nat
  /-- uids that have arrived for the phase -/
  arrived : List Nat
  /-- the tick being completed, and the member cores that have arrived for it (R349) -/
  tick : Option Nat
  tickCores : List (Nat × Nat)
  deriving DecidableEq, Repr

/-- A record on the trap channel or in a collector (R416). -/
structure Record where
  part : Nat
  w0 : Word
  w1 : Word
  w2 : Word
  w3 : Word
  /-- FHBASE and FHCFG as they stood when it was produced, where they have been written since (R414) -/
  route : Option (Word × Word)
  deriving DecidableEq, Repr

/-- Whether a partition runs (R423, R427, R432). -/
inductive RunState where
  | running
  /-- a gang stop is on its way over the halt tree (R423): resumable or not, and the stop report it will send (R424) -/
  | stopping (resumable : Bool) (report : Record)
  /-- gang-stopped; resumable when a `brk` or an SMC command stopped it (R425) -/
  | stopped (resumable : Bool)
  /-- a resume agreed for a GTIME (R425) -/
  | resuming (tr : Nat)
  /-- a switch-out agreed for GTIME T (R426) -/
  | leaving (t : Nat)
  /-- switched out at T: the save image is being written or whole (R427), and a stop requested since holds it (R431) -/
  | saved (t : Nat) (whole held : Bool)
  /-- a switch-in agreed for TR (R432) -/
  | entering (t tr : Nat)
  deriving DecidableEq, Repr

/-- The save image of a partition (Tables 13.6 to 13.8): the words of its header, of its stop block and of its thread records and the bytes
of its memories by their offsets, and the content of every other block. (DESIGN CHOICE, log 59: unsafe.) -/
structure SaveImage where
  /-- COMPL -/
  compl : Word
  /-- header words and thread records: offset in the image, word -/
  words : List (Nat × Word)
  /-- GTB entries, accepted launches and launch queues (Table 13.6) -/
  groups : Map Group
  launches : Map Launch
  queues : Map LaunchQueue
  /-- the spill region: what was on the request, migration and event channels, in arrival order (R427) -/
  spill : List Flight
  /-- control and engine blocks, grant keys, lists and queues of each cluster (Table 13.7) -/
  clusters : Map Cluster
  /-- thread positions, with what Table 13.8 holds of each -/
  threads : Map Thread
  /-- LMs, CSM scratch, FIFO banks and AM by their offsets in the image (Table 13.7) -/
  bytes : Mem
  mail : Map (List (Word × Nat × Nat))
  wakes : List Nat
  deriving DecidableEq, Repr

/-- A partition (R374). -/
structure Partition where
  halfDies : BitVec 8
  granules : List Nat
  keys : List Nat
  svcbase : Word
  astb : Word
  lqsel : Word
  fhbase : Word
  fhcfg : Word
  hrbase : Word
  queues : Map LaunchQueue
  groups : Map Group
  launches : Map Launch
  serial : Nat
  images : Map Image
  run : RunState
  /-- GTIME and the core cycle at which the partition last stopped (R424, R427) -/
  stopTime : Nat
  stopCyc : Nat
  save : Option SaveImage
  /-- the flits re-injected at its last switch-in, which come before any injected since (R432) -/
  respilled : List Flight
  /-- stop records of its cores: core, CYCLE, GTIME, packets originated and consumed (R424) -/
  stops : List (Nat × Nat × Nat × Nat × Nat)
  deriving DecidableEq, Repr

/-- A contribution of an ordered drain at its coherence point (R180, R181): its slice, whether its elements are INT32, the
first byte of each of its rows, its tile, the cluster and number of its command, and whether it lies in the partition's staging area
rather than in the point's own storage. -/
structure Contribution where
  slice : Nat
  int : Bool
  rows : List Nat
  tile : List (BitVec 32)
  cl : Nat
  seq : Nat
  area : Bool
  deriving DecidableEq, Repr

/-- An ordered reduction open at a destination (R180). -/
structure Reduction where
  n : Nat
  next : Nat
  staged : List Contribution
  deriving DecidableEq, Repr

/-- State of a code frame that is not plain (R388), and the loop pseudo-forms that the native code in it replaces, by their offsets (R78,
R397). -/
structure Frame where
  revoked : Bool
  loops : Map (BitVec 32)
  deriving DecidableEq, Repr

/-- A word of a code frame that the loader has replaced (R389): its address, the word as it was, the loop pseudo-form it stood for if one,
and the threads that may still fetch it, by their names: those that were there and have issued no `ifence` since. -/
structure OldWord where
  addr : Nat
  word : BitVec 32
  loop : Option (BitVec 32)
  readers : List Nat
  deriving DecidableEq, Repr

/-- An event of the measurement log (R402): a kind and its numbers. -/
structure LogEvent where
  kind : Nat
  args : List Nat
  deriving DecidableEq, Repr

/-- A link port (R440, R441): 0 is GLK, 1 to 16 are PFX. (DESIGN CHOICE, log 44: unsafe.) -/
structure Link where
  up : Bool
  /-- trained at GLK-3 -/
  gen3 : Bool
  /-- next sequence number expected, and sent -/
  rx : Nat
  tx : Nat
  /-- the sender's unacknowledged flits, oldest first (R440) -/
  replay : List Flit
  /-- the flit last asked for again, how often in a row, and the flits resent, oldest first (R440) -/
  replayAt : Nat
  replays : Nat
  resent : List Flit
  /-- messages that wait for room or credit: virtual channel, payload (R441) -/
  unsent : List (Nat × List Byte)
  /-- receive: what the accepted flits delivered, oldest first: virtual channel, message slots used, payload (R440, R449) -/
  delivered : List (Nat × BitVec 16 × List Byte)
  /-- times the link has retrained -/
  retrains : Nat
  /-- receive: a replay from `rx` has been asked for; the last number acknowledged -/
  asked : Bool
  acked : Nat
  /-- receive: flits since the last resynchronisation, entries freed by channel (R441) -/
  received : Nat
  freed : Map Nat
  /-- counts still to be sent -/
  resync : Map Nat
  /-- send: flits sent, and credits as last set, by channel (R441) -/
  sentOn : Map Nat
  credit : Map Nat
  deriving DecidableEq, Repr

def Link.reset : Link :=
  { up := true, gen3 := true, rx := 0, tx := 0, replay := [], replayAt := 0, replays := 0, resent := [], unsent := [], delivered := [],
    retrains := 0, asked := false, acked := 0, received := 0, freed := [], resync := [], sentOn := [], credit := [] }

/-- Bring-up stages (Table 14.4). -/
inductive Stage where
  | rom
  /-- the ROM has refused the firmware image and waits for another (R401) -/
  | recovery
  | firmware
  | early
  | full
  deriving DecidableEq, Repr

/-- The issuing set of the instruction in hand (R136): the issuing slot's cluster, core and slot, the lanes, and the
format prefix in force (R53). On an SC the one lane is 0. (DESIGN CHOICE, log 6: safe.) -/
structure Issue where
  cl : Nat
  core : Nat
  slot : Nat
  lanes : List Nat
  pfx : Option (BitVec 4 × BitVec 4 × BitVec 6)
  deriving DecidableEq, Repr

/-- What moves next: a slot issues, or an event comes about. -/
inductive Turn where
  | issue (cl core slot : Nat)
  | event (i : Instr)
  deriving DecidableEq, Repr

/-- A request sent to another device (R378, R454): the partition it is tagged with, the port it leaves by, its first physical address,
the bytes it writes, and the operation, operand and expected value of an atomic. -/
structure FarMsg where
  part : Nat
  port : Nat
  addr : Nat
  bytes : List Byte
  atomic : Option (Nat × Word × Word)
  deriving DecidableEq, Repr

/-- A translation kept in the code cache (R397): its key, the translated text and the signature with the device's code key. -/
structure CodeEntry where
  digest : Nat
  secv : Nat
  cls : Nat
  gen : Nat
  text : List (BitVec 32)
  sig : List Byte
  deriving DecidableEq, Repr

/-- A command that has reached the SMC and has not been answered (R431, R458): whether it is the one in progress, its priority, its code
and its operands. -/
structure SmcRequest where
  begun : Bool
  prio : Nat
  code : Nat
  args : List Nat
  deriving DecidableEq, Repr

/-- What a checkpoint holds (R442): memory, the partitions with everything their save areas hold, the code frame table, the code
cache, SECVER and M. -/
structure Snapshot where
  mem : Mem
  am : Mem
  threads : Map Thread
  mail : Map (List (Word × Nat × Nat))
  wakes : List Nat
  clusters : Map Cluster
  parts : Map Partition
  flights : List Flight
  packets : Map (Nat × Nat)
  collectors : Map (List Record)
  reserved : Map Nat
  reductions : Map Reduction
  frames : Map Frame
  codeCache : List CodeEntry
  secver : Nat
  measure : List Byte
  /-- the SM3 digest of the identity key that signed it, and that key's signature over the digest of all of it -/
  signer : List Byte
  signature : List Byte
  deriving DecidableEq, Repr

/-- The device. -/
structure State where
  /-- HBM, DDR-5, host memory, CSM scratch and LM by physical or window address (R233) -/
  mem : Mem
  /-- accumulator memory: cluster × 512 KiB + byte (R165) -/
  am : Mem
  threads : Map Thread
  /-- mailboxes by thread position, oldest first: value, sending core, stamp (R268) -/
  mail : Map (List (Word × Nat × Nat))
  wakes : List Nat
  clusters : Map Cluster
  parts : Map Partition
  flights : List Flight
  /-- packets since partition start, by core: those it has originated, and those its unit or core was sent (R424) -/
  packets : Map (Nat × Nat)
  /-- records by collector row, in order of arrival (R417) -/
  collectors : Map (List Record)
  /-- the fault ring index a row's collector has reserved for its first record (R417) -/
  reserved : Map Nat
  reductions : Map Reduction
  frames : Map Frame
  /-- words the loader has replaced that a thread may still fetch (R389) -/
  oldText : List OldWord
  /-- first bytes of the lines written since their last write-back, rising: those `cinval` may lose (R246) -/
  dirty : List Nat
  /-- pages blocked by the RKE: first source frame, first destination frame, frames of the page (R212) -/
  racking : List (Nat × Nat × Nat)
  /-- GTIME and core cycles since power-on, and the cycle each die left reset (R4, R459) -/
  gtime : Nat
  cyc : Nat
  dieAt : Map Nat
  stage : Stage
  /-- DDR-5 GiB trained (R406) -/
  ddrGib : Nat
  devno : BitVec 11
  secver : BitVec 8
  /-- next command number, next thread name -/
  nextSeq : Nat
  nextUid : Nat
  /-- code cache (R397) -/
  codeCache : List CodeEntry
  /-- the firmware version running, and the firmware fuse counter (R401) -/
  fwVersion : Nat
  fwFuse : Nat
  measure : List Byte
  log : List LogEvent
  /-- status word and answer of the last SMC command (R458) -/
  smcStatus : Nat
  smcAnswer : List Byte
  /-- commands that have arrived and wait, in order of arrival (R431, R458) -/
  smcWaiting : List SmcRequest
  /-- host physical base of granules 16,384 upward (R450) -/
  hostBase : Map Nat
  /-- PFX grants: granule, device, partition, write (R455) -/
  pfxGrants : List (Nat × Nat × Nat × Bool)
  links : Map Link
  /-- writes and atomics sent to other devices, oldest first (R378, R454) -/
  pfxOut : List FarMsg
  /-- lines of this device that the host holds as a sharer (R452) -/
  hostShares : List Nat
  /-- bytes of storage that hold bad data, by physical or window address, with their storage (R438) -/
  bad : List (Nat × Nat)
  /-- checkpoints in the safe store (R442) -/
  checkpoints : List Snapshot
  /-- partitions the step to full service has switched out (R460) -/
  stepping : List Nat
  /-- 256ths of its set REF that every cluster is left (R463) -/
  railScale : Nat
  /-- correctable errors counted (R437) -/
  corrected : Nat
  /-- bytes returned to the host's or a remote device's reads (R451, R455) -/
  answered : List Byte
  /-- the issuing set in hand -/
  cur : Issue
  /-- the model's own: what moves next, and the counter the free values are drawn by -/
  agenda : List Turn
  free : Nat
  deriving DecidableEq, Repr

/-- An initial thread: every register zero (R66). (DESIGN CHOICE, log 4: unsafe.) -/
def Thread.zero : Thread :=
  { uid := 0, pc := 0, w := Vector.replicate 32 0, f := Vector.replicate 32 0, p := Vector.replicate 8 false, xstat := 0,
    fflags := 0, rndseed := 1, grantlim := 0, asid := 0, streams := Vector.replicate 4 Stream.reset, ld := 0, st := 0, cp := 0,
    tl := 0, tpc := 0, tstat := 0, tcause := 0, tval := 0, tscr := 0, tepc := 0, park := none, call := none, out := [], busy := [],
    deferred := [], child := none, launch := none, tq := 0, last := [], caller := none, begun := false, badRegs := [] }

/-- The device at power-on (R401, R459): no partition exists and no core has left reset. -/
def State.reset : State :=
  { mem := [], am := [], threads := [], mail := [], wakes := [], clusters := [], parts := [], flights := [], packets := [],
    collectors := [], reserved := [], reductions := [], frames := [], oldText := [], dirty := [], racking := [],
    gtime := 0, cyc := 0, dieAt := [], stage := .rom, ddrGib := 0, devno := 0, secver := 0, nextSeq := 0, nextUid := 0, codeCache := [], fwVersion := 0, fwFuse := 0, measure := List.replicate 32 0, log := [],
    smcStatus := 0, smcAnswer := [], smcWaiting := [], hostBase := [], pfxGrants := [], links := [], pfxOut := [], hostShares := [],
    bad := [], checkpoints := [], stepping := [], railScale := 256, corrected := 0, answered := [],
    cur := { cl := 0, core := 0, slot := 0, lanes := [], pfx := none }, agenda := [], free := 0 }

end Sys2Proof.Machine
end

