-- ==== Sys2Proof/Machine/Table.lean ====
section
/-! DEFINITION. The plain operations on tables, byte memories and bit fields that every other file uses. -/

namespace Sys2Proof.Machine

/-- The entry of key `k`. -/
def mget {α : Type} : Map α → Nat → Option α
  | [], _ => none
  | (j, x) :: m, k => if j = k then some x else mget m k

/-- The table with `v` at `k`. A table built by `mset` is rising in its keys. -/
def mset {α : Type} : Map α → Nat → α → Map α
  | [], k, v => [(k, v)]
  | (j, x) :: m, k, v =>
    if j = k then (k, v) :: m
    else if k < j then (k, v) :: (j, x) :: m
    else (j, x) :: mset m k v

/-- The table without `k`. -/
def mdel {α : Type} (m : Map α) (k : Nat) : Map α := m.filter fun e => e.1 != k

/-- The keys of a table, in order. -/
def mkeys {α : Type} (m : Map α) : List Nat := m.map (·.1)

/-- The byte at `a`: an unlisted address reads as zero (R376). (DESIGN CHOICE, log 3: unsafe.) -/
def memRead : Mem → Nat → Byte
  | [], _ => 0
  | (a, b) :: m, k => if a = k then b else memRead m k

/-- The cells without address `k`. -/
def memErase (m : Mem) (k : Nat) : Mem := m.filter fun e => e.1 != k

/-- The cells with a listed byte `v` at `k`. -/
def memInsert : Mem → Nat → Byte → Mem
  | [], k, v => [(k, v)]
  | (a, b) :: m, k, v =>
    if a = k then (k, v) :: m
    else if k < a then (k, v) :: (a, b) :: m
    else (a, b) :: memInsert m k v

/-- Memory with the byte `v` at `k`, in canonical form: a zero byte is not listed. -/
def memWrite (m : Mem) (k : Nat) (v : Byte) : Mem :=
  if v = 0 then memErase m k else memInsert m k v

/-- Memory with each pair's byte at its address, the last pair of an address standing. -/
def memWriteAll (m : Mem) (cells : List (Nat × Byte)) : Mem := cells.foldl (fun m c => memWrite m c.1 c.2) m

/-- Every address of the list lies above `lo` and the list is rising, with no zero byte. -/
def memWfFrom : Option Nat → Mem → Bool
  | _, [] => true
  | lo, (a, b) :: m => (lo.all (· < a)) && b != 0 && memWfFrom (some a) m

/-- The canonical form: addresses strictly rising, no byte equal to what an unlisted address reads as. -/
def memWf (m : Mem) : Bool := memWfFrom none m

/-- The bytes at a list of addresses. -/
def memBytes (m : Mem) (addrs : List Nat) : List Byte := addrs.map (memRead m)

/-- The number little-endian bytes stand for (R1). -/
def leNat : List Byte → Nat
  | [] => 0
  | b :: bs => b.toNat + 256 * leNat bs

/-- The low `n` bytes of a number, least significant first (R1). -/
def leBytes : Nat → Nat → List Byte
  | 0, _ => []
  | n + 1, v => BitVec.ofNat 8 v :: leBytes n (v / 256)

/-- `n` consecutive addresses from `a`. -/
def span (a n : Nat) : List Nat := (List.range n).map (a + ·)

/-- Bits `lo` to `lo + len - 1` of a number. -/
def natField (lo len v : Nat) : Nat := v / 2 ^ lo % 2 ^ len

/-- Bits `lo` to `lo + len - 1` of a word (R1). -/
def bitsOf (lo len : Nat) (w : Word) : Nat := natField lo len w.toNat

/-- Bit `n` of a number. -/
def natBit (n v : Nat) : Bool := v / 2 ^ n % 2 == 1

/-- The mask of bits `lo` to `lo + len - 1`. -/
def maskOf (lo len : Nat) : Word := BitVec.ofNat 64 ((2 ^ len - 1) * 2 ^ lo)

/-- The word with bits `lo` to `lo + len - 1` replaced by `v`. -/
def putBits (w : Word) (lo len v : Nat) : Word :=
  (w &&& ~~~ maskOf lo len) ||| (BitVec.ofNat 64 (v * 2 ^ lo) &&& maskOf lo len)

/-- The word with bit `n` set to `b`. -/
def putBit (w : Word) (n : Nat) (b : Bool) : Word :=
  if b then w ||| maskOf n 1 else w &&& ~~~ maskOf n 1

/-- The low `n` bits of a word, sign-extended to 64. -/
def signExt (n : Nat) (w : Word) : Word := (w.setWidth n).signExtend 64

/-- A Bool as 0 or 1. -/
def bit01 (b : Bool) : Nat := if b then 1 else 0

/-- A number as a word. -/
def word (n : Nat) : Word := BitVec.ofNat 64 n

/-- The elements of a list with their positions. -/
def indexed {α : Type} (l : List α) : List (Nat × α) := (List.range l.length).zip l

/-- The list with position `i` removed. -/
def dropAt {α : Type} (l : List α) (i : Nat) : List α := l.take i ++ l.drop (i + 1)

/-- The list with position `i` replaced, if it has one. -/
def setAt {α : Type} (l : List α) (i : Nat) (x : α) : List α := l.set i x

/-- The members of a list without repeats, in order of first appearance. -/
def dedup (l : List Nat) : List Nat := l.foldl (fun acc x => if acc.contains x then acc else acc ++ [x]) []

/-- Insertion into a rising list without repeats. -/
def insertRising : List Nat → Nat → List Nat
  | [], x => [x]
  | y :: l, x => if x = y then y :: l else if x < y then x :: y :: l else y :: insertRising l x

/-- The lowest number below `n` that is not in the list. -/
def lowestFree (n : Nat) (used : List Nat) : Option Nat := (List.range n).find? fun i => !used.contains i

/-- The least element by a measure, the first among equals. -/
def leastBy {α : Type} (f : α → Nat) : List α → Option α
  | [] => none
  | x :: l => some (l.foldl (fun best y => if f y < f best then y else best) x)

end Sys2Proof.Machine
end

