-- ==== Sys2Proof/Machine/Flags.lean ====
section
/-! DEFINITION. The fields of XSTAT (Table 2.6), TCAUSE (Table 13.2) and FFLAGS (Table 2.7), and the raising of flags. -/

namespace Sys2Proof.Machine

/-- XSTAT.IE -/
def xsIE (x : Word) : Bool := natBit 0 x.toNat
/-- XSTAT.RM -/
def xsRM (x : Word) : Nat := bitsOf 2 3 x
/-- XSTAT.SM -/
def xsSM (x : Word) : Bool := natBit 5 x.toNat
/-- XSTAT.MIG -/
def xsMIG (x : Word) : Bool := natBit 6 x.toNat
/-- XSTAT.AP -/
def xsAP (x : Word) : Bool := natBit 7 x.toNat
/-- XSTAT.SS -/
def xsSS (x : Word) : Bool := natBit 12 x.toNat
/-- XSTAT.SUP -/
def xsSUP (x : Word) : Bool := natBit 13 x.toNat
/-- XSTAT.SB -/
def xsSB (x : Word) : Nat := bitsOf 16 4 x

/-- XSTAT with AP set or clear. -/
def xsSetAP (x : Word) (b : Bool) : Word := putBit x 7 b

/-- XSTAT as a system read returns it: PP and PF read zero (R56). -/
def xsRead (x : Word) : Word := x &&& ~~~ (maskOf 1 1 ||| maskOf 8 4)

/-- XSTAT as a trap of a prefixed pair saves it: PP = 1 and PF = fa (R56). -/
def xsSaved (x : Word) (pfx : Option (BitVec 4 × BitVec 4 × BitVec 6)) : Word :=
  match pfx with
  | none => xsRead x
  | some (fa, _, _) => putBits (putBit x 1 true) 8 4 fa.toNat

/-- XSTAT at a handler's first instruction: SUP := 1; IE, SS, MIG and AP := 0; RM, SM and SB kept (R413). -/
def xsHandler (x : Word) : Word :=
  putBit (putBit (putBit (putBit (putBit (xsRead x) 13 true) 0 false) 12 false) 6 false) 7 false

/-- The stall limit in cycles, none for SB = 0 (R310). -/
def stallLimit (x : Word) : Option Nat := if xsSB x = 0 then none else some (2 ^ (xsSB x + 10))

/-- TCAUSE at trap entry (Table 13.2). -/
def tcauseWord (cause detail : Nat) (step : Bool) : Word :=
  putBit (putBits (putBits (putBit 0 63 true) 0 6 cause) 8 8 detail) 16 step

/-- TCAUSE.V -/
def tcV (x : Word) : Bool := natBit 63 x.toNat

/-- A set of the flags of Table 2.7, by name. -/
structure Flags where
  nx : Bool := false
  uf : Bool := false
  ovf : Bool := false
  dz : Bool := false
  nv : Bool := false
  sat : Bool := false
  deriving DecidableEq, Repr

/-- No flag. -/
def noFlags : Flags := {}

/-- The union of two sets of flags (R127). -/
def orFlags (a b : Flags) : Flags :=
  { nx := a.nx || b.nx, uf := a.uf || b.uf, ovf := a.ovf || b.ovf, dz := a.dz || b.dz, nv := a.nv || b.nv, sat := a.sat || b.sat }

/-- The flags as bits of FFLAGS (Table 2.7). -/
def flagBits (f : Flags) : Word :=
  word (bit01 f.nx + 2 * bit01 f.uf + 4 * bit01 f.ovf + 8 * bit01 f.dz + 16 * bit01 f.nv + 32 * bit01 f.sat)

/-- FFLAGS with flags raised: by OR, never clearing one (R127). -/
def raise (t : Thread) (f : Flags) : Thread := { t with fflags := t.fflags ||| flagBits f }

end Sys2Proof.Machine
end

