-- ==== Sys2Proof/Machine/Float.lean ====
section
/-! DEFINITION. Number formats, exact values and the single rounding (R108 to R126). An exact value is a sign, a natural
mantissa and a power of two; a value that is no dyadic number is held as one with enough bits that no point or midpoint of
any format's grid lies between the two. -/

namespace Sys2Proof.Machine

/-- The formats, by code (Table 2.12). -/
inductive Fmt where
  | f64 | f32 | f16 | bf16 | e5m2 | e4m3 | e3m2 | e2m3 | i8 | i4 | n4 | i32
  deriving DecidableEq, Repr

/-- The format of a code; 12 to 15 name none. -/
def fmtOf (c : BitVec 4) : Option Fmt :=
  match c.toNat with
  | 0 => some .f64
  | 1 => some .f32
  | 2 => some .f16
  | 3 => some .bf16
  | 4 => some .e5m2
  | 5 => some .e4m3
  | 6 => some .e3m2
  | 7 => some .e2m3
  | 8 => some .i8
  | 9 => some .i4
  | 10 => some .n4
  | 11 => some .i32
  | _ => none

/-- Bits of an element, bits it occupies in a register, and elements a register holds (Tables 2.4, 4.1). -/
def fmtBits : Fmt → Nat
  | .f64 => 64 | .f32 => 32 | .f16 => 16 | .bf16 => 16 | .e5m2 => 8 | .e4m3 => 8 | .e3m2 => 6 | .e2m3 => 6
  | .i8 => 8 | .i4 => 4 | .n4 => 4 | .i32 => 32
def fmtStride : Fmt → Nat
  | .e3m2 => 8
  | .e2m3 => 8
  | f => fmtBits f
def fmtElems : Fmt → Nat
  | .f64 => 1 | .f32 => 1 | .i32 => 2 | .f16 => 4 | .bf16 => 4 | .e5m2 => 8 | .e4m3 => 8 | .e3m2 => 8 | .e2m3 => 8
  | .i8 => 8 | .i4 => 16 | .n4 => 16

/-- The parameters of a floating-point format (Table 4.1): fraction bits, exponent bits, bias. -/
structure FpPar where
  frac : Nat
  exp : Nat
  bias : Nat
  deriving DecidableEq, Repr

def fpPar : Fmt → Option FpPar
  | .f64 => some ⟨52, 11, 1023⟩
  | .f32 => some ⟨23, 8, 127⟩
  | .f16 => some ⟨10, 5, 15⟩
  | .bf16 => some ⟨7, 8, 127⟩
  | .e5m2 => some ⟨2, 5, 15⟩
  | .e4m3 => some ⟨3, 4, 7⟩
  | .e3m2 => some ⟨2, 3, 3⟩
  | .e2m3 => some ⟨3, 2, 1⟩
  | _ => none

/-- The format has infinities, and IEEE NaNs with them (R110). -/
def hasInf : Fmt → Bool
  | .f64 => true | .f32 => true | .f16 => true | .bf16 => true | .e5m2 => true
  | _ => false

/-- An exact value: a NaN, quiet or signalling; an infinity; or (−1)^neg × m × 2^e, zero being signed. -/
inductive Val where
  | nan (signalling : Bool)
  | inf (neg : Bool)
  | fin (neg : Bool) (m : Nat) (e : Int)
  deriving DecidableEq, Repr

/-- The value of a floating-point encoding (R109, R110). -/
def fpValue (f : Fmt) (p : FpPar) (bits : Nat) : Val :=
  let neg := natBit (p.frac + p.exp) bits
  let e := natField p.frac p.exp bits
  let m := natField 0 p.frac bits
  if hasInf f ∧ e = 2 ^ p.exp - 1 then
    if m = 0 then .inf neg else .nan (m < 2 ^ (p.frac - 1))
  else if f = .e4m3 ∧ e = 15 ∧ m = 7 then .nan false
  else if e = 0 then .fin neg m (1 - (p.bias : Int) - p.frac)
  else .fin neg (2 ^ p.frac + m) ((e : Int) - p.bias - p.frac)

/-- The value of an n-bit two's complement integer (R111). -/
def intValue (n bits : Nat) : Val :=
  let v := bits % 2 ^ n
  if natBit (n - 1) v then .fin true (2 ^ n - v) 0 else .fin false v 0

/-- The magnitudes of Table 4.2 for types 01, 10 and 11, in eighths, by code, with the extension point (R118) last. -/
def n4Table (t : Nat) : List Nat :=
  match t with
  | 1 => [0, 4, 8, 12, 16, 24, 32, 48, 64]
  | 2 => [0, 1, 2, 4, 8, 16, 32, 64, 128]
  | _ => [0, 8, 16, 24, 32, 48, 64, 96, 128]

/-- The value of an N4 code under its scale byte (R112, R113). -/
def n4Value (scale code : Nat) : Val :=
  let t := natField 6 2 scale
  let e : Int := (natField 0 6 scale : Int) - 32
  if t = 0 then
    match intValue 4 code with
    | .fin neg m _ => .fin neg m e
    | v => v
  else .fin (natBit 3 code) ((n4Table t).getD (code % 8) 0) (e - 3)

/-- The exact value of an element in a format; `scale` is the N4 scale byte (R155). -/
def valueOf (f : Fmt) (scale bits : Nat) : Val :=
  match fpPar f with
  | some p => fpValue f p bits
  | none =>
    match f with
    | .i8 => intValue 8 bits
    | .i4 => intValue 4 bits
    | .n4 => n4Value scale (bits % 16)
    | _ => intValue 32 bits

/-- A subnormal encoding of a floating-point format (R124). -/
def isSubnormal (f : Fmt) (bits : Nat) : Bool :=
  match fpPar f with
  | some p => natField p.frac p.exp bits == 0 && natField 0 p.frac bits != 0
  | none => false

/-- The canonical quiet NaN (Table 4.7). -/
def canonicalNaN : Fmt → Nat
  | .f64 => 0x7FF8000000000000
  | .f32 => 0x7FC00000
  | .f16 => 0x7E00
  | .bf16 => 0x7FC0
  | .e5m2 => 0x7E
  | _ => 0x7F

/-- A bit pattern and the flags its rounding raises. -/
structure Rounded where
  bits : Nat
  flags : Flags
  deriving DecidableEq, Repr

/-- The rounding decision between neighbours lo and hi of a magnitude (R118): the fraction of the way is num / den, `odd`
is the parity of lo's code; 5 compares the draw. -/
def roundsUp (rm : Nat) (neg odd : Bool) (num den draw : Nat) : Bool :=
  match rm with
  | 0 => den < 2 * num || (den == 2 * num && odd)
  | 1 => false
  | 2 => neg
  | 3 => !neg
  | 4 => den ≤ 2 * num
  | _ => draw < num * 2 ^ 32 / den

/-- m × 2^e as a multiple of 2^q: the whole part, and the rest as a fraction. -/
def inUnits (m : Nat) (e q : Int) : Nat × Nat × Nat :=
  if q ≤ e then (m * 2 ^ (e - q).toNat, 0, 1)
  else
    let d := 2 ^ (q - e).toNat
    (m / d, m % d, d)

/-- The exponent of the leading bit of m × 2^e. -/
def topExp (m : Nat) (e : Int) : Int := (Nat.log2 m : Int) + e

/-- A magnitude rounded at quantum 2^q: the multiple, and whether it was inexact. -/
def roundUnits (rm : Nat) (neg : Bool) (m : Nat) (e q : Int) (draw : Nat) : Nat × Bool :=
  let u := inUnits m e q
  if u.2.1 = 0 then (u.1, false)
  else (u.1 + bit01 (roundsUp rm neg (u.1 % 2 == 1) u.2.1 u.2.2 draw), true)

/-- The quantum of a magnitude in a format: its precision, or the subnormal quantum (R118). -/
def quantum (p : FpPar) (m : Nat) (e : Int) : Int := max (topExp m e - p.frac) (1 - (p.bias : Int) - p.frac)

/-- A nonzero magnitude is tiny: rounded with an unbounded exponent it lies below the smallest normal (R118). In mode 5 the
rounding is that of mode 0. -/
def tiny (p : FpPar) (rm : Nat) (neg : Bool) (m : Nat) (e : Int) : Bool :=
  let q := topExp m e - p.frac
  let n := (roundUnits (if rm = 5 then 0 else rm) neg m e q 0).1
  decide (topExp n q < 1 - (p.bias : Int))

/-- The largest finite encoding of a format's magnitude. -/
def maxFinite (f : Fmt) (p : FpPar) : Nat :=
  match f with
  | .e4m3 => 0x7E
  | _ => if hasInf f then (2 ^ p.exp - 1) * 2 ^ p.frac - 1 else 2 ^ (p.exp + p.frac) - 1

/-- The bits of a sign and a magnitude code. -/
def signed (p : FpPar) (neg : Bool) (code : Nat) : Nat := code + bit01 neg * 2 ^ (p.frac + p.exp)

/-- An overflow into a floating-point format (Table 4.3). -/
def fpOverflow (f : Fmt) (p : FpPar) (neg : Bool) (rm : Nat) (sat : Bool) : Rounded :=
  let most := signed p neg (maxFinite f p)
  if sat then ⟨most, { sat := true, nx := true }⟩
  else if hasInf f then
    let away := rm == 0 || rm == 4 || rm == 5 || (rm == 3 && !neg) || (rm == 2 && neg)
    ⟨if away then signed p neg ((2 ^ p.exp - 1) * 2 ^ p.frac) else most, { ovf := true, nx := true }⟩
  else if f = .e4m3 then ⟨signed p neg 0x7F, { nv := true }⟩
  else ⟨most, { nv := true }⟩

/-- The magnitude code of n × 2^q, with n of at most the format's precision or one carried past it. -/
def fpCode (p : FpPar) (n : Nat) (q : Int) : Nat :=
  if n < 2 ^ p.frac then n
  else
    let up : Nat := if n < 2 ^ (p.frac + 1) then 0 else 1
    let n' := n / 2 ^ up
    (q + up + p.frac + p.bias).toNat * 2 ^ p.frac + (n' - 2 ^ p.frac)

/-- Rounding to a floating-point format (R118). -/
def roundFp (f : Fmt) (p : FpPar) (rm : Nat) (sat : Bool) (draw : Nat) (neg : Bool) (m : Nat) (e : Int) : Rounded :=
  if m = 0 then ⟨signed p neg 0, noFlags⟩
  else
    let q := quantum p m e
    let r := roundUnits rm neg m e q draw
    let code := fpCode p r.1 q
    if maxFinite f p < code then fpOverflow f p neg rm sat
    else ⟨signed p neg code, { nx := r.2, uf := r.2 && tiny p rm neg m e }⟩

/-- Rounding to an n-bit integer (R118, R119). -/
def roundInt (n : Nat) (rm : Nat) (sat : Bool) (draw : Nat) (neg : Bool) (m : Nat) (e : Int) : Rounded :=
  let r := roundUnits rm neg m e 0 draw
  let most := if neg then 2 ^ (n - 1) else 2 ^ (n - 1) - 1
  let enc (v : Nat) : Nat := if neg then (2 ^ n - v) % 2 ^ n else v
  if most < r.1 then ⟨enc most, if sat then { sat := true, nx := true } else { nv := true }⟩
  else ⟨enc r.1, { nx := r.2 }⟩

/-- The position in a rising list of the largest point at or below `num / den`, and the neighbours it lies between. -/
def gridPlace (pts : List Nat) (num den : Nat) : Nat :=
  ((List.range pts.length).filter fun i => pts.getD i 0 * den ≤ num).getLastD 0

/-- Rounding onto the code set of an N4 type under its scale (R118, R120). -/
def roundN4 (scale : Nat) (rm : Nat) (sat : Bool) (draw : Nat) (neg : Bool) (m : Nat) (e : Int) : Rounded :=
  let t := natField 6 2 scale
  let e' := e - ((natField 0 6 scale : Int) - 32)
  if t = 0 then roundInt 4 rm sat draw neg m e'
  else
    let pts := n4Table t
    let u := inUnits m e' (-3)
    let num := u.1 * u.2.2 + u.2.1
    let den := u.2.2
    let i := gridPlace pts num den
    let lo := pts.getD i 0
    let inexact := lo * den != num
    let up := inexact && i < 8 &&
      roundsUp rm neg (i % 2 == 1) (num - lo * den) ((pts.getD (i + 1) 0 - lo) * den) draw
    let j := if up then i + 1 else i
    let sgn := if neg then 8 else 0
    if 8 ≤ j then ⟨7 + sgn, if sat then { sat := true, nx := true } else { nv := true }⟩
    else ⟨j + sgn, { nx := inexact }⟩

/-- The code an infinite or overflowing source gives an integer format or N4 (Table 4.3). -/
def noRoom (f : Fmt) (scale : Nat) (neg sat : Bool) : Rounded :=
  let flags : Flags := if sat then { sat := true, nx := true } else { nv := true }
  let bits := match f with
    | .n4 => if natField 6 2 scale = 0 then (if neg then 8 else 7) else (if neg then 15 else 7)
    | f => if neg then 2 ^ (fmtBits f - 1) else 2 ^ (fmtBits f - 1) - 1
  ⟨bits, flags⟩

/-- RoundToFormat (R118 to R122); `draw` is the draw of mode 5. -/
def roundTo (f : Fmt) (scale rm : Nat) (sat : Bool) (draw : Nat) (v : Val) : Rounded :=
  match v, fpPar f with
  | .nan sg, some _ =>
    if f = .e3m2 ∨ f = .e2m3 then ⟨0, { nv := true }⟩ else ⟨canonicalNaN f, { nv := sg }⟩
  | .nan _, none => ⟨0, { nv := true }⟩
  | .inf neg, some p =>
    if hasInf f then ⟨signed p neg ((2 ^ p.exp - 1) * 2 ^ p.frac), noFlags⟩ else fpOverflow f p neg rm sat
  | .inf neg, none => noRoom f scale neg sat
  | .fin neg m e, some p => roundFp f p rm sat draw neg m e
  | .fin neg m e, none =>
    match f with
    | .i8 => roundInt 8 rm sat draw neg m e
    | .i4 => roundInt 4 rm sat draw neg m e
    | .n4 => roundN4 scale rm sat draw neg m e
    | _ => roundInt 32 rm sat draw neg m e

/-- RoundFP32(x, 0) (R130). -/
def roundF32 (v : Val) : Nat := (roundTo .f32 0 0 false 0 v).bits

/-! ### Exact arithmetic (R123, R148) -/

/-- An exact result, with the flags the operation raises before rounding. -/
structure Exact where
  val : Val
  flags : Flags := {}
  deriving DecidableEq, Repr

def isNan : Val → Bool
  | .nan _ => true
  | _ => false
def isSig : Val → Bool
  | .nan s => s
  | _ => false
def isInf : Val → Bool
  | .inf _ => true
  | _ => false
def isZero : Val → Bool
  | .fin _ 0 _ => true
  | _ => false
def negOf : Val → Bool
  | .nan _ => false
  | .inf n => n
  | .fin n _ _ => n

/-- The value with its sign reversed; a NaN stays. -/
def negate : Val → Val
  | .nan s => .nan s
  | .inf n => .inf (!n)
  | .fin n m e => .fin (!n) m e

/-- A quiet NaN result of an invalid operation. -/
def invalid : Exact := ⟨.nan false, { nv := true }⟩
/-- A NaN operand: NV for a signalling one (R122). -/
def nanOf (vs : List Val) : Exact := ⟨.nan false, { nv := vs.any isSig }⟩

/-- A signed integer times 2^e; zero takes the sign given. -/
def ofInt (z : Int) (e : Int) (zeroNeg : Bool) : Val :=
  if z = 0 then .fin zeroNeg 0 0 else .fin (z < 0) z.natAbs e

/-- A finite value as an integer at the lower exponent `e`. -/
def scaled (neg : Bool) (m : Nat) (e lo : Int) : Int :=
  let x : Int := (m * 2 ^ (e - lo).toNat : Nat)
  if neg then -x else x

/-- x + y of finite values: an exact zero of opposite signs is +0, in mode 2 −0 (R123). -/
def addFin (rm : Nat) (n1 : Bool) (m1 : Nat) (e1 : Int) (n2 : Bool) (m2 : Nat) (e2 : Int) : Val :=
  if m1 = 0 ∧ m2 = 0 then .fin (if n1 = n2 then n1 else rm == 2) 0 0
  else
    let lo := min e1 e2
    ofInt (scaled n1 m1 e1 lo + scaled n2 m2 e2 lo) lo (rm == 2)

/-- x + y (R148). -/
def addV (rm : Nat) (x y : Val) : Exact :=
  match x, y with
  | .fin n1 m1 e1, .fin n2 m2 e2 => ⟨addFin rm n1 m1 e1 n2 m2 e2, {}⟩
  | .inf a, .inf b => if a = b then ⟨.inf a, {}⟩ else invalid
  | .inf a, .fin _ _ _ => ⟨.inf a, {}⟩
  | .fin _ _ _, .inf b => ⟨.inf b, {}⟩
  | x, y => nanOf [x, y]

/-- x × y (R148). -/
def mulV (x y : Val) : Exact :=
  match x, y with
  | .fin n1 m1 e1, .fin n2 m2 e2 => ⟨.fin (n1 != n2) (m1 * m2) (e1 + e2), {}⟩
  | .inf a, .inf b => ⟨.inf (a != b), {}⟩
  | .inf a, .fin n m _ => if m = 0 then invalid else ⟨.inf (a != n), {}⟩
  | .fin n m _, .inf b => if m = 0 then invalid else ⟨.inf (b != n), {}⟩
  | x, y => nanOf [x, y]

/-- A magnitude that is not dyadic, from its truncation: one further bit set stands for the rest.
(DEDUCED, log 21: unsafe.) -/
def inexactMag (m : Nat) (e : Int) (rest : Bool) : Nat × Int := if rest then (2 * m + 1, e - 1) else (m, e)

/-- x / y (R148). -/
def divV (x y : Val) : Exact :=
  match x, y with
  | .fin n1 m1 e1, .fin n2 m2 e2 =>
    if m2 = 0 then
      if m1 = 0 then invalid else ⟨.inf (n1 != n2), { dz := true }⟩
    else
      let k := 140 + Nat.log2 m2
      let r := inexactMag (m1 * 2 ^ k / m2) (e1 - e2 - k) (m1 * 2 ^ k % m2 != 0)
      ⟨.fin (n1 != n2) r.1 r.2, {}⟩
  | .inf _, .inf _ => invalid
  | .inf a, .fin n _ _ => ⟨.inf (a != n), {}⟩
  | .fin n _ _, .inf b => ⟨.fin (n != b) 0 0, {}⟩
  | x, y => nanOf [x, y]

/-- The integer square root, from bit `b - 1` down. -/
def isqrtFrom : Nat → Nat → Nat → Nat
  | 0, _, r => r
  | b + 1, n, r => isqrtFrom b n (if (r + 2 ^ b) * (r + 2 ^ b) ≤ n then r + 2 ^ b else r)

/-- The integer square root. -/
def isqrt (n : Nat) : Nat := isqrtFrom (Nat.log2 n / 2 + 1) n 0

/-- √(m × 2^e), as a mantissa and exponent. -/
def sqrtMag (m : Nat) (e : Int) : Nat × Int :=
  let odd : Nat := if e % 2 = 0 then 0 else 1
  let n := m * 2 ^ odd * 2 ^ 280
  let r := isqrt n
  inexactMag r ((e - odd) / 2 - 140) (r * r != n)

/-- √x: of −0, −0 (R148). -/
def sqrtV (x : Val) : Exact :=
  match x with
  | .nan _ => nanOf [x]
  | .inf n => if n then invalid else ⟨x, {}⟩
  | .fin n m e =>
    if m = 0 then ⟨x, {}⟩
    else if n then invalid
    else
      let r := sqrtMag m e
      ⟨.fin false r.1 r.2, {}⟩

/-- x × y + z in one (R148): 0 × ∞ is invalid even beside a quiet NaN. -/
def fmaV (rm : Nat) (x y z : Val) : Exact :=
  let p := mulV x y
  if isNan p.val then ⟨p.val, { nv := p.flags.nv || isSig z }⟩
  else if isNan z then nanOf [z]
  else addV rm p.val z

/-- x < y; false when either is a NaN; −0 equals +0. -/
def ltV (x y : Val) : Bool :=
  match x, y with
  | .inf a, .inf b => a && !b
  | .inf a, .fin _ _ _ => a
  | .fin _ _ _, .inf b => !b
  | .fin n1 m1 e1, .fin n2 m2 e2 =>
    let lo := min e1 e2
    decide (scaled n1 m1 e1 lo < scaled n2 m2 e2 lo)
  | _, _ => false

/-- x = y; false when either is a NaN; −0 equals +0. -/
def eqV (x y : Val) : Bool := !isNan x && !isNan y && !ltV x y && !ltV y x

/-- x orders before y where −0 is less than +0 (R123). -/
def beforeV (x y : Val) : Bool := ltV x y || (eqV x y && negOf x && !negOf y)

/-- minimumNumber or maximumNumber: which operand is returned (0 x, 1 y, 2 the canonical NaN), and NV (R123). -/
def minMax (isMax : Bool) (x y : Val) : Nat × Flags :=
  let flags : Flags := { nv := isSig x || isSig y }
  if isNan x && isNan y then (2, flags)
  else if isNan x then (1, flags)
  else if isNan y then (0, flags)
  else if isMax then (if beforeV x y then 1 else 0, flags)
  else (if beforeV y x then 1 else 0, flags)

/-- x read as zero of its sign when its encoding is subnormal and SM = 1 (R126). -/
def flushIn (sm : Bool) (f : Fmt) (bits : Nat) : Val :=
  let v := valueOf f 0 bits
  if sm && isSubnormal f bits then .fin (negOf v) 0 0 else v

/-- Rounding with the flush of tiny results under SM = 1 (R126). -/
def roundFlush (sm : Bool) (f : Fmt) (rm : Nat) (sat : Bool) (v : Val) : Rounded :=
  match v, fpPar f with
  | .fin neg m e, some p =>
    if sm && m != 0 && tiny p rm neg m e then ⟨signed p neg 0, { uf := true, nx := true }⟩
    else roundTo f 0 rm sat 0 v
  | v, _ => roundTo f 0 rm sat 0 v

/-- The class bit of an encoding (Table 5.5). -/
def classBit (f : Fmt) (bits : Nat) : Nat :=
  match valueOf f 0 bits with
  | .nan s => if s then 8 else 9
  | .inf n => if n then 0 else 7
  | .fin n m _ =>
    if m = 0 then (if n then 3 else 4)
    else if isSubnormal f bits then (if n then 2 else 5)
    else (if n then 1 else 6)

/-- The exact value rounded to an integral value in a mode (R152): the result and whether it differs. -/
def integral (rm : Nat) (neg : Bool) (m : Nat) (e : Int) : Val × Bool :=
  let r := roundUnits rm neg m e 0 0
  (.fin neg r.1 0, r.2)

/-- Draw32 (R115): the new state of the generator. -/
def draw32 (x : Nat) : Nat :=
  let x := (x ^^^ (x * 2 ^ 13 % 2 ^ 32)) % 2 ^ 32
  let x := x ^^^ (x / 2 ^ 17)
  (x ^^^ (x * 2 ^ 5 % 2 ^ 32)) % 2 ^ 32

/-- XSTAT.RM with code 5 read as 0 (R114). -/
def rm0 (rm : Nat) : Nat := if rm = 5 then 0 else rm

/-- AtomicFAdd (R241): one rounding to nearest even, subnormals kept, canonical NaNs, no flags. -/
def atomicFAdd (f : Fmt) (old addend : Nat) : Nat :=
  (roundTo f 0 0 false 0 (addV 0 (valueOf f 0 old) (valueOf f 0 addend)).val).bits

end Sys2Proof.Machine
end

