-- ==== Sys2Proof/Decode.lean ====
section
/-! DEFINITION. Decoding a 32-bit word (steps 2 and 3 of R79 and the reserved fields of step 4), the encoder written from
the same tables, and the two readings of a word the host asks for. Operand constraints that no field encodes are in
WellFormed.lean; the checks that depend on a format prefix are in the meanings. -/

namespace Sys2Proof

/-- Why a word is no instruction (R79, R82). -/
inductive DecodeError where
  /-- the major opcode is not assigned (step 2) -/
  | unassignedOpcode
  /-- the function code or sub-field is not assigned (step 3) -/
  | unassignedFunction
  /-- a reserved field is not zero (step 4, R5) -/
  | reservedField
  /-- fewer than four bytes are left -/
  | truncated
  deriving DecidableEq, Repr

/-- Bits `lo` to `lo + len - 1` of a word (R1, R30). -/
def field (lo len : Nat) (w : BitVec 32) : BitVec len := w.extractLsb' lo len

/-- The instruction `i` when every reserved field listed holds the value listed (R5, R31). -/
def reserve (ok : Bool) (i : Instr) : Except DecodeError Instr :=
  if ok then .ok i else .error .reservedField

/-- Opcode 0x01 (Table 3.1). -/
def decode01 (w : BitVec 32) : Except DecodeError Instr :=
  match (field 0 10 w).toNat with
  | 0x0 => .ok (.add (field 20 5 w) (field 15 5 w) (field 10 5 w))
  | 0x1 => .ok (.sub (field 20 5 w) (field 15 5 w) (field 10 5 w))
  | 0x2 => .ok (.mul (field 20 5 w) (field 15 5 w) (field 10 5 w))
  | 0x3 => .ok (.mulh (field 20 5 w) (field 15 5 w) (field 10 5 w))
  | 0x4 => .ok (.mulhu (field 20 5 w) (field 15 5 w) (field 10 5 w))
  | 0x5 => .ok (.div (field 20 5 w) (field 15 5 w) (field 10 5 w))
  | 0x6 => .ok (.divu (field 20 5 w) (field 15 5 w) (field 10 5 w))
  | 0x7 => .ok (.rem (field 20 5 w) (field 15 5 w) (field 10 5 w))
  | 0x8 => .ok (.remu (field 20 5 w) (field 15 5 w) (field 10 5 w))
  | 0x10 => .ok (.and (field 20 5 w) (field 15 5 w) (field 10 5 w))
  | 0x11 => .ok (.or (field 20 5 w) (field 15 5 w) (field 10 5 w))
  | 0x12 => .ok (.xor (field 20 5 w) (field 15 5 w) (field 10 5 w))
  | 0x13 => .ok (.andn (field 20 5 w) (field 15 5 w) (field 10 5 w))
  | 0x18 => .ok (.sll (field 20 5 w) (field 15 5 w) (field 10 5 w))
  | 0x19 => .ok (.srl (field 20 5 w) (field 15 5 w) (field 10 5 w))
  | 0x1a => .ok (.sra (field 20 5 w) (field 15 5 w) (field 10 5 w))
  | 0x1b => .ok (.ror (field 20 5 w) (field 15 5 w) (field 10 5 w))
  | 0x20 => reserve (field 10 5 w == 0) (.clz (field 20 5 w) (field 15 5 w))
  | 0x21 => reserve (field 10 5 w == 0) (.ctz (field 20 5 w) (field 15 5 w))
  | 0x22 => reserve (field 10 5 w == 0) (.popc (field 20 5 w) (field 15 5 w))
  | 0x23 => reserve (field 10 5 w == 0) (.brev (field 20 5 w) (field 15 5 w))
  | 0x24 => reserve (field 10 5 w == 0) (.bswap (field 20 5 w) (field 15 5 w))
  | 0x28 => .ok (.min (field 20 5 w) (field 15 5 w) (field 10 5 w))
  | 0x29 => .ok (.max (field 20 5 w) (field 15 5 w) (field 10 5 w))
  | 0x2a => .ok (.minu (field 20 5 w) (field 15 5 w) (field 10 5 w))
  | 0x2b => .ok (.maxu (field 20 5 w) (field 15 5 w) (field 10 5 w))
  | 0x30 => .ok (.slt (field 20 5 w) (field 15 5 w) (field 10 5 w))
  | 0x31 => .ok (.sltu (field 20 5 w) (field 15 5 w) (field 10 5 w))
  | 0x38 | 0x39 | 0x3a | 0x3b | 0x3c | 0x3d | 0x3e | 0x3f => .ok (.sel (field 0 3 w) (field 20 5 w) (field 15 5 w) (field 10 5 w))
  | 0x40 => .ok (.bfxu (field 20 5 w) (field 15 5 w) (field 10 5 w))
  | 0x41 => .ok (.bfxs (field 20 5 w) (field 15 5 w) (field 10 5 w))
  | 0x42 => .ok (.bfi (field 20 5 w) (field 15 5 w) (field 10 5 w))
  | _ => .error .unassignedFunction

/-- Opcode 0x02 (Table 3.1). -/
def decode02 (w : BitVec 32) : Except DecodeError Instr :=
  .ok (.addi (field 20 5 w) (field 15 5 w) (field 0 15 w))

/-- Opcode 0x03 (Table 3.1). -/
def decode03 (w : BitVec 32) : Except DecodeError Instr :=
  .ok (.andi (field 20 5 w) (field 15 5 w) (field 0 15 w))

/-- Opcode 0x04 (Table 3.1). -/
def decode04 (w : BitVec 32) : Except DecodeError Instr :=
  .ok (.ori (field 20 5 w) (field 15 5 w) (field 0 15 w))

/-- Opcode 0x05 (Table 3.1). -/
def decode05 (w : BitVec 32) : Except DecodeError Instr :=
  .ok (.xori (field 20 5 w) (field 15 5 w) (field 0 15 w))

/-- Opcode 0x06 (Table 3.1). -/
def decode06 (w : BitVec 32) : Except DecodeError Instr :=
  .ok (.slti (field 20 5 w) (field 15 5 w) (field 0 15 w))

/-- Opcode 0x07 (Table 3.1). -/
def decode07 (w : BitVec 32) : Except DecodeError Instr :=
  match (field 6 3 w).toNat with
  | 0x0 => reserve (field 9 6 w == 0) (.slli (field 20 5 w) (field 15 5 w) (field 0 6 w))
  | 0x1 => reserve (field 9 6 w == 0) (.srli (field 20 5 w) (field 15 5 w) (field 0 6 w))
  | 0x2 => reserve (field 9 6 w == 0) (.srai (field 20 5 w) (field 15 5 w) (field 0 6 w))
  | 0x3 => reserve (field 9 6 w == 0) (.rori (field 20 5 w) (field 15 5 w) (field 0 6 w))
  | 0x4 => reserve (field 9 6 w == 0 && field 5 1 w == 0) (.slliw (field 20 5 w) (field 15 5 w) (field 0 5 w))
  | 0x5 => reserve (field 9 6 w == 0 && field 5 1 w == 0) (.srliw (field 20 5 w) (field 15 5 w) (field 0 5 w))
  | 0x6 => reserve (field 9 6 w == 0 && field 5 1 w == 0) (.sraiw (field 20 5 w) (field 15 5 w) (field 0 5 w))
  | 0x7 => reserve (field 9 6 w == 0 && field 5 1 w == 0) (.roriw (field 20 5 w) (field 15 5 w) (field 0 5 w))
  | _ => .error .unassignedFunction

/-- Opcode 0x08 (Table 3.1). -/
def decode08 (w : BitVec 32) : Except DecodeError Instr :=
  .ok (.lui (field 20 5 w) (field 0 20 w))

/-- Opcode 0x09 (Table 3.1). -/
def decode09 (w : BitVec 32) : Except DecodeError Instr :=
  match (field 0 7 w).toNat with
  | 0x0 => reserve (field 15 5 w == 0) (.ldk (field 20 5 w) (field 7 8 w))
  | 0x1 => .ok (.addk (field 20 5 w) (field 15 5 w) (field 7 8 w))
  | 0x2 => .ok (.subk (field 20 5 w) (field 15 5 w) (field 7 8 w))
  | 0x3 => .ok (.andk (field 20 5 w) (field 15 5 w) (field 7 8 w))
  | 0x4 => reserve (field 15 5 w == 0) (.ldkf (field 20 5 w) (field 7 8 w))
  | _ => .error .unassignedFunction

/-- Opcode 0x0A (Table 3.1). -/
def decode0A (w : BitVec 32) : Except DecodeError Instr :=
  match (field 0 10 w).toNat with
  | 0x0 => reserve (field 23 2 w == 0) (.cpeq (field 20 3 w) (field 15 5 w) (field 10 5 w))
  | 0x1 => reserve (field 23 2 w == 0) (.cpne (field 20 3 w) (field 15 5 w) (field 10 5 w))
  | 0x2 => reserve (field 23 2 w == 0) (.cplt (field 20 3 w) (field 15 5 w) (field 10 5 w))
  | 0x3 => reserve (field 23 2 w == 0) (.cpltu (field 20 3 w) (field 15 5 w) (field 10 5 w))
  | 0x4 => reserve (field 23 2 w == 0) (.cpge (field 20 3 w) (field 15 5 w) (field 10 5 w))
  | 0x5 => reserve (field 23 2 w == 0) (.cpgeu (field 20 3 w) (field 15 5 w) (field 10 5 w))
  | 0x10 => reserve (field 23 2 w == 0 && field 19 1 w == 0 && field 14 1 w == 0) (.pand (field 20 3 w) (field 15 4 w) (field 10 4 w))
  | 0x11 => reserve (field 23 2 w == 0 && field 19 1 w == 0 && field 14 1 w == 0) (.por (field 20 3 w) (field 15 4 w) (field 10 4 w))
  | 0x12 => reserve (field 23 2 w == 0 && field 19 1 w == 0 && field 14 1 w == 0) (.pxor (field 20 3 w) (field 15 4 w) (field 10 4 w))
  | 0x18 => reserve (field 23 2 w == 0 && field 10 5 w == 0) (.pmovw (field 20 3 w) (field 15 5 w))
  | 0x19 => reserve (field 19 1 w == 0 && field 10 5 w == 0) (.wmovp (field 20 5 w) (field 15 4 w))
  | _ => .error .unassignedFunction

/-- Opcode 0x10 (Table 3.1). -/
def decode10 (w : BitVec 32) : Except DecodeError Instr :=
  .ok (.br (field 22 3 w) (field 21 1 w) (field 0 21 w))

/-- Opcode 0x11 (Table 3.1). -/
def decode11 (w : BitVec 32) : Except DecodeError Instr :=
  .ok (.jal (field 20 5 w) (field 0 20 w))

/-- Opcode 0x12 (Table 3.1). -/
def decode12 (w : BitVec 32) : Except DecodeError Instr :=
  match (field 0 10 w).toNat with
  | 0x0 => reserve (field 10 5 w == 0) (.jalr (field 20 5 w) (field 15 5 w))
  | _ => .error .unassignedFunction

/-- Opcode 0x18 (Table 3.1). -/
def decode18 (w : BitVec 32) : Except DecodeError Instr :=
  match (field 1 9 w).toNat with
  | 0x0 => .ok (.fadd (field 20 5 w) (field 15 5 w) (field 10 5 w) (field 0 1 w))
  | 0x1 => .ok (.fsub (field 20 5 w) (field 15 5 w) (field 10 5 w) (field 0 1 w))
  | 0x2 => .ok (.fmul (field 20 5 w) (field 15 5 w) (field 10 5 w) (field 0 1 w))
  | 0x3 => .ok (.fdiv (field 20 5 w) (field 15 5 w) (field 10 5 w) (field 0 1 w))
  | 0x4 => reserve (field 10 5 w == 0) (.fsqrt (field 20 5 w) (field 15 5 w) (field 0 1 w))
  | 0x5 => .ok (.fmadd (field 20 5 w) (field 15 5 w) (field 10 5 w) (field 0 1 w))
  | 0x6 => .ok (.fmsub (field 20 5 w) (field 15 5 w) (field 10 5 w) (field 0 1 w))
  | 0x7 => .ok (.fnmadd (field 20 5 w) (field 15 5 w) (field 10 5 w) (field 0 1 w))
  | 0x8 => .ok (.fnmsub (field 20 5 w) (field 15 5 w) (field 10 5 w) (field 0 1 w))
  | 0x9 => .ok (.fmin (field 20 5 w) (field 15 5 w) (field 10 5 w) (field 0 1 w))
  | 0xa => .ok (.fmax (field 20 5 w) (field 15 5 w) (field 10 5 w) (field 0 1 w))
  | 0xb => .ok (.fsgnj (field 20 5 w) (field 15 5 w) (field 10 5 w) (field 0 1 w))
  | 0xc => .ok (.fsgnjn (field 20 5 w) (field 15 5 w) (field 10 5 w) (field 0 1 w))
  | 0xd => .ok (.fsgnjx (field 20 5 w) (field 15 5 w) (field 10 5 w) (field 0 1 w))
  | 0xe => reserve (field 23 2 w == 0) (.fceq (field 20 3 w) (field 15 5 w) (field 10 5 w) (field 0 1 w))
  | 0xf => reserve (field 23 2 w == 0) (.fclt (field 20 3 w) (field 15 5 w) (field 10 5 w) (field 0 1 w))
  | 0x10 => reserve (field 23 2 w == 0) (.fcle (field 20 3 w) (field 15 5 w) (field 10 5 w) (field 0 1 w))
  | 0x11 => reserve (field 23 2 w == 0) (.fcun (field 20 3 w) (field 15 5 w) (field 10 5 w) (field 0 1 w))
  | 0x12 => reserve (field 10 5 w == 0) (.fclass (field 20 5 w) (field 15 5 w) (field 0 1 w))
  | 0x13 => reserve (field 10 5 w == 0) (.frint (field 20 5 w) (field 15 5 w) (field 0 1 w))
  | 0x14 => reserve (field 10 5 w == 0 && field 0 1 w == 0) (.fmov (field 20 5 w) (field 15 5 w))
  | 0x15 => reserve (field 10 5 w == 0 && field 0 1 w == 0) (.fmvwf (field 20 5 w) (field 15 5 w))
  | 0x16 => reserve (field 10 5 w == 0 && field 0 1 w == 0) (.fmvfw (field 20 5 w) (field 15 5 w))
  | _ => .error .unassignedFunction

/-- Opcode 0x19 (Table 3.1). -/
def decode19 (w : BitVec 32) : Except DecodeError Instr :=
  match (field 0 1 w).toNat with
  | 0x0 => .ok (.cvt (field 20 5 w) (field 15 5 w) (field 10 5 w) (field 6 4 w) (field 2 4 w) (field 1 1 w))
  | 0x1 => reserve (field 10 5 w == 0) (.cvti (field 20 5 w) (field 15 5 w) (field 6 4 w) (field 2 4 w) (field 1 1 w))
  | _ => .error .unassignedFunction

/-- Opcode 0x1A (Table 3.1). -/
def decode1A (w : BitVec 32) : Except DecodeError Instr :=
  match (field 0 10 w).toNat with
  | 0x0 => reserve (field 10 5 w == 0) (.fexp2 (field 20 5 w) (field 15 5 w))
  | 0x1 => reserve (field 10 5 w == 0) (.flog2 (field 20 5 w) (field 15 5 w))
  | 0x2 => reserve (field 10 5 w == 0) (.frsqrt (field 20 5 w) (field 15 5 w))
  | 0x3 => reserve (field 10 5 w == 0) (.fsin (field 20 5 w) (field 15 5 w))
  | 0x4 => reserve (field 10 5 w == 0) (.fcos (field 20 5 w) (field 15 5 w))
  | _ => .error .unassignedFunction

/-- Opcode 0x1B (Table 3.1). -/
def decode1B (w : BitVec 32) : Except DecodeError Instr :=
  match (field 1 5 w).toNat with
  | 0x0 => .ok (.nadd (field 20 5 w) (field 15 5 w) (field 10 5 w) (field 6 4 w) (field 0 1 w))
  | 0x1 => .ok (.nsub (field 20 5 w) (field 15 5 w) (field 10 5 w) (field 6 4 w) (field 0 1 w))
  | 0x2 => .ok (.nmul (field 20 5 w) (field 15 5 w) (field 10 5 w) (field 6 4 w) (field 0 1 w))
  | 0x3 => .ok (.nfma (field 20 5 w) (field 15 5 w) (field 10 5 w) (field 6 4 w) (field 0 1 w))
  | 0x4 => .ok (.nmin (field 20 5 w) (field 15 5 w) (field 10 5 w) (field 6 4 w) (field 0 1 w))
  | 0x5 => .ok (.nmax (field 20 5 w) (field 15 5 w) (field 10 5 w) (field 6 4 w) (field 0 1 w))
  | 0x6 => .ok (.ndot (field 20 5 w) (field 15 5 w) (field 10 5 w) (field 6 4 w) (field 0 1 w))
  | _ => .error .unassignedFunction

/-- Opcode 0x1C (Table 3.1). -/
def decode1C (w : BitVec 32) : Except DecodeError Instr :=
  reserve (field 0 11 w == 0) (.pfx (field 21 4 w) (field 17 4 w) (field 11 6 w))

/-- Opcode 0x20 (Table 3.1). -/
def decode20 (w : BitVec 32) : Except DecodeError Instr :=
  reserve (field 1 1 w == 0) (.ld (field 20 5 w) (field 15 5 w) (field 4 11 w) (field 2 2 w) (field 0 1 w))

/-- Opcode 0x21 (Table 3.1). -/
def decode21 (w : BitVec 32) : Except DecodeError Instr :=
  reserve (field 1 1 w == 0) (.ldu (field 20 5 w) (field 15 5 w) (field 4 11 w) (field 2 2 w) (field 0 1 w))

/-- Opcode 0x22 (Table 3.1). -/
def decode22 (w : BitVec 32) : Except DecodeError Instr :=
  reserve (field 0 1 w == 0) (.st (field 20 5 w) (field 15 5 w) (field 4 11 w) (field 2 2 w) (field 1 1 w))

/-- Opcode 0x23 (Table 3.1). -/
def decode23 (w : BitVec 32) : Except DecodeError Instr :=
  reserve (field 1 1 w == 0) (.ldf (field 20 5 w) (field 15 5 w) (field 4 11 w) (field 2 2 w) (field 0 1 w))

/-- Opcode 0x24 (Table 3.1). -/
def decode24 (w : BitVec 32) : Except DecodeError Instr :=
  reserve (field 0 1 w == 0) (.stf (field 20 5 w) (field 15 5 w) (field 4 11 w) (field 2 2 w) (field 1 1 w))

/-- Opcode 0x25 (Table 3.1). -/
def decode25 (w : BitVec 32) : Except DecodeError Instr :=
  match (field 7 3 w).toNat with
  | 0x0 => .ok (.ldIndexed (field 20 5 w) (field 15 5 w) (field 10 5 w) (field 5 2 w) (field 3 2 w) (field 0 3 w))
  | 0x1 => .ok (.lduIndexed (field 20 5 w) (field 15 5 w) (field 10 5 w) (field 5 2 w) (field 3 2 w) (field 0 3 w))
  | 0x2 => .ok (.stIndexed (field 20 5 w) (field 15 5 w) (field 10 5 w) (field 5 2 w) (field 3 2 w) (field 0 3 w))
  | 0x3 => .ok (.ldfIndexed (field 20 5 w) (field 15 5 w) (field 10 5 w) (field 5 2 w) (field 3 2 w) (field 0 3 w))
  | 0x4 => .ok (.stfIndexed (field 20 5 w) (field 15 5 w) (field 10 5 w) (field 5 2 w) (field 3 2 w) (field 0 3 w))
  | _ => .error .unassignedFunction

/-- Opcode 0x26 (Table 3.1). -/
def decode26 (w : BitVec 32) : Except DecodeError Instr :=
  match (field 5 5 w).toNat with
  | 0x0 | 0x1 => .ok (.aadd (field 20 5 w) (field 15 5 w) (field 10 5 w) (field 5 1 w) (field 3 2 w) (field 0 3 w))
  | 0x2 | 0x3 => .ok (.aand (field 20 5 w) (field 15 5 w) (field 10 5 w) (field 5 1 w) (field 3 2 w) (field 0 3 w))
  | 0x4 | 0x5 => .ok (.aor (field 20 5 w) (field 15 5 w) (field 10 5 w) (field 5 1 w) (field 3 2 w) (field 0 3 w))
  | 0x6 | 0x7 => .ok (.axor (field 20 5 w) (field 15 5 w) (field 10 5 w) (field 5 1 w) (field 3 2 w) (field 0 3 w))
  | 0x8 | 0x9 => .ok (.amin (field 20 5 w) (field 15 5 w) (field 10 5 w) (field 5 1 w) (field 3 2 w) (field 0 3 w))
  | 0xa | 0xb => .ok (.amax (field 20 5 w) (field 15 5 w) (field 10 5 w) (field 5 1 w) (field 3 2 w) (field 0 3 w))
  | 0xc | 0xd => .ok (.aminu (field 20 5 w) (field 15 5 w) (field 10 5 w) (field 5 1 w) (field 3 2 w) (field 0 3 w))
  | 0xe | 0xf => .ok (.amaxu (field 20 5 w) (field 15 5 w) (field 10 5 w) (field 5 1 w) (field 3 2 w) (field 0 3 w))
  | 0x10 | 0x11 => .ok (.aswap (field 20 5 w) (field 15 5 w) (field 10 5 w) (field 5 1 w) (field 3 2 w) (field 0 3 w))
  | 0x12 | 0x13 => .ok (.acas (field 20 5 w) (field 15 5 w) (field 10 5 w) (field 5 1 w) (field 3 2 w) (field 0 3 w))
  | 0x14 => .ok (.afaddF32 (field 20 5 w) (field 15 5 w) (field 10 5 w) (field 3 2 w) (field 0 3 w))
  | 0x15 => .ok (.afaddBf16 (field 20 5 w) (field 15 5 w) (field 10 5 w) (field 3 2 w) (field 0 3 w))
  | _ => .error .unassignedFunction

/-- Opcode 0x27 (Table 3.1). -/
def decode27 (w : BitVec 32) : Except DecodeError Instr :=
  match (field 7 3 w).toNat with
  | 0x0 => reserve (field 10 15 w == 0) (.fence (field 3 4 w) (field 0 3 w))
  | 0x1 => reserve (field 10 15 w == 0 && field 0 7 w == 0) (.ifence)
  | _ => .error .unassignedFunction

/-- Opcode 0x28 (Table 3.1). -/
def decode28 (w : BitVec 32) : Except DecodeError Instr :=
  match (field 0 10 w).toNat with
  | 0x0 => reserve (field 20 5 w == 0 && field 10 5 w == 0) (.cflush (field 15 5 w))
  | 0x1 => reserve (field 20 5 w == 0 && field 10 5 w == 0) (.cclean (field 15 5 w))
  | 0x2 => reserve (field 20 5 w == 0 && field 10 5 w == 0) (.cinval (field 15 5 w))
  | 0x3 => reserve (field 20 5 w == 0 && field 10 5 w == 0) (.czero (field 15 5 w))
  | _ => .error .unassignedFunction

/-- Opcode 0x29 (Table 3.1). -/
def decode29 (w : BitVec 32) : Except DecodeError Instr :=
  reserve (field 22 3 w == 0 && field 0 2 w == 0) (.pref (field 20 2 w) (field 15 5 w) (field 4 11 w) (field 2 2 w))

/-- Opcode 0x30 (Table 3.1). -/
def decode30 (w : BitVec 32) : Except DecodeError Instr :=
  match (field 0 10 w).toNat with
  | 0x0 => .ok (.shfl (field 20 5 w) (field 15 5 w) (field 10 5 w))
  | 0x1 => .ok (.shflup (field 20 5 w) (field 15 5 w) (field 10 5 w))
  | 0x2 => .ok (.shfldn (field 20 5 w) (field 15 5 w) (field 10 5 w))
  | 0x3 => .ok (.shflx (field 20 5 w) (field 15 5 w) (field 10 5 w))
  | 0x4 => .ok (.fshfl (field 20 5 w) (field 15 5 w) (field 10 5 w))
  | 0x5 => .ok (.fshflup (field 20 5 w) (field 15 5 w) (field 10 5 w))
  | 0x6 => .ok (.fshfldn (field 20 5 w) (field 15 5 w) (field 10 5 w))
  | 0x7 => .ok (.fshflx (field 20 5 w) (field 15 5 w) (field 10 5 w))
  | 0x8 => reserve (field 23 2 w == 0 && field 19 1 w == 0 && field 10 5 w == 0) (.vall (field 20 3 w) (field 15 4 w))
  | 0x9 => reserve (field 23 2 w == 0 && field 19 1 w == 0 && field 10 5 w == 0) (.vany (field 20 3 w) (field 15 4 w))
  | 0xa => reserve (field 19 1 w == 0 && field 10 5 w == 0) (.vbal (field 20 5 w) (field 15 4 w))
  | 0xb => reserve (field 10 10 w == 0) (.lmask (field 20 5 w))
  | _ => .error .unassignedFunction

/-- Opcode 0x34 (Table 3.1). -/
def decode34 (w : BitVec 32) : Except DecodeError Instr :=
  match (field 0 10 w).toNat with
  | 0x0 => reserve (field 20 5 w == 0) (.qpush (field 15 5 w) (field 10 5 w))
  | 0x1 => reserve (field 10 5 w == 0) (.qpop (field 20 5 w) (field 15 5 w))
  | 0x2 => reserve (field 10 5 w == 0) (.qtry (field 20 5 w) (field 15 5 w))
  | 0x3 => reserve (field 10 5 w == 0) (.qlen (field 20 5 w) (field 15 5 w))
  | 0x4 => reserve (field 20 5 w == 0) (.wlpush (field 15 5 w) (field 10 5 w))
  | 0x5 => reserve (field 10 11 w == 0) (.wlpop (field 21 4 w))
  | 0x6 => reserve (field 20 5 w == 0) (.rqpush (field 15 5 w) (field 10 5 w))
  | 0x7 => reserve (field 10 10 w == 0) (.rqpop (field 20 5 w))
  | 0x8 => reserve (field 20 5 w == 0) (.msend (field 15 5 w) (field 10 5 w))
  | 0x9 => reserve (field 10 10 w == 0) (.mrecv (field 20 5 w))
  | _ => .error .unassignedFunction

/-- Opcode 0x35 (Table 3.1). -/
def decode35 (w : BitVec 32) : Except DecodeError Instr :=
  match (field 0 10 w).toNat with
  | 0x0 => .ok (.spawn (field 20 5 w) (field 15 5 w) (field 10 5 w))
  | 0x1 => reserve (field 20 5 w == 0 && field 10 5 w == 0) (.join (field 15 5 w))
  | 0x2 => reserve (field 10 15 w == 0) (.exit)
  | 0x3 => reserve (field 10 15 w == 0) (.sleep)
  | 0x4 => reserve (field 20 5 w == 0 && field 10 5 w == 0) (.wake (field 15 5 w))
  | 0x5 => reserve (field 10 15 w == 0) (.yield)
  | 0x6 => reserve (field 20 5 w == 0 && field 10 5 w == 0) (.migrate (field 15 5 w))
  | _ => .error .unassignedFunction

/-- Opcode 0x36 (Table 3.1). -/
def decode36 (w : BitVec 32) : Except DecodeError Instr :=
  match (field 20 5 w).toNat with
  | 0x0 => .ok (.gcall (field 0 20 w))
  | 0x1 => reserve (field 0 20 w == 0) (.gret)
  | _ => .error .unassignedFunction

/-- Opcode 0x37 (Table 3.1). -/
def decode37 (w : BitVec 32) : Except DecodeError Instr :=
  match (field 8 2 w).toNat with
  | 0x0 => reserve (field 10 15 w == 0) (.bsync (field 0 8 w))
  | 0x1 => reserve (field 10 15 w == 0) (.barv (field 0 8 w))
  | 0x2 => reserve (field 10 15 w == 0) (.bwait (field 0 8 w))
  | 0x3 => reserve (field 10 10 w == 0) (.bquery (field 20 5 w) (field 0 8 w))
  | _ => .error .unassignedFunction

/-- Opcode 0x38 (Table 3.1). -/
def decode38 (w : BitVec 32) : Except DecodeError Instr :=
  match (field 0 4 w).toNat with
  | 0x0 => reserve (field 4 5 w == 0) (.wait (field 21 4 w) (field 17 4 w) (field 13 4 w) (field 9 4 w))
  | 0x1 => reserve (field 9 16 w == 65535) (.pwait (field 4 5 w))
  | _ => .error .unassignedFunction

/-- Opcode 0x39 (Table 3.1). -/
def decode39 (w : BitVec 32) : Except DecodeError Instr :=
  match (field 0 10 w).toNat with
  | 0x0 => reserve (field 10 5 w == 0) (.launch (field 20 5 w) (field 15 5 w))
  | _ => .error .unassignedFunction

/-- Opcode 0x40 (Table 3.1). -/
def decode40 (w : BitVec 32) : Except DecodeError Instr :=
  match (field 16 9 w).toNat with
  | 0x0 => reserve (field 6 5 w == 0) (.mcfg (field 11 5 w) (field 2 4 w) (field 0 2 w))
  | 0x1 => reserve (field 6 5 w == 0 && field 0 2 w == 0) (.msel (field 11 5 w) (field 2 4 w))
  | 0x2 => reserve (field 0 2 w == 0) (.mlds (field 11 5 w) (field 6 5 w) (field 2 4 w))
  | 0x3 => reserve (field 6 10 w == 0 && field 0 2 w == 0) (.mswp (field 2 4 w))
  | 0x4 => reserve (field 0 2 w == 0) (.mma (field 11 5 w) (field 6 5 w) (field 2 4 w))
  | 0x5 => reserve (field 0 2 w == 0) (.mmas (field 11 5 w) (field 6 5 w) (field 2 4 w))
  | 0x6 => reserve (field 11 5 w == 0 && field 0 2 w == 0) (.mzero (field 6 5 w) (field 2 4 w))
  | 0x7 => reserve (field 0 2 w == 0) (.mdrn (field 11 5 w) (field 6 5 w) (field 2 4 w))
  | 0x8 => reserve (field 0 2 w == 0) (.mdrna (field 11 5 w) (field 6 5 w) (field 2 4 w))
  | 0x9 => reserve (field 0 2 w == 0) (.mdrno (field 11 5 w) (field 6 5 w) (field 2 4 w))
  | 0xa => reserve (field 0 2 w == 0) (.mrdr (field 11 5 w) (field 6 5 w) (field 2 4 w))
  | 0xb => reserve (field 0 2 w == 0) (.mwrr (field 11 5 w) (field 6 5 w) (field 2 4 w))
  | 0xc => reserve (field 6 5 w == 0) (.mstat (field 11 5 w) (field 2 4 w) (field 0 2 w))
  | 0x40 => reserve (field 0 7 w == 0) (.ccopy (field 11 5 w) (field 7 4 w))
  | 0x41 => reserve (field 0 7 w == 0) (.cgath (field 11 5 w) (field 7 4 w))
  | 0x42 => reserve (field 0 7 w == 0) (.cscat (field 11 5 w) (field 7 4 w))
  | 0x43 => reserve (field 1 10 w == 0) (.cstat (field 11 5 w) (field 0 1 w))
  | 0x44 => reserve (field 1 5 w == 0) (.pquery (field 11 5 w) (field 6 5 w) (field 0 1 w))
  | 0x45 => reserve (field 0 6 w == 0) (.lquery (field 11 5 w) (field 6 5 w))
  | 0x80 => reserve (field 6 5 w == 0) (.ncfg (field 11 5 w) (field 2 4 w) (field 0 2 w))
  | 0x81 => reserve (field 0 2 w == 0) (.nld (field 11 5 w) (field 6 5 w) (field 2 4 w))
  | 0x82 => reserve (field 0 6 w == 0) (.ninj (field 11 5 w) (field 6 5 w))
  | 0x83 => reserve (field 6 5 w == 0 && field 0 2 w == 0) (.ntick (field 11 5 w) (field 2 4 w))
  | 0x84 => .ok (.nrd (field 11 5 w) (field 6 5 w) (field 2 4 w) (field 0 2 w))
  | 0x85 => reserve (field 0 2 w == 0) (.nspk (field 11 5 w) (field 6 5 w) (field 2 4 w))
  | 0xc0 => reserve (field 6 5 w == 0) (.tcfg (field 11 5 w) (field 2 4 w) (field 0 2 w))
  | 0xc1 => reserve (field 0 2 w == 0) (.tdesc (field 11 5 w) (field 6 5 w) (field 2 4 w))
  | 0xc2 => reserve (field 0 2 w == 0) (.texp (field 11 5 w) (field 6 5 w) (field 2 4 w))
  | 0xc3 => reserve (field 0 2 w == 0) (.tback (field 11 5 w) (field 6 5 w) (field 2 4 w))
  | 0xc4 => reserve (field 6 5 w == 0 && field 0 2 w == 0) (.troot (field 11 5 w) (field 2 4 w))
  | 0xc5 => .ok (.trdn (field 11 5 w) (field 6 5 w) (field 2 4 w) (field 0 2 w))
  | 0xc6 => reserve (field 0 2 w == 0) (.tvl (field 11 5 w) (field 6 5 w) (field 2 4 w))
  | 0x100 => reserve (field 4 2 w == 0 && field 0 2 w == 0) (.scfg (field 11 5 w) (field 6 5 w) (field 2 2 w))
  | 0x101 => reserve (field 4 12 w == 0 && field 0 2 w == 0) (.son (field 2 2 w))
  | 0x102 => reserve (field 4 12 w == 0 && field 0 2 w == 0) (.soff (field 2 2 w))
  | 0x140 => reserve (field 0 6 w == 0) (.hplace (field 11 5 w) (field 6 5 w))
  | _ => .error .unassignedFunction

/-- Opcode 0x60 (Table 3.1). -/
def decode60 (w : BitVec 32) : Except DecodeError Instr :=
  match (field 0 3 w).toNat with
  | 0x0 => reserve (field 15 5 w == 0) (.sysrd (field 20 5 w) (field 3 12 w))
  | 0x1 => reserve (field 20 5 w == 0) (.syswr (field 15 5 w) (field 3 12 w))
  | 0x2 => .ok (.sysset (field 20 5 w) (field 15 5 w) (field 3 12 w))
  | 0x3 => .ok (.sysclr (field 20 5 w) (field 15 5 w) (field 3 12 w))
  | 0x4 => reserve (field 3 12 w == 0) (.feat (field 20 5 w) (field 15 5 w))
  | 0x5 => reserve (field 20 5 w == 0 && field 3 12 w == 0) (.timer (field 15 5 w))
  | _ => .error .unassignedFunction

/-- Opcode 0x61 (Table 3.1). -/
def decode61 (w : BitVec 32) : Except DecodeError Instr :=
  match (field 0 10 w).toNat with
  | 0x0 => reserve (field 10 15 w == 0) (.svc)
  | 0x1 => reserve (field 10 15 w == 0) (.brk)
  | 0x2 => reserve (field 10 15 w == 0) (.rft)
  | 0x3 => reserve (field 10 15 w == 0) (.wfi)
  | _ => .error .unassignedFunction

/-- Opcode 0x62 (Table 3.1). -/
def decode62 (w : BitVec 32) : Except DecodeError Instr :=
  match (field 0 10 w).toNat with
  | 0x0 => .ok (.msvw (field 20 5 w) (field 15 5 w) (field 10 5 w))
  | 0x1 => .ok (.mrsw (field 20 5 w) (field 15 5 w) (field 10 5 w))
  | 0x2 => .ok (.msvf (field 20 5 w) (field 15 5 w) (field 10 5 w))
  | 0x3 => .ok (.mrsf (field 20 5 w) (field 15 5 w) (field 10 5 w))
  | _ => .error .unassignedFunction

/-- Opcode 0x7E (Table 3.1). -/
def decode7E (w : BitVec 32) : Except DecodeError Instr :=
  .ok (.eloop (field 20 5 w) (field 15 5 w) (field 13 2 w) (field 10 3 w) (field 0 10 w))

/-- The instruction a word encodes (R79, R82). -/
def decode (w : BitVec 32) : Except DecodeError Instr :=
  match (field 25 7 w).toNat with
  | 0x1 => decode01 w
  | 0x2 => decode02 w
  | 0x3 => decode03 w
  | 0x4 => decode04 w
  | 0x5 => decode05 w
  | 0x6 => decode06 w
  | 0x7 => decode07 w
  | 0x8 => decode08 w
  | 0x9 => decode09 w
  | 0xa => decode0A w
  | 0x10 => decode10 w
  | 0x11 => decode11 w
  | 0x12 => decode12 w
  | 0x18 => decode18 w
  | 0x19 => decode19 w
  | 0x1a => decode1A w
  | 0x1b => decode1B w
  | 0x1c => decode1C w
  | 0x20 => decode20 w
  | 0x21 => decode21 w
  | 0x22 => decode22 w
  | 0x23 => decode23 w
  | 0x24 => decode24 w
  | 0x25 => decode25 w
  | 0x26 => decode26 w
  | 0x27 => decode27 w
  | 0x28 => decode28 w
  | 0x29 => decode29 w
  | 0x30 => decode30 w
  | 0x34 => decode34 w
  | 0x35 => decode35 w
  | 0x36 => decode36 w
  | 0x37 => decode37 w
  | 0x38 => decode38 w
  | 0x39 => decode39 w
  | 0x40 => decode40 w
  | 0x60 => decode60 w
  | 0x61 => decode61 w
  | 0x62 => decode62 w
  | 0x7e => decode7E w
  | _ => .error .unassignedOpcode

/-- The word held by four bytes, the lowest address first (R1, R29). -/
def wordOfBytes (b0 b1 b2 b3 : Byte) : BitVec 32 := b3 ++ b2 ++ b1 ++ b0

/-- The instruction at the head of a list of bytes, and the bytes after it (R29). -/
def decodeBytes : List Byte → Except DecodeError (Instr × List Byte)
  | b0 :: b1 :: b2 :: b3 :: rest =>
    match decode (wordOfBytes b0 b1 b2 b3) with
    | .ok i => .ok (i, rest)
    | .error e => .error e
  | _ => .error .truncated

/-- The bytes of a word in the order memory holds them (R1, R29). -/
def bytesOfWord (w : BitVec 32) : List Byte :=
  [w.extractLsb' 0 8, w.extractLsb' 8 8, w.extractLsb' 16 8, w.extractLsb' 24 8]

/-- The word of an encoded instruction, from the formats of Table 2.1 and the tables of the opcode map; an event has none. -/
def encode : Instr → Option (BitVec 32)
  | .add d a b => some (0x1#7 ++ d ++ a ++ b ++ 0x0#10)
  | .sub d a b => some (0x1#7 ++ d ++ a ++ b ++ 0x1#10)
  | .mul d a b => some (0x1#7 ++ d ++ a ++ b ++ 0x2#10)
  | .mulh d a b => some (0x1#7 ++ d ++ a ++ b ++ 0x3#10)
  | .mulhu d a b => some (0x1#7 ++ d ++ a ++ b ++ 0x4#10)
  | .div d a b => some (0x1#7 ++ d ++ a ++ b ++ 0x5#10)
  | .divu d a b => some (0x1#7 ++ d ++ a ++ b ++ 0x6#10)
  | .rem d a b => some (0x1#7 ++ d ++ a ++ b ++ 0x7#10)
  | .remu d a b => some (0x1#7 ++ d ++ a ++ b ++ 0x8#10)
  | .and d a b => some (0x1#7 ++ d ++ a ++ b ++ 0x10#10)
  | .or d a b => some (0x1#7 ++ d ++ a ++ b ++ 0x11#10)
  | .xor d a b => some (0x1#7 ++ d ++ a ++ b ++ 0x12#10)
  | .andn d a b => some (0x1#7 ++ d ++ a ++ b ++ 0x13#10)
  | .sll d a b => some (0x1#7 ++ d ++ a ++ b ++ 0x18#10)
  | .srl d a b => some (0x1#7 ++ d ++ a ++ b ++ 0x19#10)
  | .sra d a b => some (0x1#7 ++ d ++ a ++ b ++ 0x1a#10)
  | .ror d a b => some (0x1#7 ++ d ++ a ++ b ++ 0x1b#10)
  | .clz d a => some (0x1#7 ++ d ++ a ++ 0x20#15)
  | .ctz d a => some (0x1#7 ++ d ++ a ++ 0x21#15)
  | .popc d a => some (0x1#7 ++ d ++ a ++ 0x22#15)
  | .brev d a => some (0x1#7 ++ d ++ a ++ 0x23#15)
  | .bswap d a => some (0x1#7 ++ d ++ a ++ 0x24#15)
  | .min d a b => some (0x1#7 ++ d ++ a ++ b ++ 0x28#10)
  | .max d a b => some (0x1#7 ++ d ++ a ++ b ++ 0x29#10)
  | .minu d a b => some (0x1#7 ++ d ++ a ++ b ++ 0x2a#10)
  | .maxu d a b => some (0x1#7 ++ d ++ a ++ b ++ 0x2b#10)
  | .slt d a b => some (0x1#7 ++ d ++ a ++ b ++ 0x30#10)
  | .sltu d a b => some (0x1#7 ++ d ++ a ++ b ++ 0x31#10)
  | .sel n d a b => some (0x1#7 ++ d ++ a ++ b ++ 0x7#7 ++ n)
  | .bfxu d a b => some (0x1#7 ++ d ++ a ++ b ++ 0x40#10)
  | .bfxs d a b => some (0x1#7 ++ d ++ a ++ b ++ 0x41#10)
  | .bfi d a b => some (0x1#7 ++ d ++ a ++ b ++ 0x42#10)
  | .addi d a imm => some (0x2#7 ++ d ++ a ++ imm)
  | .andi d a imm => some (0x3#7 ++ d ++ a ++ imm)
  | .ori d a imm => some (0x4#7 ++ d ++ a ++ imm)
  | .xori d a imm => some (0x5#7 ++ d ++ a ++ imm)
  | .slti d a imm => some (0x6#7 ++ d ++ a ++ imm)
  | .slli d a n => some (0x7#7 ++ d ++ a ++ 0x0#9 ++ n)
  | .srli d a n => some (0x7#7 ++ d ++ a ++ 0x1#9 ++ n)
  | .srai d a n => some (0x7#7 ++ d ++ a ++ 0x2#9 ++ n)
  | .rori d a n => some (0x7#7 ++ d ++ a ++ 0x3#9 ++ n)
  | .slliw d a n => some (0x7#7 ++ d ++ a ++ 0x8#10 ++ n)
  | .srliw d a n => some (0x7#7 ++ d ++ a ++ 0xa#10 ++ n)
  | .sraiw d a n => some (0x7#7 ++ d ++ a ++ 0xc#10 ++ n)
  | .roriw d a n => some (0x7#7 ++ d ++ a ++ 0xe#10 ++ n)
  | .lui d imm => some (0x8#7 ++ d ++ imm)
  | .ldk d k => some (0x9#7 ++ d ++ 0x0#5 ++ k ++ 0x0#7)
  | .addk d a k => some (0x9#7 ++ d ++ a ++ k ++ 0x1#7)
  | .subk d a k => some (0x9#7 ++ d ++ a ++ k ++ 0x2#7)
  | .andk d a k => some (0x9#7 ++ d ++ a ++ k ++ 0x3#7)
  | .ldkf d k => some (0x9#7 ++ d ++ 0x0#5 ++ k ++ 0x4#7)
  | .cpeq d a b => some (0x28#9 ++ d ++ a ++ b ++ 0x0#10)
  | .cpne d a b => some (0x28#9 ++ d ++ a ++ b ++ 0x1#10)
  | .cplt d a b => some (0x28#9 ++ d ++ a ++ b ++ 0x2#10)
  | .cpltu d a b => some (0x28#9 ++ d ++ a ++ b ++ 0x3#10)
  | .cpge d a b => some (0x28#9 ++ d ++ a ++ b ++ 0x4#10)
  | .cpgeu d a b => some (0x28#9 ++ d ++ a ++ b ++ 0x5#10)
  | .pand d a b => some (0x28#9 ++ d ++ 0x0#1 ++ a ++ 0x0#1 ++ b ++ 0x10#10)
  | .por d a b => some (0x28#9 ++ d ++ 0x0#1 ++ a ++ 0x0#1 ++ b ++ 0x11#10)
  | .pxor d a b => some (0x28#9 ++ d ++ 0x0#1 ++ a ++ 0x0#1 ++ b ++ 0x12#10)
  | .pmovw d a => some (0x28#9 ++ d ++ a ++ 0x18#15)
  | .wmovp d a => some (0xa#7 ++ d ++ 0x0#1 ++ a ++ 0x19#15)
  | .br p neg off => some (0x10#7 ++ p ++ neg ++ off)
  | .jal d off => some (0x11#7 ++ d ++ off)
  | .jalr d a => some (0x12#7 ++ d ++ a ++ 0x0#15)
  | .fadd d a b p => some (0x18#7 ++ d ++ a ++ b ++ 0x0#9 ++ p)
  | .fsub d a b p => some (0x18#7 ++ d ++ a ++ b ++ 0x1#9 ++ p)
  | .fmul d a b p => some (0x18#7 ++ d ++ a ++ b ++ 0x2#9 ++ p)
  | .fdiv d a b p => some (0x18#7 ++ d ++ a ++ b ++ 0x3#9 ++ p)
  | .fsqrt d a p => some (0x18#7 ++ d ++ a ++ 0x4#14 ++ p)
  | .fmadd d a b p => some (0x18#7 ++ d ++ a ++ b ++ 0x5#9 ++ p)
  | .fmsub d a b p => some (0x18#7 ++ d ++ a ++ b ++ 0x6#9 ++ p)
  | .fnmadd d a b p => some (0x18#7 ++ d ++ a ++ b ++ 0x7#9 ++ p)
  | .fnmsub d a b p => some (0x18#7 ++ d ++ a ++ b ++ 0x8#9 ++ p)
  | .fmin d a b p => some (0x18#7 ++ d ++ a ++ b ++ 0x9#9 ++ p)
  | .fmax d a b p => some (0x18#7 ++ d ++ a ++ b ++ 0xa#9 ++ p)
  | .fsgnj d a b p => some (0x18#7 ++ d ++ a ++ b ++ 0xb#9 ++ p)
  | .fsgnjn d a b p => some (0x18#7 ++ d ++ a ++ b ++ 0xc#9 ++ p)
  | .fsgnjx d a b p => some (0x18#7 ++ d ++ a ++ b ++ 0xd#9 ++ p)
  | .fceq d a b p => some (0x60#9 ++ d ++ a ++ b ++ 0xe#9 ++ p)
  | .fclt d a b p => some (0x60#9 ++ d ++ a ++ b ++ 0xf#9 ++ p)
  | .fcle d a b p => some (0x60#9 ++ d ++ a ++ b ++ 0x10#9 ++ p)
  | .fcun d a b p => some (0x60#9 ++ d ++ a ++ b ++ 0x11#9 ++ p)
  | .fclass d a p => some (0x18#7 ++ d ++ a ++ 0x12#14 ++ p)
  | .frint d a p => some (0x18#7 ++ d ++ a ++ 0x13#14 ++ p)
  | .fmov d a => some (0x18#7 ++ d ++ a ++ 0x28#15)
  | .fmvwf d a => some (0x18#7 ++ d ++ a ++ 0x2a#15)
  | .fmvfw d a => some (0x18#7 ++ d ++ a ++ 0x2c#15)
  | .cvt d a b s t sat => some (0x19#7 ++ d ++ a ++ b ++ s ++ t ++ sat ++ 0x0#1)
  | .cvti d a s t sat => some (0x19#7 ++ d ++ a ++ 0x0#5 ++ s ++ t ++ sat ++ 0x1#1)
  | .fexp2 d a => some (0x1a#7 ++ d ++ a ++ 0x0#15)
  | .flog2 d a => some (0x1a#7 ++ d ++ a ++ 0x1#15)
  | .frsqrt d a => some (0x1a#7 ++ d ++ a ++ 0x2#15)
  | .fsin d a => some (0x1a#7 ++ d ++ a ++ 0x3#15)
  | .fcos d a => some (0x1a#7 ++ d ++ a ++ 0x4#15)
  | .nadd d a b e sat => some (0x1b#7 ++ d ++ a ++ b ++ e ++ 0x0#5 ++ sat)
  | .nsub d a b e sat => some (0x1b#7 ++ d ++ a ++ b ++ e ++ 0x1#5 ++ sat)
  | .nmul d a b e sat => some (0x1b#7 ++ d ++ a ++ b ++ e ++ 0x2#5 ++ sat)
  | .nfma d a b e sat => some (0x1b#7 ++ d ++ a ++ b ++ e ++ 0x3#5 ++ sat)
  | .nmin d a b e sat => some (0x1b#7 ++ d ++ a ++ b ++ e ++ 0x4#5 ++ sat)
  | .nmax d a b e sat => some (0x1b#7 ++ d ++ a ++ b ++ e ++ 0x5#5 ++ sat)
  | .ndot d a b e sat => some (0x1b#7 ++ d ++ a ++ b ++ e ++ 0x6#5 ++ sat)
  | .pfx fa fb sel => some (0x1c#7 ++ fa ++ fb ++ sel ++ 0x0#11)
  | .ld d a off sz acq => some (0x20#7 ++ d ++ a ++ off ++ sz ++ 0x0#1 ++ acq)
  | .ldu d a off sz acq => some (0x21#7 ++ d ++ a ++ off ++ sz ++ 0x0#1 ++ acq)
  | .st d a off sz rel => some (0x22#7 ++ d ++ a ++ off ++ sz ++ rel ++ 0x0#1)
  | .ldf d a off sz acq => some (0x23#7 ++ d ++ a ++ off ++ sz ++ 0x0#1 ++ acq)
  | .stf d a off sz rel => some (0x24#7 ++ d ++ a ++ off ++ sz ++ rel ++ 0x0#1)
  | .pref h a off sz => some (0x148#10 ++ h ++ a ++ off ++ sz ++ 0x0#2)
  | .ldIndexed d a b sz ord scope => some (0x25#7 ++ d ++ a ++ b ++ 0x0#3 ++ sz ++ ord ++ scope)
  | .lduIndexed d a b sz ord scope => some (0x25#7 ++ d ++ a ++ b ++ 0x1#3 ++ sz ++ ord ++ scope)
  | .stIndexed d a b sz ord scope => some (0x25#7 ++ d ++ a ++ b ++ 0x2#3 ++ sz ++ ord ++ scope)
  | .ldfIndexed d a b sz ord scope => some (0x25#7 ++ d ++ a ++ b ++ 0x3#3 ++ sz ++ ord ++ scope)
  | .stfIndexed d a b sz ord scope => some (0x25#7 ++ d ++ a ++ b ++ 0x4#3 ++ sz ++ ord ++ scope)
  | .aadd d a b z ord scope => some (0x26#7 ++ d ++ a ++ b ++ 0x0#4 ++ z ++ ord ++ scope)
  | .aand d a b z ord scope => some (0x26#7 ++ d ++ a ++ b ++ 0x1#4 ++ z ++ ord ++ scope)
  | .aor d a b z ord scope => some (0x26#7 ++ d ++ a ++ b ++ 0x2#4 ++ z ++ ord ++ scope)
  | .axor d a b z ord scope => some (0x26#7 ++ d ++ a ++ b ++ 0x3#4 ++ z ++ ord ++ scope)
  | .amin d a b z ord scope => some (0x26#7 ++ d ++ a ++ b ++ 0x4#4 ++ z ++ ord ++ scope)
  | .amax d a b z ord scope => some (0x26#7 ++ d ++ a ++ b ++ 0x5#4 ++ z ++ ord ++ scope)
  | .aminu d a b z ord scope => some (0x26#7 ++ d ++ a ++ b ++ 0x6#4 ++ z ++ ord ++ scope)
  | .amaxu d a b z ord scope => some (0x26#7 ++ d ++ a ++ b ++ 0x7#4 ++ z ++ ord ++ scope)
  | .aswap d a b z ord scope => some (0x26#7 ++ d ++ a ++ b ++ 0x8#4 ++ z ++ ord ++ scope)
  | .acas d a b z ord scope => some (0x26#7 ++ d ++ a ++ b ++ 0x9#4 ++ z ++ ord ++ scope)
  | .afaddF32 d a b ord scope => some (0x26#7 ++ d ++ a ++ b ++ 0x14#5 ++ ord ++ scope)
  | .afaddBf16 d a b ord scope => some (0x26#7 ++ d ++ a ++ b ++ 0x15#5 ++ ord ++ scope)
  | .fence pairs scope => some (0x9c0000#25 ++ pairs ++ scope)
  | .ifence => some (0x4e000080#32)
  | .cflush a => some (0x500#12 ++ a ++ 0x0#15)
  | .cclean a => some (0x500#12 ++ a ++ 0x1#15)
  | .cinval a => some (0x500#12 ++ a ++ 0x2#15)
  | .czero a => some (0x500#12 ++ a ++ 0x3#15)
  | .shfl d a b => some (0x30#7 ++ d ++ a ++ b ++ 0x0#10)
  | .shflup d a b => some (0x30#7 ++ d ++ a ++ b ++ 0x1#10)
  | .shfldn d a b => some (0x30#7 ++ d ++ a ++ b ++ 0x2#10)
  | .shflx d a b => some (0x30#7 ++ d ++ a ++ b ++ 0x3#10)
  | .fshfl d a b => some (0x30#7 ++ d ++ a ++ b ++ 0x4#10)
  | .fshflup d a b => some (0x30#7 ++ d ++ a ++ b ++ 0x5#10)
  | .fshfldn d a b => some (0x30#7 ++ d ++ a ++ b ++ 0x6#10)
  | .fshflx d a b => some (0x30#7 ++ d ++ a ++ b ++ 0x7#10)
  | .vall d a => some (0xc0#9 ++ d ++ 0x0#1 ++ a ++ 0x8#15)
  | .vany d a => some (0xc0#9 ++ d ++ 0x0#1 ++ a ++ 0x9#15)
  | .vbal d a => some (0x30#7 ++ d ++ 0x0#1 ++ a ++ 0xa#15)
  | .lmask d => some (0x30#7 ++ d ++ 0xb#20)
  | .qpush a b => some (0x680#12 ++ a ++ b ++ 0x0#10)
  | .qpop d a => some (0x34#7 ++ d ++ a ++ 0x1#15)
  | .qtry d a => some (0x34#7 ++ d ++ a ++ 0x2#15)
  | .qlen d a => some (0x34#7 ++ d ++ a ++ 0x3#15)
  | .wlpush a b => some (0x680#12 ++ a ++ b ++ 0x4#10)
  | .wlpop d => some (0x34#7 ++ d ++ 0x5#21)
  | .rqpush a b => some (0x680#12 ++ a ++ b ++ 0x6#10)
  | .rqpop d => some (0x34#7 ++ d ++ 0x7#20)
  | .msend a b => some (0x680#12 ++ a ++ b ++ 0x8#10)
  | .mrecv d => some (0x34#7 ++ d ++ 0x9#20)
  | .spawn d a b => some (0x35#7 ++ d ++ a ++ b ++ 0x0#10)
  | .join a => some (0x6a0#12 ++ a ++ 0x1#15)
  | .exit => some (0x6a000002#32)
  | .sleep => some (0x6a000003#32)
  | .wake a => some (0x6a0#12 ++ a ++ 0x4#15)
  | .yield => some (0x6a000005#32)
  | .migrate a => some (0x6a0#12 ++ a ++ 0x6#15)
  | .launch d a => some (0x39#7 ++ d ++ a ++ 0x0#15)
  | .gcall off => some (0x6c0#12 ++ off)
  | .gret => some (0x6c100000#32)
  | .bsync g => some (0x6e0000#24 ++ g)
  | .barv g => some (0x6e0001#24 ++ g)
  | .bwait g => some (0x6e0002#24 ++ g)
  | .bquery d g => some (0x37#7 ++ d ++ 0x3#12 ++ g)
  | .wait ld st cp tl => some (0x38#7 ++ ld ++ st ++ cp ++ tl ++ 0x0#9)
  | .pwait a => some (0x38ffff#23 ++ a ++ 0x1#4)
  | .mcfg a c i => some (0x8000#16 ++ a ++ 0x0#5 ++ c ++ i)
  | .msel a c => some (0x8001#16 ++ a ++ 0x0#5 ++ c ++ 0x0#2)
  | .mlds a b c => some (0x8002#16 ++ a ++ b ++ c ++ 0x0#2)
  | .mswp c => some (0x2000c00#26 ++ c ++ 0x0#2)
  | .mma a b c => some (0x8004#16 ++ a ++ b ++ c ++ 0x0#2)
  | .mmas a b c => some (0x8005#16 ++ a ++ b ++ c ++ 0x0#2)
  | .mzero b c => some (0x1000c0#21 ++ b ++ c ++ 0x0#2)
  | .mdrn a b c => some (0x8007#16 ++ a ++ b ++ c ++ 0x0#2)
  | .mdrna a b c => some (0x8008#16 ++ a ++ b ++ c ++ 0x0#2)
  | .mdrno a b c => some (0x8009#16 ++ a ++ b ++ c ++ 0x0#2)
  | .mrdr a b c => some (0x800a#16 ++ a ++ b ++ c ++ 0x0#2)
  | .mwrr a b c => some (0x800b#16 ++ a ++ b ++ c ++ 0x0#2)
  | .mstat a c i => some (0x800c#16 ++ a ++ 0x0#5 ++ c ++ i)
  | .ccopy a b => some (0x8040#16 ++ a ++ b ++ 0x0#7)
  | .cgath a b => some (0x8041#16 ++ a ++ b ++ 0x0#7)
  | .cscat a b => some (0x8042#16 ++ a ++ b ++ 0x0#7)
  | .cstat a i => some (0x8043#16 ++ a ++ 0x0#10 ++ i)
  | .pquery a b i => some (0x8044#16 ++ a ++ b ++ 0x0#5 ++ i)
  | .lquery a b => some (0x8045#16 ++ a ++ b ++ 0x0#6)
  | .ncfg a c i => some (0x8080#16 ++ a ++ 0x0#5 ++ c ++ i)
  | .nld a b c => some (0x8081#16 ++ a ++ b ++ c ++ 0x0#2)
  | .ninj a b => some (0x8082#16 ++ a ++ b ++ 0x0#6)
  | .ntick a c => some (0x8083#16 ++ a ++ 0x0#5 ++ c ++ 0x0#2)
  | .nrd a b c i => some (0x8084#16 ++ a ++ b ++ c ++ i)
  | .nspk a b c => some (0x8085#16 ++ a ++ b ++ c ++ 0x0#2)
  | .tcfg a c i => some (0x80c0#16 ++ a ++ 0x0#5 ++ c ++ i)
  | .tdesc a b c => some (0x80c1#16 ++ a ++ b ++ c ++ 0x0#2)
  | .texp a b c => some (0x80c2#16 ++ a ++ b ++ c ++ 0x0#2)
  | .tback a b c => some (0x80c3#16 ++ a ++ b ++ c ++ 0x0#2)
  | .troot a c => some (0x80c4#16 ++ a ++ 0x0#5 ++ c ++ 0x0#2)
  | .trdn a b c i => some (0x80c5#16 ++ a ++ b ++ c ++ i)
  | .tvl a b c => some (0x80c6#16 ++ a ++ b ++ c ++ 0x0#2)
  | .scfg a b n => some (0x8100#16 ++ a ++ b ++ 0x0#2 ++ n ++ 0x0#2)
  | .son n => some (0x8101000#28 ++ n ++ 0x0#2)
  | .soff n => some (0x8102000#28 ++ n ++ 0x0#2)
  | .hplace a b => some (0x8140#16 ++ a ++ b ++ 0x0#6)
  | .sysrd d r => some (0x60#7 ++ d ++ 0x0#5 ++ r ++ 0x0#3)
  | .syswr a r => some (0xc00#12 ++ a ++ r ++ 0x1#3)
  | .sysset d a r => some (0x60#7 ++ d ++ a ++ r ++ 0x2#3)
  | .sysclr d a r => some (0x60#7 ++ d ++ a ++ r ++ 0x3#3)
  | .feat d a => some (0x60#7 ++ d ++ a ++ 0x4#15)
  | .timer a => some (0xc00#12 ++ a ++ 0x5#15)
  | .svc => some (0xc2000000#32)
  | .brk => some (0xc2000001#32)
  | .rft => some (0xc2000002#32)
  | .wfi => some (0xc2000003#32)
  | .msvw d a b => some (0x62#7 ++ d ++ a ++ b ++ 0x0#10)
  | .mrsw d a b => some (0x62#7 ++ d ++ a ++ b ++ 0x1#10)
  | .msvf d a b => some (0x62#7 ++ d ++ a ++ b ++ 0x2#10)
  | .mrsf d a b => some (0x62#7 ++ d ++ a ++ b ++ 0x3#10)
  | .eloop i n s p off => some (0x7e#7 ++ i ++ n ++ s ++ p ++ off)
  | .subnormalAssistComplete _ => none
  | .loadPerformed _ _ => none
  | .storePerformed _ _ => none
  | .atomicPerformed _ _ => none
  | .timerExpiry _ _ => none
  | .timerTrapTaken _ => none
  | .messageInterruptTrap _ => none
  | .messagePlaced _ => none
  | .mrecvComplete _ _ => none
  | .wakePlaced _ => none
  | .stallLimitExpiry _ => none
  | .queuePushPlace _ => none
  | .queuePopServe _ => none
  | .queuePopComplete _ _ => none
  | .wlpopComplete _ _ => none
  | .rotationBoundary _ _ => none
  | .slotFill _ _ _ => none
  | .loadLevelInterval => none
  | .worklistEntryArrives _ => none
  | .launchQueueWake _ _ => none
  | .launchAccept _ => none
  | .launchDepctrRead _ _ => none
  | .launchPlace _ _ => none
  | .launchComplete _ _ => none
  | .launchedGangStart _ _ => none
  | .grantArrival _ => none
  | .grantKeyDeadline _ _ => none
  | .grantPack _ => none
  | .gangStart _ => none
  | .callerResume _ => none
  | .migrationArrival _ => none
  | .cellarMove _ _ => none
  | .exitNotice _ => none
  | .barrierArrival _ _ => none
  | .csmctlWrite _ _ => none
  | .csmBankSwitchComplete _ _ => none
  | .fbfcmdRetry _ _ => none
  | .fbfcmdAbort _ _ => none
  | .controlWordWrite _ _ => none
  | .syswrAsid _ => none
  | .syswrAstb _ => none
  | .lqcfgWrite _ => none
  | .faultRoutingWrite _ => none
  | .fbfRetryOnInvalidation _ _ => none
  | .fbfEntryFreed _ => none
  | .recordDelivery _ => none
  | .mxeGrant _ _ => none
  | .mxePassComplete _ _ => none
  | .mxePlaneLoadComplete _ _ => none
  | .mxeTileOpComplete _ _ => none
  | .mxeDrainComplete _ _ => none
  | .mdrnoContributionArrival _ _ => none
  | .mxeCommandFail _ _ => none
  | .cpeGrant _ => none
  | .cpeLineWritten _ _ => none
  | .cpeCommandComplete _ _ => none
  | .cpeCommandFail _ _ => none
  | .streamElementRead _ _ => none
  | .neuronModeSwitch _ _ => none
  | .enbCommandExecute _ => none
  | .neuronEventArrival _ => none
  | .ntickArrival _ => none
  | .tickRecvGather _ _ => none
  | .tickStep _ => none
  | .steCommandBegin _ _ => none
  | .steCommandComplete _ _ => none
  | .steCommandFail _ _ => none
  | .rackPage _ _ => none
  | .rackBlockEnd _ => none
  | .gangStop _ => none
  | .switchOutAtT _ => none
  | .saveComplete _ => none
  | .switchInRestart _ => none
  | .gangOffCore _ _ _ => none
  | .hostReplyRead _ => none
  | .gangReturn _ _ => none
  | .smcCreatePartition _ _ _ _ => none
  | .smcDestroyPartition _ _ => none
  | .smcLoadImage _ => none
  | .smcRaiseSecver _ _ => none
  | .smcStop _ => none
  | .smcResume _ _ => none
  | .smcRelease _ => none
  | .smcSwitchOut _ _ _ => none
  | .smcSwitchIn _ _ => none
  | .smcCheckpoint _ => none
  | .smcRestore _ _ => none
  | .smcQuote _ => none
  | .smcReadLog => none
  | .smcGrantPfx _ _ _ _ _ => none
  | .smcWithdrawPfx _ _ _ _ => none
  | .smcSetBudget _ _ _ _ => none
  | .smcHostWindowBase _ _ _ => none
  | .smcInvalidCommand _ => none
  | .powerOn => none
  | .firmwareImageReceived _ => none
  | .dieRelease _ => none
  | .fullServiceStep _ => none
  | .coreRailOvercurrent _ => none
  | .linkFlitReceive _ _ => none
  | .linkReplayRequest _ _ => none
  | .linkDown _ => none
  | .hostAccess _ => none
  | .hostSnoopTimeout => none
  | .pfxRemoteAccess _ _ _ => none
  | .uncorrectableError _ _ _ _ => none
  | .correctableError => none
  | .illegalInstruction => none
  | .resumeRestart _ => none

/-- What the decoder reads from an instruction of `nbits` bits `w`: its four bytes as memory holds them. -/
def decodeTableWord (nbits w : Nat) : Option Instr :=
  if nbits ≤ 32 then
    match decodeBytes (bytesOfWord (BitVec.ofNat 32 w)) with
    | .ok (i, _) => some i
    | .error _ => none
  else none

end Sys2Proof
end

