-- ==== Sys2Proof/Machine/Place.lean ====
section
/-! DEFINITION. Where things are: device coordinates (R16 to R24), thread positions and names, partitions, the on-chip
window (R233), and the accessors of clusters, cores, threads and partitions. -/

namespace Sys2Proof.Machine

/-- The die of a cluster (R17). -/
def dieOf (cl : Nat) : Nat := cl / 96
/-- Device column of a cluster, 0 to 23 (R17). -/
def colOf (cl : Nat) : Nat := 12 * (dieOf cl % 2) + cl % 12
/-- Device row of a cluster, 0 to 15 (R17). -/
def rowOf (cl : Nat) : Nat := 8 * (dieOf cl / 2) + cl % 96 / 12
/-- The cluster at device coordinates (R17). -/
def clusterAt (x y : Nat) : Nat := (2 * (y / 8) + x / 12) * 96 + y % 8 * 12 + x % 12
/-- The half-die of a cluster (R18). -/
def halfDieOf (cl : Nat) : Nat := 2 * dieOf cl + (if cl % 12 < 6 then 0 else 1)

/-- The key of a thread position: cluster, core, THREADNO. -/
def keyOf (cl core thr : Nat) : Nat := (cl * 20 + core) * 256 + thr
def keyCl (k : Nat) : Nat := k / 256 / 20
def keyCore (k : Nat) : Nat := k / 256 % 20
def keyThr (k : Nat) : Nat := k % 256

/-- A core number is an SC's (R23). -/
def isSC (core : Nat) : Bool := core < 16

/-- The barrel or gang slot of a THREADNO (R24). -/
def slotOf (core thr : Nat) : Nat := if isSC core then thr else thr / 32
/-- The lane of a THREADNO, 0 on an SC (R24). -/
def laneOf (core thr : Nat) : Nat := if isSC core then 0 else thr % 32
/-- The THREADNO of a lane of a slot (R24). -/
def thrOf (core slot lane : Nat) : Nat := if isSC core then slot else slot * 32 + lane

/-- The thread name word of a position (Table 8.5). -/
def nameOf (k : Nat) : Nat := keyCl k * 8192 + keyCore k * 256 + keyThr k

/-- The position a thread name word names, with whether every field is in range (R269). -/
def nameKey (w : Word) : Option Nat :=
  let cl := bitsOf 13 9 w
  let core := bitsOf 8 5 w
  let thr := bitsOf 0 8 w
  if bitsOf 22 42 w ≠ 0 ∨ cl ≥ Config.clusters ∨ core ≥ Config.cores ∨ (isSC core ∧ thr ≥ 16) then none
  else some (keyOf cl core thr)

/-- Clusters of a half-die mask, ascending. -/
def clustersIn (mask : BitVec 8) : List Nat := (List.range Config.clusters).filter fun k => mask.getLsbD (halfDieOf k)

def State.thread (s : State) (k : Nat) : Option Thread := mget s.threads k
def State.putThread (s : State) (k : Nat) (t : Thread) : State := { s with threads := mset s.threads k t }
def State.dropThread (s : State) (k : Nat) : State := { s with threads := mdel s.threads k }

/-- The cluster's state; one nothing has touched stands as at partition start. -/
def State.cluster (s : State) (cl : Nat) : Cluster := (mget s.clusters cl).getD Cluster.reset
def State.putCluster (s : State) (cl : Nat) (c : Cluster) : State := { s with clusters := mset s.clusters cl c }
def State.modCluster (s : State) (cl : Nat) (f : Cluster → Cluster) : State := s.putCluster cl (f (s.cluster cl))

def coreIn (c : Cluster) (i : Nat) : Core := (mget c.cores i).getD Core.reset
def State.core (s : State) (cl i : Nat) : Core := coreIn (s.cluster cl) i
def State.modCore (s : State) (cl i : Nat) (f : Core → Core) : State :=
  s.modCluster cl fun c => { c with cores := mset c.cores i (f (coreIn c i)) }

def State.part (s : State) (p : Nat) : Option Partition := mget s.parts p
def State.modPart (s : State) (p : Nat) (f : Partition → Partition) : State :=
  match mget s.parts p with
  | none => s
  | some x => { s with parts := mset s.parts p (f x) }

/-- The partition that owns a cluster, with its number (R374). -/
def State.partOf (s : State) (cl : Nat) : Option (Nat × Partition) :=
  s.parts.find? fun e => e.2.halfDies.getLsbD (halfDieOf cl)

/-- The partition's number, for records; 0 where no partition owns the cluster. -/
def State.partNo (s : State) (cl : Nat) : Nat := ((s.partOf cl).map (·.1)).getD 0

/-- The mailbox of a position (R268). -/
def State.mailbox (s : State) (k : Nat) : List (Word × Nat × Nat) := (mget s.mail k).getD []

/-- The link of a port: 0 GLK, 1 to 16 PFX (R440). -/
def State.link (s : State) (port : Nat) : Link := (mget s.links port).getD Link.reset

/-- Base of the on-chip window (R233). -/
def windowBase : Nat := 0xFF000000000000
/-- First physical key of another device's memory: `remoteBase + physical address` (R378). -/
def remoteBase : Nat := 2 ^ 60
/-- First local physical address of host memory (R450). -/
def hostBase0 : Nat := 0x100000000000

/-- First key of the host's own memory: `hostSpace + host physical address` (R450). -/
def hostSpace : Nat := 2 ^ 58

/-- The host physical base of a granule of host memory (R450): until command 0x0B assigns one, the granule's own local address.
(DESIGN CHOICE, log 80: unsafe.) -/
def hostBaseOf (s : State) (g : Nat) : Nat := (mget s.hostBase g).getD (g * 2 ^ 30)

/-- The key of the byte at a local physical address: host memory lies at its granule's host physical base (R450). -/
def homeKey (s : State) (a : Nat) : Nat :=
  if hostBase0 ≤ a && a < 2 ^ 45 then hostSpace + hostBaseOf s (a / 2 ^ 30) + a % 2 ^ 30 else a

/-- Where accumulator memory lies among the keys of bad storage: `amSpace + AM key` (R165, R438). -/
def amSpace : Nat := 2 ^ 59

/-- A key of host memory. -/
def hostKey (key : Nat) : Bool := hostSpace ≤ key && key < remoteBase

/-- What a window address names (R233). -/
inductive Spot where
  /-- byte `off` of the CSM scratch space of a cluster -/
  | scratch (cl off : Nat)
  /-- byte `off` of the LM of a core -/
  | lm (cl core off : Nat)
  /-- byte of a control word: 0 CSMCTL, 1 TQWGT, 2 FBFCMD, 3 BUDCFG -/
  | ctl (cl word byte : Nat)
  deriving DecidableEq, Repr

/-- Size of a core's LM (R200). -/
def lmSize (core : Nat) : Nat := if isSC core then 0x8000 else 0x20000

/-- The layout of the on-chip window (R233, R234). -/
def spotOf (va : Nat) : Option Spot :=
  if va < windowBase then none
  else
    let o := va - windowBase
    let cl := o / 0x1000000
    let off := o % 0x1000000
    if cl ≥ Config.clusters then none
    else if off < 0x200000 then some (.scratch cl off)
    else if 0x800000 ≤ off ∧ off < 0x800000 + 20 * 0x40000 then
      let core := (off - 0x800000) / 0x40000
      let b := (off - 0x800000) % 0x40000
      if b < lmSize core then some (.lm cl core b) else none
    else if 0xF00000 ≤ off ∧ off < 0xF00020 then some (.ctl cl ((off - 0xF00000) / 8) (off % 8))
    else none

/-- The cluster a window address names. -/
def spotCl : Spot → Nat
  | .scratch cl _ => cl
  | .lm cl _ _ => cl
  | .ctl cl _ _ => cl

/-- The window address of byte `off` of a core's LM. -/
def lmAddr (cl core off : Nat) : Nat := windowBase + cl * 0x1000000 + 0x800000 + core * 0x40000 + off
/-- The window address of byte `off` of a cluster's scratch. -/
def scratchAddr (cl off : Nat) : Nat := windowBase + cl * 0x1000000 + off

/-- Mode of a CSM bank: 0 cache, 1 scratch, 2 FIFO (Table 7.2). -/
def bankMode (c : Cluster) (b : Nat) : Nat := bitsOf (2 * b) 2 c.csmctl
/-- A bank is switching mode (R207). -/
def bankBusy (c : Cluster) (b : Nat) : Bool := c.switching.any fun e => e.1 == b

/-- CSMCTL as a load returns it: MODE and BUSY (Table 7.2). -/
def csmctlWord (c : Cluster) : Word :=
  (List.range 16).foldl (fun w b => if bankBusy c b then putBit w (32 + b) true else w) (c.csmctl &&& maskOf 0 32)

/-- The value a load of a control word returns (R205, R284, R421, R462). -/
def ctlValue (c : Cluster) : Nat → Word
  | 0 => csmctlWord c
  | 1 => c.tqwgt
  | 2 => 0
  | _ => c.budcfg

/-- The state of a scratch line (R208), by its first byte's key: none when present. -/
def State.presenceOf (s : State) (line : Nat) : Option Presence :=
  match spotOf line with
  | some (.scratch cl off) => mget (s.cluster cl).presence (off / 64)
  | _ => none

/-- The service level: 0, 1 early, 2 full (R459). -/
def serviceLevel : Stage → Nat
  | .early => 1
  | .full => 2
  | _ => 0

end Sys2Proof.Machine
end

