-- ==== Sys2Proof/Machine/Mesh.lean ====
section
/-! DEFINITION. The mesh and the shared slices (R16 to R22, R375): channels, routers and their links, the route of a message, and
where a slice lies. -/

namespace Sys2Proof.Machine

/-- The virtual channels every link and skip channel carries (R19). -/
inductive Channel where
  | request
  | response
  | migration
  | event
  | trap
  deriving DecidableEq, Repr

/-- The channel a message travels on: contexts on the migration channel, events on the event channel, what a request comes back with on the response
channel, and every other one, the arrivals of ticks, barriers, moved work entries and calls among them, on the request channel (R19, R262, R269, R300,
R345). (DESIGN CHOICE, log 101: unsafe.) -/
def channelOf : Flight → Channel
  | .migration _ _ _ => .migration
  | .event _ _ _ => .event
  | .results _ _ _ _ _ => .response
  | _ => .request

/-- Slices of the device, 24 to a die (R16, R21). -/
def sliceCount : Nat := 96
/-- The die of a slice, its edge (0 north, 1 south) and its local column (R21). -/
def sliceDie (n : Nat) : Nat := n / 24
def sliceEdge (n : Nat) : Nat := n % 24 / 12
def sliceColumn (n : Nat) : Nat := n % 12
/-- The half-die of a slice: that of its column (R18). -/
def sliceHalf (n : Nat) : Nat := 2 * sliceDie n + (if sliceColumn n < 6 then 0 else 1)
/-- The router a slice is attached to, by its cluster: local row 0 at the north edge, 7 at the south (R21). -/
def sliceRouter (n : Nat) : Nat := sliceDie n * 96 + sliceEdge n * 84 + sliceColumn n

/-- The slices of a half-die mask (R18, R374). -/
def slicesIn (mask : BitVec 8) : List Nat := (List.range sliceCount).filter fun n => mask.getLsbD (sliceHalf n)

/-- The slice that is home to a page of a partition (R21, R375): one of its own, which the RKE chooses. (Free, log 35: safe.) -/
def homeSliceOf (p : Partition) (page : Nat) : Nat :=
  let own := slicesIn p.halfDies
  own.getD (Config.homeSlice page % own.length) 0

/-- Router crossings, and die crossings among them. -/
structure Crossings where
  routers : Nat
  dies : Nat
  deriving DecidableEq, Repr

/-- Steps of a route along its row from column x to column y, each by a skip channel while four columns or more remain (R20): the
crossings, and those that span the boundary between columns 11 and 12. -/
def rowLeg : Nat → Nat → Nat → Crossings
  | 0, _, _ => { routers := 0, dies := 0 }
  | n + 1, x, y =>
    if x = y then { routers := 0, dies := 0 }
    else
      let d := if x < y then y - x else x - y
      let step := if 4 ≤ d then 4 else 1
      let next := if x < y then x + step else x - step
      let rest := rowLeg n next y
      { routers := rest.routers + 1, dies := rest.dies + (if x / 12 = next / 12 then 0 else 1) }

/-- The crossings of a route from router to router, by their clusters: first along the row, then along the column (R20). -/
def routeOf (a b : Nat) : Crossings :=
  let row := rowLeg 24 (colOf a) (colOf b)
  let dy := if rowOf a < rowOf b then rowOf b - rowOf a else rowOf a - rowOf b
  { routers := row.routers + dy, dies := row.dies + (if rowOf a / 8 = rowOf b / 8 then 0 else 1) }

/-- The crossings of a request from a cluster to a slice: the passage from router to slice is one more (R21). -/
def routeToSlice (cl n : Nat) : Crossings :=
  let r := routeOf cl (sliceRouter n)
  { r with routers := r.routers + 1 }

/-- The uncontended latency of a slice hit, in cyc (R22). -/
def sliceHit (cl n : Nat) : Nat := 36 + (routeToSlice cl n).routers + 8 * (routeToSlice cl n).dies

end Sys2Proof.Machine
end

