-- ==== Sys2Proof/Machine/Translate.lean ====
section
/-! DEFINITION. Address translation (R377, R381 to R385, R390), the checks of a data access before any byte moves (R206,
R209, R212, R229, R234), and the refusals of other devices and of the host link (R378, R450). -/

namespace Sys2Proof.Machine

/-- What an access does. -/
inductive Access where
  | read
  | write
  | fetch
  deriving DecidableEq, Repr

/-- The result of resolving an address: the key of its byte and the page-table lines of the walk, or the cause, REASON and
lines of the fault. -/
inductive Xl where
  | ok (key : Nat) (lines : List Nat)
  /-- the fault; of cause 0x15, bad data met by the walk, at the key in the place of the lines (R438) -/
  | bad (cause reason : Nat) (lines : List Nat)
  deriving DecidableEq, Repr

/-- A physical address of this device in a granule of the partition, as a local address (R376, R377). -/
def ownedLocal (s : State) (p : Partition) (pa : Nat) : Option Nat :=
  if pa / 2 ^ 45 = s.devno.toNat ∧ p.granules.contains (pa % 2 ^ 45 / 2 ^ 30) then some (pa % 2 ^ 45) else none

/-- The first byte among keys that bad storage holds, with its storage. -/
def badAmong (s : State) (keys : List Nat) : Option (Nat × Nat) := s.bad.find? fun b => keys.contains b.1

/-- Host memory whose link refuses its address: above 52 bits over GLK-2 (R450). -/
def hostRefused (s : State) (key : Nat) : Bool := hostKey key && (s.link 0).up && !(s.link 0).gen3 && 2 ^ 52 ≤ key - hostSpace

/-- What keeps a walk from the table bytes at a local address: host memory behind a link that is down or refuses the address (R440, R450),
or bad data (R438). -/
def tableStop (s : State) (a n : Nat) : Option Xl :=
  let key := homeKey s a
  if hostKey key && !(s.link 0).up then some (.bad 0x15 0 [key])
  else if hostRefused s key then some (.bad 4 0 [])
  else (badAmong s (span key n)).map fun b => .bad 0x15 0 [b.1]

/-- A page-table or address-space word at a local address. -/
def tableWord (s : State) (a : Nat) : Nat := leNat (memBytes s.mem (span (homeKey s a) 8))

/-- A leaf has a reserved bit, a forbidden pair or a misaligned OA (R384); `level` is its level. -/
def leafBad (level e : Nat) (remote : Bool) : Bool :=
  level == 3 || (natBit 2 e && natBit 3 e) || natField 13 (3 + 10 * level) e != 0 || (natBit 3 e && remote)

/-- The output address of a good leaf for an address: every granule it maps must be the partition's (R377, R382). -/
def leafOut (s : State) (p : Partition) (level e va : Nat) : Option Nat :=
  let size := 2 ^ (16 + 10 * level)
  let oa := natField 13 43 e * 2 ^ 13
  if oa / 2 ^ 45 ≠ s.devno.toNat then some (remoteBase + oa + va % size)
  else if (List.range (if level = 2 then 64 else 1)).all fun i => p.granules.contains (oa % 2 ^ 45 / 2 ^ 30 + i) then
    some (oa % 2 ^ 45 + va % size)
  else none

/-- The access is allowed by the leaf and, for a fetch, by the frame's code state (R385, R390); else its cause. -/
def leafCause (s : State) (sup : Bool) (acc : Access) (e key : Nat) : Nat :=
  let open_ := !natBit 4 e || sup
  match acc with
  | .read => if open_ then 0 else 4
  | .write => if natBit 2 e && open_ then 0 else 4
  | .fetch =>
    if natBit 3 e && open_ then
      match mget s.frames (key / 65536) with
      | none => 5
      | some f => if f.revoked then 0x0C else 0
    else 5

/-- The number under which the code-frame table's line of a frame is recorded beside page-table lines (R388, R418). -/
def frameLine (frame : Nat) : Nat := 2 ^ 60 + frame

/-- The walk from a table at `level` down (R382, R384); `lines` are the page-table lines read so far. -/
def walk (s : State) (p : Partition) (sup : Bool) (acc : Access) (va : Nat) : Nat → Nat → List Nat → Xl
  | level, table, lines =>
    let a := table + 8 * natField (16 + 10 * level) 10 va
    let e := tableWord s a
    let lines := lines ++ [homeKey s a / 64]
    if let some x := tableStop s a 8 then x
    else if !natBit 0 e then .bad 3 0 lines
    else if natField 56 8 e ≠ 0 ∨ natField 6 7 e ≠ 0 then .bad 4 0 lines
    else if natBit 1 e then
      if leafBad level e (natField 45 11 e != s.devno.toNat) then .bad 4 0 lines
      else
        match leafOut s p level e va with
        | none => .bad 4 0 lines
        | some key =>
          match leafCause s sup acc e key with
          | 0 => .ok (homeKey s key) lines
          | c => .bad c 0 (if c = 5 then lines ++ [frameLine (key / 65536)] else lines)
    else if natField 2 4 e ≠ 0 then .bad 4 0 lines
    else
      match level, ownedLocal s p (natField 13 43 e * 2 ^ 13) with
      | n + 1, some next => walk s p sup acc va n next lines
      | _, _ => .bad 4 0 lines

/-- The address-space table entry of an ASID and the walk from its root (R381). -/
def translate (s : State) (p : Partition) (asid : BitVec 16) (sup : Bool) (acc : Access) (va : Nat) : Xl :=
  match ownedLocal s p (bitsOf 20 36 p.astb * 2 ^ 20 + 16 * asid.toNat) with
  | none => .bad 4 0 []
  | some a =>
    let lo := tableWord s a
    let lines := [homeKey s a / 64]
    if let some x := tableStop s a 16 then x
    else if !natBit 0 lo then .bad 3 1 lines
    else if tableWord s (a + 8) ≠ 0 ∨ natField 56 8 lo ≠ 0 ∨ natField 1 12 lo ≠ 0 then .bad 4 0 lines
    else
      match ownedLocal s p (natField 13 43 lo * 2 ^ 13) with
      | none => .bad 4 0 lines
      | some root => walk s p sup acc va 3 root lines

/-- The key of the byte an effective address names (steps 1 to 3 of R234): a window address names itself. A fetch from
the window takes the protection fault. -/
def resolve (s : State) (p : Partition) (asid : BitVec 16) (sup : Bool) (acc : Access) (va : Word) : Xl :=
  if bitsOf 56 8 va ≠ 0 then .bad 4 0 []
  else if windowBase ≤ va.toNat then
    match acc, spotOf va.toNat with
    | .fetch, _ => .bad 4 0 []
    | _, none => .bad 4 0 []
    | _, some sp => if p.halfDies.getLsbD (halfDieOf (spotCl sp)) then .ok va.toNat [] else .bad 4 0 []
  else translate s p asid sup acc va.toNat

/-- The PFX port of a device number, 1 to 16: the SMC's route table, which no command of Table 14.3 writes (R454).
(Free, log 44: safe.) -/
def routePort (dev : Nat) : Nat := Config.route dev % 16 + 1

/-- The port by which an access leaves the device: 0 GLK, else the PFX port of the route table (R450, R454). -/
def portOf (key : Nat) : Option Nat :=
  if remoteBase ≤ key then some (routePort ((key - remoteBase) / 2 ^ 45)) else if hostKey key then some 0 else none

/-- An access waits on a link that is down (R440). (DEDUCED, log 46: unsafe.) -/
def onDownLink (s : State) (key : Nat) : Bool := (portOf key).any fun p => !(s.link p).up

/-- Where an access of another device or of host memory is refused by its target or its link (R378, R450).
(DESIGN CHOICE, log 66: safe.) -/
def farRefused (s : State) (part key : Nat) (write : Bool) : Bool :=
  if onDownLink s key then false
  else if remoteBase ≤ key then !Config.remoteGrant s.free part (key - remoteBase) write
  else hostRefused s key

/-- An atomic operation of Table 3.13 that the link to host memory does not carry: GLK-2 carries `aadd`, `aswap` and
`acas` alone (Table 14.1); operations are numbered by fn[9:5]. -/
def farNoAtomic (s : State) (key op : Nat) : Bool :=
  hostKey key && !(s.link 0).gen3 && !(op == 0 || op == 1 || op == 16 || op == 17 || op == 18 || op == 19)

/-- The outcome of checking a data access (R234 and the rules it calls on). -/
inductive Check where
  /-- the key of every byte, in order, and the page-table lines of their walks -/
  | ok (addrs lines : List Nat)
  /-- a trap at the instruction: cause and TVAL; of cause 0x15, what waits on a link that is down or meets bad data, at a key (R438, R440) -/
  | trap (cause : Nat) (value : Word)
  /-- a replayable fault: cause, REASON, the address and the lines of the walk -/
  | fault (cause reason : Nat) (va : Word) (lines : List Nat)
  | park (why : ParkWhy)
  deriving DecidableEq, Repr

/-- The first byte of an access of `n` bytes past the edge it crosses: a page, an LM, a bank or the control words. -/
def edgeOf (va : Word) (n : Nat) : Word :=
  let e := (va + word (n - 1)) &&& ~~~ (0x7FFF : Word)
  if va.toNat < e.toNat then e else (va + word (n - 1)) &&& ~~~ (31 : Word)

/-- The keys of `n` bytes from `va`, resolved through the pages of the first and of the last byte (step 4 of R234).
(DEDUCED, log 48: unsafe.) -/
def byteKeys (s : State) (p : Partition) (asid : BitVec 16) (sup : Bool) (acc : Access) (va : Word) (n : Nat) : Check :=
  let last := va + word (n - 1)
  let edge := edgeOf va n
  match resolve s p asid sup acc va with
  | .bad 4 _ _ => .trap 4 va
  | .bad 0x0C _ _ => .trap 0x0C va
  | .bad 0x15 _ l => .trap 0x15 (word (l.headD 0))
  | .bad c r l => .fault c r va l
  | .ok k1 l1 =>
    match resolve s p asid sup acc last with
    | .bad 4 _ _ => .trap 4 edge
    | .bad 0x0C _ _ => .trap 0x0C edge
    | .bad 0x15 _ l => .trap 0x15 (word (l.headD 0))
    | .bad c r l => .fault c r edge l
    | .ok k2 l2 =>
      .ok ((List.range n).map fun i =>
        if (va.toNat + i) / 65536 = va.toNat / 65536 then k1 + i else k2 + i - (n - 1)) (dedup (l1 ++ l2))

/-- What a window byte asks of a thread's access: a bank in scratch mode, the rule of its control word, no write of the
identity words (R61, R205, R206, R207, R284, R421, R462). -/
def spotCheck (s : State) (eng sup : Bool) (acc : Access) (n : Nat) (va : Word) (key : Nat) : Option Check :=
  match spotOf key with
  | none => none
  | some (.scratch cl off) =>
    let c := s.cluster cl
    let b := off / 0x20000
    if bankBusy c b then some (.park (.bank cl b))
    else if bankMode c b ≠ 1 then some (.trap 4 (word key))
    else none
  | some (.lm _ _ off) => if acc = .write ∧ 0x7C0 ≤ off ∧ off < 0x800 then some (.trap 4 (word key)) else none
  | some (.ctl _ w _) =>
    if eng then some (.trap 4 (word key))
    else if acc = .write ∧ ¬ (n = 8 ∧ sup ∧ w ≠ 3 ∧ bitsOf 0 3 va = 0) then some (.trap 4 (word key)) else none

/-- The lines, by number, of a list of byte keys. -/
def linesOf (addrs : List Nat) : List Nat := dedup (addrs.map (· / 64))

/-- A write to a line of this device that the host holds as a sharer waits for an answer of the host's, which a GLK that is down never brings
(R440, R452). -/
def snoopDown (s : State) (addrs : List Nat) : Bool := !(s.link 0).up && (linesOf addrs).any s.hostShares.contains

/-- What an access of some bytes waits for at a link that is down: its first byte or its last lies beyond one, or it writes a line that the
host shares (R440, R452). -/
def linkHeld (s : State) (write : Bool) (addrs : List Nat) : Option Nat :=
  ((addrs.take 1 ++ addrs.drop (addrs.length - 1)).find? (onDownLink s)).orElse fun _ =>
    if write && snoopDown s addrs then some (addrs.headD 0) else none

/-- The address of the 8-byte word of an access, counted from its start, that holds the first byte `bad` marks: that of the
access itself when it is no longer than a word (R413, R446). -/
def failedWord (va : Word) (addrs : List Nat) (bad : Nat → Bool) : Word :=
  va + word ((addrs.findIdx? bad).getD 0 / 8 * 8)

/-- Presence of the scratch lines an access touches: a failed line traps, an absent one parks (R209, R446). -/
def presenceCheck (s : State) (va : Word) (addrs : List Nat) : Option Check :=
  let lines := linesOf addrs
  match lines.find? fun l => s.presenceOf (l * 64) == some .failed with
  | some l => some (.trap 7 (failedWord va addrs fun a => a / 64 == l))
  | none => (lines.find? fun l => (s.presenceOf (l * 64)).isSome).map fun l => .park (.presence (l * 64))

/-- A frame lies in a page that the RKE blocks (R212). -/
def racked (s : State) (f : Nat) : Bool := s.racking.any fun e => e.1 ≤ f && f < e.1 + e.2.2

/-- A frame of a byte range that lies in a blocked page (R212). -/
def rackedFrame (s : State) (addrs : List Nat) : Option Nat := (dedup (addrs.map (· / 65536))).find? (racked s)

/-- A line lies in a registered range of the cluster's RLT that the access meets (R229, Table 7.5). -/
def lineLocked (c : Cluster) (acc : Access) (l : Nat) : Bool :=
  c.rlt.any fun e => e.line ≤ l && l < e.line + e.lines && (e.dest || acc == .write)

/-- The access meets a registered range of its cluster's RLT (R229, Table 7.5). -/
def rangeConflict (c : Cluster) (acc : Access) (addrs : List Nat) : Bool := (linesOf addrs).any (lineLocked c acc)

/-- The checks of an access of `n` bytes at `va` by an agent of partition `p` before presence and range locks: address and permission
(R234), bank and control word, far refusal, racking block. An engine's access (`eng`) is refused at a control word. -/
def checkPlace (s : State) (eng : Bool) (part : Nat) (p : Partition) (asid : BitVec 16) (sup : Bool) (acc : Access) (va : Word)
    (n : Nat) : Check :=
  match byteKeys s p asid sup acc va n with
  | .ok addrs lines =>
    let first := addrs.headD 0
    let last := addrs.getLastD 0
    match (addrs.filter fun a => a = first || a = last || a % 64 = 0).findSome? (spotCheck s eng sup acc n va) with
    | some c => c
    | none =>
      if acc = .read ∧ farRefused s part first false then .trap 4 va
      else if acc = .read ∧ farRefused s part last false then .trap 4 (edgeOf va n)
      else
        match rackedFrame s addrs with
        | some f => .park (.racking f)
        | none => .ok addrs lines
  | c => c

/-- Every check of an access, made before any byte moves, by a thread executing in cluster `cl` or by an engine. A thread's meets the
presence of scratch lines (R209) and the range locks of its cluster (R229); of an engine's, a read meets presence (R184, R185), and no
access meets a range lock (Table 7.5). -/
def checkAccess (s : State) (eng : Bool) (cl part : Nat) (p : Partition) (asid : BitVec 16) (sup : Bool) (acc : Access) (va : Word)
    (n : Nat) : Check :=
  match checkPlace s eng part p asid sup acc va n with
  | .ok addrs lines =>
    match (if eng && acc != .read then none else presenceCheck s va addrs) with
    | some c => c
    | none => if !eng && rangeConflict (s.cluster cl) acc addrs then
        .trap 6 (failedWord va addrs fun a => lineLocked (s.cluster cl) acc (a / 64))
      else .ok addrs lines
  | c => c

/-- The checks of the accesses that `spawn`, `join` and `launch` make themselves, whose traps Table 10.11 lists: an absent line is
waited for (R209), a failed line and a range lock raise nothing (R340). -/
def checkCounter (s : State) (part : Nat) (p : Partition) (asid : BitVec 16) (sup : Bool) (acc : Access) (va : Word) (n : Nat) : Check :=
  match checkPlace s false part p asid sup acc va n with
  | .ok addrs lines =>
    match presenceCheck s va addrs with
    | some (.park w) => .park w
    | _ => .ok addrs lines
  | c => c

end Sys2Proof.Machine
end

