-- ==== Sys2Proof/Machine/Ops.lean ====
section
/-! DEFINITION. The named operations every meaning is made of: registers, memory, records, stops, taking a trap and
returning from one, parking, retiring, and the outstanding operations of a thread. -/

namespace Sys2Proof.Machine

/-- What running an instruction or an event answers. -/
abbrev Out := Host.Outcome State Fault Refusal

/-! ### Registers (R39 to R42) -/

/-- w[a]: w0 reads zero. -/
def readW (t : Thread) (a : Reg) : Word := if a = 0 then 0 else t.w[a.toNat]

/-- w[d] := v: a write to w0 is discarded; storage that was bad is rewritten (R438). -/
def setW (t : Thread) (d : Reg) (v : Word) : Thread :=
  if d = 0 then t else { t with w := t.w.set d.toNat v, badRegs := t.badRegs.filter (· != .w d) }

/-- The bits f[a] holds. -/
def readF (t : Thread) (a : Reg) : Word := t.f[a.toNat]

/-- f[d] := v, the register alone. -/
def setF (t : Thread) (d : Reg) (v : Word) : Thread := { t with f := t.f.set d.toNat v, badRegs := t.badRegs.filter (· != .f d) }

/-- p[n]: p0 reads true. -/
def readP (t : Thread) (n : PReg) : Bool := if n = 0 then true else t.p[n.toNat]

/-- p[d] := v: a write to p0 is discarded. -/
def setP (t : Thread) (d : PReg) (v : Bool) : Thread := if d = 0 then t else { t with p := t.p.set d.toNat v }

/-- A predicate source: bits [2:0] the number, bit [3] the negate bit (R32). -/
def readPS (t : Thread) (a : PSrc) : Bool := (readP t (a.extractLsb' 0 3)) != a.getLsbD 3

/-- Write of a register by name, without its stream rule. -/
def setReg (t : Thread) (r : RegRef) (v : Word) : Thread :=
  match r with
  | .w d => setW t d v
  | .f d => setF t d v
  | .p n => setP t n (v != 0)

/-! ### The issuing set (R136) -/

/-- The position keys of the issuing set, in ascending lane order. -/
def State.curKeys (s : State) : List Nat :=
  s.cur.lanes.map fun l => keyOf s.cur.cl s.cur.core (thrOf s.cur.core s.cur.slot l)

/-- `f` in each lane of the issuing set that holds a thread, in ascending lane order (R136). -/
def State.forLanes (s : State) (f : State → Nat → Thread → State) : State :=
  s.curKeys.foldl (fun s k => match s.thread k with
    | some t => f s k t
    | none => s) s

/-- An instruction that acts on each lane by itself: `f` in each lane. (DESIGN CHOICE, log 9: unsafe.) -/
def State.eachLane (s : State) (f : State → Nat → Thread → State) : Out := .next (s.forLanes f)

/-- The threads of the issuing set. -/
def State.curThreads (s : State) : List (Nat × Thread) :=
  s.curKeys.filterMap fun k => (s.thread k).map fun t => (k, t)

/-- Bytes of the instruction in hand: a prefixed pair is eight (R55). -/
def State.width (s : State) : Word := if s.cur.pfx.isSome then 8 else 4

/-- The issuing core is a GC. -/
def State.onGC (s : State) : Bool := !isSC s.cur.core

/-! ### The constant window's identity words (R60, R467) -/

/-- The identity words of a core for a launch (Table 2.8). -/
def identityWords (s : State) (cl core p serial : Nat) : List Nat :=
  [s.devno.toNat, cl, core, p, serial, Config.lanes, Config.tileK, Config.tileN]

/-- A byte of the identity words of a core whose window no launch has filled (R467): they are the core's, of launch serial 0, and no
write reaches them (R61). (DEDUCED, log 81: unsafe.) -/
def identityByte (s : State) (cl core off : Nat) : Option Byte :=
  if 0x7C0 ≤ off && off < 0x800 && (s.core cl core).image.isNone then
    some ((leBytes 8 ((identityWords s cl core (s.partNo cl) 0).getD ((off - 0x7C0) / 8) 0)).getD (off % 8) 0)
  else none

/-! ### Memory -/

/-- The byte a key holds at its coherence point: another device's is not the model's to know (R378). -/
def State.byteAt (s : State) (a : Nat) : Byte :=
  if remoteBase ≤ a then Config.remoteByte s.free (a - remoteBase)
  else
    match spotOf a with
    | some (.ctl cl w byte) => (leBytes 8 (ctlValue (s.cluster cl) w).toNat).getD byte 0
    | some (.lm cl core off) => (identityByte s cl core off).getD (memRead s.mem a)
    | _ => memRead s.mem a

/-- The bytes at keys, as a number (R1). -/
def State.numAt (s : State) (addrs : List Nat) : Nat := leNat (addrs.map s.byteAt)

/-- Every FBF entry that recorded one of the lines sees it invalidated (R419). -/
def pokeLines (s : State) (lines : List Nat) : State :=
  { s with clusters := s.clusters.map fun e =>
      (e.1, { e.2 with fbf := e.2.fbf.map fun x => { x with poked := x.poked || x.lines.any lines.contains } }) }

/-- Frames in the list become plain (R388). -/
def plainFrames (s : State) (frames : List Nat) : State :=
  { s with frames := s.frames.filter fun e => !frames.contains e.1 }

/-- A write of bytes of this device and of host memory performed at their keys: code frames turn plain first (R388), the bytes change
and no other (R201), invalidations reach the fault buffers (R211, R419) and the host (R452), and bad storage that is rewritten is good
again (R438). -/
def State.writeCells (s : State) (cells : List (Nat × Byte)) : State :=
  let near := cells.filter fun c => c.1 < remoteBase
  let phys := near.filter fun c => c.1 < 2 ^ 45 || hostSpace ≤ c.1
  let frames := (s.frames.filter fun f => phys.any fun c => c.1 / 65536 == homeKey s (f.1 * 65536) / 65536).map (·.1)
  let lines := dedup (phys.map fun c => c.1 / 64)
  let s1 := pokeLines (plainFrames s frames) (lines ++ frames.map frameLine)
  { s1 with
    mem := memWriteAll s1.mem near
    dirty := (lines.map (· * 64)).foldl insertRising s1.dirty
    hostShares := s1.hostShares.filter fun l => !lines.contains l
    bad := s1.bad.filter fun b => !near.any fun c => c.1 == b.1 }

/-- The bytes of a write that lie in another device, as runs of adjacent bytes: first physical address and bytes. -/
def farRuns : List (Nat × Byte) → List (Nat × List Byte)
  | [] => []
  | (a, b) :: rest =>
    if a < remoteBase then farRuns rest
    else match farRuns rest with
      | (x, bs) :: more => if x = a - remoteBase + 1 then (a - remoteBase, b :: bs) :: more else (a - remoteBase, [b]) :: (x, bs) :: more
      | [] => [(a - remoteBase, [b])]

/-- Requests leave for other devices, tagged with the partition that makes them, each by its device's port (R378, R454). -/
def State.sendFar (s : State) (part : Nat) (runs : List (Nat × List Byte)) (atomic : Option (Nat × Word × Word)) : State :=
  { s with pfxOut := s.pfxOut ++ runs.map fun (r : Nat × List Byte) =>
      { part := part, port := routePort (r.1 / 2 ^ 45), addr := r.1, bytes := r.2, atomic := atomic } }

/-- The address of a key, as a record gives it: of another device, of AM, or of host memory. -/
def farAddr (key : Nat) : Word :=
  word (if remoteBase ≤ key then key - remoteBase else if amSpace ≤ key then key - amSpace else if hostSpace ≤ key then key - hostSpace else key)

/-! ### Messages on the links (R440, R441, R449) -/

/-- The header of a flit (Table 14.2). -/
def flitHeader (f : Flit) : Word :=
  word (f.seq.toNat + f.vc.toNat * 2 ^ 12 + f.gen.toNat * 2 ^ 15 + f.msgs.toNat * 2 ^ 16 + bit01 f.rs * 2 ^ 32 + f.vcs.toNat * 2 ^ 33 +
    f.ack.toNat * 2 ^ 36 + f.crdt.toNat * 2 ^ 48)

/-- The CRC over the rest of a flit (R449). -/
def flitCrc (f : Flit) : BitVec 32 := BitVec.ofNat 32 (Config.crc32 (leBytes 8 (flitHeader f).toNat ++ f.payload))

/-- Payload bytes of a flit of a generation: the flit less its header and its CRC (Table 14.1, R449). -/
def payloadRoom (gen : BitVec 1) : Nat := if gen = 1 then 244 else 116

/-- The next flit of a link: its number, what it acknowledges, a count still to be sent, the slots its payload uses and its CRC. Before any
flit has come ACK is 0. (DESIGN CHOICE, log 96: unsafe.) -/
def makeFlit (l : Link) (gen : BitVec 1) (vc : Nat) (p : List Byte) : Flit :=
  let f : Flit := { seq := BitVec.ofNat 12 l.tx, vc := BitVec.ofNat 3 vc, gen := gen, msgs := BitVec.ofNat 16 (2 ^ ((p.length + 15) / 16) - 1),
                    rs := !l.resync.isEmpty, vcs := BitVec.ofNat 3 ((l.resync.head?.map (·.1)).getD 0), ack := BitVec.ofNat 12 l.acked,
                    crdt := BitVec.ofNat 16 ((l.resync.head?.map (·.2)).getD 0), payload := p, crc := 0 }
  { f with crc := flitCrc f }

/-- The generation of the messages a port sends: GLK as it trained, PFX always GEN = 1 (R448, R454). -/
def sendGen (port : Nat) (l : Link) : BitVec 1 := if port = 0 && !l.gen3 then 0 else 1

/-- A flit leaves on a channel when the link is up and the replay buffer and the channel's credits have room (R440, R441). -/
def sendFlit (port : Nat) (l : Link) (vc : Nat) (payload : List Byte) : Option Link :=
  let credit := (mget l.credit vc).getD (Config.linkCapacity vc)
  if !l.up || 512 ≤ l.replay.length || credit = 0 then none
  else some { l with
    tx := (l.tx + 1) % 4096
    replay := l.replay ++ [makeFlit l (sendGen port l) vc payload]
    resync := l.resync.drop 1
    sentOn := mset l.sentOn vc (((mget l.sentOn vc).getD 0 + 1) % 65536)
    credit := mset l.credit vc (credit - 1) }

/-- The parts of a message, one to a flit: as many bytes as a flit has room for, and what is left; `fuel` bounds them. -/
def flitParts (room : Nat) : Nat → List Byte → List (List Byte)
  | 0, bs => [bs]
  | fuel + 1, bs => if bs.length ≤ room then [bs] else bs.take room :: flitParts room fuel (bs.drop room)

/-- The payload of one flit leaves by a port, or waits there behind those of its channel that wait (R441). -/
def State.postPart (s : State) (port vc : Nat) (payload : List Byte) : State :=
  let l := s.link port
  { s with links := mset s.links port (match (if l.unsent.any (·.1 == vc) then none else sendFlit port l vc payload) with
      | some l1 => l1
      | none => { l with unsent := l.unsent ++ [(vc, payload)] }) }

/-- A message leaves by a port; one longer than the payload of a flit takes several, in order (R449). (DESIGN CHOICE, log 108: unsafe.) -/
def State.postMessage (s : State) (port vc : Nat) (payload : List Byte) : State :=
  (flitParts (payloadRoom (sendGen port (s.link port))) payload.length payload).foldl (·.postPart port vc ·) s

/-- The messages of accesses to host memory and to other devices, by the ports of their first and last bytes (R450, R454): kind 0 a
read, 1 a write, 2 an atomic, 3 a response, 4 a refusal (R378); an atomic has a channel of its own over GLK-3 (Table 14.1). (DESIGN CHOICE, log 44: unsafe.) -/
def State.farRequest (s : State) (part kind : Nat) (keys : List Nat) (data : List Byte) : State :=
  (dedup ((keys.take 1 ++ keys.drop (keys.length - 1)).filterMap portOf)).foldl (fun s port =>
    s.postMessage port (if kind = 2 && port = 0 && (s.link 0).gen3 then 3 else 0)
      (Config.messageBytes kind [s.devno.toNat, part, (farAddr (keys.headD 0)).toNat, keys.length] data)) s

/-- Page-table lines in host memory that a walk of a cluster's access reads there, no translation cache holding them (R450).
(DESIGN CHOICE, log 44: unsafe.) -/
def State.walkReads (s : State) (cl : Nat) (lines : List Nat) : State :=
  (lines.filter fun l => hostKey (l * 64) && !Config.cachedTable s.free l).foldl (fun u l => u.farRequest (u.partNo cl) 0 (span (l * 64) 64) []) s

/-- The page-table lines that an agent's accesses of some ranges read in host memory (R450); a partition with no memory there has none. -/
def State.agentWalks (s : State) (cl : Nat) (asid : BitVec 16) (sup : Bool) (acc : Access) (ranges : List (Word × Nat)) : State :=
  match s.partOf cl with
  | none => s
  | some (_, x) =>
    if x.granules.all (· < 16384) then s
    else s.walkReads cl (dedup (ranges.flatMap fun r => match byteKeys s x asid sup acc r.1 r.2 with
      | .ok _ l => l
      | _ => []))

/-- A write by an agent of cluster `cl`: performed here, and sent where its bytes lie in host memory or another device. -/
def State.writeFrom (s : State) (cl : Nat) (cells : List (Nat × Byte)) : State :=
  ((s.writeCells cells).sendFar (s.partNo cl) (farRuns cells) none).farRequest (s.partNo cl) 1 (cells.map (·.1)) (cells.map (·.2))

/-- A write of the low bytes of a number at keys. -/
def State.writeNum (s : State) (addrs : List Nat) (v : Nat) : State :=
  s.writeCells (addrs.zip (leBytes addrs.length v))

/-- An atomic operation of Table 3.13 by an agent of cluster `cl` (R224): the new value is written here, and the operation sent where its
bytes lie in host memory or another device. -/
def State.atomicFrom (s : State) (cl op : Nat) (addrs : List Nat) (new : Nat) (operand expected : Word) : State :=
  let data := leBytes addrs.length operand.toNat
  ((s.writeNum addrs new).sendFar (s.partNo cl) (farRuns (addrs.zip data)) (some (op, operand, expected))).farRequest (s.partNo cl) 2 addrs data

/-- A free value: the n-th. -/
def State.freeNow (s : State) (i : Nat) : Word := Config.freeWord (s.free * 1024 + i)

/-! ### Records (R416, R420) -/

/-- A record of Table 13.3. -/
def mkRecord (part cl core cause reason info : Nat) (addr pcw : Word) : Record :=
  { part := part
    w0 := word (cause + reason * 2 ^ 8 + cl * 2 ^ 12 + core * 2 ^ 21 + info * 2 ^ 32)
    w1 := addr
    w2 := word ((if core < 20 then 2 ^ core else 0) + 2 ^ (40 + colOf cl))
    w3 := pcw
    route := none }

/-- Two records of cause 0x03 or 0x05 that merge: same cause, ASID, page, write and fetch bits (R420). -/
def mergeable (a b : Record) : Bool :=
  (bitsOf 0 6 a.w0 == 3 || bitsOf 0 6 a.w0 == 5) && a.part == b.part && bitsOf 0 6 a.w0 == bitsOf 0 6 b.w0 &&
    bitsOf 32 18 a.w0 == bitsOf 32 18 b.w0 && a.w1 == b.w1 && a.route == b.route

/-- The merged record: CMAP and XMAP by OR, the lowest CLU and CORE (R420). -/
def mergeRecords (a b : Record) : Record :=
  let lo := if bitsOf 12 9 b.w0 < bitsOf 12 9 a.w0 then bitsOf 12 9 b.w0 else bitsOf 12 9 a.w0
  let core := if bitsOf 21 5 b.w0 < bitsOf 21 5 a.w0 then bitsOf 21 5 b.w0 else bitsOf 21 5 a.w0
  { a with w0 := putBits (putBits a.w0 12 9 lo) 21 5 core, w2 := a.w2 ||| b.w2 }

/-- A collector's queue with a record received: merged into one that matches, or at the end. (DEDUCED, log 52: unsafe.) -/
def addRecord : List Record → Record → List Record
  | [], r => [r]
  | x :: l, r => if mergeable x r then mergeRecords x r :: l else x :: addRecord l r

/-- A record sent to the collector of a cluster's row (R22, R416). -/
def State.sendRecord (s : State) (cl : Nat) (r : Record) : State :=
  { s with collectors := mset s.collectors (rowOf cl) (addRecord ((mget s.collectors (rowOf cl)).getD []) r) }

/-! ### Stops (R423, R424) -/

/-- A partition's threads issue: it runs, also before the agreed time of a switch-out (R426, R427). -/
def issues (r : RunState) (gtime : Nat) : Bool :=
  match r with
  | .running => true
  | .leaving t => gtime < t
  | _ => false

/-- A running partition stops at once: the halt tree carries a report that is still to be sent (R423, R424). -/
def stopPart (s : State) (resumable : Bool) (report : Record) (x : Partition) : Partition :=
  { x with run := .stopping resumable report, stopTime := s.gtime, stopCyc := s.cyc }

/-- A gang stop starts: nothing of the partition issues from now on (R423). -/
def State.startStop (s : State) (p : Nat) (resumable : Bool) (report : Record) : State :=
  s.modPart p fun x => if issues x.run s.gtime then stopPart s resumable report x else x

/-- An error is contained (R438): its partition gang-stops for good with the record as its report; one met while its image is
written marks the image; a partition already stopped sends the record and can no longer be resumed. -/
def State.contain (s : State) (p : Nat) (r : Record) : State :=
  match s.part p with
  | none => s
  | some x => match x.run with
    | .saved _ false _ => s.modPart p fun y => { y with save := y.save.map fun i => { i with compl := i.compl ||| 0x10 } }
    | .running => s.startStop p false r
    | .leaving _ => s.modPart p (stopPart s false r)
    | .stopping _ report => (s.modPart p fun y => { y with run := .stopping false report }).sendRecord (bitsOf 12 9 r.w0) r
    | .stopped _ => (s.modPart p fun y => { y with run := .stopped false }).sendRecord (bitsOf 12 9 r.w0) r
    | .resuming _ => (s.modPart p fun y => { y with run := .stopped false }).sendRecord (bitsOf 12 9 r.w0) r
    | _ => s.sendRecord (bitsOf 12 9 r.w0) r

/-- An access that waits on a link that is down is contained with REASON 7 (R440). -/
def State.containLink (s : State) (p cl core addr : Nat) (pc : Word) : State :=
  s.contain p (mkRecord p cl core 0x15 7 0 (farAddr addr) pc)

/-- A cluster's threads issue: its partition is running (R423, R427). -/
def clusterRuns (s : State) (cl : Nat) : Bool := (s.partOf cl).any fun p => issues p.2.run s.gtime

/-- Engine work already granted goes on: also at a stop, until the save image is whole (R197, R353, R373, R427). -/
def clusterFinishes (s : State) (cl : Nat) : Bool := (s.partOf cl).any fun p => match p.2.run with
  | .saved _ whole _ => !whole
  | .entering _ _ => false
  | _ => true

/-- Accesses of a cluster's threads are still performed: it runs, or its partition has been switched out and the channels
drain before the save image is whole (steps 1 and 4 of R427). -/
def clusterDrains (s : State) (cl : Nat) : Bool := (s.partOf cl).any fun p => issues p.2.run s.gtime ||
  match p.2.run with
  | .leaving _ => true
  | .saved _ whole _ => !whole
  | _ => false

/-- The thread at a position, while accesses of its cluster are performed. -/
def State.drainThread (s : State) (k : Nat) : Option Thread := if clusterDrains s (keyCl k) then s.thread k else none

/-- Where a flit leaves the mesh, by its channel and its destination (R19): flits of one channel to one place pass one router. -/
def flitPlace (f : Flight) : Option (Channel × Nat × Nat) :=
  (match f with
  | .message _ _ dst _ _ _ => some (0, dst)
  | .wake _ dst => some (0, dst)
  | .event w0 _ _ => some (1, bitsOf 31 9 w0)
  | .migration _ cl core => some (2, cl * 20 + core)
  | .exitNotice cl core _ _ => some (3, cl * 20 + core)
  | .work cl core _ _ _ _ => some (4, cl * 20 + core)
  | .push _ _ cl q _ _ _ => some (5, cl * 256 + q)
  | .pop _ cl q _ _ => some (5, cl * 256 + q)
  | .gcall k _ => some (6, keyCl k)
  | .arrival _ p g _ => some (7, p * 256 + g)
  | .tick _ p g _ _ _ => some (7, p * 256 + g)
  | .launch _ _ _ _ _ _ _ => none
  | .results _ _ _ _ _ => none).map fun x => (channelOf f, x)

/-- A flit was spilled at a switch-out and re-injected at the switch-in (R432). -/
def respilled (s : State) (f : Flight) : Bool := s.parts.any fun e => e.2.respilled.contains f

/-- The flit at a place of the channels was injected after a switch-in and still has one ahead of it that the switch spilled (R432). -/
def behindSpill (s : State) (i : Nat) : Bool := s.flights[i]?.any fun f =>
  !respilled s f && (s.flights.take i).any fun g => respilled s g && flitPlace g == flitPlace f

/-- The flit at a place of the channels may be taken at its cluster. -/
def arrives (s : State) (cl i : Nat) : Bool := clusterRuns s cl && !behindSpill s i

/-! ### Traps (R413, R415) -/

/-- A thread at its handler's first instruction (R413). -/
def trapThread (t : Thread) (svcbase pc tstat : Word) (cause detail : Nat) (step : Bool) (value tepc : Word) : Thread :=
  { t with
    tpc := pc
    tstat := tstat
    tcause := tcauseWord cause detail step
    tval := value
    tepc := tepc
    xstat := xsHandler t.xstat
    pc := svcbase + word (64 * cause)
    park := none
    call := none }

/-- Taking a trap delivered to a vector (R413): the trap registers are filled and the pc goes to SVCBASE + 64 × cause;
with no vector, or while TCAUSE.V = 1, the partition gang-stops (R423) and the thread stands at `pc`. -/
def State.takeTrap (s : State) (k : Nat) (t : Thread) (pc tstat : Word) (cause detail : Nat) (step : Bool)
    (value tepc : Word) : State :=
  match s.partOf (keyCl k) with
  | none => s
  | some (p, x) =>
    if x.svcbase = 0 ∨ tcV t.tcause then
      (s.putThread k { t with pc := pc, park := none }).startStop p false
        (mkRecord p (keyCl k) (keyCore k) cause 15 0 value pc)
    else s.putThread k (trapThread t x.svcbase pc tstat cause detail step value tepc)

/-- A precise trap of the instruction in hand: at its address, or its prefix's (R55), with no other effect (R80). -/
def State.trap (s : State) (k : Nat) (t : Thread) (cause : Nat) (value : Word) : State :=
  s.takeTrap k t t.pc (xsSaved t.xstat s.cur.pfx) cause 0 false value 0

/-- A pending deferred engine fault taken at the instruction in hand, before it has any effect (R186, R256, R337). -/
def State.trapDeferred (s : State) (k : Nat) (t : Thread) (d : Deferred) : State :=
  s.takeTrap k { t with deferred := t.deferred.erase d } t.pc (xsSaved t.xstat s.cur.pfx) 0x0F d.detail false d.value d.pc

/-- Every lane of the issuing set takes a trap together (R80). -/
def State.trapAll (s : State) (cause : Nat) : State := s.forLanes fun s k t => s.trap k t cause 0

/-- The illegal-instruction trap in every lane of the issuing set (R79, R80). -/
def State.illegal (s : State) : State := s.trapAll 1

/-- An instruction a GC refuses: the illegal-context trap there (R103), else `f`. -/
def State.scOnly (s : State) (f : State → State) : State := if s.onGC then s.trapAll 0x12 else f s

/-- An instruction that needs XSTAT.SUP = 1: while a lane of the set has SUP = 0, every lane takes the protection fault together (R80,
R104), else `f`. -/
def State.supOnly (s : State) (f : State → State) : State :=
  if s.curThreads.all fun x => xsSUP x.2.xstat then f s else s.trapAll 4

/-- The end of a single step: 0x0E at the next PC, or a pending deferred fault with STEP = 1 in its place (R439). -/
def State.stepTrap (s : State) (k : Nat) (t : Thread) : State :=
  match t.deferred with
  | d :: rest => s.takeTrap k { t with deferred := rest } t.pc (xsRead t.xstat) 0x0F d.detail true d.value d.pc
  | [] => s.takeTrap k t t.pc (xsRead t.xstat) 0x0E 0 false 0 0

/-- The effects of return from trap on the thread (R444): XSTAT from TSTAT with PP and PF zero, V cleared, PC := TPC. -/
def returnThread (t : Thread) : Thread :=
  { t with xstat := xsRead t.tstat, tcause := putBit t.tcause 63 false, pc := t.tpc, park := none }

/-! ### Retiring and parking (R9, R10) -/

/-- A retired thread: at its next PC, with no park, and XSTAT.AP zero (R329). -/
def retired (t : Thread) (pc : Word) : Thread := { t with pc := pc, park := none, xstat := xsSetAP t.xstat false }

/-- The instruction in hand retires in a lane with the registers of `t'`, at `pc`; `t` is the lane as it issued, whose
XSTAT.SS makes the step trap follow (R439). -/
def State.finishAt (s : State) (k : Nat) (t t' : Thread) (pc : Word) : State :=
  let r := retired t' pc
  if xsSS t.xstat then s.stepTrap k r else s.putThread k r

/-- Retirement at the following instruction. -/
def State.finish (s : State) (k : Nat) (t t' : Thread) : State := s.finishAt k t t' (t.pc + s.width)

/-- An instruction that only changes its own thread's registers, by `f`, in each lane (R136). -/
def State.regOp (s : State) (f : Thread → Thread) : Out := s.eachLane fun s k t => s.finish k t (f t)

/-- A lane parks at its instruction; a park that goes on keeps the cycle it began (R310). -/
def parked (t : Thread) (why : ParkWhy) (cyc : Nat) : Thread :=
  match t.park with
  | some p => if p.why = why then t else { t with park := some { why := why, since := cyc } }
  | none => { t with park := some { why := why, since := cyc } }

def State.parkAt (s : State) (k : Nat) (t : Thread) (why : ParkWhy) : State := s.putThread k (parked t why s.cyc)

/-! ### Replayable faults (R418, R422) -/

/-- The INFO field of a fault record (Table 13.3). -/
def faultInfo (e : FbfEntry) : Nat :=
  e.asid.toNat + (if e.write then 2 ^ 16 else 0) + (if e.fetch then 2 ^ 17 else 0) +
    (if e.engine.any fun x => x.1 != 7 && x.1 != 9 then 2 ^ 18 else 0)

/-- The record sent for an FBF entry (R418): the page address in ADDR, a thread's PC in PCW. -/
def faultRecord (part cl reason : Nat) (e : FbfEntry) (pc : Word) : Record :=
  let core := match e.key, e.engine with
    | some k, none => keyCore k
    | _, some (7, n) => n % 20
    | _, some (9, n) => n % 20
    | _, _ => 31
  mkRecord part cl core e.cause reason (faultInfo e) (word (e.va.toNat / 65536 * 65536)) (if e.engine.any fun x => x.1 != 9 then 0 else pc)

/-- An access enters the cluster's FBF and its record is sent; with 256 entries held it waits for one (R422). -/
def State.enterFbf (s : State) (cl reason : Nat) (e : FbfEntry) (pc : Word) : State :=
  let c := s.cluster cl
  let s1 := if c.fbf.length < 256 then
      (s.putCluster cl { c with fbf := c.fbf ++ [e] }).sendRecord cl (faultRecord (s.partNo cl) cl reason e pc)
    else s.putCluster cl { c with fbfWait := c.fbfWait ++ [e] }
  s1.walkReads cl e.lines

/-- An agent's access waits in its cluster's FBF, or for an entry there. -/
def fbfHolds (c : Cluster) (engine : Nat × Nat) : Bool := (c.fbf ++ c.fbfWait).any fun e => e.engine == some engine

/-- The page number of a virtual address. -/
def vpnOf (va : Word) : Nat := bitsOf 16 40 va

/-- A thread's access parks in the FBF of its cluster (R418). -/
def State.faultPark (s : State) (k : Nat) (t : Thread) (acc : Access) (cause reason : Nat) (va : Word) (lines : List Nat) :
    State :=
  (s.parkAt k t .fault).enterFbf (keyCl k) reason
    { key := some k, engine := none, asid := t.asid, vpn := vpnOf va, va := va, cause := cause, write := acc = .write,
      fetch := acc = .fetch, sup := xsSUP t.xstat, lines := lines, poked := false } t.pc

/-- The operation writes memory. -/
def outWrites (o : OutOp) : Bool :=
  match o.kind with
  | .store => true
  | .atomic _ _ _ _ => true
  | .append _ _ _ => true
  | _ => false

/-- A consumer of bad data is contained, and never receives it (R438): `pc` is a consuming thread's, 0 for another consumer. -/
def State.containBad (s : State) (p cl core : Nat) (b : Nat × Nat) (pc : Word) : State :=
  s.contain p (mkRecord p cl core 0x15 (b.2 % 8) 0 (farAddr b.1) pc)

/-- What a key stands for that a check answers with cause 0x15: bad data there, or a link that is down (R438, R440). -/
def State.containKey (s : State) (p cl core key : Nat) (pc : Word) : State :=
  match badAmong s [key] with
  | some b => s.containBad p cl core b pc
  | none => s.containLink p cl core key pc

/-- A check that does not let a thread's access go on: the containment of bad data its walk met, a trap, the FBF, or a park. -/
def State.checkStop (s : State) (k : Nat) (t : Thread) (acc : Access) (c : Check) : State :=
  match c with
  | .trap 0x15 key => s.containKey (s.partNo (keyCl k)) (keyCl k) (keyCore k) key.toNat t.pc
  | .trap c v => s.trap k t c v
  | .fault c r a l => s.faultPark k t acc c r a l
  | .park w => s.parkAt k t w
  | .ok _ _ => s

/-- A granted `mlds` or drain is still to make its accesses: a drain that is staged lies at its coherence point (R180, R184). -/
def stillPlaced (r : Running) : Bool := !r.staged && !r.place.isEmpty

/-- A granted engine command was placed by a walk that read one of the lines of some bytes, and is still to make its accesses (R184, R211). -/
def engineHeld (s : State) (addrs : List Nat) : Bool :=
  s.clusters.any fun c => c.2.mxe.running.any fun r => stillPlaced r && r.lines.any (linesOf addrs).contains

/-- A write would change a page-table line by whose walk an access of a thread or of a granted command is still to be performed: it waits
for that access (R211). -/
def tableHeld (s : State) (addrs : List Nat) : Bool :=
  (s.threads.any fun t => t.2.out.any fun o => o.lines.any (linesOf addrs).contains) || engineHeld s addrs

/-- A write that a thread has issued, or that a granted drain is to make, is still to change one of some lines (R184, R211). -/
def tableDirty (s : State) (lines : List Nat) : Bool :=
  !lines.isEmpty && ((s.threads.any fun t => t.2.out.any fun o => outWrites o && (linesOf o.addrs).any lines.contains) ||
    s.clusters.any fun c => c.2.mxe.running.any fun r => stillPlaced r && r.cmd.fn != 2 && r.place.any fun p =>
      lines.any fun l => p.1 / 64 ≤ l && l * 64 < p.1 + p.2)

/-- A thread's access of `n` bytes at `va`, checked; `f` goes on with the bytes' keys and the walk's lines. An access whose walk reads a
line that a write already issued is still to change parks until it has, so that accesses wait for earlier ones alone (R211, R313).
(DEDUCED, log 17: unsafe.) -/
def State.access (s : State) (k : Nat) (t : Thread) (acc : Access) (va : Word) (n : Nat)
    (f : List Nat → List Nat → State) : State :=
  match s.partOf (keyCl k) with
  | none => s
  | some (p, x) =>
    match checkAccess s false (keyCl k) p x t.asid (xsSUP t.xstat) acc va n with
    | .ok addrs lines =>
      if tableDirty s lines then s.parkAt k t (.tableWrite lines) else (f addrs lines).walkReads (keyCl k) lines
    | c => s.checkStop k t acc c

/-- The access of a counter or a launch record by the instruction that names it (R340), checked; `f` goes on with its bytes' keys. -/
def State.counterAccess (s : State) (k : Nat) (t : Thread) (acc : Access) (va : Word) (n : Nat) (f : List Nat → List Nat → State) :
    State :=
  match s.partOf (keyCl k) with
  | none => s
  | some (p, x) =>
    match checkCounter s p x t.asid (xsSUP t.xstat) acc va n with
    | .ok addrs lines =>
      match badAmong s addrs with
      | some b => s.containBad p (keyCl k) (keyCore k) b t.pc
      | none => (f addrs lines).walkReads (keyCl k) lines
    | c => s.checkStop k t acc c

/-! ### Bad storage (R438) -/

/-- The first byte of `n` bytes of AM that is bad, with its storage (R438). -/
def badAm (s : State) (key n : Nat) : Option (Nat × Nat) := s.bad.find? fun b => amSpace + key ≤ b.1 && b.1 < amSpace + key + n

/-- A reading of AM by an engine of a cluster: bad data is contained, else `f` (R438). -/
def State.guardAm (s : State) (cl key n : Nat) (f : State) : State :=
  match badAm s key n with
  | some b => s.containBad (s.partNo cl) cl 31 b 0
  | none => f

/-- A reading of memory or of a window by an engine of a cluster: bad data is contained, else `f` (R438). -/
def State.guardKeys (s : State) (cl : Nat) (keys : List Nat) (f : State) : State :=
  match badAmong s keys with
  | some b => s.containBad (s.partNo cl) cl 31 b 0
  | none => f

/-- Bytes of AM written; bad storage among them is good again. -/
def State.writeAm (s : State) (cells : List (Nat × Byte)) : State :=
  { s with am := memWriteAll s.am cells, bad := s.bad.filter fun b => !cells.any fun c => amSpace + c.1 == b.1 }

/-! ### Outstanding operations (R213, R223, R236) -/

/-- The operation reads memory into registers. -/
def outReads (o : OutOp) : Bool :=
  match o.kind with
  | .load _ _ => true
  | .atomic _ _ _ _ => true
  | .restoreW _ _ => true
  | .restoreF _ _ _ => true
  | _ => false

/-- The operation is an acquire: its order says so, or it takes a queue entry, a moved entry or a message (R216, R230). -/
def outAcquires (o : OutOp) : Bool :=
  match o.kind with
  | .load _ _ => o.order = 1
  | .atomic _ _ _ _ => o.order = 1 || o.order = 3
  | .pop _ _ _ _ => true
  | .popWait _ => true
  | .work _ _ _ _ _ => true
  | .message _ _ _ _ => true
  | _ => false

/-- Every load, store and atomic the issuing lanes issued before a command is performed, and every entry or message taken before it has
its stamp: they happen before each of its reads
and writes (R228). (DEDUCED, log 19: unsafe.) -/
def issuerDone (s : State) (c : Cmd) : Bool :=
  c.keys.all fun k => (s.thread k).all fun t => t.out.all fun o => c.inst ≤ o.inst || !(outReads o || outWrites o || outAcquires o)

/-- The operation is a release (R216). -/
def outReleases (o : OutOp) : Bool :=
  match o.kind with
  | .store => o.order = 2
  | .atomic _ _ _ _ => o.order = 2 || o.order = 3
  | _ => false

/-- An append whose page was not mapped when it was made: its bytes are not known yet (R336). -/
def unplaced (o : OutOp) : Bool := o.addrs.isEmpty && match o.kind with
  | .append _ _ _ => true
  | _ => false

/-- An f register is bound to a stream that it appends to (R50). -/
def writeBound (t : Thread) : RegRef → Bool
  | .f d => 28 ≤ d.toNat && (t.streams.toList.getD (d.toNat - 28) Stream.reset).state == .writeBound
  | _ => false

/-- A load or an atomic into a register bound to a stream: its append, a store that stands where it stands, is still to be made (R50). -/
def makesAppend (t : Thread) (o : OutOp) : Bool := match o.kind with
  | .load r _ => writeBound t r
  | .atomic _ r _ _ => writeBound t r
  | _ => false

/-- Two operations share a byte, or may: an append that has no place yet is ordered with every access (R221). -/
def outOverlap (a b : OutOp) : Bool := unplaced a || unplaced b || a.addrs.any b.addrs.contains

/-- The byte of the youngest store among `ops` that names the key (R222: a thread's own write supersedes older ones). -/
def forwarded (ops : List OutOp) (a : Nat) : Option Byte :=
  ops.foldl (fun r o => match o.kind with
    | .store => match (o.addrs.zip o.data).find? fun c => c.1 == a with
      | some c => some c.2
      | none => r
    | _ => r) none

/-- The byte a thread reads at a key: that of its own buffered stores among `ops`, else the coherence point's. -/
def State.seen (s : State) (ops : List OutOp) (a : Nat) : Byte := (forwarded ops a).getD (s.byteAt a)

/-- The operation is on a control word, whose store acts when it is performed and is not what a load returns (R205).
(DEDUCED, log 16: unsafe.) -/
def toControl (o : OutOp) : Bool :=
  match spotOf (o.addrs.headD 0) with
  | some (.ctl _ _ _) => true
  | _ => false

/-- A read may be performed: no earlier acquire is outstanding, nor an earlier operation on its bytes other than a store to
memory, whose bytes it then returns, or a load, which it may overtake (R222). -/
def readReady (earlier : List OutOp) (o : OutOp) : Bool :=
  earlier.all fun e => !outAcquires e && !(outOverlap e o && match e.kind with
    | .store => toControl e
    | .load _ _ => false
    | .restoreW _ _ => false
    | .restoreF _ _ _ => false
    | _ => true)

/-- A write may be performed: every earlier load of the thread is (R223), every earlier access to its bytes is, and for a
release every earlier operation is (R216, R218). (DESIGN CHOICE, log 15: unsafe.) -/
def writeReady (earlier : List OutOp) (o : OutOp) : Bool :=
  (earlier.all fun e => !outReads e && !outAcquires e && !outOverlap e o) && (!outReleases o || earlier.isEmpty)

/-- The write-issue stamps of a core up to `stamp` have drained: no write at or below it is outstanding (R12, R230). -/
def State.drained (s : State) (core stamp : Nat) : Bool :=
  s.threads.all fun e => e.1 / 256 != core || e.2.out.all fun o => !outWrites o || stamp < o.serial

/-- The number of a core within the device. -/
def coreNo (k : Nat) : Nat := k / 256

/-- A write-issue number for a core's next write (R230). -/
def State.nextWrite (s : State) (k : Nat) : State × Nat :=
  let n := (s.core (keyCl k) (keyCore k)).wIssue + 1
  (s.modCore (keyCl k) (keyCore k) fun c => { c with wIssue := n }, n)

/-- The write-issue count a push, message or list entry is stamped with. -/
def State.stampOf (s : State) (k : Nat) : Nat := (s.core (keyCl k) (keyCore k)).wIssue

/-- Arrivals are enabled in a partition while a running launch of it was made from a `mig=1` kernel (R298): one that has started and
has not completed. -/
def arrivalsOn (p : Partition) : Bool :=
  p.launches.any fun e => match e.2.stage with
    | .done _ => false
    | .waiting => false
    | _ => e.2.status = 0 && match mget p.images e.2.r.image with
      | some im => (im.kernels.find? fun q => q.entry == e.2.r.entry).any fun q => q.template.getLsbD 6
      | none => false

/-- The SC that owns a window address for migration: the SC whose LM it is, or the SC of the scratch's cluster with the
issuing core's number (R325). A control word, of which R325's table says nothing, has none. (DESIGN CHOICE, log 79: unsafe.) -/
def migrationTarget (core : Nat) : Spot → Option (Nat × Nat)
  | .scratch cl _ => some (cl, core)
  | .lm cl c _ => if isSC c then some (cl, c) else none
  | .ctl _ _ _ => none

/-- Where an access at `va` by an SC thread would migrate to (R235): another SC, with MIG = 1 and arrivals enabled. -/
def migrates (p : Partition) (k : Nat) (t : Thread) (va : Word) : Option (Nat × Nat) :=
  if isSC (keyCore k) && xsMIG t.xstat && arrivalsOn p && bitsOf 56 8 va == 0 then
    match spotOf va.toNat with
    | none => none
    | some sp =>
      if !p.halfDies.getLsbD (halfDieOf (spotCl sp)) then none
      else
        match sp, migrationTarget (keyCore k) sp with
        | .scratch cl _, some m => if cl = keyCl k then none else some m
        | _, some m => if m = (keyCl k, keyCore k) then none else some m
        | _, none => none
  else none

/-- A lane of a gang held off-core changed. -/
def modOff (uid : Nat) (f : Thread → Thread) (c : Cluster) : Cluster :=
  { c with offCore := c.offCore.map fun o => { o with lanes := o.lanes.map fun (l : Nat × Thread) => if l.2.uid = uid then (l.1, f l.2) else l } }

/-- The lane held off-core with a name changed, wherever it is held. -/
def State.modAway (s : State) (uid : Nat) (f : Thread → Thread) : State :=
  { s with clusters := s.clusters.map fun (e : Nat × Cluster) => (e.1, modOff uid f e.2) }

/-- A stream of the thread is bound (R325). -/
def anyBound (t : Thread) : Bool := t.streams.toList.any fun x => x.state != .unbound

end Sys2Proof.Machine
end

