-- ==== Sys2Proof/Machine/Operands.lean ====
section
/-! DEFINITION. Operand forms: immediates and addresses (R33, R34, R237), predicate sources, register pairs and ranges,
stream registers as sources and destinations (R48 to R51, R335), and the registers an instruction names (R138). -/

namespace Sys2Proof.Machine

/-- The even register a 4-bit pair field names (R99, R248). -/
def pairReg (d : BitVec 4) : Reg := d ++ 0#1

/-- Registers `d` to `b` inclusive (R446). -/
def regRange (d b : Reg) : List Reg := (List.range (b.toNat + 1 - d.toNat)).map fun i => d + BitVec.ofNat 5 i

/-- imm15, sign-extended (R33). -/
def imm15 (i : BitVec 15) : Word := i.signExtend 64
/-- imm15, zero-extended (R85). -/
def uimm15 (i : BitVec 15) : Word := i.setWidth 64
/-- off21 or off20, sign-extended and multiplied by 4 (R33). -/
def codeOff {n : Nat} (off : BitVec n) : Word := off.signExtend 64 * 4

/-- Bytes of a size code (Table 2.2). -/
def sizeOf (sz : BitVec 2) : Nat := 2 ^ sz.toNat

/-- The M-format effective address: w[a] + off11 × size (R237). -/
def offAddr (t : Thread) (a : Reg) (off : BitVec 11) (sz : BitVec 2) : Word :=
  readW t a + off.signExtend 64 * word (sizeOf sz)

/-- The indexed effective address: w[a] + w[b] × size (R94, R237). -/
def idxAddr (t : Thread) (a b : Reg) (sz : BitVec 2) : Word := readW t a + readW t b * word (sizeOf sz)

/-- The bytes of a word of the constant window of the thread's core (R58). -/
def constKeys (k : Nat) (n : BitVec 8) : List Nat := span (lmAddr (keyCl k) (keyCore k) (8 * n.toNat)) 8

/-- The read of a word of the constant window as the relaxed load it is (R144). -/
def constLoad (k : Nat) (t : Thread) (n : BitVec 8) : OutOp :=
  { kind := .load (.w 0) false, addrs := constKeys k n, data := [], order := 0, scope := 0, pc := t.pc, serial := 0, inst := 0, lines := [], va := 0 }

/-- A read of the constant window that the thread's earlier accesses still hold back (R144, R218, R222). -/
def constBusy (k : Nat) (t : Thread) : Instr → Bool
  | .ldk _ n => !readReady t.out (constLoad k t n)
  | .addk _ _ n => !readReady t.out (constLoad k t n)
  | .subk _ _ n => !readReady t.out (constLoad k t n)
  | .andk _ _ n => !readReady t.out (constLoad k t n)
  | .ldkf _ n => !readReady t.out (constLoad k t n)
  | _ => false

/-- The word of the constant window of the thread's core (R58, R144): the thread's own earlier stores are seen. -/
def State.constWord (s : State) (k : Nat) (t : Thread) (n : BitVec 8) : Word :=
  word (leNat ((constKeys k n).map (s.seen t.out)))

/-! ### Stream registers -/

/-- The stream a register may be bound to: f28 to f31 are streams 0 to 3 (R48). -/
def streamNo (r : Reg) : Option Nat := if r.toNat < 28 then none else some (r.toNat - 28)

/-- A thread's stream by number. -/
def streamOf (t : Thread) (n : Nat) : Stream := t.streams.toList.getD n Stream.reset

/-- A thread with a stream replaced. -/
def putStream (t : Thread) (n : Nat) (x : Stream) : Thread := { t with streams := t.streams.setIfInBounds n x }

/-- Elements of a stream (Table 10.7). -/
def streamCount (x : Stream) : Nat := bitsOf 0 32 x.desc
/-- A stream writes (Table 10.7, DIR). -/
def streamDir (x : Stream) : Bool := natBit 48 x.desc.toNat
/-- The address of element i: BASE + i × STRIDE × 8 (R333). -/
def elemAddr (x : Stream) (i : Word) : Word := x.base + i * signExt 16 (x.desc >>> 32) * 8

/-- What the stream rules make of an instruction's f operands. -/
inductive FPrep where
  /-- the thread with each element consumed and in its register -/
  | ok (t : Thread)
  /-- a use R51 or R335 refuses -/
  | illegal
  /-- the element of a stream has not arrived (R49) -/
  | wait (n : Nat)
  /-- the element has failed: detail code and address (R336) -/
  | failed (detail : Nat) (va : Word)
  /-- the append would raise st past 63 (R236) -/
  | full
  deriving DecidableEq, Repr

/-- One element of stream `n` consumed into its register (R49); past the last the register is unbound (R335). -/
def consumeOne (t : Thread) (n : Nat) : FPrep :=
  let x := streamOf t n
  match x.ahead with
  | [] => .wait n
  | .failed d :: _ => .failed d (elemAddr x x.pos)
  | .value v :: rest =>
    let done := x.pos.toNat + 1 ≥ streamCount x
    .ok (putStream (setF t (BitVec.ofNat 5 (28 + n)) v) n
      { x with pos := x.pos + 1, ahead := rest, state := if done then .unbound else x.state })

/-- The streams a list of source registers names that are read-bound, once each (R49). -/
def boundSources (t : Thread) (srcs : List Reg) : List Nat :=
  (dedup (srcs.filterMap streamNo)).filter fun n => (streamOf t n).state == .readBound

/-- A register is in a stream state. -/
def regIs (t : Thread) (st : StreamState) (r : Reg) : Bool := (streamNo r).any fun n => (streamOf t n).state == st

/-- The stream rules for an instruction that reads `srcs` and writes `dst` (R49 to R51, R335). -/
def fPrep (t : Thread) (srcs : List Reg) (dst : Option Reg) : FPrep :=
  if srcs.any (regIs t .writeBound) || dst.any (regIs t .readBound) then .illegal
  else if dst.any fun d => regIs t .writeBound d && (streamNo d).any fun n =>
      streamCount (streamOf t n) ≤ (streamOf t n).pos.toNat then .illegal
  else if dst.any (regIs t .writeBound) && t.st ≥ 63 then .full
  else (boundSources t srcs).foldl (fun r n => match r with
    | .ok t => consumeOne t n
    | other => other) (.ok t)

/-- An instruction's f operands under the stream rules; `f` goes on with the elements consumed. A lane whose element is still to come, or has
failed, parks or traps by itself, and the other lanes of its set go on. (DESIGN CHOICE, log 97: unsafe.) -/
def State.withF (s : State) (k : Nat) (t : Thread) (srcs : List Reg) (dst : Option Reg) (f : Thread → State) : State :=
  match fPrep t srcs dst with
  | .ok t' => f t'
  | .illegal => s.trap k t 0x12 0
  | .wait n => s.parkAt k t (.stream n)
  | .failed d va => s.takeTrap k t t.pc (xsSaved t.xstat s.cur.pfx) 0x0F d false va t.pc
  | .full => s.parkAt k t (.counterFull 1)

/-- A write of f[d]: the register, and for a write-bound register an append of all 64 bits (R50). The element's bytes are
located when its page is mapped and no write is still to change the entry (R211), else when it is performed (R336); `pc` is the instruction
that makes it (R337). -/
def State.writeF (s : State) (k : Nat) (t : Thread) (pc : Word) (d : Reg) (v : Word) : State × Thread :=
  match streamNo d with
  | none => (s, setF t d v)
  | some n =>
    let x := streamOf t n
    if x.state ≠ .writeBound then (s, setF t d v)
    else
      let t1 := putStream (setF t d v) n { x with pos := x.pos + 1 }
      if x.dead then (s, t1)
      else
        let va := elemAddr x x.pos
        let (addrs, lines) := match s.partOf (keyCl k) with
          | none => ([], [])
          | some (p, y) => match checkAccess s true (keyCl k) p y t.asid (xsSUP t.xstat) .write va 8 with
            | .ok a l => if tableDirty s l then ([], []) else (a, l)
            | _ => ([], [])
        let (s1, serial) := s.nextWrite k
        (s1, { t1 with
          st := t1.st + 1
          out := t1.out ++ [{ kind := .append n x.bind va, addrs := addrs, data := leBytes 8 v.toNat, order := 0, scope := 0,
                              pc := pc, serial := serial, inst := s.free, lines := lines, va := va }] })

/-- Retirement of an instruction that writes f[d] := v; `t` is the lane as it issued, `t'` with its elements consumed. -/
def State.finishF (s : State) (k : Nat) (t t' : Thread) (d : Reg) (v : Word) : State :=
  let r := s.writeF k t' t.pc d v
  r.1.finish k t r.2

/-! ### The scoreboard (R138, R287, R289) -/

/-- The registers an instruction names as source or destination, p0 and w0 among them: it waits for each that is still to be written, one that it only
writes too, and for each that a form of it names. (DESIGN CHOICE, log 104: unsafe.) -/
def touches : Instr → List RegRef
  | .add d a b => [.w d, .w a, .w b]
  | .sub d a b => [.w d, .w a, .w b]
  | .mul d a b => [.w d, .w a, .w b]
  | .mulh d a b => [.w d, .w a, .w b]
  | .mulhu d a b => [.w d, .w a, .w b]
  | .div d a b => [.w d, .w a, .w b]
  | .divu d a b => [.w d, .w a, .w b]
  | .rem d a b => [.w d, .w a, .w b]
  | .remu d a b => [.w d, .w a, .w b]
  | .and d a b => [.w d, .w a, .w b]
  | .or d a b => [.w d, .w a, .w b]
  | .xor d a b => [.w d, .w a, .w b]
  | .andn d a b => [.w d, .w a, .w b]
  | .sll d a b => [.w d, .w a, .w b]
  | .srl d a b => [.w d, .w a, .w b]
  | .sra d a b => [.w d, .w a, .w b]
  | .ror d a b => [.w d, .w a, .w b]
  | .clz d a => [.w d, .w a]
  | .ctz d a => [.w d, .w a]
  | .popc d a => [.w d, .w a]
  | .brev d a => [.w d, .w a]
  | .bswap d a => [.w d, .w a]
  | .min d a b => [.w d, .w a, .w b]
  | .max d a b => [.w d, .w a, .w b]
  | .minu d a b => [.w d, .w a, .w b]
  | .maxu d a b => [.w d, .w a, .w b]
  | .slt d a b => [.w d, .w a, .w b]
  | .sltu d a b => [.w d, .w a, .w b]
  | .sel n d a b => [.p n, .w d, .w a, .w b]
  | .bfxu d a b => [.w d, .w a, .w b]
  | .bfxs d a b => [.w d, .w a, .w b]
  | .bfi d a b => [.w d, .w a, .w b]
  | .addi d a _ => [.w d, .w a]
  | .andi d a _ => [.w d, .w a]
  | .ori d a _ => [.w d, .w a]
  | .xori d a _ => [.w d, .w a]
  | .slti d a _ => [.w d, .w a]
  | .slli d a _ => [.w d, .w a]
  | .srli d a _ => [.w d, .w a]
  | .srai d a _ => [.w d, .w a]
  | .rori d a _ => [.w d, .w a]
  | .slliw d a _ => [.w d, .w a]
  | .srliw d a _ => [.w d, .w a]
  | .sraiw d a _ => [.w d, .w a]
  | .roriw d a _ => [.w d, .w a]
  | .lui d _ => [.w d]
  | .ldk d _ => [.w d]
  | .addk d a _ => [.w d, .w a]
  | .subk d a _ => [.w d, .w a]
  | .andk d a _ => [.w d, .w a]
  | .ldkf d _ => [.f d]
  | .cpeq d a b => [.p d, .w a, .w b]
  | .cpne d a b => [.p d, .w a, .w b]
  | .cplt d a b => [.p d, .w a, .w b]
  | .cpltu d a b => [.p d, .w a, .w b]
  | .cpge d a b => [.p d, .w a, .w b]
  | .cpgeu d a b => [.p d, .w a, .w b]
  | .pand d a b => [.p d, .p (a.extractLsb' 0 3), .p (b.extractLsb' 0 3)]
  | .por d a b => [.p d, .p (a.extractLsb' 0 3), .p (b.extractLsb' 0 3)]
  | .pxor d a b => [.p d, .p (a.extractLsb' 0 3), .p (b.extractLsb' 0 3)]
  | .pmovw d a => [.p d, .w a]
  | .wmovp d a => [.w d, .p (a.extractLsb' 0 3)]
  | .br p _ _ => [.p p]
  | .jal d _ => [.w d]
  | .jalr d a => [.w d, .w a]
  | .fadd d a b _ => [.f d, .f a, .f b]
  | .fsub d a b _ => [.f d, .f a, .f b]
  | .fmul d a b _ => [.f d, .f a, .f b]
  | .fdiv d a b _ => [.f d, .f a, .f b]
  | .fsqrt d a _ => [.f d, .f a]
  | .fmadd d a b _ => [.f d, .f a, .f b]
  | .fmsub d a b _ => [.f d, .f a, .f b]
  | .fnmadd d a b _ => [.f d, .f a, .f b]
  | .fnmsub d a b _ => [.f d, .f a, .f b]
  | .fmin d a b _ => [.f d, .f a, .f b]
  | .fmax d a b _ => [.f d, .f a, .f b]
  | .fsgnj d a b _ => [.f d, .f a, .f b]
  | .fsgnjn d a b _ => [.f d, .f a, .f b]
  | .fsgnjx d a b _ => [.f d, .f a, .f b]
  | .fceq d a b _ => [.p d, .f a, .f b]
  | .fclt d a b _ => [.p d, .f a, .f b]
  | .fcle d a b _ => [.p d, .f a, .f b]
  | .fcun d a b _ => [.p d, .f a, .f b]
  | .fclass d a _ => [.w d, .f a]
  | .frint d a _ => [.f d, .f a]
  | .fmov d a => [.f d, .f a]
  | .fmvwf d a => [.w d, .f a]
  | .fmvfw d a => [.f d, .w a]
  | .cvt d a b _ _ _ => [.f d, .f a, .f b]
  | .cvti d a _ _ _ => [.w d, .w a, .f d, .f a]
  | .fexp2 d a => [.f d, .f a]
  | .flog2 d a => [.f d, .f a]
  | .frsqrt d a => [.f d, .f a]
  | .fsin d a => [.f d, .f a]
  | .fcos d a => [.f d, .f a]
  | .nadd d a b _ _ => [.f d, .f a, .f b]
  | .nsub d a b _ _ => [.f d, .f a, .f b]
  | .nmul d a b _ _ => [.f d, .f a, .f b]
  | .nfma d a b _ _ => [.f d, .f a, .f b]
  | .nmin d a b _ _ => [.f d, .f a, .f b]
  | .nmax d a b _ _ => [.f d, .f a, .f b]
  | .ndot d a b _ _ => [.f d, .f a, .f b]
  | .pfx _ _ _ => []
  | .ld d a _ _ _ => [.w d, .w a]
  | .ldu d a _ _ _ => [.w d, .w a]
  | .st d a _ _ _ => [.w d, .w a]
  | .ldf d a _ _ _ => [.f d, .w a]
  | .stf d a _ _ _ => [.f d, .w a]
  | .pref _ a _ _ => [.w a]
  | .ldIndexed d a b _ _ _ => [.w d, .w a, .w b]
  | .lduIndexed d a b _ _ _ => [.w d, .w a, .w b]
  | .stIndexed d a b _ _ _ => [.w d, .w a, .w b]
  | .ldfIndexed d a b _ _ _ => [.f d, .w a, .w b]
  | .stfIndexed d a b _ _ _ => [.f d, .w a, .w b]
  | .aadd d a b _ _ _ => [.w d, .w a, .w b]
  | .aand d a b _ _ _ => [.w d, .w a, .w b]
  | .aor d a b _ _ _ => [.w d, .w a, .w b]
  | .axor d a b _ _ _ => [.w d, .w a, .w b]
  | .amin d a b _ _ _ => [.w d, .w a, .w b]
  | .amax d a b _ _ _ => [.w d, .w a, .w b]
  | .aminu d a b _ _ _ => [.w d, .w a, .w b]
  | .amaxu d a b _ _ _ => [.w d, .w a, .w b]
  | .aswap d a b _ _ _ => [.w d, .w a, .w b]
  | .acas d a b _ _ _ => [.w d, .w a, .w b, .p 1]
  | .afaddF32 d a b _ _ => [.f d, .w a, .f b]
  | .afaddBf16 d a b _ _ => [.f d, .w a, .f b]
  | .fence _ _ => []
  | .ifence => []
  | .cflush a => [.w a]
  | .cclean a => [.w a]
  | .cinval a => [.w a]
  | .czero a => [.w a]
  | .shfl d a b => [.w d, .w a, .w b]
  | .shflup d a b => [.w d, .w a, .w b]
  | .shfldn d a b => [.w d, .w a, .w b]
  | .shflx d a b => [.w d, .w a, .w b]
  | .fshfl d a b => [.f d, .f a, .w b]
  | .fshflup d a b => [.f d, .f a, .w b]
  | .fshfldn d a b => [.f d, .f a, .w b]
  | .fshflx d a b => [.f d, .f a, .w b]
  | .vall d a => [.p d, .p (a.extractLsb' 0 3)]
  | .vany d a => [.p d, .p (a.extractLsb' 0 3)]
  | .vbal d a => [.w d, .p (a.extractLsb' 0 3)]
  | .lmask d => [.w d]
  | .qpush a b => [.w a, .w b]
  | .qpop d a => [.w d, .w a]
  | .qtry d a => [.w d, .w a, .p 1]
  | .qlen d a => [.w d, .w a]
  | .wlpush a b => [.w a, .w b, .p 1]
  | .wlpop d => [.w (pairReg d), .w (pairReg d + 1), .p 1]
  | .rqpush a b => [.w a, .w b]
  | .rqpop d => [.w d, .p 1]
  | .msend a b => [.w a, .w b]
  | .mrecv d => [.w d]
  | .spawn d a b => [.w d, .w a, .w b, .p 1]
  | .join a => [.w a]
  | .exit => []
  | .sleep => []
  | .wake a => [.w a]
  | .yield => []
  | .migrate a => [.w a]
  | .launch d a => [.w d, .w a]
  | .gcall _ => []
  | .gret => []
  | .bsync _ => []
  | .barv _ => []
  | .bwait _ => []
  | .bquery d _ => [.w d]
  | .wait _ _ _ _ => []
  | .pwait a => [.w a]
  | .mcfg a _ _ => [.w a]
  | .msel a _ => [.w a]
  | .mlds a b _ => [.w a, .w b]
  | .mswp _ => []
  | .mma a b _ => [.w a, .w b]
  | .mmas a b _ => [.w a, .w b]
  | .mzero b _ => [.w b]
  | .mdrn a b _ => [.w a, .w b]
  | .mdrna a b _ => [.w a, .w b]
  | .mdrno a b _ => [.w a, .w b]
  | .mrdr a b _ => [.w a, .w b]
  | .mwrr a b _ => [.w a, .w b]
  | .mstat a _ _ => [.w a]
  | .ccopy a b => [.w a, .w (pairReg b), .w (pairReg b + 1)]
  | .cgath a b => [.w a, .w (pairReg b), .w (pairReg b + 1)]
  | .cscat a b => [.w a, .w (pairReg b), .w (pairReg b + 1)]
  | .cstat a _ => [.w a]
  | .pquery a b _ => [.w a, .w b]
  | .lquery a b => [.w a, .w b]
  | .ncfg a _ _ => [.w a]
  | .nld a b _ => [.w a, .w b]
  | .ninj a b => [.w a, .w b]
  | .ntick a _ => [.w a]
  | .nrd a b _ _ => [.w a, .w b]
  | .nspk a b _ => [.w a, .w b]
  | .tcfg a _ _ => [.w a]
  | .tdesc a b _ => [.w a, .w b]
  | .texp a b _ => [.w a, .w b, .p 1]
  | .tback a b _ => [.w a, .f b]
  | .troot a _ => [.w a]
  | .trdn a b _ _ => [.w a, .w b]
  | .tvl a b _ => [.w a, .w b]
  | .scfg a b n => [.w a, .w b, .f (28 + n.setWidth 5)]
  | .son n => [.f (28 + n.setWidth 5)]
  | .soff n => [.f (28 + n.setWidth 5)]
  | .hplace a b => [.w a, .w b]
  | .sysrd d _ => [.w d]
  | .syswr a _ => [.w a]
  | .sysset d a _ => [.w d, .w a]
  | .sysclr d a _ => [.w d, .w a]
  | .feat d a => [.w d, .w a]
  | .timer a => [.w a]
  | .svc => []
  | .brk => []
  | .rft => []
  | .wfi => []
  | .msvw d a b => (regRange d b).map RegRef.w ++ [.w a]
  | .mrsw d a b => (regRange d b).map RegRef.w ++ [.w a]
  | .msvf d a b => (regRange d b).map RegRef.f ++ [.w a]
  | .mrsf d a b => (regRange d b).map RegRef.f ++ [.w a]
  | .eloop i n _ pd _ => [.w i, .w n, .p pd]
  | .subnormalAssistComplete _ => []
  | .loadPerformed _ _ => []
  | .storePerformed _ _ => []
  | .atomicPerformed _ _ => []
  | .timerExpiry _ _ => []
  | .timerTrapTaken _ => []
  | .messageInterruptTrap _ => []
  | .messagePlaced _ => []
  | .mrecvComplete _ _ => []
  | .wakePlaced _ => []
  | .stallLimitExpiry _ => []
  | .queuePushPlace _ => []
  | .queuePopServe _ => []
  | .queuePopComplete _ _ => []
  | .wlpopComplete _ _ => []
  | .rotationBoundary _ _ => []
  | .slotFill _ _ _ => []
  | .loadLevelInterval => []
  | .worklistEntryArrives _ => []
  | .launchQueueWake _ _ => []
  | .launchAccept _ => []
  | .launchDepctrRead _ _ => []
  | .launchPlace _ _ => []
  | .launchComplete _ _ => []
  | .launchedGangStart _ _ => []
  | .grantArrival _ => []
  | .grantKeyDeadline _ _ => []
  | .grantPack _ => []
  | .gangStart _ => []
  | .callerResume _ => []
  | .migrationArrival _ => []
  | .cellarMove _ _ => []
  | .exitNotice _ => []
  | .barrierArrival _ _ => []
  | .csmctlWrite _ _ => []
  | .csmBankSwitchComplete _ _ => []
  | .fbfcmdRetry _ _ => []
  | .fbfcmdAbort _ _ => []
  | .controlWordWrite _ _ => []
  | .syswrAsid _ => []
  | .syswrAstb _ => []
  | .lqcfgWrite _ => []
  | .faultRoutingWrite _ => []
  | .fbfRetryOnInvalidation _ _ => []
  | .fbfEntryFreed _ => []
  | .recordDelivery _ => []
  | .mxeGrant _ _ => []
  | .mxePassComplete _ _ => []
  | .mxePlaneLoadComplete _ _ => []
  | .mxeTileOpComplete _ _ => []
  | .mxeDrainComplete _ _ => []
  | .mdrnoContributionArrival _ _ => []
  | .mxeCommandFail _ _ => []
  | .cpeGrant _ => []
  | .cpeLineWritten _ _ => []
  | .cpeCommandComplete _ _ => []
  | .cpeCommandFail _ _ => []
  | .streamElementRead _ _ => []
  | .neuronModeSwitch _ _ => []
  | .enbCommandExecute _ => []
  | .neuronEventArrival _ => []
  | .ntickArrival _ => []
  | .tickRecvGather _ _ => []
  | .tickStep _ => []
  | .steCommandBegin _ _ => []
  | .steCommandComplete _ _ => []
  | .steCommandFail _ _ => []
  | .rackPage _ _ => []
  | .rackBlockEnd _ => []
  | .gangStop _ => []
  | .switchOutAtT _ => []
  | .saveComplete _ => []
  | .switchInRestart _ => []
  | .gangOffCore _ _ _ => []
  | .hostReplyRead _ => []
  | .gangReturn _ _ => []
  | .smcCreatePartition _ _ _ _ => []
  | .smcDestroyPartition _ _ => []
  | .smcLoadImage _ => []
  | .smcRaiseSecver _ _ => []
  | .smcStop _ => []
  | .smcResume _ _ => []
  | .smcRelease _ => []
  | .smcSwitchOut _ _ _ => []
  | .smcSwitchIn _ _ => []
  | .smcCheckpoint _ => []
  | .smcRestore _ _ => []
  | .smcQuote _ => []
  | .smcReadLog => []
  | .smcGrantPfx _ _ _ _ _ => []
  | .smcWithdrawPfx _ _ _ _ => []
  | .smcSetBudget _ _ _ _ => []
  | .smcHostWindowBase _ _ _ => []
  | .smcInvalidCommand _ => []
  | .powerOn => []
  | .firmwareImageReceived _ => []
  | .dieRelease _ => []
  | .fullServiceStep _ => []
  | .coreRailOvercurrent _ => []
  | .linkFlitReceive _ _ => []
  | .linkReplayRequest _ _ => []
  | .linkDown _ => []
  | .hostAccess _ => []
  | .hostSnoopTimeout => []
  | .pfxRemoteAccess _ _ _ => []
  | .uncorrectableError _ _ _ _ => []
  | .correctableError => []
  | .illegalInstruction => []
  | .resumeRestart _ => []

/-- An instruction of the thread waits for a register an outstanding operation is still to write (R138). -/
def scoreboarded (t : Thread) (i : Instr) : Bool := (touches i).any fun r => t.busy.contains r

/-- The push or send still waits for accesses of its thread that happen before whatever takes its entry: for `qpush`, `wlpush` and `msend`
every earlier read, and every earlier entry taken, for the writes before them are waited for by their stamps (R12, R221, R230); for
`rqpush`, which has no stamp, and for `launch` and `ntick`, which a set makes together (R332, R355), every earlier access. It is the issue that waits, for the instructions themselves never park for it (Table
8.6). (DEDUCED, log 84: unsafe.) -/
def releaseBusy (t : Thread) : Instr → Bool
  | .qpush _ _ => t.out.any fun o => outReads o || outAcquires o
  | .wlpush _ _ => t.out.any fun o => outReads o || outAcquires o
  | .msend _ _ => t.out.any fun o => outReads o || outAcquires o
  | .rqpush _ _ => t.out.any fun o => outReads o || outWrites o || outAcquires o
  | .launch _ _ => t.out.any fun o => outReads o || outWrites o || outAcquires o
  | .ntick _ _ => t.out.any fun o => outReads o || outWrites o || outAcquires o
  | _ => false

/-- The instruction reads memory for its thread, or acts on a line of it. -/
def readsMemory : Instr → Bool
  | .ld _ _ _ _ _ => true
  | .ldu _ _ _ _ _ => true
  | .ldf _ _ _ _ _ => true
  | .ldIndexed _ _ _ _ _ _ => true
  | .lduIndexed _ _ _ _ _ _ => true
  | .ldfIndexed _ _ _ _ _ _ => true
  | .ldk _ _ => true
  | .addk _ _ _ => true
  | .subk _ _ _ => true
  | .andk _ _ _ => true
  | .ldkf _ _ => true
  | .mrsw _ _ _ => true
  | .mrsf _ _ _ => true
  | .cflush _ => true
  | .cclean _ => true
  | .cinval _ => true
  | .join _ => true
  | _ => false

/-- The instruction writes memory for its thread. -/
def writesMemory : Instr → Bool
  | .st _ _ _ _ _ => true
  | .stf _ _ _ _ _ => true
  | .stIndexed _ _ _ _ _ _ => true
  | .stfIndexed _ _ _ _ _ _ => true
  | .aadd _ _ _ _ _ _ => true
  | .aand _ _ _ _ _ _ => true
  | .aor _ _ _ _ _ _ => true
  | .axor _ _ _ _ _ _ => true
  | .amin _ _ _ _ _ _ => true
  | .amax _ _ _ _ _ _ => true
  | .aminu _ _ _ _ _ _ => true
  | .amaxu _ _ _ _ _ _ => true
  | .aswap _ _ _ _ _ _ => true
  | .acas _ _ _ _ _ _ => true
  | .afaddF32 _ _ _ _ _ => true
  | .afaddBf16 _ _ _ _ _ => true
  | .czero _ => true
  | .msvw _ _ _ => true
  | .msvf _ _ _ => true
  | _ => false

/-- An append of the thread's is still to be made, or has no place yet: it stands before whatever the thread does next (R50, R221). -/
def appendDue (t : Thread) : Bool := t.out.any fun o => unplaced o || makesAppend t o

/-- An access of memory waits at its issue while an acquire of its thread is outstanding, or an append is still to be made or placed, for it
follows them (R216, R221, R263): accesses that have issued then wait for earlier ones alone, and every one is performed (R313).
(DEDUCED, log 89: unsafe.) -/
def orderBusy (t : Thread) (i : Instr) : Bool :=
  (t.out.any outAcquires || appendDue t) && (readsMemory i || writesMemory i || (touches i).any (writeBound t))

/-! ### The scale registers of `mmas` (R168, R172) -/

def cfgFA (w : Word) : Nat := bitsOf 0 4 w
def cfgFB (w : Word) : Nat := bitsOf 4 4 w
def cfgKB (w : Word) : Nat := bitsOf 8 5 w
def cfgSel (w : Word) : Nat := bitsOf 16 6 w
def cfgScb (w : Word) : Bool := natBit 24 w.toNat

/-- The configuration a command latches, its prefix's formats and selector in place (R168). -/
def latched (cfg : Word) (pfx : Option (BitVec 4 × BitVec 4 × BitVec 6)) : Word :=
  match pfx with
  | none => cfg
  | some (fa, fb, sel) => putBits (putBits (putBits cfg 0 4 fa.toNat) 4 4 fb.toNat) 16 6 sel.toNat

def mxCtx (s : State) (c : Ctx) : MxCtx := (s.cluster s.cur.cl).mxe.ctx[c.toNat]

/-- The f registers SEL names: fs, and fs + 1 when there are more than eight K blocks (R172). -/
def scaleRegs (w : Word) : List Reg := (List.range ((cfgKB w + 7) / 8)).map fun i => BitVec.ofNat 5 (cfgSel w / 2 + i)

/-- The lanes whose scale registers `mmas` reads: with SHR = 1 the lowest alone (R172). -/
def scaleLanes (s : State) (w : Word) : List (Nat × Thread) := if cfgSel w % 2 = 1 then s.curThreads.take 1 else s.curThreads

/-- The configuration in force of context `c`: the prefix's formats and selector in place of the latched ones (R168). -/
def State.latchedCfg (s : State) (c : Ctx) : Word := latched (mxCtx s c).cfg s.cur.pfx

/-- Some lane still waits for a scale register that SEL names (R138, R172). -/
def scalesBusy (s : State) (c : Ctx) : Bool :=
  (scaleLanes s (s.latchedCfg c)).any fun x => (scaleRegs (s.latchedCfg c)).any fun r => x.2.busy.contains (.f r)

end Sys2Proof.Machine
end

