-- ==== Sys2Proof/WellFormed.lean ====
section
/-! DEFINITION. Well-formedness: the operand constraints of step 4 of R79 that no encoding carries by itself, and the
ranges of an event's positions. A word that decodes to an ill-formed instruction takes the illegal-instruction trap; an
ill-formed event names a place no device has. -/

namespace Sys2Proof

/-- Orders a load permits: relaxed or acquire (R93, R238). -/
def loadOrder (ord : BitVec 2) : Bool := ord == 0 || ord == 1
/-- Orders a store permits: relaxed or release (R93, R238). -/
def storeOrder (ord : BitVec 2) : Bool := ord == 0 || ord == 2
/-- An assigned scope code (R94). -/
def scopeCode (scope : BitVec 3) : Bool := scope.toNat ≤ 4
/-- The scope of an indexed access: not examined when the order is relaxed (R94). -/
def scopeOk (ord : BitVec 2) (scope : BitVec 3) : Bool := ord == 0 || scopeCode scope

/-- The assigned system register numbers: Tables 2.5, 12.9 and 13.2 (R38). -/
def sysAssigned (r : BitVec 12) : Bool :=
  let n := r.toNat
  n ≤ 0x004 || (0x010 ≤ n && n ≤ 0x012) || (0x018 ≤ n && n ≤ 0x01C) || n == 0x020 || n == 0x021 ||
    (0x100 ≤ n && n ≤ 0x110)

/-- A cluster of the device (R17). -/
def clusterOk (cl : Nat) : Bool := cl < Config.clusters
/-- A core of a cluster (R24). -/
def coreOk (core : Nat) : Bool := core < Config.cores
/-- A thread position: cluster, core and THREADNO as one number (R24). -/
def keyOk (k : Nat) : Bool :=
  clusterOk (k / 256 / 20) && (16 ≤ k / 256 % 20 || k % 256 < 16)

/-- The operand constraints of an instruction, and the ranges of an event. -/
def WellFormed : Instr → Bool
  | .add _ _ _ => true
  | .sub _ _ _ => true
  | .mul _ _ _ => true
  | .mulh _ _ _ => true
  | .mulhu _ _ _ => true
  | .div _ _ _ => true
  | .divu _ _ _ => true
  | .rem _ _ _ => true
  | .remu _ _ _ => true
  | .and _ _ _ => true
  | .or _ _ _ => true
  | .xor _ _ _ => true
  | .andn _ _ _ => true
  | .sll _ _ _ => true
  | .srl _ _ _ => true
  | .sra _ _ _ => true
  | .ror _ _ _ => true
  | .clz _ _ => true
  | .ctz _ _ => true
  | .popc _ _ => true
  | .brev _ _ => true
  | .bswap _ _ => true
  | .min _ _ _ => true
  | .max _ _ _ => true
  | .minu _ _ _ => true
  | .maxu _ _ _ => true
  | .slt _ _ _ => true
  | .sltu _ _ _ => true
  | .sel _ _ _ _ => true
  | .bfxu _ _ _ => true
  | .bfxs _ _ _ => true
  | .bfi _ _ _ => true
  | .addi _ _ _ => true
  | .andi _ _ _ => true
  | .ori _ _ _ => true
  | .xori _ _ _ => true
  | .slti _ _ _ => true
  | .slli _ _ _ => true
  | .srli _ _ _ => true
  | .srai _ _ _ => true
  | .rori _ _ _ => true
  | .slliw _ _ _ => true
  | .srliw _ _ _ => true
  | .sraiw _ _ _ => true
  | .roriw _ _ _ => true
  | .lui _ _ => true
  | .ldk _ _ => true
  | .addk _ _ _ => true
  | .subk _ _ _ => true
  | .andk _ _ _ => true
  | .ldkf _ _ => true
  | .cpeq _ _ _ => true
  | .cpne _ _ _ => true
  | .cplt _ _ _ => true
  | .cpltu _ _ _ => true
  | .cpge _ _ _ => true
  | .cpgeu _ _ _ => true
  | .pand _ _ _ => true
  | .por _ _ _ => true
  | .pxor _ _ _ => true
  | .pmovw _ _ => true
  | .wmovp _ _ => true
  | .br _ _ _ => true
  | .jal _ _ => true
  | .jalr _ _ => true
  | .fadd _ _ _ _ => true
  | .fsub _ _ _ _ => true
  | .fmul _ _ _ _ => true
  | .fdiv _ _ _ _ => true
  | .fsqrt _ _ _ => true
  | .fmadd _ _ _ _ => true
  | .fmsub _ _ _ _ => true
  | .fnmadd _ _ _ _ => true
  | .fnmsub _ _ _ _ => true
  | .fmin _ _ _ _ => true
  | .fmax _ _ _ _ => true
  | .fsgnj _ _ _ _ => true
  | .fsgnjn _ _ _ _ => true
  | .fsgnjx _ _ _ _ => true
  | .fceq _ _ _ _ => true
  | .fclt _ _ _ _ => true
  | .fcle _ _ _ _ => true
  | .fcun _ _ _ _ => true
  | .fclass _ _ _ => true
  | .frint _ _ _ => true
  | .fmov _ _ => true
  | .fmvwf _ _ => true
  | .fmvfw _ _ => true
  | .cvt _ _ _ _ _ _ => true
  | .cvti _ _ _ _ _ => true
  | .fexp2 _ _ => true
  | .flog2 _ _ => true
  | .frsqrt _ _ => true
  | .fsin _ _ => true
  | .fcos _ _ => true
  | .nadd _ _ _ _ _ => true
  | .nsub _ _ _ _ _ => true
  | .nmul _ _ _ _ _ => true
  | .nfma _ _ _ _ _ => true
  | .nmin _ _ _ _ _ => true
  | .nmax _ _ _ _ _ => true
  | .ndot _ _ _ _ _ => true
  | .pfx fa fb _ => fa.toNat ≤ 11 && fb.toNat ≤ 11
  | .ld _ _ _ _ _ => true
  | .ldu _ _ _ sz _ => sz != 3
  | .st _ _ _ _ _ => true
  | .ldf _ _ _ _ _ => true
  | .stf _ _ _ _ _ => true
  | .pref _ _ _ _ => true
  | .ldIndexed _ _ _ _ ord scope => loadOrder ord && scopeOk ord scope
  | .lduIndexed _ _ _ sz ord scope => sz != 3 && loadOrder ord && scopeOk ord scope
  | .stIndexed _ _ _ _ ord scope => storeOrder ord && scopeOk ord scope
  | .ldfIndexed _ _ _ _ ord scope => loadOrder ord && scopeOk ord scope
  | .stfIndexed _ _ _ _ ord scope => storeOrder ord && scopeOk ord scope
  | .aadd _ _ _ _ _ scope => scopeCode scope
  | .aand _ _ _ _ _ scope => scopeCode scope
  | .aor _ _ _ _ _ scope => scopeCode scope
  | .axor _ _ _ _ _ scope => scopeCode scope
  | .amin _ _ _ _ _ scope => scopeCode scope
  | .amax _ _ _ _ _ scope => scopeCode scope
  | .aminu _ _ _ _ _ scope => scopeCode scope
  | .amaxu _ _ _ _ _ scope => scopeCode scope
  | .aswap _ _ _ _ _ scope => scopeCode scope
  | .acas _ _ _ _ _ scope => scopeCode scope
  | .afaddF32 _ _ _ _ scope => scopeCode scope
  | .afaddBf16 _ _ _ _ scope => scopeCode scope
  | .fence pairs scope => pairs != 0 && scopeCode scope
  | .ifence => true
  | .cflush _ => true
  | .cclean _ => true
  | .cinval _ => true
  | .czero _ => true
  | .shfl _ _ _ => true
  | .shflup _ _ _ => true
  | .shfldn _ _ _ => true
  | .shflx _ _ _ => true
  | .fshfl _ _ _ => true
  | .fshflup _ _ _ => true
  | .fshfldn _ _ _ => true
  | .fshflx _ _ _ => true
  | .vall _ _ => true
  | .vany _ _ => true
  | .vbal _ _ => true
  | .lmask _ => true
  | .qpush _ _ => true
  | .qpop _ _ => true
  | .qtry _ _ => true
  | .qlen _ _ => true
  | .wlpush _ _ => true
  | .wlpop d => d != 0
  | .rqpush _ _ => true
  | .rqpop _ => true
  | .msend _ _ => true
  | .mrecv _ => true
  | .spawn _ _ _ => true
  | .join _ => true
  | .exit => true
  | .sleep => true
  | .wake _ => true
  | .yield => true
  | .migrate _ => true
  | .launch _ _ => true
  | .gcall _ => true
  | .gret => true
  | .bsync _ => true
  | .barv _ => true
  | .bwait _ => true
  | .bquery _ _ => true
  | .wait _ _ _ _ => true
  | .pwait a => a != 0
  | .mcfg _ _ _ => true
  | .msel _ _ => true
  | .mlds _ _ _ => true
  | .mswp _ => true
  | .mma _ _ _ => true
  | .mmas _ _ _ => true
  | .mzero _ _ => true
  | .mdrn _ _ _ => true
  | .mdrna _ _ _ => true
  | .mdrno _ _ _ => true
  | .mrdr _ _ _ => true
  | .mwrr _ _ _ => true
  | .mstat _ _ _ => true
  | .ccopy _ b => b != 0
  | .cgath _ b => b != 0
  | .cscat _ b => b != 0
  | .cstat _ _ => true
  | .pquery _ _ _ => true
  | .lquery _ _ => true
  | .ncfg _ _ _ => true
  | .nld _ _ _ => true
  | .ninj _ _ => true
  | .ntick _ _ => true
  | .nrd _ _ _ _ => true
  | .nspk _ _ _ => true
  | .tcfg _ _ _ => true
  | .tdesc _ _ _ => true
  | .texp _ _ _ => true
  | .tback _ _ _ => true
  | .troot _ _ => true
  | .trdn _ _ _ _ => true
  | .tvl _ _ _ => true
  | .scfg _ _ _ => true
  | .son _ => true
  | .soff _ => true
  | .hplace _ _ => true
  | .sysrd _ r => sysAssigned r
  | .syswr _ r => sysAssigned r
  | .sysset _ _ r => sysAssigned r
  | .sysclr _ _ r => sysAssigned r
  | .feat _ _ => true
  | .timer _ => true
  | .svc => true
  | .brk => true
  | .rft => true
  | .wfi => true
  | .msvw d _ b => d.toNat ≤ b.toNat
  | .mrsw d _ b => d.toNat ≤ b.toNat
  | .msvf d _ b => d.toNat ≤ b.toNat
  | .mrsf d _ b => d.toNat ≤ b.toNat
  | .eloop i _ s p _ => i != 0 && p != 0 && s != 3
  | .subnormalAssistComplete k => keyOk k
  | .loadPerformed k _ => keyOk k
  | .storePerformed k _ => keyOk k
  | .atomicPerformed k _ => keyOk k
  | .timerExpiry cl core => clusterOk cl && coreOk core
  | .timerTrapTaken k => keyOk k
  | .messageInterruptTrap k => keyOk k
  | .messagePlaced _ => true
  | .mrecvComplete k _ => keyOk k
  | .wakePlaced _ => true
  | .stallLimitExpiry k => keyOk k
  | .queuePushPlace _ => true
  | .queuePopServe _ => true
  | .queuePopComplete k _ => keyOk k
  | .wlpopComplete k _ => keyOk k
  | .rotationBoundary cl core => clusterOk cl && coreOk core
  | .slotFill cl core slot => clusterOk cl && coreOk core && slot < 16
  | .loadLevelInterval => true
  | .worklistEntryArrives _ => true
  | .launchQueueWake part _ => part < 8
  | .launchAccept _ => true
  | .launchDepctrRead part _ => part < 8
  | .launchPlace part _ => part < 8
  | .launchComplete part _ => part < 8
  | .launchedGangStart cl core => clusterOk cl && coreOk core
  | .grantArrival _ => true
  | .grantKeyDeadline cl key => clusterOk cl && key < 64
  | .grantPack cl => clusterOk cl
  | .gangStart cl => clusterOk cl
  | .callerResume _ => true
  | .migrationArrival _ => true
  | .cellarMove cl core => clusterOk cl && coreOk core
  | .exitNotice _ => true
  | .barrierArrival _ g => g < 256
  | .csmctlWrite k _ => keyOk k
  | .csmBankSwitchComplete cl bank => clusterOk cl && bank < 16
  | .fbfcmdRetry k _ => keyOk k
  | .fbfcmdAbort k _ => keyOk k
  | .controlWordWrite k _ => keyOk k
  | .syswrAsid k => keyOk k
  | .syswrAstb k => keyOk k
  | .lqcfgWrite k => keyOk k
  | .faultRoutingWrite k => keyOk k
  | .fbfRetryOnInvalidation cl _ => clusterOk cl
  | .fbfEntryFreed cl => clusterOk cl
  | .recordDelivery row => row < 16
  | .mxeGrant cl cls => clusterOk cl && cls < 2
  | .mxePassComplete cl _ => clusterOk cl
  | .mxePlaneLoadComplete cl _ => clusterOk cl
  | .mxeTileOpComplete cl _ => clusterOk cl
  | .mxeDrainComplete cl _ => clusterOk cl
  | .mdrnoContributionArrival cl _ => clusterOk cl
  | .mxeCommandFail cl _ => clusterOk cl
  | .cpeGrant cl => clusterOk cl
  | .cpeLineWritten cl _ => clusterOk cl
  | .cpeCommandComplete cl _ => clusterOk cl
  | .cpeCommandFail cl _ => clusterOk cl
  | .streamElementRead k n => keyOk k && n < 4
  | .neuronModeSwitch cl _ => clusterOk cl
  | .enbCommandExecute cl => clusterOk cl
  | .neuronEventArrival _ => true
  | .ntickArrival k => keyOk k
  | .tickRecvGather part g => part < 8 && g < 256
  | .tickStep cl => clusterOk cl
  | .steCommandBegin cl _ => clusterOk cl
  | .steCommandComplete cl _ => clusterOk cl
  | .steCommandFail cl _ => clusterOk cl
  | .rackPage _ _ => true
  | .rackBlockEnd _ => true
  | .gangStop part => part < 8
  | .switchOutAtT part => part < 8
  | .saveComplete part => part < 8
  | .switchInRestart part => part < 8
  | .gangOffCore cl core slot => clusterOk cl && coreOk core && slot < 16
  | .hostReplyRead k => keyOk k
  | .gangReturn cl _ => clusterOk cl
  | .smcCreatePartition _ _ _ _ => true
  | .smcDestroyPartition _ _ => true
  | .smcLoadImage _ => true
  | .smcRaiseSecver _ _ => true
  | .smcStop _ => true
  | .smcResume _ _ => true
  | .smcRelease _ => true
  | .smcSwitchOut _ _ _ => true
  | .smcSwitchIn _ _ => true
  | .smcCheckpoint _ => true
  | .smcRestore _ _ => true
  | .smcQuote _ => true
  | .smcReadLog => true
  | .smcGrantPfx _ _ _ _ _ => true
  | .smcWithdrawPfx _ _ _ _ => true
  | .smcSetBudget _ _ _ _ => true
  | .smcHostWindowBase _ _ _ => true
  | .smcInvalidCommand code => code = 0 || 11 < code
  | .powerOn => true
  | .firmwareImageReceived _ => true
  | .dieRelease die => die < 4
  | .fullServiceStep ddrGib => ddrGib ≤ 2048
  | .coreRailOvercurrent ref => ref ≤ 256
  | .linkFlitReceive port _ => port ≤ 16
  | .linkReplayRequest port _ => port ≤ 16
  | .linkDown port => port ≤ 16
  | .hostAccess _ => true
  | .hostSnoopTimeout => true
  | .pfxRemoteAccess _ _ _ => true
  | .uncorrectableError storage _ k _ => storage < 8 && keyOk k
  | .correctableError => true
  | .illegalInstruction => true
  | .resumeRestart part => part < 8

end Sys2Proof
end

