-- ==== Sys2Proof/Machine/Sched.lean ====
section
/-! DEFINITION. What a step does before it runs an instruction: time (R4), the readiness of slots and lanes (R287, R289),
the fetch and decode of the issuing set's word and of a prefixed pair (R55, R79, R390), and the choice of what moves next. -/

namespace Sys2Proof.Machine

/-- Time passes: some core cycles, and GTIME, which advances at 2.0 GHz at every service level (R4, R274). -/
def passTime (s : State) : State :=
  let n := Config.freeCycles s.free
  { s with cyc := s.cyc + n, gtime := s.gtime + (if s.stage = .early then 2 * n else n), free := s.free + 1 }

/-- The counters of a thread are at or below the bounds, 15 examining nothing (R37). -/
def withinBounds (t : Thread) (ld st cp tl : Nat) : Bool :=
  (ld = 15 || t.ld ≤ ld) && (st = 15 || t.st ≤ st) && (cp = 15 || t.cp ≤ cp) && (tl = 15 || t.tl ≤ tl)

/-- A thread's counter by number: 0 ld, 1 st, 2 cp, 3 tl. -/
def counterOf (t : Thread) : Nat → Nat
  | 0 => t.ld
  | 1 => t.st
  | 2 => t.cp
  | _ => t.tl

/-- Copy tags held by a core (R26): the copies posted and in flight that its threads issued. -/
def tagsOf (c : Cluster) (core : Nat) : Nat :=
  (c.cpe.filter fun x => x.issuer.2.1 == core).length + (c.cpeRun.filter fun x => x.cmd.issuer.2.1 == core).length

/-- Copy tags in use in a cluster (R26). -/
def tagsUsed (c : Cluster) : Nat := c.cpe.length + c.cpeRun.length

/-- A core may take one more copy tag: at most 128 for an SC and 256 for a GC, and 2,560 in the cluster (R26). -/
def tagFree (c : Cluster) (core : Nat) : Bool :=
  tagsUsed c < Config.tags && tagsOf c core < (if isSC core then 128 else 256)

/-- The table an engine's commands wait for has room: 32 entries each (R173, R356, R364). -/
def tableRoom (c : Cluster) : Nat → Bool
  | 0 => c.mxe.table.length < 32
  | 2 => c.enb.queue.length < 32
  | _ => c.ste.table.length + c.ste.running.length < 32

/-- The lanes a slot may hold: lane 0 of a barrel slot, the active mask of a gang (R288). -/
def slotLanes (s : State) (cl core slot : Nat) : List Nat :=
  if isSC core then [0]
  else
    match mget (s.core cl core).gangs slot with
    | none => []
    | some g => (List.range 32).filter fun l => g.mask.getLsbD l

/-- Every lane of the slot that waits as this one does may raise tl: a set posts, or sends its event, together (R173, R355). -/
def lanesMayPost (s : State) (k : Nat) (why : ParkWhy) : Bool :=
  let cl := keyCl k
  let core := keyCore k
  let slot := slotOf core (keyThr k)
  (slotLanes s cl core slot).all fun l => match s.thread (keyOf cl core (thrOf core slot l)) with
    | some u => u.tl < 63 || (u.park.map (·.why)) != some why
    | none => true

/-- The ASID of a partition's service rings (R412, R417). -/
def ringAsid (p : Partition) : BitVec 16 := p.fhcfg.setWidth 16
/-- The address of a ring's descriptor, of FHBASE or HRBASE. -/
def ringBase (w : Word) : Word := word (bitsOf 7 49 w * 128)

/-- A word of a ring's descriptor, where its page is mapped (Table 13.4) and its data good (R438). -/
def ringWord (s : State) (p : Partition) (asid : BitVec 16) (base : Word) (off : Nat) : Option Nat :=
  match resolve s p asid true .read (base + word off) with
  | .ok key _ => if (badAmong s (span key 8)).isSome then none else some (s.numAt (span key 8))
  | .bad _ _ _ => none

/-- A ring has entry `i` free: HEAD > i − 2^LOG2N (R417). An unmapped descriptor is for the access itself to find. -/
def ringFree (s : State) (p : Partition) (asid : BitVec 16) (base : Word) (i : Nat) : Bool :=
  match ringWord s p asid base 0x10, ringWord s p asid base 8 with
  | some head, some n => i < head + 2 ^ (n % 32)
  | _, _ => true

/-- The host requests of a partition whose reply has not been read, of lanes in their slots and of gangs off-core (R434). -/
def hostCalls (s : State) (p : Partition) : List HostCall :=
  let mine (cl : Nat) : Bool := p.halfDies.getLsbD (halfDieOf cl)
  ((s.threads.filter fun e => mine (keyCl e.1)).map (·.2) ++
    (s.clusters.filter fun e => mine e.1).flatMap fun e => e.2.offCore.flatMap fun o => o.lanes.map (·.2)).filterMap (·.call)

/-- The host ring has a request's entry free, and the reply to the request that last held its slot has been read (R417, R435). -/
def ringRoom (s : State) (cl : Nat) (c : HostCall) : Bool := match s.partOf cl with
  | none => true
  | some (_, p) => c.index.all fun i => ringFree s p c.asid c.base i && match ringWord s p c.asid c.base 8 with
    | some n => (hostCalls s p).all fun x => x.base != c.base || x.index.all fun j => i < j + 2 ^ (n % 32)
    | none => true

/-- A lane's request comes next: every lane before it in its issuing set has written its own (step 2 of R434). -/
def ringTurn (s : State) (k : Nat) (t : Thread) (c : HostCall) : Bool :=
  let cl := keyCl k
  let core := keyCore k
  let slot := slotOf core (keyThr k)
  (slotLanes s cl core slot).all fun l => match s.thread (keyOf cl core (thrOf core slot l)) with
    | none => true
    | some u => u.pc != t.pc || (u.park.map (·.why)) == some .host || u.call.all fun x => x.nb != c.nb || c.pos ≤ x.pos

/-- A core has sent an `ntick` arrival for the tick a group is completing (R349). -/
def tickArrived (s : State) (p cl core g : Nat) : Bool :=
  (((s.part p).bind fun x => mget x.groups g).any fun e => e.tickCores.contains (cl, core)) ||
    s.flights.any fun f => match f with
      | .tick ks q h _ _ _ => q == p && h == g && ks.any fun k => keyCl k == cl && keyCore k == core
      | _ => false

/-- A parked `ntick` goes on: the step of the tick it arrived for has ended, or its arrival was refused; before it has arrived,
once the tick its core has arrived for has completed and its cluster's tick step, which makes the next tick CT, has ended (R347, R349).
(DEDUCED, log 82: unsafe.) -/
def tickOver (s : State) (k : Nat) (t : Thread) (g : Nat) : Bool :=
  if xsAP t.xstat then
    ((mget t.last 256).getD 0 ≤ (s.cluster (keyCl k)).enb.ct) && !s.flights.any fun f => match f with
      | .tick ks _ _ _ _ _ => ks.contains k
      | _ => false
  else !tickArrived s (s.partNo (keyCl k)) (keyCl k) (keyCore k) g && (s.cluster (keyCl k)).enb.due.isEmpty

/-- The acquire of a `join` may be performed, and reads zero (R320). -/
def joinReads (s : State) (t : Thread) (addrs lines : List Nat) : Bool :=
  readReady t.out { kind := .load (.w 0) false, addrs := addrs, data := [], order := 1, scope := 3, pc := t.pc, serial := 0, inst := s.free,
                    lines := lines, va := 0 } && leNat (addrs.map (s.seen t.out)) = 0

/-- A parked `join` goes on: the word at its address reads zero, after every acquire the thread made before it, or the address no longer
gives a word to read (R320). -/
def joinOver (s : State) (k : Nat) (t : Thread) (va : Word) : Bool :=
  match s.partOf (keyCl k) with
  | none => false
  | some (_, p) => match resolve s p t.asid (xsSUP t.xstat) .read va with
    | .bad _ _ _ => true
    | .ok key lines => (rackedFrame s [key]).isNone && ((badAmong s (span key 8)).isSome || joinReads s t (span key 8) lines)

/-- A request of a thread to a queue is in transit, waits at its bank, or has taken an entry that waits for its stamp (R262, R263). -/
def queueWaiting (s : State) (k : Nat) (t : Thread) : Bool :=
  (s.flights.any fun f => match f with
    | .push j _ _ _ _ _ _ => j == k
    | .pop j _ _ _ _ => j == k
    | _ => false) ||
  (s.clusters.any fun c => c.2.fifos.any fun f => (f.2.pushes.any fun x => x.1 == k) || f.2.pops.any fun x => x.1 == k) ||
  t.out.any fun o => match o.kind with
    | .pop _ _ _ _ => true
    | _ => false

/-- The condition a parked thread waits for has come about, so that its instruction runs again (R9, R316). The parks an
event ends, rather than a condition, are not over until that event. (DEDUCED, log 10: safe.) -/
def parkOver (s : State) (k : Nat) (t : Thread) : ParkWhy → Bool
  | .counters ld st cp tl => withinBounds t ld st cp tl
  | .presence line => match s.presenceOf line with
    | some (.absent _) => false
    | _ => true
  | .counterFull n => if n = 3 then lanesMayPost s k (.counterFull 3) else counterOf t n < 63
  | .tableFull e => tableRoom (s.cluster (keyCl k)) e && (if e = 3 then t.tl < 63 else lanesMayPost s k (.tableFull e))
  | .noTag => tagFree (s.cluster (keyCl k)) (keyCore k) && t.cp < 63
  | .stream n => !(streamOf t n).ahead.isEmpty || (streamOf t n).state != .readBound
  | .mailbox => !(s.mailbox k).isEmpty && t.ld < 63
  | .join va => joinOver s k t va
  | .sleep => s.wakes.contains k
  | .barrier g phase => match (s.partOf (keyCl k)).bind fun p => mget p.2.groups g with
    | some e => e.phase != phase
    | none => true
  | .scoreboard rs => rs.all fun r => !t.busy.contains r
  | .fence ld st => t.out.all fun o => !(ld && outReads o) && !(st && (outWrites o || makesAppend t o))
  | .release => t.out.all fun o => !outReads o && !outWrites o && !outAcquires o
  | .grantRelease => t.out.all fun o => !outReads o && !outWrites o && !outAcquires o
  | .tableWrite lines => !tableDirty s lines
  | .racking f => !racked s f
  | .bank cl b => !bankBusy (s.cluster cl) b
  | .drain all => t.cp = 0 && t.tl = 0 && (!all || (t.ld = 0 && t.st = 0))
  | .svcDrain ks => ks.all fun j => (s.thread j).all fun u => u.ld = 0 && u.st = 0 && u.cp = 0 && u.tl = 0
  | .wfi => s.wakes.contains k || !(s.mailbox k).isEmpty ||
      (s.core (keyCl k) (keyCore k)).timerDue == some (keyThr k)
  | .queuePush => !s.clusters.any fun c => c.2.fifos.any fun f => f.2.pushes.any fun x => x.1 == k
  | .queuePop => !queueWaiting s k t
  | .grantRoom => false
  | .grantKey => false
  | .grantPacked => false
  | .tick g => tickOver s k t g
  | .fault => false
  | .assist _ _ => false
  | .host => false
  | .hostOff => (s.partOf (keyCl k)).any fun p => natBit 0 p.2.hrbase.toNat
  | .ring => t.call.all fun c => ringRoom s (keyCl k) c && ringTurn s k t c
  | .replied => false
  | .stalled => false
  | .queueGone => false
  | .aborted _ => false
  | .launch => false
  | .texp => false
  | .revoked => false
  | .sysWrite _ _ _ _ => false

/-- A thread is ready: not parked, or its park is over (R287, R289). (DESIGN CHOICE, log 14: safe.) -/
def isReady (s : State) (k : Nat) (t : Thread) : Bool :=
  match t.park with
  | none => true
  | some p => parkOver s k t p.why

/-- The parks of Table 9.6, and that of `ntick` (R353). -/
def budgeted : ParkWhy → Bool
  | .counters _ _ _ _ => true
  | .presence _ => true
  | .counterFull _ => true
  | .tableFull _ => true
  | .noTag => true
  | .stream _ => true
  | .queuePush => true
  | .queuePop => true
  | .mailbox => true
  | .grantRelease => true
  | .grantRoom => true
  | .grantKey => true
  | .join _ => true
  | .sleep => true
  | .barrier _ _ => true
  | .tick _ => true
  | _ => false

/-- A caller leaves its key; a key left with none is freed (R296). -/
def leaveKey (g : Map GrantKey) (k : Nat) : Map GrantKey :=
  (g.map fun e => (e.1, { e.2 with callers := e.2.callers.filter (· != k) })).filter fun e => !e.2.callers.isEmpty

/-- A waiting request of a parked thread is withdrawn (R311). -/
def State.withdraw (s : State) (k : Nat) : State :=
  { s with
    flights := s.flights.filter fun f => match f with
      | .pop j _ _ _ once => j != k || once
      | .gcall j _ => j != k
      | _ => true
    clusters := s.clusters.map fun c => (c.1, { c.2 with
      fifos := c.2.fifos.map fun f => (f.1, { f.2 with
        pushes := f.2.pushes.filter fun x => x.1 != k
        pops := f.2.pops.filter fun x => x.1 != k })
      grant := leaveKey c.2.grant k
      grantWait := c.2.grantWait.filter fun x => x.1 != k }) }

/-- The arrival on its way that a thread parked at a barrier or at an `ntick` waits after (R329, R349). -/
def ownArrival (k : Nat) (t : Thread) : Flight → Bool
  | .arrival u _ g phase => u == t.uid && (t.park.map (·.why)) == some (.barrier g phase)
  | .tick ks _ g _ _ _ => ks.contains k && (t.park.map (·.why)) == some (.tick g)
  | _ => false

/-- The arrival a thread waits after is on its way: nothing has recorded it (R307, R311). -/
def arrivalDue (s : State) (k : Nat) (t : Thread) : Bool := xsAP t.xstat && s.flights.any (ownArrival k t)

/-- A thread's arrival that its home has not recorded is taken back (R307, R311, R353). -/
def State.withdrawArrival (s : State) (k : Nat) (t : Thread) : State :=
  { s with flights := s.flights.filterMap fun f =>
      if !ownArrival k t f then some f
      else match f with
        | .tick ks p g n sent recv => if ks.all (· == k) then none else some (.tick (ks.filter (· != k)) p g n sent recv)
        | _ => none }

/-- A thread whose arrival is taken back: it has not arrived (R329, R349). -/
def unarrived (t : Thread) : Thread :=
  let u (g : Nat) : Thread := { t with xstat := xsSetAP t.xstat false, last := mdel t.last g }
  match t.park with
  | some { why := .barrier g _, since := _ } => u g
  | some { why := .tick _, since := _ } => u 256
  | _ => t

/-- The park of a lane held off-core is over; a request withdrawn as its gang left is made again only after its return (R434, R469). Of its
own `ntick` arrivals none is on its way. -/
def offOver (s : State) (k : Nat) (t : Thread) : ParkWhy → Bool
  | .queuePush => false
  | .queuePop => false
  | .mailbox => false
  | .sleep => false
  | .tableFull e => tableRoom (s.cluster (keyCl k)) e
  | .tick g => if xsAP t.xstat then (mget t.last 256).getD 0 ≤ (s.cluster (keyCl k)).enb.ct else tickOver s k t g
  | w => parkOver s k t w

/-- A lane held off-core whose stall count has expired: it takes its trap when its gang returns (R469). -/
def stallOff (s : State) (k : Nat) (t : Thread) : Thread :=
  match t.park, stallLimit t.xstat with
  | some p, some n =>
    if budgeted p.why && p.since + n ≤ s.cyc && !offOver s k t p.why then
      { (if arrivalDue s k t then unarrived t else t) with park := some { p with why := .stalled } }
    else t
  | _, _ => t

/-- A lane that has left its position is named at its bank by its own name (R469). -/
def awayKey (uid : Nat) : Nat := 2 ^ 40 + uid

/-- The lane held off-core that left a position, as its stall count stands (R469). -/
def State.stallOffCore (s : State) (k : Nat) : State :=
  { s with clusters := s.clusters.map fun (e : Nat × Cluster) => if e.1 != keyCl k then e else (e.1, { e.2 with
      offCore := e.2.offCore.map fun (o : OffGang) => { o with
        lanes := o.lanes.map fun (l : Nat × Thread) =>
          if o.core == keyCore k && thrOf o.core o.slot l.1 == keyThr k then (l.1, stallOff s k l.2) else l } }) }

/-- The lanes held off-core in running clusters whose stall count has expired as time stands: the position each left, and its name (R469). -/
def expiredOff (s : State) : List (Nat × Nat) :=
  (s.clusters.filter fun e => !e.2.offCore.isEmpty && clusterRuns s e.1).flatMap fun e => e.2.offCore.flatMap fun o =>
    (o.lanes.map fun l => (keyOf e.1 o.core (thrOf o.core o.slot l.1), l.2)).filterMap fun x =>
      if stallOff s x.1 x.2 = x.2 then none else some (x.1, x.2.uid)

/-- A lane held off-core, by the position it left and its name, whose stall count expires: its request at a bank, or its arrival that is still
on its way, is withdrawn (R311, R469). -/
def State.expireOff (s : State) (k uid : Nat) : State :=
  let lanes := s.clusters.flatMap fun e => e.2.offCore.flatMap fun o => (o.lanes.map (·.2)).filter fun t => t.uid == uid && arrivalDue s k t
  lanes.foldl (fun u t => u.withdrawArrival k t) ((s.stallOffCore k).withdraw (awayKey uid))

/-- Time passes, and the stall counts that expire off-core are noted as they do (R469). -/
def advance (s : State) : State :=
  let u := passTime s
  (expiredOff u).foldl (fun u x => u.expireOff x.1 x.2) u

/-- A park that holds a thread in the grant (R326). -/
def inGrant : ParkWhy → Bool
  | .grantRoom => true
  | .grantKey => true
  | .grantPacked => true
  | _ => false

/-- An asynchronous trap may come before the thread's next instruction: it is ready, or parked in a budgeted wait outside the
grant. A `wfi` retires first (R445). -/
def interruptible (s : State) (k : Nat) (t : Thread) : Bool :=
  match t.park with
  | none => true
  | some p => p.why != .wfi && !inGrant p.why && (budgeted p.why || parkOver s k t p.why)

/-- The core's armed timer has expired (R407). -/
def timerExpired (s : State) (cl core : Nat) : Bool := (s.core cl core).timer.any fun x => x.2.toNat ≤ s.gtime

/-- The pending timer trap is for this thread and may be taken now (R407, R473). -/
def timerTrapDue (s : State) (k : Nat) (t : Thread) : Bool :=
  isSC (keyCore k) && clusterRuns s (keyCl k) && (s.core (keyCl k) (keyCore k)).timerDue == some (keyThr k) && xsIE t.xstat &&
    interruptible s k t

/-- The message trap is to be taken (R271, R472): a level, in an SC thread outside a handler; a timer that has reached its time
goes first (R473). -/
def messageTrapDue (s : State) (k : Nat) (t : Thread) : Bool :=
  isSC (keyCore k) && clusterRuns s (keyCl k) && xsIE t.xstat && !tcV t.tcause && !(s.mailbox k).isEmpty &&
    (t.park.map (·.why)) != some .mailbox && (s.core (keyCl k) (keyCore k)).timerDue != some (keyThr k) &&
    !((s.core (keyCl k) (keyCore k)).timer.any fun x => x.1 == keyThr k && x.2.toNat ≤ s.gtime) && interruptible s k t

/-- A lane is held by a `yield`: slots that were ready then have not all issued since, and 16 cycles have not passed (R324). -/
def yielding (s : State) (cl core slot lane : Nat) : Bool :=
  (s.core cl core).yields.any fun y => y.slot == slot && y.lanes.contains lane && !y.waits.isEmpty && s.cyc < y.since + 16

/-- The ready lanes of a slot with their threads (R289). -/
def readyLanes (s : State) (cl core slot : Nat) : List (Nat × Thread) :=
  (slotLanes s cl core slot).filterMap fun l =>
    let k := keyOf cl core (thrOf core slot l)
    match s.thread k with
    | some t => if isReady s k t && !yielding s cl core slot l then some (l, t) else none
    | none => none

/-- The issuing set of a slot: its ready lanes at the lowest PC among them (R136, R289). -/
def issuingSet (s : State) (cl core slot : Nat) : List (Nat × Thread) :=
  let r := readyLanes s cl core slot
  match leastBy (fun x => x.2.pc.toNat) r with
  | none => []
  | some m => r.filter fun x => x.2.pc == m.2.pc

/-- What fetching a word gives a thread (step 1 of R79). -/
inductive Fetched where
  /-- the word, or the loop pseudo-form whose native code it is, and whether it is one (R78, R397) -/
  | word (w : BitVec 32) (elpol : Bool)
  | stop (c : Check)
  deriving DecidableEq, Repr

/-- A word from four bytes, least significant first (R29). -/
def wordAt (s : State) (key : Nat) : BitVec 32 := BitVec.ofNat 32 (s.numAt (span key 4))

/-- A word read at a key of code, or the loop pseudo-form that it replaces (R78). -/
def wordOrLoop (w : BitVec 32) (loop : Option (BitVec 32)) : Fetched := match loop with
  | some e => .word e true
  | none => .word w false

/-- A word of an Elpol body is a loop pseudo-form (R76). -/
def loopWord (w : BitVec 32) : Bool := w.extractLsb' 25 7 == 0x7E

/-- The loop pseudo-form whose native code lies at a key (R397). -/
def loopAt (s : State) (key : Nat) : Option (BitVec 32) :=
  (s.frames.find? fun f => homeKey s (f.1 * 65536) / 65536 == key / 65536).bind fun f => mget f.2.loops (key % 65536)

/-- A fetched word: the one in memory; or, where the loader has replaced it and the thread has issued no `ifence` since, either that one or
the one before, as a relaxed read may return it (R389). -/
def fetchedWord (s : State) (t : Thread) (key : Nat) : Fetched :=
  let now := wordOrLoop (wordAt s key) (loopAt s key)
  match s.oldText.find? fun x => x.addr == key && x.readers.contains t.uid with
  | some x => if Config.oldFetch s.free then wordOrLoop x.word x.loop else now
  | none => now

/-- The fetch of the word at `pc` by a thread of cluster `cl` (R234, R385, R390): bits [1:0] of the address are taken as
zero. (DEDUCED, log 11: unsafe.) -/
def fetch (s : State) (cl : Nat) (t : Thread) (pc : Word) : Fetched :=
  match s.partOf cl with
  | none => .stop (.trap 4 pc)
  | some p =>
    let va := pc &&& ~~~ (3 : Word)
    match resolve s p.2 t.asid (xsSUP t.xstat) .fetch va with
    | .bad 4 _ _ => .stop (.trap 4 pc)
    | .bad 0x0C _ _ => .stop (.trap 0x0C pc)
    | .bad 0x15 _ l => .stop (.trap 0x15 (word (l.headD 0)))
    | .bad c r l => .stop (.fault c r pc l)
    | .ok key _ =>
      match rackedFrame s [key] with
      | some f => .stop (.park (.racking f))
      | none =>
        if onDownLink s key || (badAmong s (span key 4)).isSome then .stop (.trap 0x15 (word key))
        else if farRefused s p.1 key false then .stop (.trap 4 pc)
        else fetchedWord s t key

/-- A record of an image-revoked fetch: the thread stays parked (R390, R411). -/
def revokedRecord (s : State) (k : Nat) (t : Thread) : Record :=
  mkRecord (s.partNo (keyCl k)) (keyCl k) (keyCore k) 0x0C 0 t.asid.toNat t.pc t.pc

/-- A fetch that does not give a word, in one lane: the protection fault, the FBF, the image-revoked record, a park, or the containment
of bad data or of a link that is down (R438, R440).
(DEDUCED, log 13: unsafe.) -/
def fetchStop (s : State) (k : Nat) (t : Thread) (c : Check) : State :=
  match c with
  | .trap 0x15 key => match badAmong s (span key.toNat 4) with
    | some b => s.containBad (s.partNo (keyCl k)) (keyCl k) (keyCore k) b t.pc
    | none => s.containLink (s.partNo (keyCl k)) (keyCl k) (keyCore k) key.toNat t.pc
  | .trap 0x0C _ => (s.parkAt k t .revoked).sendRecord (keyCl k) (revokedRecord s k t)
  | .trap c v => s.trap k t c v
  | .fault c r va l => s.faultPark k t .fetch c r va l
  | .park w => s.parkAt k t w
  | .ok _ _ => s

/-- The instructions that accept a prefix (R54, Table 3.19). (DEDUCED, log 68: safe.) -/
def acceptsPrefix : Instr → Bool
  | .cvt _ _ _ _ _ _ => true
  | .cvti _ _ _ _ _ => true
  | .nadd _ _ _ _ _ => true
  | .nsub _ _ _ _ _ => true
  | .nmul _ _ _ _ _ => true
  | .nfma _ _ _ _ _ => true
  | .nmin _ _ _ _ _ => true
  | .nmax _ _ _ _ _ => true
  | .ndot _ _ _ _ _ => true
  | .mlds _ _ _ => true
  | .mma _ _ _ => true
  | .mmas _ _ _ => true
  | _ => false

/-- Only translated Elpol text may hold the loop pseudo-form (R76, R78, R82). (DESIGN CHOICE, log 12: unsafe.) -/
def elpolOnly : Instr → Bool
  | .eloop _ _ _ _ _ => true
  | _ => false

/-- The instruction a word is where it stands (steps 2 to 4 of R79); none raises the illegal-instruction trap. -/
def decodeAt (w : BitVec 32) (elpol : Bool) : Option Instr :=
  match decode w with
  | .ok i => if WellFormed i && (elpol || !elpolOnly i) then some i else none
  | .error _ => none

/-- What the issue of a slot comes to. -/
inductive Plan where
  /-- an instruction runs in the issuing set, or both words of a prefixed pair do -/
  | run (i : Instr) (s : State)
  | pair (p i : Instr) (s : State)
  /-- nothing runs: the fetch of the slot stopped it, or the turn comes to nothing -/
  | settled (s : State)
  deriving DecidableEq, Repr

/-- The fetch of one word by every lane of the issuing set: the word they share, or the state with each lane that could
not fetch it stopped. A lane stopped on the second word of a pair is stopped at the prefix (R55). -/
def fetchSet (s : State) (off : Word) : Except State (BitVec 32 × Bool) :=
  let got := s.curThreads.map fun x => (x, fetch s s.cur.cl x.2 (x.2.pc + off))
  match got with
  | [] => .error s
  | (_, f) :: _ =>
    if got.all fun g => g.2 == f then
      match f with
      | .word w e => .ok (w, e)
      | .stop c => .error (got.foldl (fun s g => fetchStop s g.1.1 g.1.2 c) s)
    else .error (got.foldl (fun s g => match g.2 with
      | .word _ _ => s
      | .stop c => fetchStop s g.1.1 g.1.2 c) s)

/-- Some lane of the issuing set still waits for a register the instruction names, for a scale register SEL names, or for an access that its
read of the constant window, its push or its access of memory follows (R138, R144, R172, R230, R287, R289, R313). -/
def setBusy (s : State) (i : Instr) : Bool :=
  (s.curThreads.any fun x => scoreboarded x.2 i || constBusy x.1 x.2 i || releaseBusy x.2 i || orderBusy x.2 i) ||
    match i with
    | .mmas _ _ c => scalesBusy s c
    | _ => false

/-- The first register an instruction names is one it reads. -/
def readsHead : Instr → Bool
  | .bfi _ _ _ => true
  | .fmadd _ _ _ _ => true
  | .fmsub _ _ _ _ => true
  | .fnmadd _ _ _ _ => true
  | .fnmsub _ _ _ _ => true
  | .nfma _ _ _ _ _ => true
  | .ndot _ _ _ _ _ => true
  | .st _ _ _ _ _ => true
  | .stf _ _ _ _ _ => true
  | .stIndexed _ _ _ _ _ _ => true
  | .stfIndexed _ _ _ _ _ _ => true
  | .acas _ _ _ _ _ _ => true
  | .pref _ _ _ _ => true
  | .cflush _ => true
  | .cclean _ => true
  | .cinval _ => true
  | .czero _ => true
  | .qpush _ _ => true
  | .wlpush _ _ => true
  | .rqpush _ _ => true
  | .msend _ _ => true
  | .join _ => true
  | .wake _ => true
  | .pwait _ => true
  | .mcfg _ _ _ => true
  | .msel _ _ => true
  | .mlds _ _ _ => true
  | .mma _ _ _ => true
  | .mmas _ _ _ => true
  | .mzero _ _ => true
  | .mdrn _ _ _ => true
  | .mdrna _ _ _ => true
  | .mdrno _ _ _ => true
  | .mwrr _ _ _ => true
  | .ccopy _ _ => true
  | .cgath _ _ => true
  | .cscat _ _ => true
  | .ncfg _ _ _ => true
  | .nld _ _ _ => true
  | .ninj _ _ => true
  | .ntick _ _ => true
  | .tcfg _ _ _ => true
  | .texp _ _ _ => true
  | .tback _ _ _ => true
  | .troot _ _ => true
  | .tvl _ _ _ => true
  | .hplace _ _ => true
  | .syswr _ _ => true
  | .timer _ => true
  | .msvw _ _ _ => true
  | .msvf _ _ _ => true
  | .eloop _ _ _ _ _ => true
  | _ => false

/-- A run of registers: `n` from `first` on. -/
def regRun (reg : Reg → RegRef) (first n : Nat) : List RegRef := (List.range n).map fun i => reg (BitVec.ofNat 5 (first + i))

/-- w10 to w17 and f10 to f13: the arguments of a spawn, of a call and of a lane's request (R319, R326, R434). (DEDUCED, log 67: safe.) -/
def argRegs : List RegRef := regRun .w 10 8 ++ regRun .f 10 4

/-- The registers an instruction reads; `pfx` holds the formats of its prefix, and on a GC `svc` sends its arguments (R46, R156, R319, R325, R327, R434). -/
def sources (onGC : Bool) (pfx : Option (BitVec 4 × BitVec 4 × BitVec 6)) (i : Instr) : List RegRef :=
  match i with
  | .sel n _ a b => [.p n, .w a, .w b]
  | .wlpop _ => []
  | .scfg a b _ => [.w a, .w b]
  | .mrsw _ a _ => [.w a]
  | .mrsf _ a _ => [.w a]
  | .cvti _ a fs _ _ => if (pfx.map (·.1)).getD fs = 11 then [.w a] else [.f a]
  | .migrate a => .w a :: regRun .w 8 8
  | .spawn _ a b => .w a :: .w b :: .w 3 :: argRegs
  | .gcall _ => argRegs
  | .gret => regRun .w 10 2 ++ regRun .f 10 2
  | .svc => if onGC then argRegs else []
  | i => if readsHead i then touches i else (touches i).drop 1

/-- The number of a register in its file's record: w0 to w31, then f0 to f31. (DESIGN CHOICE, log 110: unsafe.) -/
def regNo : RegRef → Nat
  | .w r => r.toNat
  | .f r => 32 + r.toNat
  | .p n => 64 + n.toNat

/-- The first lane that would read a register whose storage is bad, with that register (R438). -/
def badSource (s : State) (i : Instr) : Option ((Nat × Thread) × RegRef) :=
  s.curThreads.findSome? fun x => ((sources s.onGC s.cur.pfx i ++ match i with
    | .mmas _ _ c => (scaleRegs (s.latchedCfg c)).map .f
    | _ => []).find? x.2.badRegs.contains).map fun r => (x, r)

/-- An instruction that would read a bad register is contained, and never receives it (R438). -/
def State.containSource (s : State) (x : (Nat × Thread) × RegRef) : State :=
  s.containBad (s.partNo s.cur.cl) s.cur.cl s.cur.core (regNo x.2, 6) x.1.2.pc

/-- The issue of a slot's words: its issuing set, the word at its PC, and for a prefix the word after it (R55, R57); none where the slot
is not ready (R287, R289). -/
def planWords (s : State) (cl core slot : Nat) : Option Plan :=
  match issuingSet s cl core slot with
  | [] => none
  | set =>
    let s1 := { s with cur := { cl := cl, core := core, slot := slot, lanes := set.map (·.1), pfx := none } }
    match fetchSet s1 0 with
    | .error s2 => some (.settled s2)
    | .ok (w, e) =>
      match decodeAt w e with
      | none => some (.run .illegalInstruction s1)
      | some i =>
        if setBusy s1 i then none
        else if let some x := badSource s1 i then some (.settled (s1.containSource x))
        else
          match i with
          | .pfx fa fb sel =>
            match fetchSet s1 4 with
            | .error s2 => some (.settled s2)
            | .ok (w2, e2) =>
              match decodeAt w2 e2 with
              | none => some (.run .illegalInstruction s1)
              | some j =>
                if !acceptsPrefix j then some (.run .illegalInstruction s1)
                else if setBusy { s1 with cur := { s1.cur with pfx := some (fa, fb, sel) } } j then none
                else if let some x := badSource { s1 with cur := { s1.cur with pfx := some (fa, fb, sel) } } j then some (.settled (s1.containSource x))
                else some (.pair (.pfx fa fb sel) j s1)
          | i => some (.run i s1)

/-- The control word a store is to: its cluster and number (R233). -/
def ctlOf (o : OutOp) : Option (Nat × Nat) :=
  match spotOf (o.addrs.headD 0) with
  | some (.ctl cl w _) => some (cl, w)
  | _ => none

/-- A slot is ready: it has an issuing set whose instruction waits for nothing (R287, R289). -/
def slotReady (s : State) (cl core slot : Nat) : Bool := (planWords s cl core slot).isSome

/-- A barrel slot has not issued in the three previous cycles (R287). -/
def spaced (s : State) (c : Core) (slot : Nat) : Bool := (mget c.issued slot).all fun n => n + 4 ≤ s.cyc

/-- The slot a core selects this cycle: on an SC the first ready one after the slot that issued last, spaced from its last issue
(R287); on a GC the ready gang slot of the greatest age, the lowest of equals (R288). -/
def pickSlot (s : State) (cl core : Nat) : Option Nat :=
  let c := s.core cl core
  if s.cyc < c.issueFrom then none
  else if isSC core then
    ((List.range 16).map fun i => (c.lastSlot + 1 + i) % 16).find? fun n => spaced s c n && slotReady s cl core n
  else leastBy (fun n => ((mget c.gangs n).map (·.since)).getD 0) ((List.range 8).filter (slotReady s cl core))

/-- An instruction that takes two issue cycles on a GC (R138); `pfx` holds the formats of its prefix. -/
def twoCycles (pfx : Option (BitVec 4 × BitVec 4 × BitVec 6)) : Instr → Bool
  | .lui _ _ => true
  | .slli _ _ _ => true
  | .srli _ _ _ => true
  | .srai _ _ _ => true
  | .rori _ _ _ => true
  | .addk _ _ _ => true
  | .subk _ _ _ => true
  | .andk _ _ _ => true
  | .cpeq _ _ _ => true
  | .cpne _ _ _ => true
  | .cplt _ _ _ => true
  | .cpltu _ _ _ => true
  | .cpge _ _ _ => true
  | .cpgeu _ _ _ => true
  | .fadd _ _ _ p => p = 1
  | .fsub _ _ _ p => p = 1
  | .fmul _ _ _ p => p = 1
  | .fdiv _ _ _ p => p = 1
  | .fsqrt _ _ p => p = 1
  | .fmadd _ _ _ p => p = 1
  | .fmsub _ _ _ p => p = 1
  | .fnmadd _ _ _ p => p = 1
  | .fnmsub _ _ _ p => p = 1
  | .fmin _ _ _ p => p = 1
  | .fmax _ _ _ p => p = 1
  | .fsgnj _ _ _ p => p = 1
  | .fsgnjn _ _ _ p => p = 1
  | .fsgnjx _ _ _ p => p = 1
  | .fceq _ _ _ p => p = 1
  | .fclt _ _ _ p => p = 1
  | .fcle _ _ _ p => p = 1
  | .fcun _ _ _ p => p = 1
  | .fclass _ _ p => p = 1
  | .frint _ _ p => p = 1
  | .cvt _ _ _ x y _ => match pfx with
    | none => x = 0 || y = 0
    | some (fa, fb, _) => fa = 0 || fb = 0
  | .cvti _ _ x y _ => match pfx with
    | none => x = 0 || y = 0
    | some (fa, fb, _) => fa = 0 || fb = 0
  | i => i.ctorIdx ≤ (Instr.slti 0 0 0).ctorIdx

/-- The lanes of the issuing set have begun (R322). -/
def State.noteBegun (s : State) : State :=
  s.curKeys.foldl (fun s k => match s.thread k with
    | some t => if t.begun then s else s.putThread k { t with begun := true }
    | none => s) s

/-- The fetch of the words in hand, and the walk of their address, go out to host memory, where they lie there and no cache holds them
(R450). -/
def State.noteFetch (s : State) (cl n : Nat) : State :=
  match s.partOf cl, s.curThreads.head? with
  | some p, some x => match resolve s p.2 x.2.asid (xsSUP x.2.xstat) .fetch x.2.pc with
    | .ok key lines =>
      let s1 := s.walkReads cl lines
      if hostKey key && !Config.cachedText s.free key then s1.farRequest p.1 0 (span key n) [] else s1
    | _ => s
  | _, _ => s

/-- The core notes that a slot issues (R287, R288, R324): which slot, when, from when it may issue again, and that the slot's issue ends
what yields wait for it. -/
def State.noteIssue (s : State) (cl core slot : Nat) (pfx : Option (BitVec 4 × BitVec 4 × BitVec 6)) (i : Instr) : State :=
  (s.noteFetch cl (if pfx.isSome then 8 else 4)).noteBegun.modCore cl core fun c => { c with
    lastSlot := slot
    issued := if isSC core then mset c.issued slot s.cyc else c.issued
    issueFrom := s.cyc + (if !isSC core && twoCycles pfx i then 2 else 1)
    gangs := match mget c.gangs slot with
      | some g => mset c.gangs slot { g with since := s.cyc }
      | none => c.gangs
    yields := (c.yields.map fun (y : YieldHold) => { y with waits := y.waits.filter (· != slot) }).filter fun y =>
      !y.waits.isEmpty && s.cyc < y.since + 16 }

/-- The issue of a slot that its core selects this cycle. -/
def planPicked (s : State) (cl core slot : Nat) : Plan :=
  if pickSlot s cl core = some slot then
    match planWords s cl core slot with
    | some (.run i u) => .run i (u.noteIssue cl core slot none i)
    | some (.pair p i u) => match p with
      | .pfx fa fb sel => .pair p i (u.noteIssue cl core slot (some (fa, fb, sel)) i)
      | _ => .settled s
    | some (.settled u) => .settled u
    | none => .settled s
  else .settled s

/-- What the issue of a slot comes to: on an SC the expiry of the core's timer, a timer trap or a message trap goes before the
thread's next instruction (R407, R472). -/
def planIssue (s : State) (cl core slot : Nat) : Plan :=
  let k := keyOf cl core slot
  match isSC core, s.thread k with
  | true, some t =>
    if timerExpired s cl core then .run (.timerExpiry cl core) s
    else if timerTrapDue s k t then .run (.timerTrapTaken k) s
    else if messageTrapDue s k t then .run (.messageInterruptTrap k) s
    else planPicked s cl core slot
  | _, _ => planPicked s cl core slot

/-- The row that performs an outstanding operation. -/
def outEvent (s : State) (k i : Nat) (o : OutOp) : Instr :=
  match o.kind with
  | .load _ _ => .loadPerformed k i
  | .restoreW _ _ => .loadPerformed k i
  | .restoreF _ _ _ => .loadPerformed k i
  | .store => match ctlOf o with
    | none => .storePerformed k i
    | some (_, 0) => .csmctlWrite k i
    | some (_, 2) => if natBit 56 (leNat o.data) then .fbfcmdAbort k i else .fbfcmdRetry k i
    | some _ => .controlWordWrite k i
  | .cache _ => .storePerformed k i
  | .append _ _ _ => .storePerformed k i
  | .atomic _ _ _ _ => .atomicPerformed k i
  | .pop _ _ _ _ => .queuePopComplete k i
  | .queueLen _ _ _ => .loadPerformed k i
  | .popWait _ => .queuePopServe ((s.flights.findIdx? fun f => match f with
    | .pop k' _ _ _ _ => k' == k
    | _ => false).getD s.flights.length)
  | .work _ _ _ _ _ => .wlpopComplete k i
  | .message _ _ _ _ => .mrecvComplete k i

/-- What moves when the agenda names nothing: the core in hand issues the slot it selects when the slot in hand is ready; else the oldest outstanding
operation of its thread is performed; else only time passes. -/
def defaultTurn (s : State) : Option Turn :=
  let c := s.cur
  if !clusterRuns s c.cl then none
  else
    match issuingSet s c.cl c.core c.slot with
    | (l, t) :: _ =>
      let k := keyOf c.cl c.core (thrOf c.core c.slot l)
      match (if t.busy.isEmpty then pickSlot s c.cl c.core else none), t.out with
      | some n, _ => some (.issue c.cl c.core n)
      | none, [] => some (.issue c.cl c.core c.slot)
      | none, o :: _ => some (.event (outEvent s k 0 o))
    | [] =>
      match s.thread (keyOf c.cl c.core (thrOf c.core c.slot 0)) with
      | some t => match t.out with
        | [] => none
        | o :: _ => some (.event (outEvent s (keyOf c.cl c.core (thrOf c.core c.slot 0)) 0 o))
      | none => none

/-- The next turn and the state that takes it: the head of the agenda, or the default. (DESIGN CHOICE, log 5: safe.) -/
def takeTurn (s : State) : State × Option Turn :=
  match s.agenda with
  | t :: rest => ({ s with agenda := rest }, some t)
  | [] => (s, defaultTurn s)

/-- The rows of the table that are events, as the agenda may name them: instructions, and the illegal-instruction trap, come
about by an issue alone. -/
def isEvent : Instr → Bool
  | .illegalInstruction => false
  | i => (Instr.subnormalAssistComplete 0).ctorIdx ≤ i.ctorIdx

/-- What a turn comes to: an issue in a cluster that does not run comes to nothing. -/
def planTurn (s : State) : Option Turn → Plan
  | none => .settled s
  | some (.event i) => if isEvent i then .run i { s with cur := { s.cur with pfx := none } } else .settled s
  | some (.issue cl core slot) => if clusterRuns s cl then planIssue s cl core slot else .settled s

/-- Page-table words and the address-space entry that map VA 0x1_0000 of ASID 0 to frame 1, executable. -/
def fetchTables : List (Nat × Nat) :=
  [(0x0, 0x2001), (0x2000, 0x4001), (0x4000, 0x6001), (0x6000, 0x8001), (0x8008, 0x1000B)]

/-- The partition a placed instruction runs in: half-die 0 with granule 0. -/
def fetchPartition : Partition :=
  { halfDies := 1, granules := [0], keys := [], svcbase := 0, astb := 0, lqsel := 0, fhbase := 0, fhcfg := 0, hrbase := 0,
    queues := [], groups := [], launches := [], serial := 0, images := [], run := .running, stopTime := 0, stopCyc := 0, save := none,
    respilled := [], stops := [] }

/-- The state with a loaded word as the next to issue: partition 0, its translation, code frame 1 holding the word, and a
thread of cluster 0, core 0, slot 0 at it. -/
def placeWord (s : State) (w : BitVec 32) : State :=
  let cells := fetchTables.flatMap fun e => (span e.1 8).zip (leBytes 8 e.2)
  State.modCore { s with
    mem := memWriteAll s.mem (cells ++ (span 0x10000 8).zip (leBytes 8 w.toNat))
    frames := mset s.frames 1 { revoked := false, loops := if loopWord w then [(0, w)] else [] }
    oldText := []
    racking := []
    parts := mset s.parts 0 fetchPartition
    threads := mset s.threads 0 { Thread.zero with pc := 0x10000 }
    devno := 0
    stage := .full
    cur := { cl := 0, core := 0, slot := 0, lanes := [0], pfx := none }
    agenda := [] } 0 0 fun c => { c with timer := none, timerDue := none, lastSlot := 15, issued := [], issueFrom := 0, yields := [] }

end Sys2Proof.Machine
end

