-- ==== Sys2Proof/Machine/Groups.lean ====
section
/-! DEFINITION. Groups (R305, R306): members, live threads, and the completion of a phase. -/

namespace Sys2Proof.Machine

/-- A core is a member of a group (R305). -/
def isMember (e : Group) (cl core : Nat) : Bool := e.members.any fun m => m.1 == cl && m.2.getLsbD core

/-- The names of a group's live threads (R306): those of its launch in slots of member cores, in arrival queues of member
cores or in transit to them, the cellar's lists included, and the lanes of its gangs held off-core (R469).
(DEDUCED, log 26: unsafe.) -/
def liveThreads (s : State) (p : Nat) (e : Group) : List Nat :=
  let mine (l : Option (Nat × Nat)) : Bool := l == some (p, e.serial)
  let inSlots := s.threads.filterMap fun x =>
    if mine x.2.launch && isMember e (keyCl x.1) (keyCore x.1) then some x.2.uid else none
  let onWay := s.flights.filterMap fun x => match x with
    | .migration c cl core => if mine c.launch && isMember e cl core then some c.uid else none
    | _ => none
  let queued := s.clusters.flatMap fun c => c.2.cores.flatMap fun x =>
    if isMember e c.1 x.1 then ((x.2.arrivals ++ x.2.heap ++ x.2.overflow).filter fun m => mine m.launch).map (·.uid) else []
  let offCore := s.clusters.flatMap fun c => c.2.offCore.flatMap fun o =>
    if isMember e c.1 o.core then (o.lanes.filter fun l => mine l.2.launch).map (·.2.uid) else []
  inSlots ++ onWay ++ queued ++ offCore

/-- A phase completes once every live thread has arrived (R306); one for which nothing has arrived does not, though its last live thread
exits. (DESIGN CHOICE, log 93: unsafe.) -/
def settleGroup (s : State) (p : Nat) (e : Group) : Group :=
  if !e.arrived.isEmpty && (liveThreads s p e).all e.arrived.contains then
    { e with phase := e.phase + 1, arrived := [] }
  else e

/-- The phases of a partition's groups that complete as the state stands. -/
def State.settle (s : State) (p : Nat) : State :=
  s.modPart p fun x => { x with groups := x.groups.map fun g => (g.1, settleGroup s p g.2) }

/-- A release of a thread waits until its earlier accesses are performed (R216, R218). -/
def State.withReleased (s : State) (k : Nat) (t : Thread) (f : State) : State :=
  if parkOver s k t .release then f else s.parkAt k t .release

/-- Of a packet that a core originates, the core it is sent to: core 0 of the cluster stands for what a cluster's banks, ENB, grant and
launch unit take, and core 0 of the partition's lowest cluster for its group table. What a unit originates, and results on the response channel, are
not counted. (DESIGN CHOICE, log 59: unsafe.) -/
def packetTo (f : Flight) : Option Nat :=
  let home (p : Nat) : Nat := (p / 2 * 96 + p % 2 * 6) * 20
  match f with
  | .message _ _ dst _ _ _ => some (coreNo dst)
  | .wake src dst => src.map fun _ => coreNo dst
  | .event w0 _ srcs => srcs.head?.map fun _ => bitsOf 31 9 w0 * 20
  | .migration _ cl core => some (cl * 20 + core)
  | .exitNotice cl core _ _ => some (cl * 20 + core)
  | .work cl core _ _ _ _ => some (cl * 20 + core)
  | .push _ _ cl _ _ _ _ => some (cl * 20)
  | .pop _ cl _ _ _ => some (cl * 20)
  | .gcall k _ => some (keyCl k * 20)
  | .arrival _ p _ _ => some (home p)
  | .tick _ p _ _ _ _ => some (home p)
  | .launch _ cl _ _ _ _ issuer => issuer.map fun _ => cl * 20
  | .results _ _ _ _ _ => none

/-- The packet counts with one more, from a core to another's address (R424). -/
def countPacket (m : Map (Nat × Nat)) (origin : Nat) (to_ : Option Nat) : Map (Nat × Nat) :=
  match to_ with
  | none => m
  | some d =>
    let of (m : Map (Nat × Nat)) (c : Nat) : Nat × Nat := (mget m c).getD (0, 0)
    let m1 := mset m origin ((of m origin).1 + 1, (of m origin).2)
    mset m1 d ((of m1 d).1, (of m1 d).2 + 1)

/-- A request, context, event or notice leaves a core, by its number, on its channel (R19). -/
def State.send (s : State) (core : Nat) (f : Flight) : State :=
  { s with flights := s.flights ++ [f], packets := countPacket s.packets core (packetTo f) }

/-- A context leaves a core, and the groups of its launch settle. -/
def State.settleLaunch (s : State) (core : Nat) (l : Option (Nat × Nat)) (f : Flight) : State :=
  match l with
  | some (p, _) => (s.send core f).settle p
  | none => s.send core f

end Sys2Proof.Machine
end

