-- ==== Sys2Proof/Machine/LoadStore.lean ====
section
/-! DEFINITION. Loads, stores, prefetches, cache operations, fences, and the multi-register saves and restores: opcodes
0x20 to 0x25, 0x27 to 0x29 and 0x62 (R93, R94, R96, R97, R232 to R239, R243 to R247, R446, R447), with the rows that perform a
load or a store. A load or store is checked and translated when it retires and is performed later (R236). -/

namespace Sys2Proof.Machine

/-- Registers marked as still to be written; w0 and p0 never are. -/
def addBusy (t : Thread) (rs : List RegRef) : Thread :=
  { t with busy := t.busy ++ rs.filter fun r => r != .w 0 && r != .p 0 }

/-- A register's mark removed. -/
def unBusy (t : Thread) (rs : List RegRef) : Thread := { t with busy := rs.foldl List.erase t.busy }

/-- A load, atomic, pop or restore goes out: ld rises, its destinations wait (R236). -/
def sendLoad (t : Thread) (o : OutOp) (dsts : List RegRef) : Thread :=
  addBusy { t with ld := t.ld + 1, out := t.out ++ [o] } dsts

/-- A store or cache operation goes out: st rises (R236). -/
def sendStore (t : Thread) (o : OutOp) : Thread := { t with st := t.st + 1, out := t.out ++ [o] }

/-- The migration context of a thread at a PC (R301): PP, PF and AP are zero in it. (DEDUCED, log 23: unsafe.) -/
def contextOf (t : Thread) (pc : Word) (stepped : Bool) : MigCtx :=
  { pc := pc, asid := t.asid, xstat := xsSetAP (xsRead t.xstat) false, fflags := t.fflags, child := t.child
    regs := Vector.ofFn fun i : Fin 8 => t.w[8 + i.val], uid := t.uid, launch := t.launch, tq := t.tq, last := t.last
    deferred := t.deferred, stepped := stepped }

/-- A timer armed for a slot is disarmed when its thread leaves (R301, R407). -/
def disarm (c : Core) (slot : Nat) : Core :=
  { c with timer := if c.timer.any (fun x => x.1 == slot) then none else c.timer
           timerDue := if c.timerDue == some slot then none else c.timerDue }

/-- The thread leaves for another SC (R232, R300, R325): with a stream bound it traps instead, and it waits until its
earlier accesses and engine commands are done. -/
def State.depart (s : State) (k : Nat) (t : Thread) (pc : Word) (target : Nat × Nat) : State :=
  if anyBound t then s.trap k t 0x12 0
  else if !t.out.isEmpty || t.ld ≠ 0 || t.st ≠ 0 || t.cp ≠ 0 || t.tl ≠ 0 then s.parkAt k t (.drain true)
  else
    let s1 := (s.dropThread k).modCore (keyCl k) (keyCore k) fun c => disarm c (keyThr k)
    s1.settleLaunch (coreNo k) t.launch (.migration (contextOf t pc (pc != t.pc && xsSS t.xstat)) target.1 target.2)

/-- An access that migrates its thread does so, and executes again at the owner (R232, R235); else `f`. -/
def State.orMigrate (s : State) (k : Nat) (t : Thread) (va : Word) (f : State) : State :=
  match (s.partOf (keyCl k)).bind fun p => migrates p.2 k t va with
  | some target => s.depart k t t.pc target
  | none => f

/-- One lane's load of `n` bytes at `va` (R237, R238). -/
def State.loadLane (s : State) (k : Nat) (t : Thread) (dst : RegRef) (signed : Bool) (n : Nat) (order : BitVec 2)
    (scope : BitVec 3) (va : Word) : State :=
  s.orMigrate k t va <| s.access k t .read va n fun addrs lines =>
    if t.ld ≥ 63 then s.parkAt k t (.counterFull 0)
    else s.finish k t (sendLoad t
      { kind := .load dst signed, addrs := addrs, data := [], order := order, scope := scope, pc := t.pc, serial := 0,
        inst := s.free, lines := lines, va := va } [dst])

/-- A store's data refused by its control word: a reserved mode code or a reserved bit (R5, R205, R421). Bits [63:48] of CSMCTL are
reserved and read-only: a one there traps by R5, and is not ignored as a read-only field. (DEDUCED, log 74: unsafe.) -/
def ctlRefuses (addrs : List Nat) (data : List Byte) : Bool :=
  match spotOf (addrs.headD 0) with
  | some (.ctl _ 0 _) => natField 48 16 (leNat data) != 0 || (List.range 16).any fun b => natField (2 * b) 2 (leNat data) == 3
  | some (.ctl _ 2 _) => natField 57 7 (leNat data) != 0
  | _ => false

/-- Bank b of a cluster is registered as a calendar (R343). -/
def isCalendar (s : State) (cl b : Nat) : Bool :=
  (s.cluster cl).rlt.any fun e => e.engine == 2 && e.dest && e.line == scratchAddr cl (b * 0x20000) / 64

/-- A store to CSMCTL that would change the mode of a calendar bank (R343). -/
def calendarRefuses (s : State) (addrs : List Nat) (data : List Byte) : Bool :=
  match spotOf (addrs.headD 0) with
  | some (.ctl cl 0 _) => (List.range 16).any fun b => isCalendar s cl b && natField (2 * b) 2 (leNat data) != bankMode (s.cluster cl) b
  | _ => false

/-- One lane's store of bytes at `va`; `t'` is the thread with its stream elements consumed (R237, R238). -/
def State.storeLane (s : State) (k : Nat) (t t' : Thread) (order : BitVec 2) (scope : BitVec 3) (va : Word)
    (data : List Byte) : State :=
  s.access k t .write va data.length fun addrs lines =>
    if ctlRefuses addrs data then s.trap k t 1 0
    else if calendarRefuses s addrs data then s.trap k t 4 va
    else if t.st ≥ 63 then s.parkAt k t (.counterFull 1)
    else
      let r := s.nextWrite k
      r.1.finish k t (sendStore t'
        { kind := .store, addrs := addrs, data := data, order := order, scope := scope, pc := t.pc, serial := r.2,
          inst := s.free, lines := lines, va := va })

/-- The bytes a store writes of a register. -/
def storeBytes (sz : BitVec 2) (v : Word) : List Byte := leBytes (sizeOf sz) v.toNat

/-- A load into w[d] in each lane. -/
def loadW (s : State) (d : Reg) (signed : Bool) (sz order : BitVec 2) (scope : BitVec 3) (va : Thread → Word) : Out :=
  s.eachLane fun s k t => s.loadLane k t (.w d) signed (sizeOf sz) order scope (va t)

/-- A load into f[d] in each lane. -/
def loadF (s : State) (d : Reg) (sz order : BitVec 2) (scope : BitVec 3) (va : Thread → Word) : Out :=
  s.eachLane fun s k t => s.withF k t [] (some d) fun _ => s.loadLane k t (.f d) false (sizeOf sz) order scope (va t)

/-- A store of w[d] in each lane. -/
def storeW (s : State) (d : Reg) (sz order : BitVec 2) (scope : BitVec 3) (va : Thread → Word) : Out :=
  s.eachLane fun s k t => s.orMigrate k t (va t) <| s.storeLane k t t order scope (va t) (storeBytes sz (readW t d))

/-- A store of f[d] in each lane. -/
def storeF (s : State) (d : Reg) (sz order : BitVec 2) (scope : BitVec 3) (va : Thread → Word) : Out :=
  s.eachLane fun s k t => s.withF k t [d] none fun t' => s.orMigrate k t (va t) <|
    s.storeLane k t t' order scope (va t) (storeBytes sz (readF t' d))

/-- The order code of an M-format access: acquire or release when its bit is set (R34, R93). -/
def acqCode (b : BitVec 1) : BitVec 2 := if b = 1 then 1 else 0
def relCode (b : BitVec 1) : BitVec 2 := if b = 1 then 2 else 0

/-! ### M format: an ordered access has device scope (R35) -/

def execLd (d a : Reg) (off : BitVec 11) (sz : BitVec 2) (acq : BitVec 1) (s : State) : Out :=
  loadW s d true sz (acqCode acq) 3 fun t => offAddr t a off sz
def execLdu (d a : Reg) (off : BitVec 11) (sz : BitVec 2) (acq : BitVec 1) (s : State) : Out :=
  loadW s d false sz (acqCode acq) 3 fun t => offAddr t a off sz
def execSt (d a : Reg) (off : BitVec 11) (sz : BitVec 2) (rel : BitVec 1) (s : State) : Out :=
  storeW s d sz (relCode rel) 3 fun t => offAddr t a off sz
def execLdf (d a : Reg) (off : BitVec 11) (sz : BitVec 2) (acq : BitVec 1) (s : State) : Out :=
  loadF s d sz (acqCode acq) 3 fun t => offAddr t a off sz
def execStf (d a : Reg) (off : BitVec 11) (sz : BitVec 2) (rel : BitVec 1) (s : State) : Out :=
  storeF s d sz (relCode rel) 3 fun t => offAddr t a off sz

/-- A prefetch moves lines between caches, which hold no value of their own: it changes no register, counter or byte,
and one that would fault is dropped (R247). -/
def execPref (_h : BitVec 2) (_a : Reg) (_off : BitVec 11) (_sz : BitVec 2) (s : State) : Out :=
  s.eachLane fun s k t => s.finish k t t

/-! ### Indexed family, opcode 0x25 (R94) -/

def execLdIndexed (d a b : Reg) (sz ord : BitVec 2) (scope : BitVec 3) (s : State) : Out :=
  loadW s d true sz ord scope fun t => idxAddr t a b sz
def execLduIndexed (d a b : Reg) (sz ord : BitVec 2) (scope : BitVec 3) (s : State) : Out :=
  loadW s d false sz ord scope fun t => idxAddr t a b sz
def execStIndexed (d a b : Reg) (sz ord : BitVec 2) (scope : BitVec 3) (s : State) : Out :=
  storeW s d sz ord scope fun t => idxAddr t a b sz
def execLdfIndexed (d a b : Reg) (sz ord : BitVec 2) (scope : BitVec 3) (s : State) : Out :=
  loadF s d sz ord scope fun t => idxAddr t a b sz
def execStfIndexed (d a b : Reg) (sz ord : BitVec 2) (scope : BitVec 3) (s : State) : Out :=
  storeF s d sz ord scope fun t => idxAddr t a b sz

/-! ### Fences and cache operations (R243 to R246) -/

/-- A fence parks until every earlier access of the kinds it waits for is performed. -/
def State.fenceLane (s : State) (k : Nat) (t : Thread) (ld st : Bool) : State :=
  if parkOver s k t (.fence ld st) then s.finish k t t else s.parkAt k t (.fence ld st)

/-- Pairs: [3] load-load, [2] load-store, [1] store-load, [0] store-store (R96). The first kind of each pair named is waited for (R243);
a full-order fence also waits for earlier loads, which happen before whatever the fence precedes in the total order (R220).
(DEDUCED, log 83: unsafe.) -/
def execFence (pairs : BitVec 4) (_scope : BitVec 3) (s : State) : Out :=
  s.eachLane fun s k t => s.fenceLane k t (pairs.getLsbD 3 || pairs.getLsbD 2 || pairs.getLsbD 1) (pairs.getLsbD 1 || pairs.getLsbD 0)

/-- The thread fetches no word replaced before now (R244, R389). -/
def State.refetch (s : State) (uid : Nat) : State :=
  { s with oldText := (s.oldText.map fun (x : OldWord) => { x with readers := x.readers.filter (· != uid) }).filter fun x => !x.readers.isEmpty }

/-- `ifence` (R244): once every earlier store is performed, what the thread has fetched beyond is discarded. -/
def execIfence (s : State) : Out := s.eachLane fun s k t => (if parkOver s k t (.fence false true) then s.refetch t.uid else s).fenceLane k t false true

/-- The first byte of the line holding an address. -/
def lineOf (va : Word) : Word := va &&& ~~~ (63 : Word)

/-- A cache operation on the line of w[a]: its checks, st, and the operation sent out (R245). The checks are those of a load's or a
store's access, the range locks of R229 and the presence of R209 among them, though R245 names only R234, R385 and R242.
(DEDUCED, log 75: unsafe.) -/
def State.cacheLane (s : State) (k : Nat) (t : Thread) (acc : Access) (fn : Nat) (a : Reg) : State :=
  s.access k t acc (lineOf (readW t a)) 64 fun addrs lines =>
    if t.st ≥ 63 then s.parkAt k t (.counterFull 1)
    else s.finish k t (sendStore t
      { kind := .cache fn, addrs := addrs, data := [], order := 0, scope := 0, pc := t.pc, serial := 0, inst := s.free,
        lines := lines, va := lineOf (readW t a) })

def execCflush (a : Reg) (s : State) : Out := s.eachLane fun s k t => s.cacheLane k t .read 0 a
def execCclean (a : Reg) (s : State) : Out := s.eachLane fun s k t => s.cacheLane k t .read 1 a

/-- `cinval` is refused without XSTAT.SUP, in every lane of the set together (R80, R104, R246). -/
def execCinval (a : Reg) (s : State) : Out := .next <| s.supOnly fun s => s.forLanes fun s k t => s.cacheLane k t .write 2 a

/-- `czero` writes zero to the line as one relaxed store; it never migrates (R235, R245). -/
def execCzero (a : Reg) (s : State) : Out := s.eachLane fun s k t =>
  s.storeLane k t t 0 0 (lineOf (readW t a)) (List.replicate 64 0)

/-! ### Saves and restores, opcode 0x62 (R446, R447) -/

/-- The four words of a stream record (Table 13.12). -/
def streamWords (x : Stream) : List Word :=
  [x.base, if x.cfg then x.desc else 0, x.pos,
   word ((match x.state with
     | .unbound => 0
     | .readBound => 1
     | .writeBound => 2) + 4 * bit01 x.cfg)]

/-- The streams of a register range, ascending (R447). -/
def rangeStreams (d b : Reg) : List Nat := (regRange d b).filterMap streamNo

/-- Bytes of a save or restore of registers d to b, stream records included for f. -/
def saveSize (d b : Reg) (f : Bool) : Nat :=
  8 * (regRange d b).length + (if f then 32 * (rangeStreams d b).length else 0)

def wordsBytes (l : List Word) : List Byte := l.flatMap fun w => leBytes 8 w.toNat

def execMsvw (d a b : Reg) (s : State) : Out := s.eachLane fun s k t =>
  s.storeLane k t t 0 0 (readW t a) (wordsBytes ((regRange d b).map (readW t)))

/-- The registers as they stand, then one record for each stream register: nothing is consumed or appended (R52, R447). -/
def execMsvf (d a b : Reg) (s : State) : Out := s.eachLane fun s k t =>
  s.storeLane k t t 0 0 (readW t a)
    (wordsBytes ((regRange d b).map (readF t) ++ (rangeStreams d b).flatMap fun n => streamWords (streamOf t n)))

def execMrsw (d a b : Reg) (s : State) : Out := s.eachLane fun s k t =>
  s.access k t .read (readW t a) (saveSize d b false) fun addrs lines =>
    if t.ld ≥ 63 then s.parkAt k t (.counterFull 0)
    else s.finish k t (sendLoad t
      { kind := .restoreW d b, addrs := addrs, data := [], order := 0, scope := 0, pc := t.pc, serial := 0, inst := s.free,
        lines := lines, va := readW t a } ((regRange d b).map .w))

/-- The stream of four restored words; none for STATE 3 or a reserved bit (R447). -/
def streamFrom (ws : List Nat) : Option Stream :=
  let st := ws.getD 3 0
  if st ≥ 8 ∨ st % 4 = 3 ∨ natField 49 15 (ws.getD 1 0) ≠ 0 then none
  else some
    { base := word (ws.getD 0 0), desc := word (ws.getD 1 0), pos := word (ws.getD 2 0)
      state := match st % 4 with
        | 0 => .unbound
        | 1 => .readBound
        | _ => .writeBound
      cfg := natBit 2 st, ahead := [], dead := false, bind := 0 }

/-- The i-th 8-byte word of bytes read at keys. -/
def wordRead (bs : List Byte) (i : Nat) : Nat := leNat ((bs.drop (8 * i)).take 8)

/-- The stream records of a restore, read from the bytes after its registers (R447). -/
def restoredStreams (d b : Reg) (bs : List Byte) : List (Nat × Option Stream) :=
  (indexed (rangeStreams d b)).map fun e =>
    let base := (regRange d b).length + 4 * e.1
    (e.2, streamFrom ((List.range 4).map fun j => wordRead bs (base + j)))

def execMrsf (d a b : Reg) (s : State) : Out := s.eachLane fun s k t =>
  s.access k t .read (readW t a) (saveSize d b true) fun addrs lines =>
    if t.ld ≥ 63 then s.parkAt k t (.counterFull 0)
    else if !(rangeStreams d b).isEmpty && !readReady t.out
        { kind := .restoreW d b, addrs := addrs, data := [], order := 0, scope := 0, pc := t.pc, serial := 0, inst := s.free
          lines := lines, va := readW t a } then s.parkAt k t .release
    else
      let streams := restoredStreams d b (addrs.map (s.seen t.out))
      if let some b := badAmong s addrs then s.containBad (s.partNo (keyCl k)) (keyCl k) (keyCore k) b t.pc
      else if streams.any fun e => e.2.isNone then s.trap k t 0x12 0
      else s.finish k t (sendLoad t
        { kind := .restoreF d b (streams.filterMap fun e => e.2.map fun x => (e.1, x)), addrs := addrs, data := [], order := 0,
          scope := 0, pc := t.pc, serial := 0, inst := s.free, lines := lines, va := readW t a } ((regRange d b).map .f))

/-! ### Performing a load -/

/-- The thread without an outstanding operation, its ld lowered. -/
def landLoad (t : Thread) (i : Nat) : Thread := { t with ld := t.ld - 1, out := dropAt t.out i }
/-- The thread without an outstanding operation, its st lowered. -/
def landStore (t : Thread) (i : Nat) : Thread := { t with st := t.st - 1, out := dropAt t.out i }

/-- The value a load returns of its bytes (R237). -/
def loadValue (signed : Bool) (bs : List Byte) : Word :=
  if signed then signExt (8 * bs.length) (word (leNat bs)) else word (leNat bs)

/-- The last outstanding operation, when there is one more than `n`, in the place `i` and of instruction `inst`: an append that a load or an
atomic makes as it is performed is ordered where that instruction stands (R50, R221, R228). -/
def placeLast (t : Thread) (n i inst : Nat) : Thread :=
  match t.out[n]? with
  | some o => { t with out := t.out.take i ++ { o with inst := inst } :: (t.out.take n).drop i }
  | none => t

/-- A register written by a completed operation `o`, which stood at place `i` among the outstanding ones: an f register under its stream's
rule (R50). -/
def State.writeReg (s : State) (k i : Nat) (t : Thread) (o : OutOp) (r : RegRef) (v : Word) : State × Thread :=
  match r with
  | .f d =>
    let x := s.writeF k t o.pc d v
    (x.1, placeLast x.2 t.out.length i o.inst)
  | r => (s, setReg t r v)

/-- The name of a stream's element reads in the FBF. -/
def streamAgent (k n : Nat) : Nat × Nat := (5, k * 4 + n)

/-- A stream's read that is held in the fault buffer is given up: its binding is gone (R335, R447). -/
def State.dropRead (s : State) (k n : Nat) : State :=
  s.modCluster (keyCl k) fun c =>
    { c with fbf := c.fbf.filter fun e => e.engine != some (streamAgent k n)
             fbfWait := c.fbfWait.filter fun e => e.engine != some (streamAgent k n) }

/-- The elements a position's streams read ahead of consumption are held at no fault any more: they are read again later (R335). -/
def State.dropReads (s : State) (k : Nat) : State := (List.range 4).foldl (fun s n => s.dropRead k n) s

/-- Stream states replaced by restored ones, each a binding of its own (R447). -/
def State.restoreStreams (s : State) (k : Nat) (t : Thread) (streams : List (Nat × Stream)) : State :=
  (streams.foldl (fun s e => s.dropRead k e.1) s).putThread k
    (streams.foldl (fun t e => putStream t e.1 { e.2 with bind := (streamOf t e.1).bind + 1 }) t)

/-- Registers from w or f words of a restore. -/
def restoreRegs (t : Thread) (rs : List RegRef) (bs : List Byte) : Thread :=
  (indexed rs).foldl (fun t e => setReg t e.2 (word (wordRead bs e.1))) t

/-- The core that the request packet of an access is sent to (R19, R424): none of an access to the core's own LM; another LM's core; core 0 of the
cluster of a bank, a control word or a queue; and core 0 of the thread's own cluster for what lies beyond. (DESIGN CHOICE, log 59: unsafe.) -/
def accessTo (k : Nat) (o : OutOp) : Option Nat :=
  match o.kind, spotOf (o.addrs.headD 0) with
  | .queueLen _ cl _, _ => some (cl * 20)
  | _, some (.lm cl core _) => if cl * 20 + core = coreNo k then none else some (cl * 20 + core)
  | _, some sp => some (spotCl sp * 20)
  | _, none => some (keyCl k * 20)

/-- The request packet of an access that is performed (R424). -/
def State.countAccess (s : State) (k : Nat) (o : OutOp) : State :=
  { s with packets := countPacket s.packets (coreNo k) (accessTo k o) }

/-- A load's read is performed, its destination is written and ld falls (R7, R236). A `qlen` that finds its bank in another mode than FIFO
returns 0. (DESIGN CHOICE, log 91: unsafe.) -/
def execLoadPerformed (k i : Nat) (s : State) : Out :=
  match s.drainThread k with
  | none => .next s
  | some t =>
    match t.out[i]? with
    | none => .next s
    | some o =>
      if !readReady (t.out.take i) o then .next s
      else if let some key := linkHeld s false o.addrs then .next (s.containLink (s.partNo (keyCl k)) (keyCl k) (keyCore k) key o.pc)
      else match badAmong s o.addrs with
      | some b => .next (s.containBad (s.partNo (keyCl k)) (keyCl k) (keyCore k) b o.pc)
      | none =>
        let bs := o.addrs.map (s.seen (t.out.take i))
        let s := (s.farRequest (s.partNo (keyCl k)) 0 o.addrs []).countAccess k o
        match o.kind with
        | .load dst signed =>
          let r := s.writeReg k i (unBusy (landLoad t i) [dst]) o dst (loadValue signed bs)
          .next (r.1.putThread k r.2)
        | .restoreW d b =>
          let rs := (regRange d b).map RegRef.w
          .next (s.putThread k (restoreRegs (unBusy (landLoad t i) rs) rs bs))
        | .restoreF d b streams =>
          let rs := (regRange d b).map RegRef.f
          .next (s.restoreStreams k (restoreRegs (unBusy (landLoad t i) rs) rs bs) streams)
        | .queueLen dst cl q =>
          let n := ((mget (s.cluster cl).fifos q).map fun f => f.entries.length).getD 0
          .next (s.putThread k (setW (unBusy (landLoad t i) [.w dst]) dst (word n)))
        | _ => .next s

/-! ### Performing a store -/

/-- Every access that another thread, a granted engine command, or the thread earlier, translated through a written line is performed: only
then is a store to that page-table line (R211). -/
def translationsDone (s : State) (k i : Nat) (addrs : List Nat) : Bool :=
  let lines := linesOf addrs
  (s.threads.all fun e => (if e.1 = k then e.2.out.take i else e.2.out).all fun o => !o.lines.any lines.contains) && !engineHeld s addrs

/-- Overlapping stores of one gang instruction land in ascending lane order (R239). -/
def lanesBefore (s : State) (k : Nat) (o : OutOp) : Bool :=
  s.threads.all fun e => coreNo e.1 != coreNo k || k ≤ e.1 || e.2.out.all fun x => x.inst != o.inst || !outOverlap x o

/-- The record of a refused store to another device or the host (R378). -/
def refusedRecord (s : State) (k cause : Nat) (va pc : Word) : State :=
  s.sendRecord (keyCl k) (mkRecord (s.partNo (keyCl k)) (keyCl k) (keyCore k) cause 0 0 va pc)

/-- A store is performed at its coherence point: its bytes change, or are refused by another device. -/
def State.landBytes (s : State) (k : Nat) (o : OutOp) : State :=
  if farRefused s (s.partNo (keyCl k)) (o.addrs.headD 0) true || farRefused s (s.partNo (keyCl k)) (o.addrs.getLastD 0) true then
    refusedRecord s k 4 o.va o.pc
  else s.writeFrom (keyCl k) (o.addrs.zip o.data)

/-- The effect of a cache operation on its line (R245, R246): a write-back makes it clean; `cinval` of a line written since
leaves its bytes undefined (R15). Lines of scratch and LM are held in no cache. (DEDUCED, log 20: safe.) -/
def State.landCache (s : State) (fn : Nat) (o : OutOp) : State :=
  let line := o.addrs.headD 0
  if (spotOf line).isSome || remoteBase ≤ line then s
  else
    let s1 := { s with dirty := s.dirty.erase line }
    if fn = 2 ∧ s.dirty.contains line then
      { s1 with mem := memWriteAll s1.mem (o.addrs.map fun a => (a, Config.freeByte s.free a)) }
    else s1

/-- The operation is an append of a binding of stream n. -/
def appendOf (n bind : Nat) (o : OutOp) : Bool := match o.kind with
  | .append m b _ => m == n && b == bind
  | _ => false

/-- An append fails: it and the later appends of its binding are discarded, those to come too while the binding lasts (R336), and its
deferred fault is pending, with the PC of the instruction that made it (R337). -/
def failAppend (t : Thread) (i n bind : Nat) (va : Word) (pc : Word) : Thread :=
  let keep := (indexed t.out).filter fun e => e.1 < i || !appendOf n bind e.2
  let x := streamOf t n
  let t1 := if x.bind = bind && x.state = .writeBound then putStream t n { x with dead := true } else t
  { t1 with
    st := t.st - (t.out.length - keep.length)
    out := keep.map (·.2)
    deferred := t.deferred ++ [{ engine := 4, detail := 3, value := va, pc := pc }] }

/-- An element append is performed at the page its address is mapped to then; it waits at a fault, and one that fails, refused by another
device or the host too, is a pending deferred fault (R336, R337). -/
def State.landAppend (s : State) (k i : Nat) (t : Thread) (n bind : Nat) (va : Word) (o : OutOp) : State :=
  match s.partOf (keyCl k) with
  | none => s
  | some (p, x) =>
    if fbfHolds (s.cluster (keyCl k)) (4, k * 4 + n) then s
    else
      match checkAccess s true (keyCl k) p x t.asid (xsSUP t.xstat) .write va 8 with
      | .ok addrs lines =>
        let o' := { o with addrs := addrs }
        if !writeReady (t.out.take i) o' || !translationsDone s k i addrs || !lanesBefore s k o' then s
        else if let some key := linkHeld s true addrs then s.containLink p (keyCl k) (keyCore k) key o.pc
        else if farRefused s p (addrs.headD 0) true || farRefused s p (addrs.getLastD 0) true then s.putThread k (failAppend t i n bind va o.pc)
        else (((s.putThread k (landStore t i)).countAccess k o').landBytes k o').walkReads (keyCl k) lines
      | .trap 0x15 key => s.containKey p (keyCl k) (keyCore k) key.toNat o.pc
      | .trap _ _ => s.putThread k (failAppend t i n bind va o.pc)
      | .fault c r a l =>
        s.enterFbf (keyCl k) r
          { key := some k, engine := some (4, k * 4 + n), asid := t.asid, vpn := vpnOf a, va := a, cause := c, write := true,
            fetch := false, sup := xsSUP t.xstat, lines := l, poked := false } o.pc
      | .park _ => s

/-- A buffered store is performed at its coherence point and st falls (R7, R227); a store to a control word is performed by
that word's own row. -/
def execStorePerformed (k i : Nat) (s : State) : Out :=
  match s.drainThread k with
  | none => .next s
  | some t =>
    match t.out[i]? with
    | none => .next s
    | some o =>
      if !writeReady (t.out.take i) o || !translationsDone s k i o.addrs || !lanesBefore s k o then .next s
      else if let some key := linkHeld s (outWrites o) o.addrs then .next (s.containLink (s.partNo (keyCl k)) (keyCl k) (keyCore k) key o.pc)
      else
        match o.kind with
        | .store =>
          match ctlOf o with
          | some _ => .next s
          | none => .next (((s.putThread k (landStore t i)).countAccess k o).landBytes k o)
        | .cache fn => .next (((s.putThread k (landStore t i)).countAccess k o).landCache fn o)
        | .append n bind va => .next (s.landAppend k i t n bind va o)
        | _ => .next s

end Sys2Proof.Machine
end

