-- ==== Sys2Proof/Machine/Atomic.lean ====
section
/-! DEFINITION. Atomics, opcode 0x26 (R95, R224, R225, R240 to R242), and the row that performs one. An atomic is checked when
it retires and is performed at its owner later; the lanes of one gang instruction that name one location are performed
together, in ascending lane order. -/

namespace Sys2Proof.Machine

/-- Operation codes of Table 3.13, fn[9:5]: twice the operation's number plus its size bit, 20 and 21 for the FP adds. -/
def atomicCode (i : Nat) (z : BitVec 1) : Nat := 2 * i + z.toNat

/-- The location is no place for an atomic (R242): a control word, or memory whose link does not carry the operation or whose
owner refuses it. -/
def atomicBarred (s : State) (k op : Nat) (addrs : List Nat) : Bool :=
  let a := addrs.headD 0
  farRefused s (s.partNo (keyCl k)) a true || farNoAtomic s a op ||
    (match spotOf a with
      | some (.ctl _ _ _) => true
      | _ => false)

/-- One lane's atomic of `n` bytes at `va` (R240, R242); `t'` is the thread with its stream elements consumed. -/
def State.atomicLane (s : State) (k : Nat) (t t' : Thread) (op n : Nat) (order : BitVec 2) (scope : BitVec 3) (va : Word)
    (dst : RegRef) (operand expected : Word) : State :=
  s.orMigrate k t va <|
    if va.toNat % n ≠ 0 then s.trap k t 2 va
    else s.access k t .write va n fun addrs lines =>
      if atomicBarred s k op addrs then s.trap k t 4 va
      else if t.ld ≥ 63 then s.parkAt k t (.counterFull 0)
      else
        let r := s.nextWrite k
        r.1.finish k t (sendLoad t'
          { kind := .atomic op dst operand expected, addrs := addrs, data := [], order := order, scope := scope, pc := t.pc,
            serial := r.2, inst := s.free, lines := lines, va := va } (dst :: (if op / 2 = 9 then [.p 1] else [])))

/-- An integer atomic in each lane: operand w[b], expected value w[d] for `acas`. -/
def atomicW (s : State) (i : Nat) (d a b : Reg) (z : BitVec 1) (ord : BitVec 2) (scope : BitVec 3) : Out :=
  s.eachLane fun s k t =>
    s.atomicLane k t t (atomicCode i z) (if z = 1 then 8 else 4) ord scope (readW t a) (.w d) (readW t b) (readW t d)

/-- A floating-point atomic in each lane: addend f[b], destination f[d]. -/
def atomicF (s : State) (op n : Nat) (d a b : Reg) (ord : BitVec 2) (scope : BitVec 3) : Out :=
  s.eachLane fun s k t => s.withF k t [b] (some d) fun t' =>
    s.atomicLane k t t' op n ord scope (readW t a) (.f d) (readF t' b) 0

def execAadd (d a b : Reg) (z : BitVec 1) (ord : BitVec 2) (scope : BitVec 3) (s : State) : Out := atomicW s 0 d a b z ord scope
def execAand (d a b : Reg) (z : BitVec 1) (ord : BitVec 2) (scope : BitVec 3) (s : State) : Out := atomicW s 1 d a b z ord scope
def execAor (d a b : Reg) (z : BitVec 1) (ord : BitVec 2) (scope : BitVec 3) (s : State) : Out := atomicW s 2 d a b z ord scope
def execAxor (d a b : Reg) (z : BitVec 1) (ord : BitVec 2) (scope : BitVec 3) (s : State) : Out := atomicW s 3 d a b z ord scope
def execAmin (d a b : Reg) (z : BitVec 1) (ord : BitVec 2) (scope : BitVec 3) (s : State) : Out := atomicW s 4 d a b z ord scope
def execAmax (d a b : Reg) (z : BitVec 1) (ord : BitVec 2) (scope : BitVec 3) (s : State) : Out := atomicW s 5 d a b z ord scope
def execAminu (d a b : Reg) (z : BitVec 1) (ord : BitVec 2) (scope : BitVec 3) (s : State) : Out := atomicW s 6 d a b z ord scope
def execAmaxu (d a b : Reg) (z : BitVec 1) (ord : BitVec 2) (scope : BitVec 3) (s : State) : Out := atomicW s 7 d a b z ord scope
def execAswap (d a b : Reg) (z : BitVec 1) (ord : BitVec 2) (scope : BitVec 3) (s : State) : Out := atomicW s 8 d a b z ord scope
def execAcas (d a b : Reg) (z : BitVec 1) (ord : BitVec 2) (scope : BitVec 3) (s : State) : Out := atomicW s 9 d a b z ord scope
def execAfaddF32 (d a b : Reg) (ord : BitVec 2) (scope : BitVec 3) (s : State) : Out := atomicF s 20 4 d a b ord scope
def execAfaddBf16 (d a b : Reg) (ord : BitVec 2) (scope : BitVec 3) (s : State) : Out := atomicF s 21 2 d a b ord scope

/-- The smaller, or with `big` the larger, of two integers. -/
def pickInt (big : Bool) (x y : Int) : Int := if big then max x y else min x y

/-- The new value of an atomic (R240), of `n` bytes, as a number below 2^(8n). -/
def atomicNew (op n : Nat) (old operand expected : Word) : Nat :=
  let cut (w : Word) : Nat := w.toNat % 2 ^ (8 * n)
  let sgn (w : Word) : Int := (signExt (8 * n) w).toInt
  let o := cut old
  let x := cut operand
  match op / 2 with
  | 0 => (o + x) % 2 ^ (8 * n)
  | 1 => o &&& x
  | 2 => o ||| x
  | 3 => o ^^^ x
  | 4 => if sgn operand < sgn old then x else o
  | 5 => if sgn old < sgn operand then x else o
  | 6 => min o x
  | 7 => max o x
  | 8 => x
  | 9 => if o = cut expected then x else o
  | _ => atomicFAdd (if op = 20 then .f32 else .bf16) o x

/-- The effect of an atomic on its thread: f[d] zero-extended, w[d] sign-extended, p1 of an `acas` (R83, R240). -/
def State.atomicResult (s : State) (k i : Nat) (t : Thread) (o : OutOp) (op n : Nat) (dst : RegRef) (old expected : Word) : State × Thread :=
  match dst with
  | .f d => s.writeReg k i t o (.f d) old
  | r =>
    let t1 := setReg t r (signExt (8 * n) old)
    (s, if op / 2 = 9 then setP t1 1 (old.toNat == expected.toNat % 2 ^ (8 * n)) else t1)

/-- An atomic of a thread performed: read and write in one step (R224), ld falls. -/
def State.landAtomic (s : State) (k i : Nat) : State :=
  match s.thread k with
  | none => s
  | some t =>
    match t.out[i]? with
    | none => s
    | some o =>
      match o.kind with
      | .atomic op dst operand expected =>
        let n := o.addrs.length
        let old := word (s.numAt o.addrs)
        let t1 := unBusy (landLoad t i) (dst :: (if op / 2 = 9 then [.p 1] else []))
        let r := s.atomicResult k i t1 o op n dst old expected
        ((r.1.putThread k r.2).countAccess k o).atomicFrom (keyCl k) op o.addrs (atomicNew op n old operand expected) operand expected
      | _ => s

/-- The lanes of the same instruction whose atomics name the same location, with their place, in ascending lane order
(R225). (DESIGN CHOICE, log 18: safe.) -/
def atomicGroup (s : State) (k : Nat) (o : OutOp) : List (Nat × Nat) :=
  s.threads.filterMap fun e =>
    if coreNo e.1 ≠ coreNo k then none
    else
      (e.2.out.findIdx? fun x => x.inst == o.inst && x.addrs == o.addrs &&
        (match x.kind with
          | .atomic _ _ _ _ => true
          | _ => false)).map fun i => (e.1, i)

/-- An outstanding operation may be performed as a read and as a write. -/
def atomicReady (s : State) (k i : Nat) : Bool :=
  match s.thread k with
  | none => false
  | some t => match t.out[i]? with
    | none => false
    | some o => readReady (t.out.take i) o && writeReady (t.out.take i) o && translationsDone s k i o.addrs

/-- An atomic is performed with those of its gang instruction at its location, in ascending lane order (R225, R240). -/
def execAtomicPerformed (k i : Nat) (s : State) : Out :=
  match (s.drainThread k).bind fun t => t.out[i]? with
  | none => .next s
  | some o =>
    let group := atomicGroup s k o
    if group.contains (k, i) && group.all fun g => atomicReady s g.1 g.2 then
      if let some key := linkHeld s true o.addrs then .next (s.containLink (s.partNo (keyCl k)) (keyCl k) (keyCore k) key o.pc)
      else match badAmong s o.addrs with
      | some b => .next (s.containBad (s.partNo (keyCl k)) (keyCl k) (keyCore k) b o.pc)
      | none => .next (group.foldl (fun s g => s.landAtomic g.1 g.2) s)
    else .next s

end Sys2Proof.Machine
end

