-- ==== Sys2Proof/Machine/Integer.lean ====
section
/-! DEFINITION. The integer, immediate, constant-window and predicate families: opcodes 0x01 to 0x0A (R84 to R87, R137,
R140 to R145). Each acts in every lane of the issuing set on the lane's own registers (R136). -/

namespace Sys2Proof.Machine

/-- w[d] := f t in each lane. -/
def wOp (s : State) (d : Reg) (f : Thread → Word) : Out := s.regOp fun t => setW t d (f t)
/-- w[d] := f w[a] w[b] in each lane. -/
def wOp2 (s : State) (d a b : Reg) (f : Word → Word → Word) : Out := wOp s d fun t => f (readW t a) (readW t b)
/-- p[d] := f t in each lane. -/
def pOp (s : State) (d : PReg) (f : Thread → Bool) : Out := s.regOp fun t => setP t d (f t)

/-- 0 or 1 as a word. -/
def boolWord (b : Bool) : Word := if b then 1 else 0

/-- Bits [127:64] of the signed product. -/
def mulHigh (x y : Word) : Word := (x.signExtend 128 * y.signExtend 128).extractLsb' 64 64
/-- Bits [127:64] of the unsigned product. -/
def mulHighU (x y : Word) : Word := (x.setWidth 128 * y.setWidth 128).extractLsb' 64 64

/-- The signed quotient of R141. -/
def divS (x y : Word) : Word := if y = 0 then -1 else BitVec.ofInt 64 (x.toInt.tdiv y.toInt)
/-- The unsigned quotient of R141. -/
def divU (x y : Word) : Word := if y = 0 then -1 else word (x.toNat / y.toNat)
/-- The signed remainder of R141. -/
def remS (x y : Word) : Word := if y = 0 then x else BitVec.ofInt 64 (x.toInt.tmod y.toInt)
/-- The unsigned remainder of R141. -/
def remU (x y : Word) : Word := if y = 0 then x else word (x.toNat % y.toNat)

/-- A shift or rotate amount: wb[5:0] (R140). -/
def amount (y : Word) : Nat := y.toNat % 64
def shl (x : Word) (n : Nat) : Word := x <<< n
def shrL (x : Word) (n : Nat) : Word := x >>> n
def shrA (x : Word) (n : Nat) : Word := x.sshiftRight n
def rotR (x : Word) (n : Nat) : Word := x.rotateRight n
/-- The same on wa[31:0], sign-extended from bit 31 (R143). -/
def onLow32 (f : BitVec 32 → BitVec 32) (x : Word) : Word := (f (x.setWidth 32)).signExtend 64

/-- Leading zero bits; 64 of zero. -/
def leadingZeros (x : Word) : Word := if x = 0 then 64 else word (63 - Nat.log2 x.toNat)
/-- Trailing zero bits; 64 of zero. -/
def trailingZeros (x : Word) : Word := if x = 0 then 64 else word (Nat.log2 (x &&& -x).toNat)
/-- One bits. -/
def popCount (x : Word) : Word := word ((List.range 64).countP x.getLsbD)
/-- Bit i moved to bit 63 − i. -/
def bitReverse (x : Word) : Word := word ((List.range 64).foldl (fun r i => 2 * r + bit01 (x.getLsbD i)) 0)
/-- Byte j moved to byte 7 − j. -/
def byteSwap (x : Word) : Word := word (leNat (leBytes 8 x.toNat).reverse)

/-- The cut length L' of a bit field at P = wb[5:0], L = wb[13:8] (R142). -/
def fieldLen (y : Word) : Nat := Nat.min (bitsOf 8 6 y) (64 - amount y)
/-- The mask M of a bit field (R142). -/
def fieldMask (y : Word) : Word := maskOf (amount y) (fieldLen y)
def fieldGet (x y : Word) : Word := (x &&& fieldMask y) >>> amount y
def fieldGetS (x y : Word) : Word := if fieldLen y = 0 then 0 else signExt (fieldLen y) (fieldGet x y)
def fieldPut (old x y : Word) : Word := (old &&& ~~~ fieldMask y) ||| ((x <<< amount y) &&& fieldMask y)

/-! ### Opcode 0x01 (Table 5.1) -/

def execAdd (d a b : Reg) (s : State) : Out := wOp2 s d a b fun x y => x + y
def execSub (d a b : Reg) (s : State) : Out := wOp2 s d a b fun x y => x - y
def execMul (d a b : Reg) (s : State) : Out := wOp2 s d a b fun x y => x * y
def execMulh (d a b : Reg) (s : State) : Out := wOp2 s d a b mulHigh
def execMulhu (d a b : Reg) (s : State) : Out := wOp2 s d a b mulHighU
def execDiv (d a b : Reg) (s : State) : Out := wOp2 s d a b divS
def execDivu (d a b : Reg) (s : State) : Out := wOp2 s d a b divU
def execRem (d a b : Reg) (s : State) : Out := wOp2 s d a b remS
def execRemu (d a b : Reg) (s : State) : Out := wOp2 s d a b remU
def execAnd (d a b : Reg) (s : State) : Out := wOp2 s d a b fun x y => x &&& y
def execOr (d a b : Reg) (s : State) : Out := wOp2 s d a b fun x y => x ||| y
def execXor (d a b : Reg) (s : State) : Out := wOp2 s d a b fun x y => x ^^^ y
def execAndn (d a b : Reg) (s : State) : Out := wOp2 s d a b fun x y => x &&& ~~~ y
def execSll (d a b : Reg) (s : State) : Out := wOp2 s d a b fun x y => shl x (amount y)
def execSrl (d a b : Reg) (s : State) : Out := wOp2 s d a b fun x y => shrL x (amount y)
def execSra (d a b : Reg) (s : State) : Out := wOp2 s d a b fun x y => shrA x (amount y)
def execRor (d a b : Reg) (s : State) : Out := wOp2 s d a b fun x y => rotR x (amount y)
def execClz (d a : Reg) (s : State) : Out := wOp s d fun t => leadingZeros (readW t a)
def execCtz (d a : Reg) (s : State) : Out := wOp s d fun t => trailingZeros (readW t a)
def execPopc (d a : Reg) (s : State) : Out := wOp s d fun t => popCount (readW t a)
def execBrev (d a : Reg) (s : State) : Out := wOp s d fun t => bitReverse (readW t a)
def execBswap (d a : Reg) (s : State) : Out := wOp s d fun t => byteSwap (readW t a)
def execMin (d a b : Reg) (s : State) : Out := wOp2 s d a b fun x y => if x.slt y then x else y
def execMax (d a b : Reg) (s : State) : Out := wOp2 s d a b fun x y => if x.slt y then y else x
def execMinu (d a b : Reg) (s : State) : Out := wOp2 s d a b fun x y => if x.ult y then x else y
def execMaxu (d a b : Reg) (s : State) : Out := wOp2 s d a b fun x y => if x.ult y then y else x
def execSlt (d a b : Reg) (s : State) : Out := wOp2 s d a b fun x y => boolWord (x.slt y)
def execSltu (d a b : Reg) (s : State) : Out := wOp2 s d a b fun x y => boolWord (x.ult y)
def execSel (n : BitVec 3) (d a b : Reg) (s : State) : Out := wOp s d fun t => if readP t n then readW t a else readW t b
def execBfxu (d a b : Reg) (s : State) : Out := wOp2 s d a b fieldGet
def execBfxs (d a b : Reg) (s : State) : Out := wOp2 s d a b fieldGetS
def execBfi (d a b : Reg) (s : State) : Out := wOp s d fun t => fieldPut (readW t d) (readW t a) (readW t b)

/-! ### Opcodes 0x02 to 0x08 (R143) -/

def execAddi (d a : Reg) (imm : BitVec 15) (s : State) : Out := wOp s d fun t => readW t a + imm15 imm
def execAndi (d a : Reg) (imm : BitVec 15) (s : State) : Out := wOp s d fun t => readW t a &&& imm15 imm
def execOri (d a : Reg) (imm : BitVec 15) (s : State) : Out := wOp s d fun t => readW t a ||| uimm15 imm
def execXori (d a : Reg) (imm : BitVec 15) (s : State) : Out := wOp s d fun t => readW t a ^^^ uimm15 imm
def execSlti (d a : Reg) (imm : BitVec 15) (s : State) : Out := wOp s d fun t => boolWord ((readW t a).slt (imm15 imm))
def execSlli (d a : Reg) (n : BitVec 6) (s : State) : Out := wOp s d fun t => shl (readW t a) n.toNat
def execSrli (d a : Reg) (n : BitVec 6) (s : State) : Out := wOp s d fun t => shrL (readW t a) n.toNat
def execSrai (d a : Reg) (n : BitVec 6) (s : State) : Out := wOp s d fun t => shrA (readW t a) n.toNat
def execRori (d a : Reg) (n : BitVec 6) (s : State) : Out := wOp s d fun t => rotR (readW t a) n.toNat
def execSlliw (d a : Reg) (n : BitVec 5) (s : State) : Out := wOp s d fun t => onLow32 (fun x => x <<< n.toNat) (readW t a)
def execSrliw (d a : Reg) (n : BitVec 5) (s : State) : Out := wOp s d fun t => onLow32 (fun x => x >>> n.toNat) (readW t a)
def execSraiw (d a : Reg) (n : BitVec 5) (s : State) : Out := wOp s d fun t => onLow32 (fun x => x.sshiftRight n.toNat) (readW t a)
def execRoriw (d a : Reg) (n : BitVec 5) (s : State) : Out := wOp s d fun t => onLow32 (fun x => x.rotateRight n.toNat) (readW t a)
def execLui (d : Reg) (imm : BitVec 20) (s : State) : Out := wOp s d fun _ => imm.signExtend 64 <<< (15 : Nat)

/-! ### Opcode 0x09 (R144): K[n] is a load of the core's constant window that no counter counts -/

def execAddk (d a : Reg) (n : BitVec 8) (s : State) : Out := s.eachLane fun s k t => s.finish k t (setW t d (readW t a + s.constWord k t n))
def execSubk (d a : Reg) (n : BitVec 8) (s : State) : Out := s.eachLane fun s k t => s.finish k t (setW t d (readW t a - s.constWord k t n))
def execAndk (d a : Reg) (n : BitVec 8) (s : State) : Out := s.eachLane fun s k t => s.finish k t (setW t d (readW t a &&& s.constWord k t n))
def execLdk (d : Reg) (n : BitVec 8) (s : State) : Out := s.eachLane fun s k t => s.finish k t (setW t d (s.constWord k t n))
def execLdkf (d : Reg) (n : BitVec 8) (s : State) : Out := s.eachLane fun s k t =>
  s.withF k t [] (some d) fun t' => s.finishF k t t' d (s.constWord k t n)

/-! ### Opcode 0x0A (R145) -/

def execCpeq (d : PReg) (a b : Reg) (s : State) : Out := pOp s d fun t => readW t a == readW t b
def execCpne (d : PReg) (a b : Reg) (s : State) : Out := pOp s d fun t => readW t a != readW t b
def execCplt (d : PReg) (a b : Reg) (s : State) : Out := pOp s d fun t => (readW t a).slt (readW t b)
def execCpltu (d : PReg) (a b : Reg) (s : State) : Out := pOp s d fun t => (readW t a).ult (readW t b)
def execCpge (d : PReg) (a b : Reg) (s : State) : Out := pOp s d fun t => !(readW t a).slt (readW t b)
def execCpgeu (d : PReg) (a b : Reg) (s : State) : Out := pOp s d fun t => !(readW t a).ult (readW t b)
def execPand (d : PReg) (a b : PSrc) (s : State) : Out := pOp s d fun t => readPS t a && readPS t b
def execPor (d : PReg) (a b : PSrc) (s : State) : Out := pOp s d fun t => readPS t a || readPS t b
def execPxor (d : PReg) (a b : PSrc) (s : State) : Out := pOp s d fun t => readPS t a != readPS t b
def execPmovw (d : PReg) (a : Reg) (s : State) : Out := pOp s d fun t => readW t a != 0
def execWmovp (d : Reg) (a : PSrc) (s : State) : Out := wOp s d fun t => boolWord (readPS t a)

end Sys2Proof.Machine
end

