-- ==== Sys2Proof/Machine/Control.lean ====
section
/-! DEFINITION. Control flow, opcodes 0x10 to 0x12 (R88, R317, R318), the Elpol loop pseudo-form (R76 to R78), the lane
operations of opcode 0x30 (R98, R146, R147) and the fate of a word that is no instruction (R79, R80). -/

namespace Sys2Proof.Machine

/-- A branch: taken when the predicate, complemented with neg = 1, reads true (R33, R317). -/
def execBr (p : PReg) (neg : BitVec 1) (off : BitVec 21) (s : State) : Out := s.eachLane fun s k t =>
  s.finishAt k t t (if readP t p != (neg == 1) then t.pc + codeOff off else t.pc + 4)

/-- w[d] := PC + 4; PC := PC + off20 × 4 (R317). -/
def execJal (d : Reg) (off : BitVec 20) (s : State) : Out := s.eachLane fun s k t =>
  s.finishAt k t (setW t d (t.pc + 4)) (t.pc + codeOff off)

/-- The target is read before w[d] is written (R317). -/
def execJalr (d a : Reg) (s : State) : Out := s.eachLane fun s k t =>
  s.finishAt k t (setW t d (t.pc + 4)) (readW t a &&& ~~~ (3 : Word))

/-- STEP of a loop pseudo-form: LANES, TILEK or TILEN (R77). -/
def loopStep (st : BitVec 2) : Nat :=
  match st.toNat with
  | 0 => Config.lanes
  | 1 => Config.tileK
  | _ => Config.tileN

/-- The loop pseudo-form (R77): the update of w[i] wraps, the test of p[pd] is exact. -/
def execEloop (i n : Reg) (st : BitVec 2) (p : PReg) (off : BitVec 10) (s : State) : Out := s.eachLane fun s k t =>
  let step := loopStep st
  let ix := if st = 0 then laneOf (keyCore k) (keyThr k) else step - 1
  let t1 := setW t i (readW t i + word step)
  if (readW t1 i).slt (readW t1 n) then
    s.finishAt k t (setP t1 p ((readW t1 i).toInt + ix < (readW t1 n).toInt)) (t.pc + codeOff off)
  else s.finishAt k t (setP t1 p false) (t.pc + 4)

/-- A word that is no instruction: the illegal-instruction trap in every lane of the issuing set (R79, R80, R82). -/
def execIllegalInstruction (s : State) : Out := .next s.illegal

/-! ### Lane operations: every source is read before any destination is written (R146) -/

/-- The issuing set as lane, thread pairs. -/
def laneThreads (s : State) : List (Nat × Thread) := s.curThreads.map fun x => (laneOf (keyCore x.1) (keyThr x.1), x.2)

/-- The value a lane's shuffle takes: that of source lane `src` when it is in the set, else its own (R146). -/
def shuffled (lanes : List (Nat × Thread)) (read : Thread → Word) (own : Thread) (src : Int) : Word :=
  match lanes.find? fun x => (x.1 : Int) == src with
  | some x => read x.2
  | none => read own

/-- Source lane of a shuffle: direct, up, down, by XOR (R146). -/
def srcDirect (_ k : Nat) : Int := k
def srcUp (l k : Nat) : Int := (l : Int) - k
def srcDown (l k : Nat) : Int := (l : Int) + k
def srcXor (l k : Nat) : Int := ((l ^^^ k : Nat) : Int)

/-- A shuffle of w registers. -/
def shuffleW (s : State) (d a b : Reg) (src : Nat → Nat → Int) : Out :=
  let lanes := laneThreads s
  s.eachLane fun s k t =>
    s.finish k t (setW t d (shuffled lanes (readW · a) t
      (src (laneOf (keyCore k) (keyThr k)) ((readW t b).toNat % 32))))

/-- The lanes whose f operands the stream rules let through, with their elements consumed (R49). A lane whose own operand waits or traps
is no source: its reader takes its own value, as of an inactive lane. (DESIGN CHOICE, log 73: unsafe.) -/
def preparedLanes (s : State) (d a : Reg) : List (Nat × Thread) :=
  s.curThreads.filterMap fun x => match fPrep x.2 [a] (some d) with
    | .ok t => some (laneOf (keyCore x.1) (keyThr x.1), t)
    | _ => none

/-- A shuffle of f registers: all 64 bits move unchanged. -/
def shuffleF (s : State) (d a b : Reg) (src : Nat → Nat → Int) : Out :=
  let lanes := preparedLanes s d a
  s.eachLane fun s k t => s.withF k t [a] (some d) fun t' =>
    s.finishF k t t' d (shuffled lanes (readF · a) t'
      (src (laneOf (keyCore k) (keyThr k)) ((readW t b).toNat % 32)))

def execShfl (d a b : Reg) (s : State) : Out := shuffleW s d a b srcDirect
def execShflup (d a b : Reg) (s : State) : Out := shuffleW s d a b srcUp
def execShfldn (d a b : Reg) (s : State) : Out := shuffleW s d a b srcDown
def execShflx (d a b : Reg) (s : State) : Out := shuffleW s d a b srcXor
def execFshfl (d a b : Reg) (s : State) : Out := shuffleF s d a b srcDirect
def execFshflup (d a b : Reg) (s : State) : Out := shuffleF s d a b srcUp
def execFshfldn (d a b : Reg) (s : State) : Out := shuffleF s d a b srcDown
def execFshflx (d a b : Reg) (s : State) : Out := shuffleF s d a b srcXor

/-- pd := pa true in every lane of S (R147). -/
def execVall (d : PReg) (a : PSrc) (s : State) : Out :=
  let v := s.curThreads.all fun x => readPS x.2 a
  pOp s d fun _ => v

/-- pd := pa true in some lane of S (R147). -/
def execVany (d : PReg) (a : PSrc) (s : State) : Out :=
  let v := s.curThreads.any fun x => readPS x.2 a
  pOp s d fun _ => v

/-- Sum of 2^m over the lanes m of S where `f` holds (R147). -/
def laneMask (s : State) (f : Thread → Bool) : Word :=
  word (((laneThreads s).map fun x => if f x.2 then 2 ^ x.1 else 0).sum)

def execVbal (d : Reg) (a : PSrc) (s : State) : Out :=
  let v := laneMask s fun t => readPS t a
  wOp s d fun _ => v

def execLmask (d : Reg) (s : State) : Out :=
  let v := laneMask s fun _ => true
  wOp s d fun _ => v

end Sys2Proof.Machine
end

