-- ==== Sys2Proof/Machine/FloatOps.lean ====
section
/-! DEFINITION. Floating-point arithmetic, opcode 0x18 (R89, R124 to R127, R148 to R152). An instruction of R124 that meets a
subnormal operand under SM = 0 parks for firmware's assist, which `execSubnormalAssistComplete` finishes (R125, R162). -/

namespace Sys2Proof.Machine

/-- FP32 or FP64 by fn[0] (R89). -/
def precFmt (p : BitVec 1) : Fmt := if p = 0 then .f32 else .f64

/-- The bits of element `i` of a register in a format (Table 2.4). -/
def elemBits (f : Fmt) (i : Nat) (w : Word) : Nat := natField (i * fmtStride f) (fmtBits f) w.toNat

/-- The scalar bits of f[r] in a format (R41). -/
def opnd (f : Fmt) (t : Thread) (r : Reg) : Nat := elemBits f 0 (readF t r)

/-- An instruction of R124: the f registers it reads, the one it writes, whether an operand element is subnormal, and its
result with flags. The result function reads SM itself: the assist finishes with the same function, under SM = 0. -/
structure FpJob where
  srcs : List Reg
  dst : Reg
  subs : Thread → Bool
  result : Thread → Rounded

/-- The result of a job written and its flags raised (R127). -/
def State.finishJob (s : State) (k : Nat) (t t' : Thread) (j : FpJob) : State :=
  let r := j.result t'
  s.finishF k t (raise t' r.flags) j.dst (word r.bits)

/-- A job in each lane: the assist in the lanes whose operands hold a subnormal under SM = 0, the result in the others. -/
def runJob (s : State) (j : FpJob) (i : Instr) : Out := s.eachLane fun s k t =>
  s.withF k t j.srcs (some j.dst) fun t' =>
    if !xsSM t.xstat && j.subs t' then s.parkAt k t (.assist i s.cur.pfx) else s.finishJob k t t' j

/-- RM' of a thread (R114). -/
def rmOf (t : Thread) : Nat := rm0 (xsRM t.xstat)

/-- An exact result rounded with its flags. -/
def roundExact (sm : Bool) (f : Fmt) (rm : Nat) (sat : Bool) (e : Exact) : Rounded :=
  let r := roundFlush sm f rm sat e.val
  ⟨r.bits, orFlags e.flags r.flags⟩

/-- The value an instruction of R124 reads: subnormal as zero of its sign under SM = 1. -/
def operandV (f : Fmt) (t : Thread) (r : Reg) : Val := flushIn (xsSM t.xstat) f (opnd f t r)

/-- A two-operand operation of R148. -/
def job2 (f : Fmt) (d a b : Reg) (op : Nat → Val → Val → Exact) : FpJob :=
  { srcs := [a, b], dst := d
    subs := fun t => isSubnormal f (opnd f t a) || isSubnormal f (opnd f t b)
    result := fun t => roundExact (xsSM t.xstat) f (rmOf t) false (op (rmOf t) (operandV f t a) (operandV f t b)) }

/-- A fused multiply-add of R148: ±(x × y) ± z, one rounding. -/
def jobFma (f : Fmt) (d a b : Reg) (negP negZ : Bool) : FpJob :=
  { srcs := [a, b, d], dst := d
    subs := fun t => isSubnormal f (opnd f t a) || isSubnormal f (opnd f t b) || isSubnormal f (opnd f t d)
    result := fun t =>
      let x := operandV f t a
      let z := operandV f t d
      roundExact (xsSM t.xstat) f (rmOf t) false
        (fmaV (rmOf t) (if negP then negate x else x) (operandV f t b) (if negZ then negate z else z)) }

def jobSqrt (f : Fmt) (d a : Reg) : FpJob :=
  { srcs := [a], dst := d
    subs := fun t => isSubnormal f (opnd f t a)
    result := fun t => roundExact (xsSM t.xstat) f (rmOf t) false (sqrtV (operandV f t a)) }

/-- An f-to-f operation without rounding or assist: bits and flags from the thread. -/
def fOp (s : State) (srcs : List Reg) (d : Reg) (r : Thread → Rounded) : Out := s.eachLane fun s k t =>
  s.withF k t srcs (some d) fun t' =>
    let x := r t'
    s.finishF k t (raise t' x.flags) d (word x.bits)

/-- The bits an operand of `fmin`, `fmax` or a compare is read with: a subnormal as zero of its sign under SM = 1. -/
def flushBits (sm : Bool) (f : Fmt) (bits : Nat) : Nat :=
  if sm && isSubnormal f bits then bits / 2 ^ (fmtBits f - 1) * 2 ^ (fmtBits f - 1) else bits

/-- `fmin` and `fmax` of two encodings (R123, R149). -/
def minMaxBits (f : Fmt) (sm isMax : Bool) (x y : Nat) : Rounded :=
  let x := flushBits sm f x
  let y := flushBits sm f y
  let r := minMax isMax (valueOf f 0 x) (valueOf f 0 y)
  ⟨match r.1 with
    | 0 => x
    | 1 => y
    | _ => canonicalNaN f, r.2⟩

/-- The sign bit of a format's encoding replaced by `neg` (R149). -/
def withSign (f : Fmt) (bits : Nat) (neg : Bool) : Nat := bits % 2 ^ (fmtBits f - 1) + bit01 neg * 2 ^ (fmtBits f - 1)
def signOf (f : Fmt) (bits : Nat) : Bool := natBit (fmtBits f - 1) bits

def signOp (s : State) (d a b : Reg) (f : Fmt) (g : Bool → Bool → Bool) : Out := fOp s [a, b] d fun t =>
  ⟨withSign f (opnd f t a) (g (signOf f (opnd f t a)) (signOf f (opnd f t b))), noFlags⟩

/-- A compare: p[d] and NV (R150). -/
def cmpOp (s : State) (d : PReg) (a b : Reg) (f : Fmt) (anyNan : Bool) (g : Val → Val → Bool) : Out := s.eachLane fun s k t =>
  s.withF k t [a, b] none fun t' =>
    let x := operandV f t' a
    let y := operandV f t' b
    let nv := if anyNan then isNan x || isNan y else isSig x || isSig y
    s.finish k t (setP (raise t' { nv := nv }) d (g x y))

/-! ### Arithmetic (R148) -/

def faddJob (d a b : Reg) (p : BitVec 1) : FpJob := job2 (precFmt p) d a b addV
def fsubJob (d a b : Reg) (p : BitVec 1) : FpJob := job2 (precFmt p) d a b fun rm x y => addV rm x (negate y)
def fmulJob (d a b : Reg) (p : BitVec 1) : FpJob := job2 (precFmt p) d a b fun _ x y => mulV x y
def fdivJob (d a b : Reg) (p : BitVec 1) : FpJob := job2 (precFmt p) d a b fun _ x y => divV x y
def fmaddJob (d a b : Reg) (p : BitVec 1) : FpJob := jobFma (precFmt p) d a b false false
def fmsubJob (d a b : Reg) (p : BitVec 1) : FpJob := jobFma (precFmt p) d a b false true
def fnmaddJob (d a b : Reg) (p : BitVec 1) : FpJob := jobFma (precFmt p) d a b true false
def fnmsubJob (d a b : Reg) (p : BitVec 1) : FpJob := jobFma (precFmt p) d a b true true
def fsqrtJob (d a : Reg) (p : BitVec 1) : FpJob := jobSqrt (precFmt p) d a

def execFadd (d a b : Reg) (p : BitVec 1) (s : State) : Out := runJob s (faddJob d a b p) (.fadd d a b p)
def execFsub (d a b : Reg) (p : BitVec 1) (s : State) : Out := runJob s (fsubJob d a b p) (.fsub d a b p)
def execFmul (d a b : Reg) (p : BitVec 1) (s : State) : Out := runJob s (fmulJob d a b p) (.fmul d a b p)
def execFdiv (d a b : Reg) (p : BitVec 1) (s : State) : Out := runJob s (fdivJob d a b p) (.fdiv d a b p)
def execFmadd (d a b : Reg) (p : BitVec 1) (s : State) : Out := runJob s (fmaddJob d a b p) (.fmadd d a b p)
def execFmsub (d a b : Reg) (p : BitVec 1) (s : State) : Out := runJob s (fmsubJob d a b p) (.fmsub d a b p)
def execFnmadd (d a b : Reg) (p : BitVec 1) (s : State) : Out := runJob s (fnmaddJob d a b p) (.fnmadd d a b p)
def execFnmsub (d a b : Reg) (p : BitVec 1) (s : State) : Out := runJob s (fnmsubJob d a b p) (.fnmsub d a b p)
def execFsqrt (d a : Reg) (p : BitVec 1) (s : State) : Out := runJob s (fsqrtJob d a p) (.fsqrt d a p)

/-! ### Minimum, maximum, signs and moves (R149) -/

def execFmin (d a b : Reg) (p : BitVec 1) (s : State) : Out := fOp s [a, b] d fun t =>
  minMaxBits (precFmt p) (xsSM t.xstat) false (opnd (precFmt p) t a) (opnd (precFmt p) t b)
def execFmax (d a b : Reg) (p : BitVec 1) (s : State) : Out := fOp s [a, b] d fun t =>
  minMaxBits (precFmt p) (xsSM t.xstat) true (opnd (precFmt p) t a) (opnd (precFmt p) t b)
def execFsgnj (d a b : Reg) (p : BitVec 1) (s : State) : Out := signOp s d a b (precFmt p) fun _ y => y
def execFsgnjn (d a b : Reg) (p : BitVec 1) (s : State) : Out := signOp s d a b (precFmt p) fun _ y => !y
def execFsgnjx (d a b : Reg) (p : BitVec 1) (s : State) : Out := signOp s d a b (precFmt p) fun x y => x != y
def execFmov (d a : Reg) (s : State) : Out := s.eachLane fun s k t =>
  s.withF k t [a] (some d) fun t' => s.finishF k t t' d (readF t' a)
def execFmvwf (d a : Reg) (s : State) : Out := s.eachLane fun s k t =>
  s.withF k t [a] none fun t' => s.finish k t (setW t' d (readF t' a))
def execFmvfw (d a : Reg) (s : State) : Out := s.eachLane fun s k t =>
  s.withF k t [] (some d) fun t' => s.finishF k t t' d (readW t' a)

/-! ### Compares, class, integral value (R150 to R152) -/

def execFceq (d : PReg) (a b : Reg) (p : BitVec 1) (s : State) : Out := cmpOp s d a b (precFmt p) false eqV
def execFclt (d : PReg) (a b : Reg) (p : BitVec 1) (s : State) : Out := cmpOp s d a b (precFmt p) true ltV
def execFcle (d : PReg) (a b : Reg) (p : BitVec 1) (s : State) : Out := cmpOp s d a b (precFmt p) true fun x y => ltV x y || eqV x y
def execFcun (d : PReg) (a b : Reg) (p : BitVec 1) (s : State) : Out := cmpOp s d a b (precFmt p) false fun x y => isNan x || isNan y
def execFclass (d a : Reg) (p : BitVec 1) (s : State) : Out := s.eachLane fun s k t =>
  s.withF k t [a] none fun t' => s.finish k t (setW t' d (word (2 ^ classBit (precFmt p) (opnd (precFmt p) t' a))))

/-- The integral value of an encoding (R152). -/
def rintBits (f : Fmt) (rm : Nat) (v : Val) : Rounded :=
  match v with
  | .fin neg m e =>
    let r := integral rm neg m e
    ⟨(roundTo f 0 0 false 0 r.1).bits, { nx := r.2 }⟩
  | v => roundTo f 0 rm false 0 v

def execFrint (d a : Reg) (p : BitVec 1) (s : State) : Out := fOp s [a] d fun t => rintBits (precFmt p) (rmOf t) (operandV (precFmt p) t a)

end Sys2Proof.Machine
end

