-- ==== Sys2Proof/Machine/Special.lean ====
section
/-! DEFINITION. The special functions of opcode 0x1A (R91, R153): the correctly rounded value of the mathematical function.
An irrational result is computed in fixed point to some 130 or more bits past its leading bit, with one further bit set for
the rest, which rounds as the exact value does unless that value lies within 2^−130 of a point or midpoint of FP32. -/

namespace Sys2Proof.Machine

/-- ⌊π × 2^540⌋. -/
def piFix : Nat := 0x3243f6a8885a308d313198a2e03707344a4093822299f31d0082efa98ec4e6c89452821e638d01377be5466cf34e90c6cc0ac29b7c97c50dd3f84d5b5b54709179216d5d
/-- ln 2 × 2^400, truncated. -/
def ln2Fix : Nat := 0xb17217f7d1cf79abc9e3b39803f2f6af40f343267298b62d8a0d175b8baafa2be7b876206debac98559552fb4afa1b10ec85

/-- ∑ y^k / k! for y a fraction of 2^400, from term `n` on, with `fuel` terms. -/
def expTerms : Nat → Nat → Nat → Nat → Nat
  | 0, _, _, _ => 0
  | fuel + 1, n, term, y => term + expTerms fuel (n + 1) (term * y / 2 ^ 400 / (n + 1)) y

/-- e^y × 2^400 for y a fraction of 2^400 below 1. (DEDUCED, log 24: unsafe.) -/
def expFix (y : Nat) : Nat := expTerms 90 0 (2 ^ 400) y

/-- 2^x of a finite nonzero x, exact for an integer (R153). -/
def exp2Fin (neg : Bool) (m : Nat) (e : Int) : Val :=
  let whole := inUnits m e 0
  if whole.2.1 = 0 then .fin false 1 (if neg then -(min whole.1 400 : Nat) else (min whole.1 400 : Nat))
  else if 300 ≤ whole.1 then .fin false 3 (if neg then -400 else 400)
  else if topExp m e < -60 then (if neg then .fin false (2 ^ 101 - 1) (-101) else .fin false (2 ^ 101 + 1) (-101))
  else
    let frac := whole.2.1 * 2 ^ 400 / whole.2.2
    let n : Int := if neg then -(whole.1 : Int) - 1 else whole.1
    let y := if neg then 2 ^ 400 - frac else frac
    .fin false (2 * expFix (y * ln2Fix / 2 ^ 400) + 1) (n - 401)

/-- Fraction bits of log2 of a fixed-point number in [1, 2) with 400 fraction bits, by repeated squaring. -/
def logBits : Nat → Nat → Nat → Nat
  | 0, _, acc => acc
  | fuel + 1, z, acc =>
    let z2 := z * z / 2 ^ 400
    if 2 ^ 401 ≤ z2 then logBits fuel (z2 / 2) (2 * acc + 1) else logBits fuel z2 (2 * acc)

/-- log2 of a positive number: exact for a power of two (R153). -/
def log2Pos (m : Nat) (e : Int) : Val :=
  let n := topExp m e
  if m = 2 ^ Nat.log2 m then ofInt n 0 false
  else
    let frac : Nat := logBits 160 (m * 2 ^ 400 / 2 ^ Nat.log2 m) 0
    let total : Int := n * 2 ^ 160 + frac
    if total < 0 then .fin true (2 * total.natAbs - 1) (-161) else .fin false (2 * total.natAbs + 1) (-161)

/-- 1/√x of a positive number: exact for an even power of two (R153). -/
def rsqrtPos (m : Nat) (e : Int) : Val :=
  let odd : Nat := if e % 2 = 0 then 0 else 1
  let n := m * 2 ^ odd
  let q := 2 ^ 400 / n
  let r := isqrt q
  let x := inexactMag r (-(200 : Int) - (e - odd) / 2) (r * r != q || 2 ^ 400 % n != 0)
  .fin false x.1 x.2

/-- ∑ (−1)^j r^(2j+i) / (2j+i)! for r a fraction of 2^400, from term `n` on: the sine for i = 1, the cosine for i = 0. -/
def trigTerms : Nat → Nat → Int → Nat → Int
  | 0, _, _, _ => 0
  | fuel + 1, n, term, r2 => term + trigTerms fuel (n + 2) (-(term * r2 / 2 ^ 400 / ((n + 1) * (n + 2)))) r2

def sinFix (r : Nat) : Int := trigTerms 60 1 r (r * r / 2 ^ 400)
def cosFix (r : Nat) : Int := trigTerms 60 0 (2 ^ 400) (r * r / 2 ^ 400)

/-- A magnitude as a multiple of 2^−400 reduced by π/2: the quadrant and the rest. -/
def reducePi (m : Nat) (e : Int) : Nat × Nat :=
  let x := (inUnits m e (-540)).1
  let h := piFix / 2
  (x / h % 4, x % h / 2 ^ 140)

/-- The signed fixed-point value of a quadrant: k is 0 for the sine, 1 for the cosine. -/
def trigQuadrant (k : Nat) (q r : Nat) : Int :=
  match (q + k) % 4 with
  | 0 => sinFix r
  | 1 => cosFix r
  | 2 => -sinFix r
  | _ => -cosFix r

/-- A fixed-point result that is not exact. -/
def trigVal (v : Int) (neg : Bool) : Val := .fin ((v < 0) != neg) (2 * v.natAbs + 1) (-401)

/-- sin x of a finite nonzero x (R153). -/
def sinFin (neg : Bool) (m : Nat) (e : Int) : Val :=
  if topExp m e < -40 then .fin neg (m * 2 ^ 100 - 1) (e - 100)
  else
    let r := reducePi m e
    trigVal (trigQuadrant 0 r.1 r.2) neg

/-- cos x of a finite nonzero x (R153). -/
def cosFin (m : Nat) (e : Int) : Val :=
  if topExp m e < -40 then .fin false (2 ^ 101 - 1) (-101)
  else
    let r := reducePi m e
    trigVal (trigQuadrant 1 r.1 r.2) false

/-- Each function with the special operands of Table 5.7. -/
def exp2V (x : Val) : Exact :=
  match x with
  | .nan _ => nanOf [x]
  | .inf n => ⟨if n then .fin false 0 0 else .inf false, {}⟩
  | .fin n m e => ⟨if m = 0 then .fin false 1 0 else exp2Fin n m e, {}⟩

def log2V (x : Val) : Exact :=
  match x with
  | .nan _ => nanOf [x]
  | .inf n => if n then invalid else ⟨x, {}⟩
  | .fin n m e => if m = 0 then ⟨.inf true, { dz := true }⟩ else if n then invalid else ⟨log2Pos m e, {}⟩

def rsqrtV (x : Val) : Exact :=
  match x with
  | .nan _ => nanOf [x]
  | .inf n => if n then invalid else ⟨.fin false 0 0, {}⟩
  | .fin n m e => if m = 0 then ⟨.inf n, { dz := true }⟩ else if n then invalid else ⟨rsqrtPos m e, {}⟩

def sinV (x : Val) : Exact :=
  match x with
  | .nan _ => nanOf [x]
  | .inf _ => invalid
  | .fin n m e => ⟨if m = 0 then x else sinFin n m e, {}⟩

def cosV (x : Val) : Exact :=
  match x with
  | .nan _ => nanOf [x]
  | .inf _ => invalid
  | .fin _ m e => ⟨if m = 0 then .fin false 1 0 else cosFin m e, {}⟩

/-- A special function of FP32 f[a] into f[d]. -/
def jobSpecial (d a : Reg) (g : Val → Exact) : FpJob :=
  { srcs := [a], dst := d
    subs := fun t => isSubnormal .f32 (opnd .f32 t a)
    result := fun t => roundExact (xsSM t.xstat) .f32 (rmOf t) false (g (operandV .f32 t a)) }

def execFexp2 (d a : Reg) (s : State) : Out := runJob s (jobSpecial d a exp2V) (.fexp2 d a)
def execFlog2 (d a : Reg) (s : State) : Out := runJob s (jobSpecial d a log2V) (.flog2 d a)
def execFrsqrt (d a : Reg) (s : State) : Out := runJob s (jobSpecial d a rsqrtV) (.frsqrt d a)
def execFsin (d a : Reg) (s : State) : Out := runJob s (jobSpecial d a sinV) (.fsin d a)
def execFcos (d a : Reg) (s : State) : Out := runJob s (jobSpecial d a cosV) (.fcos d a)

end Sys2Proof.Machine
end

