-- ==== Sys2Proof/Machine/Convert.lean ====
section
/-! DEFINITION. Conversions, opcode 0x19 (R90, R115, R116, R120, R121, R154 to R156). -/

namespace Sys2Proof.Machine

/-- A destination of 16 bits or fewer, where mode 5 is honoured (R114). -/
def narrowDest (f : Fmt) : Bool := fmtBits f ≤ 16

/-- RMc (R155). -/
def rmConv (t : Thread) (f : Fmt) : Nat := if narrowDest f then xsRM t.xstat else rmOf t

/-- One element converted: its bits, with the draw of mode 5 taken whatever the element is (R116). -/
def convertOne (t : Thread) (src dst : Fmt) (scale : Nat) (sat : Bool) (bits : Nat) : Thread × Nat :=
  let rm := rmConv t dst
  let seed := draw32 (t.rndseed.toNat % 2 ^ 32)
  let r := roundTo dst scale rm sat seed (valueOf src scale bits)
  let t' := raise t r.flags
  (if rm = 5 then { t' with rndseed := word seed } else t', r.bits)

/-- The operands of a kind-0 conversion: formats, groups, and whether a prefix places them (R154). -/
structure CvtShape where
  src : Fmt
  dst : Fmt
  gs : Nat
  gd : Nat
  merge : Bool
  deriving DecidableEq, Repr

/-- Elements a conversion moves: Min(E(fs), E(fd)) (R154). -/
def cvtCount (c : CvtShape) : Nat := Nat.min (fmtElems c.src) (fmtElems c.dst)

/-- The shape of a kind-0 conversion from its own fields or its prefix; none for a pair or selector it does not support, and
for a b that must be zero (R57, R90, R154). -/
def cvtShape (b : Reg) (fs ft : BitVec 4) (pfx : Option (BitVec 4 × BitVec 4 × BitVec 6)) : Option CvtShape :=
  let shape := match pfx with
    | none => match fmtOf fs, fmtOf ft with
      | some x, some y => some { src := x, dst := y, gs := 0, gd := 0, merge := false : CvtShape }
      | _, _ => none
    | some (fa, fb, sel) =>
      if fs ≠ 0 ∨ ft ≠ 0 then none
      else match fmtOf fa, fmtOf fb with
        | some x, some y =>
          some { src := x, dst := y, gs := sel.toNat / 8, gd := sel.toNat % 8, merge := true : CvtShape }
        | _, _ => none
  match shape with
  | none => none
  | some c =>
    if c.src = c.dst then none
    else if b ≠ 0 ∧ c.src ≠ .n4 ∧ c.dst ≠ .n4 then none
    else if fmtElems c.src < (c.gs + 1) * cvtCount c ∨ fmtElems c.dst < (c.gd + 1) * cvtCount c then none
    else some c

/-- A register with element `i` of a format replaced. -/
def putElem (f : Fmt) (i : Nat) (w : Word) (bits : Nat) : Word := putBits w (i * fmtStride f) (fmtStride f) bits

/-- The elements of a conversion, in ascending order, from `a` into `old` (R116, R154, R155). -/
def convertElems (c : CvtShape) (sat : Bool) (scale : Nat) (a : Word) (t : Thread) (old : Word) : Thread × Word :=
  (List.range (cvtCount c)).foldl (fun acc i =>
    let r := convertOne acc.1 c.src c.dst scale sat (elemBits c.src (c.gs * cvtCount c + i) a)
    (r.1, putElem c.dst (c.gd * cvtCount c + i) acc.2 r.2)) (t, old)

/-- `cvt` (R154, R155): with a prefix the other elements of f[d] keep their values. -/
def execCvt (d a b : Reg) (fs ft : BitVec 4) (sat : BitVec 1) (s : State) : Out :=
  match cvtShape b fs ft s.cur.pfx with
  | none => .next s.illegal
  | some c =>
    let srcs := [a] ++ (if c.src = .n4 ∨ c.dst = .n4 then [b] else []) ++
      (if c.merge ∧ cvtCount c < fmtElems c.dst then [d] else [])
    s.eachLane fun s k t => s.withF k t srcs (some d) fun t' =>
      let r := convertElems c (sat == 1) ((readF t' b).toNat % 256) (readF t' a) t' (if c.merge ∧ cvtCount c < fmtElems c.dst then readF t' d else 0)
      s.finishF k t r.1 d r.2

/-- The pair of a kind-1 conversion: INT32 to or from FP64, FP32, FP16 or BF16 (R156). -/
def cvtiPair (fs ft : BitVec 4) (pfx : Option (BitVec 4 × BitVec 4 × BitVec 6)) : Option (Fmt × Fmt) :=
  let p := match pfx with
    | none => some (fs, ft)
    | some (fa, fb, sel) => if fs ≠ 0 ∨ ft ≠ 0 ∨ sel ≠ 0 then none else some (fa, fb)
  match p with
  | none => none
  | some (x, y) =>
    if x = 11 ∧ y.toNat ≤ 3 then (fmtOf y).map fun f => (.i32, f)
    else if y = 11 ∧ x.toNat ≤ 3 then (fmtOf x).map fun f => (f, .i32)
    else none

/-- `cvti` (R156). -/
def execCvti (d a : Reg) (fs ft : BitVec 4) (sat : BitVec 1) (s : State) : Out :=
  match cvtiPair fs ft s.cur.pfx with
  | none => .next s.illegal
  | some (.i32, f) => s.eachLane fun s k t => s.withF k t [] (some d) fun t' =>
      let r := convertOne t' .i32 f 0 (sat == 1) ((readW t' a).toNat % 2 ^ 32)
      s.finishF k t r.1 d (word r.2)
  | some (f, _) => s.eachLane fun s k t => s.withF k t [a] none fun t' =>
      let r := convertOne t' f .i32 0 (sat == 1) (opnd f t' a)
      s.finish k t (setW r.1 d (signExt 32 (word r.2)))

/-! ### Packed narrow arithmetic, opcode 0x1B (R92, R158 to R160) -/

/-- The element format of a packed instruction, from its own field or its prefix (R160); `dot` is `ndot`. -/
def narrowFmt (e : BitVec 4) (dot : Bool) (pfx : Option (BitVec 4 × BitVec 4 × BitVec 6)) : Option Fmt :=
  match pfx with
  | none => if 3 ≤ e.toNat ∧ e.toNat ≤ 5 then fmtOf e else none
  | some (fa, fb, sel) =>
    if e = 0 ∧ sel = 0 ∧ 3 ≤ fa.toNat ∧ fa.toNat ≤ 7 ∧ fb = (if dot then 1 else fa) then fmtOf fa else none

/-- SM counts for BF16 elements alone (R126). -/
def narrowSM (f : Fmt) (t : Thread) : Bool := f = .bf16 && xsSM t.xstat

/-- The value of element `i` of f[r]. -/
def elemV (f : Fmt) (t : Thread) (i : Nat) (r : Reg) : Val := flushIn (narrowSM f t) f (elemBits f i (readF t r))

/-- Some element of f[r] is a BF16 subnormal (R124). -/
def elemSub (f : Fmt) (t : Thread) (r : Reg) : Bool :=
  f = .bf16 && (List.range (fmtElems f)).any fun i => isSubnormal f (elemBits f i (readF t r))

/-- Elements packed into a register, with the union of their flags (R127). -/
def packElems (f : Fmt) (g : Nat → Rounded) : Rounded :=
  let r := (List.range (fmtElems f)).foldl (fun (acc : Word × Flags) i =>
    (putElem f i acc.1 (g i).bits, orFlags acc.2 (g i).flags)) (0, noFlags)
  ⟨r.1.toNat, r.2⟩

/-- A packed operation of R158 by element; `reads` are the f registers it reads. -/
def jobNarrow (f : Fmt) (d a b : Reg) (reads : List Reg) (sat : BitVec 1) (op : Nat → Val → Val → Val → Exact) : FpJob :=
  { srcs := reads, dst := d
    subs := fun t => reads.any (elemSub f t)
    result := fun t => packElems f fun i =>
      roundExact (narrowSM f t) f (rmOf t) (sat == 1)
        (op (rmOf t) (elemV f t i a) (elemV f t i b) (elemV f t i d)) }

/-- `nmin` and `nmax`: the operand's encoding, not rounded (R158). -/
def jobNarrowMin (f : Fmt) (d a b : Reg) (isMax : Bool) : FpJob :=
  { srcs := [a, b], dst := d
    subs := fun t => elemSub f t a || elemSub f t b
    result := fun t => packElems f fun i =>
      minMaxBits f (narrowSM f t) isMax (elemBits f i (readF t a)) (elemBits f i (readF t b)) }

/-- The exact sum of `ndot` (R159): NV for a signalling NaN, a product 0 × ∞, infinite products of opposite signs, and an
infinite sum against the other infinity. -/
def dotExact (rm : Nat) (xs ys : List Val) (z : Val) : Exact :=
  let ps := (xs.zip ys).map fun p => mulV p.1 p.2
  let nv := z == .nan true || ps.any (fun p => p.flags.nv) ||
    (ps.any (fun p => p.val == .inf true) && ps.any fun p => p.val == .inf false)
  let start := match ps.map (·.val) with
    | [] => .fin false 0 0
    | v :: rest => (rest.foldl (fun acc w => (addV rm acc w).val) v)
  let e := addV rm start z
  ⟨e.val, { nv := nv || e.flags.nv }⟩

/-- `ndot` (R159). -/
def jobDot (f : Fmt) (d a b : Reg) (sat : BitVec 1) : FpJob :=
  { srcs := [a, b, d], dst := d
    subs := fun t => elemSub f t a || elemSub f t b || (f = .bf16 && isSubnormal .f32 (opnd .f32 t d))
    result := fun t => roundExact (narrowSM f t) .f32 (rmOf t) (sat == 1)
      (dotExact (rmOf t) ((List.range (fmtElems f)).map fun i => elemV f t i a)
        ((List.range (fmtElems f)).map fun i => elemV f t i b) (flushIn (narrowSM f t) .f32 (opnd .f32 t d))) }

def naddJob (f : Fmt) (d a b : Reg) (sat : BitVec 1) : FpJob := jobNarrow f d a b [a, b] sat fun rm x y _ => addV rm x y
def nsubJob (f : Fmt) (d a b : Reg) (sat : BitVec 1) : FpJob :=
  jobNarrow f d a b [a, b] sat fun rm x y _ => addV rm x (negate y)
def nmulJob (f : Fmt) (d a b : Reg) (sat : BitVec 1) : FpJob := jobNarrow f d a b [a, b] sat fun _ x y _ => mulV x y
def nfmaJob (f : Fmt) (d a b : Reg) (sat : BitVec 1) : FpJob := jobNarrow f d a b [a, b, d] sat fmaV

/-- A packed instruction: illegal for a format it does not support, else its job. -/
def runNarrow (s : State) (e : BitVec 4) (dot : Bool) (job : Fmt → FpJob) (i : Instr) : Out :=
  match narrowFmt e dot s.cur.pfx with
  | none => .next s.illegal
  | some f => runJob s (job f) i

def execNadd (d a b : Reg) (e : BitVec 4) (sat : BitVec 1) (s : State) : Out :=
  runNarrow s e false (fun f => naddJob f d a b sat) (.nadd d a b e sat)
def execNsub (d a b : Reg) (e : BitVec 4) (sat : BitVec 1) (s : State) : Out :=
  runNarrow s e false (fun f => nsubJob f d a b sat) (.nsub d a b e sat)
def execNmul (d a b : Reg) (e : BitVec 4) (sat : BitVec 1) (s : State) : Out :=
  runNarrow s e false (fun f => nmulJob f d a b sat) (.nmul d a b e sat)
def execNfma (d a b : Reg) (e : BitVec 4) (sat : BitVec 1) (s : State) : Out :=
  runNarrow s e false (fun f => nfmaJob f d a b sat) (.nfma d a b e sat)
def execNmin (d a b : Reg) (e : BitVec 4) (sat : BitVec 1) (s : State) : Out :=
  runNarrow s e false (fun f => jobNarrowMin f d a b false) (.nmin d a b e sat)
def execNmax (d a b : Reg) (e : BitVec 4) (sat : BitVec 1) (s : State) : Out :=
  runNarrow s e false (fun f => jobNarrowMin f d a b true) (.nmax d a b e sat)
def execNdot (d a b : Reg) (e : BitVec 4) (sat : BitVec 1) (s : State) : Out :=
  runNarrow s e true (fun f => jobDot f d a b sat) (.ndot d a b e sat)

/-! ### The prefix and the assist -/

/-- `pfx`: the formats and the selector of the instruction that follows, for it alone (R53, R55); fa or fb of 12 to 15 is
illegal (R57). -/
def execPfx (fa fb : BitVec 4) (sel : BitVec 6) (s : State) : Out :=
  if fa.toNat ≤ 11 ∧ fb.toNat ≤ 11 then .next { s with cur := { s.cur with pfx := some (fa, fb, sel) } }
  else .next s.illegal

/-- The job of an instruction of R124 under the prefix it ran with. -/
def assistJob (i : Instr) (pfx : Option (BitVec 4 × BitVec 4 × BitVec 6)) : Option FpJob :=
  match i with
  | .fadd d a b p => some (faddJob d a b p)
  | .fsub d a b p => some (fsubJob d a b p)
  | .fmul d a b p => some (fmulJob d a b p)
  | .fdiv d a b p => some (fdivJob d a b p)
  | .fsqrt d a p => some (fsqrtJob d a p)
  | .fmadd d a b p => some (fmaddJob d a b p)
  | .fmsub d a b p => some (fmsubJob d a b p)
  | .fnmadd d a b p => some (fnmaddJob d a b p)
  | .fnmsub d a b p => some (fnmsubJob d a b p)
  | .fexp2 d a => some (jobSpecial d a exp2V)
  | .flog2 d a => some (jobSpecial d a log2V)
  | .frsqrt d a => some (jobSpecial d a rsqrtV)
  | .fsin d a => some (jobSpecial d a sinV)
  | .fcos d a => some (jobSpecial d a cosV)
  | .nadd d a b e sat => (narrowFmt e false pfx).map fun f => naddJob f d a b sat
  | .nsub d a b e sat => (narrowFmt e false pfx).map fun f => nsubJob f d a b sat
  | .nmul d a b e sat => (narrowFmt e false pfx).map fun f => nmulJob f d a b sat
  | .nfma d a b e sat => (narrowFmt e false pfx).map fun f => nfmaJob f d a b sat
  | .nmin d a b e _ => (narrowFmt e false pfx).map fun f => jobNarrowMin f d a b false
  | .nmax d a b e _ => (narrowFmt e false pfx).map fun f => jobNarrowMin f d a b true
  | .ndot d a b e sat => (narrowFmt e true pfx).map fun f => jobDot f d a b sat
  | _ => none

/-- Firmware's assist ends: the destination is written with the IEEE 754 result and FFLAGS set as the instruction would, and
the thread goes on at the next instruction (R125). (DEDUCED, log 22: safe.) -/
def execSubnormalAssistComplete (k : Nat) (s : State) : Out :=
  match (if clusterRuns s (keyCl k) then s.thread k else none) with
  | none => .next s
  | some t =>
    match t.park with
    | some { why := .assist i pfx, since := _ } =>
      match assistJob i pfx with
      | none => .next s
      | some j =>
        let s1 := { s with cur := { s.cur with pfx := pfx } }
        .next (s1.withF k t j.srcs (some j.dst) fun t' => s1.finishJob k t t' j)
    | _ => .next s

end Sys2Proof.Machine
end

