-- ==== Sys2Proof/Machine/Queue.lean ====
section
/-! DEFINITION. Queues in FIFO banks, work lists, ready queues and messages: opcode 0x34 (R99, R261 to R271), and the rows
that place and take their entries. -/

namespace Sys2Proof.Machine

/-! ### Queues in FIFO banks (R261 to R265) -/

/-- The cluster and the queue, bank × 16 + q, a handle names (R261). -/
def queueOf (h : Word) : Option (Nat × Nat) :=
  match spotOf h.toNat with
  | some (.scratch cl off) => if off % 0x2000 = 0 then some (cl, off / 0x2000) else none
  | _ => none

/-- The queue a bank holds; one nothing has touched is empty. -/
def State.fifo (s : State) (cl q : Nat) : Fifo := (mget (s.cluster cl).fifos q).getD { entries := [], pushes := [], pops := [] }
def State.putFifo (s : State) (cl q : Nat) (f : Fifo) : State :=
  s.modCluster cl fun c => { c with fifos := mset c.fifos q f }

/-- The handle's checks: the queue fault, the protection fault, a bank that is switching, or the queue (R207, R261). -/
def State.withQueue (s : State) (k : Nat) (t : Thread) (h : Word) (f : Nat → Nat → State) : State :=
  match queueOf h with
  | none => s.trap k t 0x14 0
  | some (cl, q) =>
    if !(s.partOf (keyCl k)).any fun p => p.2.halfDies.getLsbD (halfDieOf cl) then s.trap k t 4 h
    else if bankBusy (s.cluster cl) (q / 16) then s.parkAt k t (.bank cl (q / 16))
    else if bankMode (s.cluster cl) (q / 16) ≠ 2 then s.trap k t 0x14 0
    else f cl q

/-- Pushes on their way to a queue. -/
def pushesTo (s : State) (cl q : Nat) : List (Nat × Word × Nat × Nat) :=
  s.flights.filterMap fun x => match x with
    | .push k _ c i v p n => if c = cl ∧ i = q then some (k, v, p, n) else none
    | _ => none

/-- `qpush` (R262): with room it retires and its entry travels to the bank; else it waits at the bank, parked. A thread's
earlier push to the queue is placed first. -/
def execQpush (a b : Reg) (s : State) : Out := s.eachLane fun s k t =>
  s.withQueue k t (readW t a) fun cl q =>
    let f := s.fifo cl q
    let onWay := pushesTo s cl q
    if t.st ≥ 63 then s.parkAt k t (.counterFull 1)
    else if f.pushes.isEmpty && f.entries.length + onWay.length < 1024 then
      (s.send (coreNo k) (.push k t.uid cl q (readW t b) (coreNo k) (s.stampOf k))).finish k t { t with st := t.st + 1 }
    else if onWay.any fun x => x.1 == k then s.parkAt k t .queuePush
    else
      let s1 := { s with packets := countPacket s.packets (coreNo k) (some (cl * 20)) }
      (s1.putFifo cl q { f with pushes := f.pushes ++ [(k, readW t b, coreNo k, s.stampOf k)] }).parkAt k t .queuePush

/-- `qpop` (R263): its request travels to the bank and its thread parks until an entry is its own. -/
def execQpop (d a : Reg) (s : State) : Out := s.eachLane fun s k t =>
  s.withQueue k t (readW t a) fun cl q =>
    if t.ld ≥ 63 then s.parkAt k t (.counterFull 0)
    else (s.send (coreNo k) (.pop k cl q d false)).parkAt k t .queuePop

/-- An outstanding operation with no bytes of memory. -/
def tokenOp (s : State) (t : Thread) (kind : OutKind) : OutOp :=
  { kind := kind, addrs := [], data := [], order := 0, scope := 0, pc := t.pc, serial := 0, inst := s.free, lines := [], va := 0 }

/-- `qtry` (R263): it retires with its request on the way, w[d] and p1 still to be written. -/
def execQtry (d a : Reg) (s : State) : Out := s.eachLane fun s k t =>
  s.withQueue k t (readW t a) fun cl q =>
    if t.ld ≥ 63 then s.parkAt k t (.counterFull 0)
    else (s.send (coreNo k) (.pop k cl q d true)).finish k t
      (sendLoad t (tokenOp s t (.popWait d)) [.w d, .p 1])

/-- `qlen` (R264). -/
def execQlen (d a : Reg) (s : State) : Out := s.eachLane fun s k t =>
  s.withQueue k t (readW t a) fun cl q =>
    if t.ld ≥ 63 then s.parkAt k t (.counterFull 0)
    else s.finish k t (sendLoad t (tokenOp s t (.queueLen d cl q)) [.w d])

/-- A queue instruction of a lane that is held off-core retires there: the lane goes on at the next instruction when its gang returns (R469). -/
def retireAway (t : Thread) (cyc : Nat) : Thread := { t with pc := t.pc + 4, park := some { why := .replied, since := cyc } }

/-- The queue a lane held off-core waits at is gone (R265, R469). -/
def State.loseQueue (s : State) (k : Nat) : State :=
  s.modAway (k - awayKey 0) fun t => { t with park := some { why := .queueGone, since := s.cyc } }

/-- The entry a thread's parked `qpop` takes: the instruction retires, ld rises, and the value waits for its stamp. -/
def State.givePop (s : State) (k : Nat) (d : Reg) (e : Word × Nat × Nat) : State :=
  let took (t : Thread) : Thread := sendLoad t (tokenOp s t (.pop d e.1 e.2.1 e.2.2)) [.w d]
  match s.thread k with
  | some t => s.finishAt k t (took t) (t.pc + 4)
  | none => s.modAway (k - awayKey 0) fun t => retireAway (took t) s.cyc

/-- A waiting push placed, when there is room for one: its `qpush` retires (R262). (DEDUCED, log 27: unsafe.) -/
def State.placeWaiting (s : State) (cl q : Nat) : State :=
  let f := s.fifo cl q
  match f.pushes with
  | (k, e) :: rest =>
    if f.entries.length + (pushesTo s cl q).length < 1024 then
      let s1 := s.putFifo cl q { f with entries := f.entries ++ [e], pushes := rest }
      match s1.thread k with
      | some t => s1.finishAt k t t (t.pc + 4)
      | none => s1.modAway (k - awayKey 0) fun t => retireAway t s.cyc
    else s
  | [] => s

/-- The first waiting pop served with the first entry, when there are both (R263). -/
def State.servePops (s : State) (cl q : Nat) : State :=
  let f := s.fifo cl q
  match f.pops, f.entries with
  | (k, d) :: pops, e :: entries => (s.putFifo cl q { f with pops := pops, entries := entries }).givePop k d e
  | _, _ => s

/-- A queue settles: pops take entries and pushes take the room, in turn, as long as either can (R262, R263); each turn ends a wait. -/
def State.settleQueue (s : State) (cl q : Nat) : Nat → State
  | 0 => s
  | n + 1 => ((s.servePops cl q).placeWaiting cl q).settleQueue cl q n

/-- Turns in which every wait at a queue can end. -/
def queueTurns (f : Fifo) : Nat := f.pushes.length + f.pops.length + 1

/-- A thread's st falls by one, when it is still the thread at its position. -/
def State.lowerSt (s : State) (k uid : Nat) : State :=
  match s.thread k with
  | some t => if t.uid = uid then s.putThread k { t with st := t.st - 1 } else s
  | none => s

/-- A flight taken out of transit. -/
def State.landFlight (s : State) (i : Nat) : State := { s with flights := dropAt s.flights i }

/-- A push arrives at its bank and is placed, the pushes of one thread to one queue in program order; a waiting pop takes
the entry at once (R262, R263). A bank that has left FIFO mode discards it (R207). -/
def execQueuePushPlace (i : Nat) (s : State) : Out :=
  match s.flights[i]? with
  | some (.push k uid cl q v core stamp) =>
    let earlier := (s.flights.take i).any fun x => match x with
      | .push k' _ c j _ _ _ => k' == k && c == cl && j == q
      | _ => false
    if earlier || bankBusy (s.cluster cl) (q / 16) || !arrives s cl i then .next s
    else
      let s1 := s.landFlight i
      let s2 := s1.lowerSt k uid
      if bankMode (s2.cluster cl) (q / 16) ≠ 2 then .next s2
      else
        let f := s2.fifo cl q
        .next ((s2.putFifo cl q { f with entries := f.entries ++ [(v, core, stamp)] }).settleQueue cl q (queueTurns f))
  | _ => .next s

/-- The place of a thread's `qtry` among its outstanding operations. -/
def tryPlace (t : Thread) (d : Reg) : Option Nat := t.out.findIdx? fun o => o.kind == .popWait d

/-- A `qtry` answered: an entry taken waits for its stamp, or the queue was empty (R263). -/
def State.answerTry (s : State) (k : Nat) (d : Reg) (e : Option (Word × Nat × Nat)) : State :=
  match s.thread k with
  | none => s
  | some t =>
    match tryPlace t d with
    | none => s
    | some j =>
      match e with
      | some (v, core, stamp) =>
        let t1 := setP (unBusy t [.p 1]) 1 true
        s.putThread k { t1 with out := t1.out.modify j fun (o : OutOp) => { o with kind := .pop d v core stamp } }
      | none => s.putThread k (setP (setW (unBusy (landLoad t j) [.w d, .p 1]) d 0) 1 false)

/-- A `qpop` or `qtry` arrives at its bank: the head entry goes to a waiting pop first, else to it (R263); a `qtry` that has issued is answered at a
stop too (R427). A bank that has left FIFO mode gives a `qpop` the queue fault and a `qtry` nothing (R265). (DESIGN CHOICE, log 91: unsafe.) -/
def execQueuePopServe (i : Nat) (s : State) : Out :=
  match s.flights[i]? with
  | some (.pop k cl q d once) =>
    if bankBusy (s.cluster cl) (q / 16) || behindSpill s i || !(if once then clusterDrains s cl else clusterRuns s cl) then .next s
    else
      let s1 := s.landFlight i
      let f := s1.fifo cl q
      if bankMode (s1.cluster cl) (q / 16) ≠ 2 then
        if once then .next (s1.answerTry k d none)
        else match s1.thread k with
          | some t => .next ({ s1 with cur := { s1.cur with pfx := none } }.trap k t 0x14 0)
          | none => .next (s1.loseQueue k)
      else
        match f.pops, f.entries with
        | [], e :: rest =>
          let s2 := s1.putFifo cl q { f with entries := rest }
          .next ((if once then s2.answerTry k d (some e) else s2.givePop k d e).settleQueue cl q (queueTurns f))
        | _, _ =>
          if once then .next (s1.answerTry k d none)
          else .next (s1.putFifo cl q { f with pops := f.pops ++ [(k, d)] })
  | _ => .next s

/-- A pop completes once every write its producer had issued at the push is performed: w[d] is written and ld falls (R230,
R263). -/
def execQueuePopComplete (k i : Nat) (s : State) : Out :=
  match s.drainThread k with
  | none => .next s
  | some t =>
    match t.out[i]? with
    | some { kind := .pop d v core stamp, .. } =>
      if s.drained core stamp then .next (s.putThread k (setW (unBusy (landLoad t i) [.w d]) d v)) else .next s
    | _ => .next s

/-! ### Work lists and ready queues (R266, R267) -/

/-- `wlpush` (R266). -/
def execWlpush (a b : Reg) (s : State) : Out := .next <| s.scOnly fun s => s.forLanes fun s k t =>
  let c := s.core (keyCl k) (keyCore k)
  if c.work.length < 256 then
    (s.modCore (keyCl k) (keyCore k) fun c =>
      { c with work := (readW t a, readW t b, coreNo k, s.stampOf k) :: c.work }).finish k t (setP t 1 true)
  else s.finish k t (setP t 1 false)

/-- `wlpop` (R266): the entry taken is written when its stamp has drained. -/
def execWlpop (d : BitVec 4) (s : State) : Out := .next <| s.scOnly fun s => s.forLanes fun s k t =>
  match (s.core (keyCl k) (keyCore k)).work with
  | [] => s.finish k t (setP t 1 false)
  | (v0, v1, core, stamp) :: rest =>
    let r := pairReg d
    (s.modCore (keyCl k) (keyCore k) fun c => { c with work := rest }).finish k t
      (setP (addBusy { t with out := t.out ++ [tokenOp s t (.work r v0 v1 core stamp)] } [.w r, .w (r + 1)]) 1 true)

/-- A work-list pop completes (R266). -/
def execWlpopComplete (k i : Nat) (s : State) : Out :=
  match s.drainThread k with
  | none => .next s
  | some t =>
    match t.out[i]? with
    | some { kind := .work d v0 v1 core stamp, .. } =>
      if s.drained core stamp then
        .next (s.putThread k (setW (setW (unBusy { t with out := dropAt t.out i } [.w d, .w (d + 1)]) d v0) (d + 1) v1))
      else .next s
    | _ => .next s

/-- `rqpush` (R267): it never parks (Table 8.6), and has not issued before the accesses it releases are performed. -/
def execRqpush (a b : Reg) (s : State) : Out := .next <| s.scOnly fun s => s.forLanes fun s k t =>
  let p := (readW t a).toNat % 4
  let q := (s.core (keyCl k) (keyCore k)).ready[p]'(Nat.mod_lt _ (by decide))
  if q.length ≥ 16 then s.trap k t 0x14 0
  else (s.modCore (keyCl k) (keyCore k) fun c =>
    { c with ready := c.ready.set p (q ++ [readW t b]) (Nat.mod_lt _ (by decide)) }).finish k t t

/-- The highest nonempty priority of a ready queue. -/
def topReady (c : Core) : Option (Fin 4) := [3, 2, 1, 0].find? fun p : Fin 4 => !(c.ready[p]).isEmpty

/-- `rqpop` (R267). -/
def execRqpop (d : Reg) (s : State) : Out := .next <| s.scOnly fun s => s.forLanes fun s k t =>
  let c := s.core (keyCl k) (keyCore k)
  match topReady c with
  | none => s.finish k t (setP (setW t d 0) 1 false)
  | some p =>
    let q := c.ready[p]
    (s.modCore (keyCl k) (keyCore k) fun c => { c with ready := c.ready.set p q.tail }).finish k t
      (setP (setW t d (q.headD 0)) 1 true)

/-! ### Messages (R268 to R271) -/

/-- The checks of a thread name at retirement (R269, R322); the value of a protection fault is the name. (DESIGN CHOICE, log 106: unsafe.) -/
def State.withName (s : State) (k : Nat) (t : Thread) (w : Word) (f : Nat → State) : State :=
  match nameKey w with
  | none => s.trap k t 0x14 0
  | some dst =>
    if (s.partOf (keyCl k)).any fun p => p.2.halfDies.getLsbD (halfDieOf (keyCl dst)) then f dst else s.trap k t 4 w

/-- `msend` (R269). -/
def execMsend (a b : Reg) (s : State) : Out := s.eachLane fun s k t =>
  s.withName k t (readW t a) fun dst =>
    if t.st ≥ 63 then s.parkAt k t (.counterFull 1)
    else (s.send (coreNo k) (.message k t.uid dst (readW t b) (coreNo k) (s.stampOf k))).finish k t
      { t with st := t.st + 1 }

/-- `mrecv` (R270). -/
def execMrecv (d : Reg) (s : State) : Out := s.eachLane fun s k t =>
  match s.mailbox k with
  | [] => s.parkAt k t .mailbox
  | (v, core, stamp) :: rest =>
    if t.ld ≥ 63 then s.parkAt k t .mailbox
    else { s with mail := mset s.mail k rest }.finish k t (sendLoad t (tokenOp s t (.message d v core stamp)) [.w d])

/-- A sleep ends: the `sleep` retires (R271, R323). -/
def State.endSleep (s : State) (k : Nat) : State :=
  match s.thread k with
  | some t => if (t.park.map (·.why)) = some .sleep then s.finishAt k t t (t.pc + 4) else s
  | none => s

/-- A message reaches its mailbox, the messages of one thread to one mailbox in program order, and ends a sleep; at a full
mailbox it waits (R269, R271). -/
def execMessagePlaced (i : Nat) (s : State) : Out :=
  match s.flights[i]? with
  | some (.message src uid dst v core stamp) =>
    let earlier := (s.flights.take i).any fun x => match x with
      | .message a _ b _ _ _ => a == src && b == dst
      | _ => false
    if earlier || (s.mailbox dst).length ≥ 8 || !arrives s (keyCl dst) i then .next s
    else
      let s2 := (s.landFlight i).lowerSt src uid
      .next ({ s2 with mail := mset s2.mail dst (s2.mailbox dst ++ [(v, core, stamp)]) }.endSleep dst)
  | _ => .next s

/-- A receive completes once its message's stamp has drained (R270). -/
def execMrecvComplete (k i : Nat) (s : State) : Out :=
  match s.drainThread k with
  | none => .next s
  | some t =>
    match t.out[i]? with
    | some { kind := .message d v core stamp, .. } =>
      if s.drained core stamp then .next (s.putThread k (setW (unBusy (landLoad t i) [.w d]) d v)) else .next s
    | _ => .next s

end Sys2Proof.Machine
end

