-- ==== Sys2Proof/Machine/Threads.lean ====
section
/-! DEFINITION. Thread operations: opcode 0x35 (R99, R319 to R325), and the rows of wakes, exit notices and migrating threads
(R300 to R303, R321, R322). -/

namespace Sys2Proof.Machine

/-- Registers an instruction passes on must be written first (R138, R319, R326, R327); else the lane parks. -/
def State.withWritten (s : State) (k : Nat) (t : Thread) (rs : List RegRef) (f : State) : State :=
  match rs.filter t.busy.contains with
  | [] => f
  | l => s.parkAt k t (.scoreboard l)

/-! ### spawn and join -/

/-- A thread with the registers of `rs` as another holds them. -/
def copyRegs (dst src : Thread) (rs : List RegRef) : Thread :=
  rs.foldl (fun t r => setReg t r (match r with
    | .w n => readW src n
    | .f n => readF src n
    | .p n => boolWord (readP src n))) dst

/-- The child of a `spawn` (R319): w3, the argument registers, the issuer's ASID and XSTAT (R46). -/
def childOf (t : Thread) (uid cl core entry : Nat) (pc : Word) : Thread :=
  { copyRegs Thread.zero t (.w 3 :: argRegs) with
    uid := uid
    pc := pc &&& ~~~ (3 : Word)
    asid := t.asid
    xstat := putBit (xsSetAP (xsRead t.xstat) false) 12 false
    child := some { cl := cl, core := core, entry := entry }
    launch := t.launch
    tq := t.tq }

/-- The child itself (R319): its entry, its place at the end of the waiting list, w[d] and p1. -/
def State.makeChild (s : State) (k : Nat) (t : Thread) (d a : Reg) (jc : Word) : State :=
  let cl := keyCl k
  let core := keyCore k
  let c := s.core cl core
  let e := (lowestFree Config.children (mkeys c.children)).getD 0
  let s1 := { s with nextUid := s.nextUid + 1 }.modCore cl core fun c =>
    { c with
      children := mset c.children e { jc := jc, asid := t.asid }
      waiting := c.waiting ++ [childOf t s.nextUid cl core e (readW t a)] }
  s1.finish k t (setP (setW t d (word (c.children.length + 1))) 1 true)

/-- The join counter's increment, made in the same step, after the thread's earlier accesses (R319), and after every access translated by a
page-table line it lies in (R211). -/
def State.countChild (s : State) (k : Nat) (t : Thread) (jc : Word) (f : State → State) : State :=
  if jc.toNat % 8 ≠ 0 then s.trap k t 2 jc
  else s.counterAccess k t .write jc 8 fun addrs _ =>
    if atomicBarred s k 1 addrs then s.trap k t 4 jc
    else if tableHeld s addrs then s.parkAt k t .release
    else if let some key := linkHeld s true addrs then s.containLink (s.partNo (keyCl k)) (keyCl k) (keyCore k) key t.pc
    else if t.ld ≥ 63 then s.parkAt k t (.counterFull 0)
    else f (s.atomicFrom (keyCl k) 1 addrs (s.numAt addrs + 1) 1 0)

/-- `spawn` (R319), refused on a GC (R103). -/
def execSpawn (d a b : Reg) (s : State) : Out := .next <| s.scOnly fun s => s.forLanes fun s k t =>
  s.withWritten k t (.w 3 :: argRegs) <|
    if (s.core (keyCl k) (keyCore k)).children.length ≥ Config.children then s.finish k t (setP (setW t d 0) 1 false)
    else s.withReleased k t <|
      if readW t b = 0 then s.makeChild k t d a 0
      else s.countChild k t (readW t b) fun s => s.makeChild k t d a (readW t b)

/-- `join` (R320): an acquire of the counter, which parks until it may be performed and reads zero. -/
def execJoin (a : Reg) (s : State) : Out := s.eachLane fun s k t =>
  let va := readW t a
  if va.toNat % 8 ≠ 0 then s.trap k t 2 va
  else s.counterAccess k t .read va 8 fun addrs lines =>
    (if joinReads s t addrs lines then s.finish k t t else s.parkAt k t (.join va)).farRequest (s.partNo (keyCl k)) 0 addrs []

/-! ### exit -/

/-- A thread ends: its wake bit and its timer are cleared (R321, R407), its streams read nothing ahead any more (R335), a gang slot frees once no lane of its active mask is
left (R294), and its launch's groups settle (R306). -/
def State.endThread (s : State) (k : Nat) (t : Thread) : State :=
  let cl := keyCl k
  let core := keyCore k
  let s0 := s.dropReads k
  let s1 := { s0.dropThread k with wakes := s0.wakes.erase k }.modCore cl core fun c => if isSC core then disarm c (keyThr k) else c
  let slot := slotOf core (keyThr k)
  let s2 :=
    if isSC core || (slotLanes s1 cl core slot).any fun l => (s1.thread (keyOf cl core (thrOf core slot l))).isSome then s1
    else s1.modCore cl core fun c => { c with gangs := mdel c.gangs slot }
  match t.launch with
  | some (p, _) => s2.settle p
  | none => s2

/-- The lane's gang was started by a pack (R327). -/
def State.inPack (s : State) (k : Nat) : Bool :=
  !isSC (keyCore k) && (mget (s.core (keyCl k) (keyCore k)).gangs (slotOf (keyCore k) (keyThr k))).any (·.packed)

/-- `exit` (R321). -/
def execExit (s : State) : Out := s.eachLane fun s k t =>
  if s.inPack k then s.trap k t 0x12 0
  else if !parkOver s k t (.drain true) then s.parkAt k t (.drain true)
  else
    match t.deferred with
    | d :: _ => s.trapDeferred k t d
    | [] =>
      match t.child with
      | some c => (s.send (coreNo k) (.exitNotice c.cl c.core c.entry (xsSUP t.xstat))).endThread k t
      | none => s.endThread k t

/-- A child's entry freed (R321). -/
def freeChild (s : State) (cl core entry : Nat) : State :=
  s.modCore cl core fun c => { c with children := mdel c.children entry }

/-- The notice served (R321): the join counter falls by one in the entry's address space, then the entry is freed. A
translation fault waits in the FBF; any other refusal goes to the fault handler. (DEDUCED, log 29: unsafe.) -/
def State.serveNotice (s : State) (i cl core entry : Nat) (sup : Bool) (c : Child) : State :=
  let done := freeChild (s.landFlight i) cl core entry
  if c.jc = 0 then done
  else
    match s.partOf cl with
    | none => done
    | some (p, x) =>
      let refused (cause : Nat) : State := done.sendRecord cl (mkRecord p cl core cause 0 0 c.jc 0)
      match checkCounter s p x c.asid sup .write c.jc 8 with
      | .ok addrs lines =>
        if atomicBarred s (keyOf cl core 0) 1 addrs then refused 4
        else if tableHeld s addrs then s
        else if let some key := linkHeld s true addrs then s.containLink p cl core key 0
        else match badAmong s addrs with
        | some b => s.containBad p cl core b 0
        | none => (done.atomicFrom cl 1 addrs (s.numAt addrs + (2 ^ 64 - 1)) (-1) 0).walkReads cl lines
      | .trap 0x15 key => s.containKey p cl core key.toNat 0
      | .trap cause _ => refused cause
      | .fault cause r va lines =>
        if (s.cluster cl).aborting = some ((7, (cl * 64 + entry) * 20 + core), vpnOf va) then refused 4
        else s.enterFbf cl r
          { key := none, engine := some (7, (cl * 64 + entry) * 20 + core), asid := c.asid, vpn := vpnOf va, va := va, cause := cause,
            write := true, fetch := false, sup := sup, lines := lines, poked := false } 0
      | .park _ => s

/-- A child's exit notice reaches the core that spawned it (R321). -/
def execExitNotice (i : Nat) (s : State) : Out :=
  match s.flights[i]? with
  | some (.exitNotice cl core entry sup) =>
    if !arrives s cl i || fbfHolds (s.cluster cl) (7, (cl * 64 + entry) * 20 + core) then .next s
    else
      match mget (s.core cl core).children entry with
      | some c => .next (s.serveNotice i cl core entry sup c)
      | none => .next (s.landFlight i)
  | _ => .next s

/-! ### sleep, wake and yield -/

/-- `sleep` (R323): a wake held is consumed; else the thread parks. -/
def execSleep (s : State) : Out := s.eachLane fun s k t =>
  if s.wakes.contains k then { s with wakes := s.wakes.erase k }.finish k t t else s.parkAt k t .sleep

/-- `wake` (R322). -/
def execWake (a : Reg) (s : State) : Out := s.eachLane fun s k t =>
  s.withName k t (readW t a) fun dst =>
    if t.st ≥ 63 then s.parkAt k t (.counterFull 1)
    else s.withReleased k t <| (s.send (coreNo k) (.wake (some (k, t.uid)) dst)).finish k t { t with st := t.st + 1 }

/-- A wake ends the sleep of the thread at the position it names, or sets the position's wake bit; it is lost where no thread is, or none
that has issued its first instruction (R322, R323). -/
def State.setWake (s : State) (dst : Nat) : State :=
  match s.thread dst with
  | none => s
  | some t =>
    if !t.begun then s
    else if (t.park.map (·.why)) = some .sleep then s.endSleep dst
    else { s with wakes := insertRising s.wakes dst }

/-- A wake is placed and its sender's st falls (R322). -/
def execWakePlaced (i : Nat) (s : State) : Out :=
  match s.flights[i]? with
  | some (.wake src dst) =>
    if !arrives s (keyCl dst) i then .next s
    else
      let s1 := (s.landFlight i).setWake dst
      match src with
      | some (k, uid) => .next (s1.lowerSt k uid)
      | none => .next s1
  | _ => .next s

/-- A gang's age becomes zero (R288, R324). -/
def State.ageZero (s : State) : State :=
  s.modCore s.cur.cl s.cur.core fun c => match mget c.gangs s.cur.slot with
    | some g => { c with gangs := mset c.gangs s.cur.slot { g with since := s.cyc } }
    | none => c

/-- The slots of the core that are ready beside the issuing one, as a `yield` retires (R324). -/
def readyOthers (s : State) : List Nat :=
  (List.range (if s.onGC then 8 else 16)).filter fun n => n != s.cur.slot && slotReady s s.cur.cl s.cur.core n

/-- The issuing lanes are held until the other ready slots have issued (R324). -/
def State.holdYield (s : State) : State :=
  s.modCore s.cur.cl s.cur.core fun c => { c with
    yields := c.yields ++ [{ slot := s.cur.slot, lanes := s.cur.lanes, since := s.cyc, waits := readyOthers s }] }

/-- `yield` changes only readiness (R324). -/
def execYield (s : State) : Out :=
  .next (((if s.onGC then s.ageZero else s).forLanes fun s k t => s.finish k t t).holdYield)

/-! ### Migration -/

/-- The address is refused by steps 1 and 2 of R234. -/
def windowRefused (s : State) (k : Nat) (va : Word) : Bool :=
  bitsOf 56 8 va ≠ 0 || (windowBase ≤ va.toNat &&
    match spotOf va.toNat with
    | none => true
    | some sp => !(s.partOf (keyCl k)).any fun p => p.2.halfDies.getLsbD (halfDieOf (spotCl sp)))

/-- `migrate` (R325), refused on a GC (R103). -/
def execMigrate (a : Reg) (s : State) : Out := .next <| s.scOnly fun s => s.forLanes fun s k t =>
  let va := readW t a
  if windowRefused s k va then s.trap k t 4 va
  else
    match (s.partOf (keyCl k)).bind fun p => migrates p.2 k t va with
    | some target => s.depart k t (t.pc + 4) target
    | none => s.finish k t t

/-- The contexts a core's cellar and overflow list hold, over a partition (R303). -/
def overflowHeld (s : State) (p : Partition) : Nat :=
  ((s.clusters.filter fun c => p.halfDies.getLsbD (halfDieOf c.1)).flatMap fun c => c.2.cores.map fun x => x.2.overflow.length).sum

/-- The record of a context written to the overflow list, or that found no room there (R303).
(DEDUCED, log 25: unsafe.) -/
def overflowRecord (p cl core reason count : Nat) (m : MigCtx) : Record :=
  mkRecord p cl core 0x13 reason m.asid.toNat (word count) m.pc

/-- A migration context reaches its core (R300, R302, R303): the arrival queue, the cellar heap, the overflow list, or the
gang stop of an overflow room that is full. -/
def execMigrationArrival (i : Nat) (s : State) : Out :=
  match s.flights[i]? with
  | some (.migration m cl core) =>
    if !arrives s cl i then .next s
    else
      let c := s.core cl core
      let s1 := s.landFlight i
      if c.arrivals.length < 32 && c.heap.isEmpty && c.overflow.isEmpty then
        .next (s1.modCore cl core fun c => { c with arrivals := c.arrivals ++ [m] })
      else if c.heap.length < Config.heapRoom && c.overflow.isEmpty then
        .next (s1.modCore cl core fun c => { c with heap := c.heap ++ [m] })
      else
        match s.partOf cl with
        | none => .next s
        | some (p, x) =>
          let n := c.overflow.length
          if overflowHeld s x ≥ Config.overflowRoom then .next (s.startStop p false (overflowRecord p cl core 1 n m))
          else
            let s2 := s1.modCore cl core fun c => { c with overflow := c.overflow ++ [m] }
            .next (if c.heap.length < Config.heapRoom then s2 else s2.sendRecord cl (overflowRecord p cl core 0 (n + 1) m))
  | _ => .next s

/-- The cellar thread moves the heap's head to the arrival queue, and the overflow list's head to the heap (R302, R303). -/
def execCellarMove (cl core : Nat) (s : State) : Out :=
  if !clusterRuns s cl then .next s
  else
    .next <| s.modCore cl core fun c =>
      let c1 := match c.heap with
        | m :: rest => if c.arrivals.length < 32 then { c with arrivals := c.arrivals ++ [m], heap := rest } else c
        | [] => c
      match c1.overflow with
      | m :: rest => if c1.heap.length < Config.heapRoom then { c1 with heap := c1.heap ++ [m], overflow := rest } else c1
      | [] => c1

end Sys2Proof.Machine
end

