-- ==== Sys2Proof/Machine/Slots.lean ====
section
/-! DEFINITION. Slots: the threads that fill barrel and gang slots and how they start (R46, R66, R284 to R286, R294, R301), and
the rows of rotation boundaries, load levelling and moved work-list entries (R304). -/

namespace Sys2Proof.Machine

/-! ### How a thread starts -/

/-- XSTAT of a thread a launch record starts: IE, RM, SM, MIG and SB of the kernel, SUP of the launch (R46); on a GC MIG reads 0 (R45). -/
def startXstat (template : BitVec 32) (sup gang : Bool) : Word :=
  putBit (template.setWidth 64 &&& (maskOf 0 1 ||| maskOf 2 (if gang then 4 else 5) ||| maskOf 16 4)) 13 sup

/-- The thread of an index of a launch at its first instruction (R66). -/
def launchedThread (uid p : Nat) (l : Launch) (serial : Nat) (q : Kernel) (index : Nat) (gang : Bool) : Thread :=
  { setW (setW Thread.zero 10 l.r.args) 11 (word index) with
    uid := uid, pc := q.run, xstat := startXstat q.template l.sup gang, asid := l.asid, launch := some (p, serial), tq := l.r.tq }

/-- The kernel a launch starts (R398). -/
def kernelOf (x : Partition) (l : Launch) : Option Kernel :=
  (mget x.images l.r.image).bind fun im => im.kernels.find? fun q => q.entry == l.r.entry

/-- The thread or lane a pending entry becomes; `lane` counts from 0 within a gang. -/
def pendingThread (s : State) (pend : Pending) (uid lane : Nat) (gang : Bool) : Option Thread :=
  (s.part pend.part).bind fun x => (mget x.launches pend.serial).bind fun l => (kernelOf x l).map fun q =>
    launchedThread uid pend.part l pend.serial q (if gang then pend.index * 32 + lane else pend.index) gang

/-- A thread resumed from its context (R65, R301): every register outside w8 to w15 and p0 is a free value. -/
def resumedThread (s : State) (m : MigCtx) : Thread :=
  { Thread.zero with
    uid := m.uid, pc := m.pc, xstat := m.xstat, fflags := m.fflags, asid := m.asid, child := m.child, launch := m.launch, tq := m.tq
    last := m.last, deferred := m.deferred
    w := Vector.ofFn fun i : Fin 32 => if h : 8 ≤ i.val ∧ i.val < 16 then m.regs[i.val - 8]'(by omega) else s.freeNow i.val
    f := Vector.ofFn fun i : Fin 32 => s.freeNow (32 + i.val)
    p := Vector.ofFn fun i : Fin 8 => (s.freeNow (64 + i.val)).getLsbD 0 }

/-- A thread takes a slot of an SC: the wake bit is clear (R322) and the slot takes its queue (R285, R286). -/
def State.seat (s : State) (cl core slot tq : Nat) (t : Thread) : State :=
  let k := keyOf cl core slot
  let s1 := { s.putThread k t with wakes := s.wakes.erase k }
  s1.modCore cl core fun c => { c with owner := c.owner.setIfInBounds slot tq, yields := c.yields.filter fun y => y.slot != slot }

/-! ### The slot arbiter (R284 to R286) -/

/-- The weight of a task queue (Table 9.4). -/
def weightOf (c : Cluster) (q : Nat) : Nat := bitsOf (4 * q) 4 c.tqwgt

/-- Slots of a core that hold a thread. -/
def usedSlots (s : State) (cl core : Nat) : List Nat :=
  (List.range 16).filter fun i => (s.thread (keyOf cl core i)).isSome

/-- Free slots of an SC, the cellar slot excepted (R295, R298). -/
def freeSlots (s : State) (cl core : Nat) : List Nat :=
  (List.range 16).filter fun i => (s.thread (keyOf cl core i)).isNone && !(i == 15 && (s.partOf cl).any fun p => arrivalsOn p.2)

/-- Slots of this SC owned by a queue that hold a thread (R285). -/
def ownedBy (s : State) (cl core q : Nat) : Nat :=
  ((usedSlots s cl core).filter fun i => ((s.core cl core).owner.toList.getD i 0) == q).length

/-- Queues of nonzero weight with a pending thread on this SC. -/
def pendingQueues (s : State) (cl core : Nat) : List Nat :=
  (List.range 16).filter fun q => weightOf (s.cluster cl) q > 0 && (s.core cl core).pending.any fun x => x.tq == q

/-- The queue the arbiter serves next (R285). -/
def arbiterQueue (s : State) (cl core : Nat) : Option Nat :=
  let qs := pendingQueues s cl core
  let w := weightOf (s.cluster cl)
  match qs.filter fun q => ownedBy s cl core q = 0 with
  | q :: rest => some (rest.foldl (fun best r => if w best < w r then r else best) q)
  | [] => match qs with
    | [] => none
    | q :: rest =>
      some (rest.foldl (fun best r => if ownedBy s cl core r * w best < ownedBy s cl core best * w r then r else best) q)

/-- A thread or gang of a launch starts (R400). -/
def State.noteStarted (s : State) (p serial : Nat) : State :=
  s.modPart p fun x => match mget x.launches serial with
    | some l => { x with launches := mset x.launches serial { l with started := true } }
    | none => x

/-- The oldest pending thread of a queue starts in a slot. -/
def State.startPending (s : State) (cl core slot q : Nat) : State :=
  match (s.core cl core).pending.find? fun x => x.tq == q with
  | none => s
  | some pend =>
    let s1 := s.modCore cl core fun c => { c with pending := c.pending.erase pend }
    match pendingThread s pend s.nextUid 0 false with
    | none => s1
    | some t => ({ s1 with nextUid := s.nextUid + 1 }.noteStarted pend.part pend.serial).seat cl core slot q t

/-- A resumed thread takes a slot; an explicit `migrate` under single step takes its step trap there (R439). -/
def State.seatArrival (s : State) (cl core slot : Nat) (m : MigCtx) : State :=
  let t := resumedThread s m
  let s1 := s.seat cl core slot m.tq t
  if m.stepped then s1.stepTrap (keyOf cl core slot) t else s1

/-- A free slot takes the oldest child, else the oldest arrival, else a pending thread: of the owner's queue first between
boundaries (R286), by the arbiter alone at a boundary (R285). An owner queue of weight 0 gives the slot no thread, and the arbiter goes
on past it, though it holds a pending one. (DEDUCED, log 77: unsafe.) -/
def State.fillSlot (s : State) (cl core slot : Nat) (boundary : Bool) : State :=
  let c := s.core cl core
  match c.waiting, c.arrivals with
  | t :: rest, _ => (s.modCore cl core fun c => { c with waiting := rest }).seat cl core slot t.tq t
  | [], m :: rest => (s.modCore cl core fun c => { c with arrivals := rest }).seatArrival cl core slot m
  | [], [] =>
    let own := c.owner.toList.getD slot 0
    if !boundary && (pendingQueues s cl core).contains own then s.startPending cl core slot own
    else match arbiterQueue s cl core with
      | some q => s.startPending cl core slot q
      | none => s

/-- The lowest free slot of an SC is filled (R286). -/
def execSlotFill (cl core slot : Nat) (s : State) : Out :=
  if isSC core && clusterRuns s cl && (freeSlots s cl core).head? == some slot then .next (s.fillSlot cl core slot false)
  else .next s

/-- At a multiple of 1,024 of GTIME the slot arbiter serves every free slot, and the budget charges of the cluster's MXE
issuers are cleared (R174, R285). (DESIGN CHOICE, log 43: safe.) -/
def execRotationBoundary (cl core : Nat) (s : State) : Out :=
  if isSC core && clusterRuns s cl && s.gtime % 1024 = 0 then
    let s1 := s.modCluster cl fun c => { c with mxe := { c.mxe with qchg := Vector.replicate 16 0 } }
    .next ((freeSlots s1 cl core).foldl (fun s slot => s.fillSlot cl core slot true) s1)
  else .next s

/-- Free gang slots of a GC (R288). -/
def freeGangSlots (s : State) (cl core : Nat) : List Nat :=
  (List.range 8).filter fun i => (mget (s.core cl core).gangs i).isNone

/-- The oldest pending gang takes the GC's lowest free gang slot (R282). -/
def execLaunchedGangStart (cl core : Nat) (s : State) : Out :=
  if isSC core || !clusterRuns s cl then .next s
  else
    match (s.core cl core).pending, freeGangSlots s cl core with
    | pend :: rest, slot :: _ =>
      let lanes := (List.range 32).filterMap fun l => (pendingThread s pend (s.nextUid + l) l true).map fun t => (l, t)
      let s1 := ({ s with nextUid := s.nextUid + 32 }.noteStarted pend.part pend.serial).modCore cl core fun c =>
        { c with
          pending := rest
          yields := c.yields.filter fun y => y.slot != slot
          gangs := mset c.gangs slot { mask := -1, packed := false, since := s.cyc, launch := some (pend.part, pend.serial) } }
      .next (lanes.foldl (fun s x =>
        let k := keyOf cl core (thrOf core slot x.1)
        { s.putThread k x.2 with wakes := s.wakes.erase k }) s1)
    | _, _ => .next s

/-! ### Load levelling (R304) -/

/-- Length of a core's work list. -/
def workLen (s : State) (cl core : Nat) : Nat := (s.core cl core).work.length

/-- The neighbours of an SC, ring neighbours first, then by cluster and core number (R304). -/
def neighbours (s : State) (p : Partition) (cl core : Nat) : List (Nat × Nat) :=
  let a := (core + 1) % 16
  let b := (core + 15) % 16
  let ring := if a < b then [(cl, a), (cl, b)] else [(cl, b), (cl, a)]
  let west := if colOf cl = 0 then [] else [clusterAt (colOf cl - 1) (rowOf cl)]
  let east := if colOf cl = 23 then [] else [clusterAt (colOf cl + 1) (rowOf cl)]
  let across := (west ++ east).filter fun c => p.halfDies.getLsbD (halfDieOf c) && clusterRuns s c
  let sorted := match across with
    | [x, y] => if x < y then [x, y] else [y, x]
    | l => l
  ring ++ sorted.map fun c => (c, core)

/-- Work-list entries on their way to a core. -/
def workOnWay (s : State) (cl core : Nat) : Nat :=
  (s.flights.filter fun f => match f with
    | .work c i _ _ _ _ => c == cl && i == core
    | _ => false).length

/-- One SC's move, by the lengths of the sample `s0`: its oldest entries leave for the shortest neighbouring list. -/
def levelCore (s0 s : State) (cl core : Nat) : State :=
  match s0.partOf cl with
  | none => s
  | some (_, x) =>
    match leastBy (fun m => workLen s0 m.1 m.2) (neighbours s0 x cl core) with
    | none => s
    | some m =>
      let gap := (workLen s0 cl core - workLen s0 m.1 m.2) / 2
      let room := 256 - workLen s0 m.1 m.2 - workOnWay s m.1 m.2
      let n := min 16 (min gap room)
      let work := (s.core cl core).work
      let s1 := s.modCore cl core fun c => { c with work := work.take (work.length - n) }
      (work.drop (work.length - n)).foldl (fun s e => s.send (cl * 20 + core) (.work m.1 m.2 e.1 e.2.1 e.2.2.1 e.2.2.2)) s1

/-- At a multiple of 4,096 of GTIME, every SC sends surplus entries to one neighbour (R304). -/
def execLoadLevelInterval (s : State) : Out :=
  if s.gtime % 4096 ≠ 0 then .next s
  else
    let cores := s.clusters.flatMap fun c => if clusterRuns s c.1 then (c.2.cores.filter fun x => isSC x.1 && !x.2.work.isEmpty).map fun x => (c.1, x.1) else []
    .next (cores.foldl (fun st x => levelCore s st x.1 x.2) s)

/-- A moved entry is inserted below the existing ones, the entries to one list in their order (R304). -/
def execWorklistEntryArrives (i : Nat) (s : State) : Out :=
  match s.flights[i]? with
  | some (.work cl core v0 v1 pcore stamp) =>
    let earlier := (s.flights.take i).any fun f => match f with
      | .work c j _ _ _ _ => c == cl && j == core
      | _ => false
    if earlier || !clusterRuns s cl then .next s
    else .next ((s.landFlight i).modCore cl core fun c => { c with work := c.work ++ [(v0, v1, pcore, stamp)] })
  | _ => .next s

end Sys2Proof.Machine
end

