-- ==== Sys2Proof/Machine/Agent.lean ====
section
/-! DEFINITION. Accesses the device makes for itself or for an engine command (R184, R255, R418, R475), and the constant
window's fill (R59, R60). -/

namespace Sys2Proof.Machine

/-- What an agent's access comes to: the keys of its bytes; a wait at a fault, a block or an absent line, with the state that
waits; or a refusal by its cause and the address that is refused. -/
inductive Agent where
  | ok (addrs : List Nat)
  | wait (s : State)
  | refused (cause : Nat) (va : Word)
  deriving DecidableEq, Repr

/-- A command begun before a bank's switch has a range in the bank: of the RLT, or absent lines it fills (R207). -/
def begunIn (s : State) (cl : Nat) (engine : Nat × Nat) (at_ b : Nat) : Bool :=
  let line := scratchAddr at_ (b * 0x20000) / 64
  ((s.cluster cl).rlt.any fun e => (e.engine, e.seq) == engine && e.line < line + 2048 && line < e.line + e.lines) ||
    (engine.1 == 1 && (s.cluster at_).presence.any fun e => e.1 / 2048 == b && e.2 == .absent engine.2)

/-- The banks as a begun command finds them: one that is switching stands in the mode it leaves, for a command whose operation
there the switch waits for (R207). -/
def State.asBegun (s : State) (cl : Nat) (engine : Nat × Nat) : State :=
  { s with clusters := s.clusters.map fun (e : Nat × Cluster) =>
    (e.1, e.2.switching.foldr (fun (x : Nat × Nat) (c : Cluster) =>
      if begunIn s cl engine e.1 x.1 then
        { c with csmctl := putBits c.csmctl (2 * x.1) 2 x.2, switching := c.switching.filter fun y => y.1 != x.1 }
      else c) e.2) }

/-- An abort is ending the agent's held access to a page that the access of `n` bytes at `va` meets (R421). -/
def abortedHere (c : Cluster) (engine : Nat × Nat) (va : Word) (n : Nat) : Bool :=
  c.aborting.any fun x => x.1 == engine && (x.2 == vpnOf va || x.2 == vpnOf (va + word (n - 1)))

/-- Where the access meets that page: its own address, or the first byte of its last page. -/
def abortedVa (c : Cluster) (va : Word) : Word :=
  if c.aborting.any fun x => x.2 == vpnOf va then va else word ((c.aborting.map (·.2)).getD 0 * 65536)

/-- An access of `n` bytes by an agent of cluster `cl`: an engine and its command number name it in the FBF. A write another
device refuses is refused (R378); bad data is contained and never taken (R438). -/
def State.agent (s : State) (cl : Nat) (engine : Nat × Nat) (asid : BitVec 16) (sup : Bool) (acc : Access) (va : Word)
    (n : Nat) : Agent :=
  match s.partOf cl with
  | none => .refused 4 va
  | some (p, x) =>
    if abortedHere (s.cluster cl) engine va n then .refused 4 (abortedVa (s.cluster cl) va)
    else if fbfHolds (s.cluster cl) engine then .wait s
    else
      match checkAccess (s.asBegun cl engine) true cl p x asid sup acc va n with
      | .ok addrs _ =>
        if let some key := linkHeld s false addrs then .wait (s.containLink p cl 31 key 0)
        else if acc = .write then
          if tableHeld s addrs then .wait s
          else if let some key := linkHeld s true addrs then .wait (s.containLink p cl 31 key 0)
          else if farRefused s p (addrs.headD 0) true then .refused 4 va
          else if farRefused s p (addrs.getLastD 0) true then .refused 4 (edgeOf va n)
          else .ok addrs
        else match badAmong s addrs with
          | some b => .wait (s.containBad p cl 31 b 0)
          | none => .ok addrs
      | .trap 0x15 key => .wait (s.containKey p cl 31 key.toNat 0)
      | .trap c v => .refused c v
      | .fault c r a lines => .wait (s.enterFbf cl r
          { key := none, engine := some engine, asid := asid, vpn := vpnOf a, va := a, cause := c, write := acc = .write,
            fetch := false, sup := sup, lines := lines, poked := false } 0)
      | .park _ => .wait s

/-- The access of an atomic by an agent: a write that also reads, so that bad data there is contained (R438). -/
def State.agentAtomic (s : State) (cl : Nat) (engine : Nat × Nat) (asid : BitVec 16) (sup : Bool) (va : Word) (n : Nat) : Agent :=
  match s.agent cl engine asid sup .write va n with
  | .ok addrs => match badAmong s addrs with
    | some b => .wait (s.containBad (s.partNo cl) cl 31 b 0)
    | none => .ok addrs
  | r => r

/-- An agent's reading goes out to host memory or another device, where its bytes lie there (R450, R454). -/
def State.agentReads (s : State) (cl : Nat) (addrs : List Nat) : State := s.farRequest (s.partNo cl) 0 addrs []

/-- A byte lies in a bank that is switching and in which the command had begun nothing (R207). -/
def bankHolds (s : State) (cl : Nat) (engine : Nat × Nat) (key : Nat) : Bool :=
  match spotOf key with
  | some (.scratch at_ off) => bankBusy (s.cluster at_) (off / 0x20000) && !begunIn s cl engine at_ (off / 0x20000)
  | _ => false

/-- The address alone of an agent's access: steps 1 to 3 of R234 for its first and last byte. -/
def State.agentPlace (s : State) (cl : Nat) (engine : Nat × Nat) (asid : BitVec 16) (sup : Bool) (acc : Access) (va : Word)
    (n : Nat) : Agent :=
  match s.partOf cl with
  | none => .refused 4 va
  | some (_, x) =>
    if abortedHere (s.cluster cl) engine va n then .refused 4 (abortedVa (s.cluster cl) va)
    else if fbfHolds (s.cluster cl) engine then .wait s
    else
      match byteKeys s x asid sup acc va n with
      | .ok addrs _ => if addrs.any (bankHolds s cl engine) then .wait s else .ok addrs
      | .trap 0x15 key => .wait (s.containKey (s.partNo cl) cl 31 key.toNat 0)
      | .trap c v => .refused c v
      | .fault c r a lines => .wait (s.enterFbf cl r
          { key := none, engine := some engine, asid := asid, vpn := vpnOf a, va := a, cause := c, write := acc = .write,
            fetch := false, sup := sup, lines := lines, poked := false } 0)
      | .park _ => .wait s

/-- Reads of several ranges, each of them good: their keys in order; else the first wait or refusal. -/
def State.agentAll (s : State) (cl : Nat) (engine : Nat × Nat) (asid : BitVec 16) (sup : Bool) (acc : Access) :
    List (Word × Nat) → Agent
  | [] => .ok []
  | (va, n) :: rest =>
    match s.agent cl engine asid sup acc va n with
    | .ok a => match s.agentAll cl engine asid sup acc rest with
      | .ok b => .ok (a ++ b)
      | other => other
    | other => other

/-- A core holds a resident thread (R62). -/
def residents (s : State) (cl core : Nat) : Nat :=
  let c := s.core cl core
  let slots := if isSC core then (usedSlots s cl core).length else c.gangs.length
  let off := ((s.cluster cl).offCore.filter fun o => o.core == core).length
  slots + c.pending.length + c.waiting.length + (if isSC core then 0 else off)

/-- The window holds a launch's image, or may be filled with it (R62). -/
def windowFits (s : State) (cl core : Nat) (l : Nat × Nat) : Bool :=
  (s.core cl core).image == some l || residents s cl core == 0

/-- The launch unit fills a core's constant window (R59, R60): the image, zeros, the identity words. -/
def State.fillWindow (s : State) (cl core p serial : Nat) (image : List Byte) : State :=
  let bytes := (image ++ List.replicate (1984 - image.length) 0).take 1984 ++
    (identityWords s cl core p serial).flatMap fun n => leBytes 8 n
  let s1 := s.writeCells ((span (lmAddr cl core 0) 2048).zip bytes)
  s1.modCore cl core fun c => { c with image := some (p, serial) }

/-- The window as placement needs it: filled unless it already holds the launch's image. -/
def State.ensureWindow (s : State) (cl core p serial : Nat) : State :=
  if (s.core cl core).image = some (p, serial) then s
  else s.fillWindow cl core p serial
    ((((s.part p).bind fun x => mget x.launches serial).map fun l => l.const).getD [])

end Sys2Proof.Machine
end

