-- ==== Sys2Proof/Machine/Grant.lean ====
section
/-! DEFINITION. Gang call and return: opcode 0x36 (R326, R327), the grant (R291 to R297) and its rows. -/

namespace Sys2Proof.Machine

/-- A caller of the grant parks; its stall budget counts from its `gcall`, through every wait before the pack (R296). -/
def callerPark (t : Thread) (why : ParkWhy) (cyc : Nat) : Park :=
  { why := why
    since := match t.park with
      | some p => match p.why with
        | .scoreboard _ => p.since
        | .grantRelease => p.since
        | w => if inGrant w then p.since else cyc
      | none => cyc }

/-- `gcall` (R326), refused on a GC: once its argument registers are written and its release is performed the caller is on its
way to the grant, parked; the waits for both count in its budget (R296). -/
def execGcall (off : BitVec 20) (s : State) : Out := .next <| s.scOnly fun s => s.forLanes fun s k t =>
  s.withWritten k t argRegs <|
    if !parkOver s k t .grantRelease then s.putThread k { t with park := some (callerPark t .grantRelease s.cyc) }
    else (s.send (coreNo k) (.gcall k ((t.pc + codeOff off) &&& maskOf 0 56))).putThread k { t with park := some (callerPark t .grantRoom s.cyc) }

/-- The limit of a key its first caller opens (R291). -/
def keyLimit (s : State) (t : Thread) : Nat :=
  let own := bitsOf 0 24 t.grantlim
  let kernel := ((t.launch.bind fun l => (s.part l.1).bind fun x => (mget x.launches l.2).bind (kernelOf x)).map
    fun q => q.grantlim % 2 ^ 24).getD 0
  if own ≠ 0 then own else if kernel ≠ 0 then kernel else 4096

/-- A caller parks in a key. -/
def State.holdCaller (s : State) (k : Nat) (t : Thread) (why : ParkWhy) : State :=
  s.putThread k { t with park := some (callerPark t why s.cyc) }

/-- The pack condition of a key (R293): it holds 32 callers, or GTIME has reached its deadline. -/
def packDue (s : State) (e : GrantKey) : Bool := e.callers.length ≥ 32 || e.due || e.deadline ≤ s.gtime

/-- A key packs before it takes another caller or loses one: its pack condition holds and the launch queue has room (R293, R465). -/
def packs (s : State) (c : Cluster) (e : GrantKey) : Bool := packDue s e && c.gangQueue.length < 16

/-- One caller's step at the grant (R292): into its open key, into a key it opens, or none when it must wait. -/
def State.enterGrant (s : State) (cl k : Nat) (target : Word) : Option State :=
  match s.thread k with
  | none => some s
  | some t =>
    let c := s.cluster cl
    match c.grant.find? fun e => e.2.asid == t.asid && e.2.target == target with
    | some (n, e) =>
      if e.callers.length ≥ 32 || packs s c e then none
      else some ((s.putCluster cl { c with grant := mset c.grant n { e with callers := e.callers ++ [k] } }).holdCaller k t .grantKey)
    | none =>
      match lowestFree 64 (mkeys c.grant) with
      | none => none
      | some n =>
        let limit := keyLimit s t
        let e : GrantKey := { asid := t.asid, target := target, callers := [k], launch := t.launch, limit := limit,
                              deadline := s.gtime + limit, due := false }
        some ((s.putCluster cl { c with grant := mset c.grant n e }).holdCaller k t .grantKey)

/-- Waiting callers retry in the order of their first arrival (R292). -/
def State.retryGrant (s : State) (cl : Nat) : State :=
  (s.cluster cl).grantWait.foldl (fun s w =>
    match s.enterGrant cl w.1 w.2 with
    | some s1 => s1.modCluster cl fun c => { c with grantWait := c.grantWait.erase w }
    | none => s) s

/-- A caller reaches the grant of its cluster, after those that wait there (R292); one whose key is about to pack is taken in a later
cycle (R293). -/
def execGrantArrival (i : Nat) (s : State) : Out :=
  match s.flights[i]? with
  | some (.gcall k target) =>
    let cl := keyCl k
    if !arrives s cl i then .next s
    else
      let s1 := (s.landFlight i).retryGrant cl
      if (s.thread k).any fun t => (s.cluster cl).grant.any fun e => e.2.asid == t.asid && e.2.target == target && packs s (s.cluster cl) e.2 then .next s
      else match s1.enterGrant cl k target with
      | some s2 => .next s2
      | none => .next (s1.modCluster cl fun c => { c with grantWait := c.grantWait ++ [(k, target)] })
  | _ => .next s

/-- A key's deadline is reached: it is due to pack (R293). -/
def execGrantKeyDeadline (cl key : Nat) (s : State) : Out :=
  match mget (s.cluster cl).grant key with
  | some e =>
    if clusterRuns s cl && e.deadline ≤ s.gtime then
      .next (s.modCluster cl fun c => { c with grant := mset c.grant key { e with due := true } })
    else .next s
  | none => .next s

/-- What a packed caller hands its lane (R326). -/
def callerArgs (s : State) (k : Nat) : Option CallerArgs :=
  (s.thread k).map fun t =>
    { key := k
      w := Vector.ofFn fun i : Fin 8 => t.w[10 + i.val]
      f := Vector.ofFn fun i : Fin 4 => t.f[10 + i.val]
      xstat := t.xstat
      launch := t.launch }

/-- The grant packs its first full or due key while its launch queue has room (R293): the callers' parks are no longer
budgeted (R296), and the gang is of the launch of lane 0's caller (R294). -/
def execGrantPack (cl : Nat) (s : State) : Out :=
  let c := s.cluster cl
  match c.grant.find? fun e => packDue s e.2 with
  | some (n, e) =>
    if !clusterRuns s cl || c.gangQueue.length ≥ 16 then .next s
    else
      let args := e.callers.filterMap (callerArgs s)
      let req : GangReq := { asid := e.asid, target := e.target, callers := args, launch := args.head?.bind (·.launch) }
      let s1 := s.putCluster cl { c with grant := mdel c.grant n, gangQueue := c.gangQueue ++ [req] }
      let s2 := e.callers.foldl (fun s k => match s.thread k with
        | some t => s.holdCaller k t .grantPacked
        | none => s) s1
      .next (s2.retryGrant cl)
  | none => .next s

/-- The GC a gang request starts on (R294): a free gang slot, a window that fits, fewest gangs, lowest core. -/
def chooseGC (s : State) (cl : Nat) (launch : Option (Nat × Nat)) : Option Nat :=
  leastBy (fun core => (s.core cl core).gangs.length) <| [16, 17, 18, 19].filter fun core =>
    !(freeGangSlots s cl core).isEmpty && (launch.all fun l => windowFits s cl core l)

/-- The thread of a lane of a packed gang (R46, R326). -/
def laneThread (uid : Nat) (q : GangReq) (a : CallerArgs) : Thread :=
  { Thread.zero with
    uid := uid, pc := q.target, asid := q.asid, launch := q.launch, caller := some a.key
    xstat := a.xstat &&& (maskOf 0 1 ||| maskOf 2 4 ||| maskOf 16 4)
    w := Vector.ofFn fun i : Fin 32 => if h : 10 ≤ i.val ∧ i.val < 18 then a.w[i.val - 10]'(by omega) else 0
    f := Vector.ofFn fun i : Fin 32 => if h : 10 ≤ i.val ∧ i.val < 14 then a.f[i.val - 10]'(by omega) else 0 }

/-- The gang of a request in a gang slot: lane i holds caller i (R294). -/
def State.startGang (s : State) (cl core slot : Nat) (q : GangReq) : State :=
  let s1 := { s with nextUid := s.nextUid + q.callers.length }.modCore cl core fun c =>
    { c with yields := c.yields.filter fun y => y.slot != slot
             gangs := mset c.gangs slot { mask := BitVec.ofNat 32 (2 ^ q.callers.length - 1), packed := true, since := s.cyc, launch := q.launch } }
  (indexed q.callers).foldl (fun st x =>
    let k := keyOf cl core (thrOf core slot x.1)
    { st.putThread k (laneThread (s.nextUid + x.1) q x.2) with wakes := st.wakes.erase k }) s1

/-- The head of the grant's launch queue starts on the lowest free gang slot of the chosen GC (R294). -/
def execGangStart (cl : Nat) (s : State) : Out :=
  match (s.cluster cl).gangQueue with
  | q :: rest =>
    match chooseGC s cl q.launch with
    | some core =>
      match freeGangSlots s cl core with
      | slot :: _ =>
        if !clusterRuns s cl then .next s
        else
          let s1 := s.modCluster cl fun c => { c with gangQueue := rest }
          let s2 := match q.launch with
            | some (p, serial) => s1.ensureWindow cl core p serial
            | none => s1
          .next (s2.startGang cl core slot q)
      | [] => .next s
    | none => .next s
  | [] => .next s

/-- `gret` (R327): refused outside a packed gang; it waits for copies, tile operations and its result registers, then its lane
ends and its results go to its caller. -/
def execGret (s : State) : Out := s.eachLane fun s k t =>
  if !s.inPack k then s.trap k t 0x12 0
  else if !parkOver s k t (.drain false) then s.parkAt k t (.drain false)
  else s.withWritten k t [.w 10, .w 11, .f 10, .f 11] <|
    match t.deferred with
    | d :: _ => s.trapDeferred k t d
    | [] => s.withReleased k t <|
      match t.caller with
      | some c => (s.send (coreNo k) (.results c (readW t 10) (readW t 11) (readF t 10) (readF t 11))).endThread k t
      | none => s.endThread k t

/-- A caller with its results (R64): w12 to w17, f12 and f13 are free values. -/
def withResults (s : State) (t : Thread) (w10 w11 f10 f11 : Word) : Thread :=
  let t1 := setF (setF (setW (setW t 10 w10) 11 w11) 10 f10) 11 f11
  let t2 := (List.range 6).foldl (fun t i => setW t (BitVec.ofNat 5 (12 + i)) (s.freeNow i)) t1
  setF (setF t2 12 (s.freeNow 6)) 13 (s.freeNow 7)

/-- A caller resumes after its `gcall` with its lane's results (R294, R326). -/
def execCallerResume (i : Nat) (s : State) : Out :=
  match s.flights[i]? with
  | some (.results k w10 w11 f10 f11) =>
    if !clusterRuns s (keyCl k) then .next s
    else
      let s1 := s.landFlight i
      match s1.thread k with
      | some t => .next (s1.finishAt k t (withResults s t w10 w11 f10 f11) (t.pc + 4))
      | none => .next s1
  | _ => .next s

end Sys2Proof.Machine
end

