-- ==== Sys2Proof/Machine/Waits.lean ====
section
/-! DEFINITION. Barriers, `wait` and `pwait`: opcodes 0x37 and 0x38 (R100, R328 to R331), the row of a barrier arrival, the
expiry of a budgeted park (R310, R311), and with it what a step comes to. -/

namespace Sys2Proof.Machine

/-! ### Barriers -/

/-- Entry g of the GTB as the thread may use it: held by its launch, with its core a member (R328). -/
def State.groupFor (s : State) (k : Nat) (t : Thread) (g : Nat) : Option (Nat × Group) :=
  match s.partOf (keyCl k) with
  | none => none
  | some (p, x) =>
    match mget x.groups g with
    | none => none
    | some e => if t.launch = some (p, e.serial) ∧ isMember e (keyCl k) (keyCore k) then some (p, e) else none

/-- A barrier instruction of one lane; a foreign entry takes the illegal-context trap (R328). -/
def State.withGroup (s : State) (k : Nat) (t : Thread) (g : Nat) (f : Nat → Group → State) : State :=
  match s.groupFor k t g with
  | some (p, e) => f p e
  | none => s.trap k t 0x12 0

/-- The thread has arrived for the current phase (R329). -/
def arrivedNow (t : Thread) (g : Nat) (e : Group) : Bool := mget t.last g == some e.phase

/-- Arrive (R329): the arrival travels to the group's home with the phase it is for, which becomes Last. -/
def State.arrive (s : State) (t : Thread) (p g : Nat) (e : Group) : State × Thread :=
  (s.send (s.cur.cl * 20 + s.cur.core) (.arrival t.uid p g e.phase), { t with last := mset t.last g e.phase })

/-- The threads that have arrived for a group's current phase: those recorded at its home, and those whose arrival is on its way. -/
def arrivals (s : State) (p g : Nat) (e : Group) : List Nat :=
  dedup (e.arrived ++ s.flights.filterMap fun f => match f with
    | .arrival uid q h phase => if q = p ∧ h = g ∧ phase = e.phase then some uid else none
    | _ => none)

/-- `bsync` (R329): with AP = 0 it arrives, once; with AP = 1 it waits for the phase it arrived for. Its arrival's wait as a release counts against no
budget. (DESIGN CHOICE, log 109: unsafe.) -/
def execBsync (g : BitVec 8) (s : State) : Out := s.eachLane fun s k t =>
  s.withGroup k t g.toNat fun p e =>
    let n := g.toNat
    if xsAP t.xstat then
      if arrivedNow t n e then s.parkAt k t (.barrier n e.phase) else s.finish k t t
    else if arrivedNow t n e then s.parkAt k t (.barrier n e.phase)
    else s.withReleased k t <|
      let r := s.arrive t p n e
      r.1.parkAt k { r.2 with xstat := xsSetAP t.xstat true } (.barrier n e.phase)

/-- `barv` (R329): it arrives and retires; a second arrival waits for the phase. Its wait as a release counts against no budget.
(DESIGN CHOICE, log 109: unsafe.) -/
def execBarv (g : BitVec 8) (s : State) : Out := s.eachLane fun s k t =>
  s.withGroup k t g.toNat fun p e =>
    if arrivedNow t g.toNat e then s.parkAt k t (.barrier g.toNat e.phase)
    else s.withReleased k t <|
      let r := s.arrive t p g.toNat e
      r.1.finish k t r.2

/-- `bwait` (R329). -/
def execBwait (g : BitVec 8) (s : State) : Out := s.eachLane fun s k t =>
  s.withGroup k t g.toNat fun _ e =>
    if arrivedNow t g.toNat e then s.parkAt k t (.barrier g.toNat e.phase) else s.finish k t t

/-- The result of `bquery` (Table 10.4). -/
def queryWord (live arr phase : Nat) : Word := word (min live 65535 * 2 ^ 48 + min arr 65535 * 2 ^ 32 + phase % 2 ^ 32)

def execBquery (d : Reg) (g : BitVec 8) (s : State) : Out := s.eachLane fun s k t =>
  s.withGroup k t g.toNat fun p e =>
    s.finish k t (setW t d (queryWord (liveThreads s p e).length (arrivals s p g.toNat e).length e.phase))

/-- An arrival is recorded at its group's home, the lowest member cluster, for the phase it was made in alone, and the phase completes
when it may (R306). -/
def execBarrierArrival (i g : Nat) (s : State) : Out :=
  match s.flights[i]? with
  | some (.arrival uid p g' phase) =>
    if g' ≠ g then .next s
    else
      match (s.part p).bind fun x => mget x.groups g with
      | none => .next (s.landFlight i)
      | some e =>
        if !arrives s ((leastBy id (e.members.map (·.1))).getD 0) i then .next s
        else if phase ≠ e.phase then .next (s.landFlight i)
        else
          .next (((s.landFlight i).modPart p fun x =>
            { x with groups := mset x.groups g { e with arrived := if e.arrived.contains uid then e.arrived else e.arrived ++ [uid] } }).settle p)
  | _ => .next s

/-! ### wait and pwait -/

/-- The pending deferred fault a `wait` of these bounds delivers (R330): MXE, ENB and STE by tl, CPE by cp, a stream by st or
ld. (DEDUCED, log 28: unsafe.) -/
def waitDeferred (t : Thread) (ld st cp tl : Nat) : Option Deferred :=
  t.deferred.find? fun d => match d.engine with
    | 1 => cp != 15
    | 4 => st != 15 || ld != 15
    | 5 => st != 15 || ld != 15
    | _ => tl != 15

/-- `wait` (R330). -/
def execWait (ld st cp tl : BitVec 4) (s : State) : Out := s.eachLane fun s k t =>
  match waitDeferred t ld.toNat st.toNat cp.toNat tl.toNat with
  | some d => s.trapDeferred k t d
  | none =>
    if withinBounds t ld.toNat st.toNat cp.toNat tl.toNat then s.finish k t t
    else s.parkAt k t (.counters ld.toNat st.toNat cp.toNat tl.toNat)

/-- `pwait` (R331): the address by R234, then the line by R209; outside scratch it is refused. -/
def execPwait (a : Reg) (s : State) : Out := s.eachLane fun s k t =>
  let va := readW t a
  match s.partOf (keyCl k) with
  | none => s
  | some (p, x) =>
    match checkAccess s true (keyCl k) p x t.asid (xsSUP t.xstat) .read va 1 with
    | .ok addrs lines => (match spotOf (addrs.headD 0) with
      | some (.scratch _ _) => s.finish k t t
      | _ => s.trap k t 4 va).walkReads (keyCl k) lines
    | c => s.checkStop k t .read c

/-! ### The stall limit (R310, R311) -/

/-- The prefix of the pair a parked thread waits at (R56); one whose fetch is held waits at no pair yet, and one that is not parked has issued
none. (DEDUCED, log 13: unsafe.) -/
def prefixAt (s : State) (k : Nat) (t : Thread) : Option (BitVec 4 × BitVec 4 × BitVec 6) :=
  if t.park.isNone || (t.park.map (·.why)) == some .fault then none
  else match fetch s (keyCl k) t t.pc with
  | .word w e => match decodeAt w e with
    | some (.pfx fa fb sel) => some (fa, fb, sel)
    | _ => none
  | .stop _ => none

/-- A trap that reaches a thread at the instruction it waits at (R311): of a pair when it waits at one (R56). -/
def State.trapWaiting (s : State) (k : Nat) (t : Thread) (cause : Nat) : State :=
  s.takeTrap k t t.pc (xsSaved t.xstat (prefixAt s k t)) cause 0 false 0 0

/-- A caller of a key that is about to pack leaves with the pack (R293, R296, R465). -/
def aboutToPack (s : State) (k : Nat) : Bool :=
  (s.cluster (keyCl k)).grant.any fun e => e.2.callers.contains k && packs s (s.cluster (keyCl k)) e.2

/-- A thread's budgeted park has lasted its limit, what it waits for not having come about (R310). -/
def stallExpired (s : State) (k : Nat) (t : Thread) : Bool := match t.park, stallLimit t.xstat with
  | some p, some n => budgeted p.why && p.since + n ≤ s.cyc && clusterRuns s (keyCl k) && !isReady s k t && !aboutToPack s k
  | _, _ => false

/-- A thread in its position whose budgeted park has lasted its limit (R9, R310). -/
def stallDue (s : State) : Option Nat := (s.threads.find? fun e => keyOk e.1 && stallExpired s e.1 e.2).map (·.1)

/-- A budgeted park that has lasted its limit ends in the stall-limit trap; its request is withdrawn, and its arrival if nothing has recorded
it (R310, R311). -/
def execStallLimitExpiry (k : Nat) (s : State) : Out :=
  let away := if clusterRuns s (keyCl k) then s.stallOffCore k else s
  match s.thread k with
  | none => .next away
  | some t =>
    if !stallExpired s k t then .next away
    else if arrivalDue s k t then .next ((((s.withdraw k).withdrawArrival k t).trapWaiting k (unarrived t) 8).retryGrant (keyCl k))
    else .next (((s.withdraw k).trapWaiting k t 8).retryGrant (keyCl k))

/-- What a step comes to: time passes, and the next turn is taken; but a budgeted park that has lasted its limit ends before anything else
moves (R310). -/
def plan (s : State) : Plan :=
  let u := advance s
  match stallDue u with
  | some k => .run (.stallLimitExpiry k) { u with cur := { u.cur with pfx := none } }
  | none => let r := takeTurn u
            planTurn r.1 r.2

end Sys2Proof.Machine
end

