-- ==== Sys2Proof/Machine/Copy.lean ====
section
/-! DEFINITION. The copy engine: opcode 0x40, engine 1 (R248 to R259), and its rows: grant, line, completion, failure. -/

namespace Sys2Proof.Machine

/-! ### Posting (R248 to R250) -/

/-- A length word within its limits (Table 8.2). -/
def lengthOk (w : Word) : Bool := 1 ≤ w.toNat && w.toNat ≤ 16777216
def shapeOp (w : Word) : Nat := bitsOf 28 2 w
def shapeSize (w : Word) : Nat := 2 ^ bitsOf 24 4 w
def shapeCount (w : Word) : Nat := bitsOf 0 17 w
/-- A shape word within its limits: of a gather, or of a scatter (Table 8.2). -/
def shapeOk (scatter : Bool) (w : Word) : Bool :=
  bitsOf 30 34 w = 0 && bitsOf 17 7 w = 0 && bitsOf 24 4 w ≤ 8 && 1 ≤ shapeCount w && shapeCount w ≤ 65536 &&
    (match shapeOp w with
      | 0 => true
      | 1 => scatter && bitsOf 24 4 w = 2
      | 2 => scatter && bitsOf 24 4 w = 1
      | _ => false)

/-! ### Queries (R257 to R259) -/

/-- Words of `cstat` (Table 8.4). -/
def cstatWord (c : Cluster) (core : Nat) (t : Thread) (i : BitVec 1) : Word :=
  if i = 0 then
    let d := t.deferred.find? fun d => d.engine == 1
    word ((d.map (·.detail)).getD 0 * 2 ^ 16 + bit01 d.isSome * 2 ^ 8 + t.cp)
  else word (tagsOf c core * 2 ^ 16 + (Config.tags - tagsUsed c))

def execCstat (a : Reg) (i : BitVec 1) (s : State) : Out := s.eachLane fun s k t =>
  s.finish k t (setW t a (cstatWord (s.cluster (keyCl k)) (keyCore k) t i))

/-- The presence code of the j-th line from a window address: 3 past the scratch or in a bank not in scratch mode (R258). Of a bank that is
switching, the mode last stored decides. (DESIGN CHOICE, log 91: unsafe.) -/
def presenceCode (s : State) (va j : Nat) : Nat :=
  match spotOf va with
  | some (.scratch cl off) =>
    let o := off / 64 * 64 + 64 * j
    if o ≥ 0x200000 ∨ bankMode (s.cluster cl) (o / 0x20000) ≠ 1 then 3
    else match mget (s.cluster cl).presence (o / 64) with
      | none => 0
      | some (.absent _) => 1
      | some .failed => 2
  | _ => 3

/-- An address checked as a load's would be, by steps 1 to 3 of R234 alone. -/
def State.located (s : State) (k : Nat) (t : Thread) (va : Word) (f : Nat → State) : State :=
  match s.partOf (keyCl k) with
  | none => s
  | some (_, x) =>
    match byteKeys s x t.asid (xsSUP t.xstat) .read va 1 with
    | .ok addrs lines => (f (addrs.headD 0)).walkReads (keyCl k) lines
    | c => s.checkStop k t .read c

/-- `pquery` (R258). -/
def execPquery (a b : Reg) (i : BitVec 1) (s : State) : Out := s.eachLane fun s k t =>
  s.located k t (readW t b) fun va =>
    let n := if i = 0 then 1 else 32
    s.finish k t (setW t a (word ((List.range n).map fun j => presenceCode s va j * 4 ^ j).sum))

/-- A line is registered in the RLT as a destination, or as a source (R229). -/
def registered (c : Cluster) (dest : Bool) (line : Nat) : Bool :=
  c.rlt.any fun e => e.dest == dest && e.line ≤ line && line < e.line + e.lines

/-- `lquery` (R259). -/
def execLquery (a b : Reg) (s : State) : Out := s.eachLane fun s k t =>
  s.located k t (readW t b) fun key =>
    let c := s.cluster (keyCl k)
    s.finish k t (setW t a (word (bit01 (registered c true (key / 64)) + 2 * bit01 (registered c false (key / 64)) + 256 * c.rlt.length)))

/-! ### Ranges -/

/-- Bytes a command writes: LEN, or N × E. -/
def copyTotal (c : Cmd) : Nat :=
  let shape := c.words.getD 2 0
  if c.fn = 0 then shape.toNat else shapeCount shape * shapeSize shape

/-- The range of a command's list and its contiguous destination or source (R251, R252). -/
def copyDst (c : Cmd) : Word := c.words.getD 0 0
def copySrc (c : Cmd) : Word := c.words.getD 1 0

/-- A command as it starts to run. -/
def runOf (c : Cmd) : Running :=
  { cmd := c, rows := [], done := 0, plane := none, tile := [], staged := false, elems := [], walk := none, place := [], lines := [] }

/-- The parts of a range that lie in one 64 KiB page each: address and length. -/
def pagePieces (va : Word) (n : Nat) : List (Word × Nat) :=
  let first := min n (65536 - va.toNat % 65536)
  if n = 0 then []
  else (va, first) :: (List.range ((n - first + 65535) / 65536)).map fun i =>
    (va + word (first + 65536 * i), min 65536 (n - first - 65536 * i))

/-- What locating a range comes to: the key and length of each of its pieces. -/
inductive Located where
  | ok (pieces : List (Nat × Nat))
  | wait (s : State)
  | refused (cause : Nat) (va : Word)
  deriving DecidableEq, Repr

/-- Where the pieces of a range lie: the address of each one's first byte (steps 1 to 3 of R234). -/
def State.locate (s : State) (cl eng : Nat) (c : Cmd) (acc : Access) : List (Word × Nat) → Located
  | [] => .ok []
  | (va, n) :: rest =>
    match s.agentPlace cl (eng, c.seq) c.asid c.sup acc va 1 with
    | .wait s1 => .wait s1
    | .refused x v => .refused x v
    | .ok addrs => match s.locate cl eng c acc rest with
      | .ok l => .ok ((addrs.headD 0, n) :: l)
      | other => other

/-- Pieces as runs of whole lines, adjacent ones joined (R229). -/
def lineRuns : List (Nat × Nat) → List (Nat × Nat)
  | [] => []
  | (key, n) :: rest =>
    let first := key / 64
    let last := (key + n - 1) / 64
    match lineRuns rest with
    | (l, m) :: more => if l ≤ last + 1 ∧ first ≤ l then (first, max (last + 1) (l + m) - first) :: more else (first, last + 1 - first) :: (l, m) :: more
    | [] => [(first, last + 1 - first)]

/-- Two ranges share a physical byte. -/
def piecesOverlap (a b : List (Nat × Nat)) : Bool := a.any fun x => b.any fun y => x.1 < y.1 + y.2 && y.1 < x.1 + x.2

/-- The RLT entries of an engine command's runs. -/
def rltEntries (engine : Nat) (c : Cmd) (dest : Bool) (runs : List (Nat × Nat)) : List RltEntry :=
  runs.map fun r => { line := r.1, lines := r.2, dest := dest, engine := engine, seq := c.seq, core := c.issuer.2.1, slot := c.issuer.2.2, elem := none }

/-- The lines of CSM scratch a copy or gather fills: cluster and line, for those of its partition in banks in scratch mode (R208,
R234). -/
def filledLines (s : State) (cl : Nat) (c : Cmd) : List (Nat × Nat) :=
  let va := copyDst c
  (List.range ((va.toNat % 64 + copyTotal c + 63) / 64)).filterMap fun i =>
    match spotOf ((va.toNat / 64 + i) * 64) with
    | some (.scratch at_ off) =>
      if bankMode (s.cluster at_) (off / 0x20000) = 1 && (s.partOf cl).any fun p => p.2.halfDies.getLsbD (halfDieOf at_) then
        some (at_, off / 64) else none
    | _ => none

/-- The destination lies in CSM scratch, so that presence tracks the command (R253). -/
def intoScratch (c : Cmd) : Bool :=
  c.fn != 2 && match spotOf (copyDst c).toNat with
    | some (.scratch _ _) => true
    | _ => false

/-- A command registers the extents of the elements whose address it has read (R253). -/
def elemental (c : Cmd) : Bool := c.fn != 0 && !intoScratch c

/-! ### The range-lock table (R229) -/

/-- Pieces of a range by the physical address of their first byte, those whose translation stands alone. -/
def mappedPieces (s : State) (cl : Nat) (asid : BitVec 16) (sup : Bool) (acc : Access) (l : List (Word × Nat)) : List (Nat × Nat) :=
  match s.partOf cl with
  | none => []
  | some (_, x) => l.filterMap fun e => match resolve s x asid sup acc e.1 with
    | .ok key _ => some (key, e.2)
    | .bad _ _ _ => none

/-- The RLT entries of a copy's, gather's or scatter's ranges (R253), by the translations that stand: a command is granted though a
page of a range is not mapped, and waits at its access (R249, R255). -/
def copyEntries (s : State) (cl : Nat) (c : Cmd) : List RltEntry :=
  if intoScratch c then []
  else
    let list := if c.fn = 2 then copyDst c else copySrc c
    let plain := if c.fn = 2 then copySrc c else copyDst c
    let at_ (acc : Access) (l : List (Word × Nat)) : List (Nat × Nat) := lineRuns (mappedPieces s cl c.asid c.sup acc l)
    rltEntries 1 c false (at_ .read (pagePieces list (if c.fn = 0 then copyTotal c else 8 * shapeCount (c.words.getD 2 0)))) ++
      rltEntries 1 c (c.fn != 2) (at_ (if c.fn = 2 then .read else .write) (pagePieces plain (copyTotal c)))

/-- The RLT entries of an element's extent: a gather's source, a scatter's destination (R253). -/
def elemEntries (s : State) (cl : Nat) (c : Cmd) (i : Nat) (va : Word) : List RltEntry :=
  if !elemental c then []
  else
    (rltEntries 1 c (c.fn == 2) (lineRuns (mappedPieces s cl c.asid c.sup (if c.fn = 2 then .write else .read) (pagePieces va (shapeSize (c.words.getD 2 0)))))).map
      fun (e : RltEntry) => { e with elem := some i }

/-- Entries of the RLT that are free. -/
def rltRoom (c : Cluster) : Nat := 64 - c.rlt.length

/-- A registered range that is released by nothing that happens without its threads: a calendar's, and that of a drain staged until another
contribution arrives (R180, R343). -/
def rltLasting (c : Cluster) (e : RltEntry) : Bool :=
  (e.engine == 2 && e.elem.isSome) || (e.engine == 0 && c.mxe.running.any fun r => r.cmd.seq == e.seq && r.staged)

/-- What a command at its grant registers of its pieces: all of them, or none while the table is too full, which holds it ungranted (R229). One
that waiting cannot serve, for nothing but lasting ranges is registered, is granted with those that fit, so that it completes (R181, R313).
(DESIGN CHOICE, log 85: unsafe.) -/
def rltTake (c : Cluster) (want : List RltEntry) : Option (List RltEntry) :=
  if want.length ≤ rltRoom c then some want
  else if c.rlt.all (rltLasting c) then some (want.take (rltRoom c))
  else none

/-! ### Grant (R208, R229, R249) -/

/-- A posted command at its grant: running, with its scratch lines absent or its ranges registered; none while it is held, by a line
that is absent for an earlier copy or by a full RLT. A line in a bank that is switching holds it too: its grant would act on the bank's
lines (R207, R208). (DESIGN CHOICE, log 105: unsafe.) -/
def State.grantCopy (s : State) (cl : Nat) (c : Cmd) : Option State :=
  let lines := filledLines s cl c
  if intoScratch c && lines.any fun l => bankBusy (s.cluster l.1) (l.2 / 2048) || (match mget (s.cluster l.1).presence l.2 with
      | some (.absent _) => true
      | _ => false) then none
  else (rltTake (s.cluster cl) (copyEntries s cl c)).map fun rlt =>
    let s1 := if intoScratch c then
      lines.foldl (fun s l => s.modCluster l.1 fun x => { x with presence := mset x.presence l.2 (.absent c.seq) }) s else s
    s1.modCluster cl fun x => { x with cpe := x.cpe.erase c, cpeRun := x.cpeRun ++ [runOf c], rlt := x.rlt ++ rlt }

/-- A command just posted is granted unless something holds it, before anything else issues (R249).
(DEDUCED, log 31: unsafe.) -/
def State.grantPosted (s : State) (cl : Nat) (c : Cmd) : State :=
  if clusterRuns s cl && !(s.cluster cl).cpe.any fun e => e.keys == c.keys && e.seq < c.seq then (s.grantCopy cl c).getD s else s

/-- A lane's command posted (R249): fn 0 copy, 1 gather, 2 scatter. -/
def State.postCopy (s : State) (k : Nat) (t : Thread) (fn : Nat) (a : Reg) (b : BitVec 4) : State :=
  let shape := readW t (pairReg b + 1)
  if !(if fn = 0 then lengthOk shape else shapeOk (fn == 2) shape) then s.trap k t 1 0
  else if !(tagFree (s.cluster (keyCl k)) (keyCore k) && t.cp < 63) then s.parkAt k t .noTag
  else
    let cmd : Cmd := { seq := s.nextSeq, fn := fn, issuer := (keyCl k, keyCore k, slotOf (keyCore k) (keyThr k)), keys := [k],
                       gang := s.onGC, ctx := 0, words := [readW t a, readW t (pairReg b), shape], ops := [], scales := [],
                       dst := 0, pc := t.pc, asid := t.asid, sup := xsSUP t.xstat, posted := s.cyc, inst := s.free }
    (({ s with nextSeq := s.nextSeq + 1 }.modCluster (keyCl k) fun c => { c with cpe := c.cpe ++ [cmd] }).finish k t
      { t with cp := t.cp + 1 }).grantPosted (keyCl k) cmd

def execCcopy (a : Reg) (b : BitVec 4) (s : State) : Out := s.eachLane fun s k t => s.postCopy k t 0 a b
def execCgath (a : Reg) (b : BitVec 4) (s : State) : Out := s.eachLane fun s k t => s.postCopy k t 1 a b
def execCscat (a : Reg) (b : BitVec 4) (s : State) : Out := s.eachLane fun s k t => s.postCopy k t 2 a b

/-- The first posted command that may be granted: those of one issuer in issue order (R249). -/
def State.grantFirst (s : State) (cl : Nat) : List Cmd → List Nat → State
  | [], _ => s
  | c :: rest, held =>
    if held.contains (c.keys.headD 0) then s.grantFirst cl rest held
    else match s.grantCopy cl c with
      | some s1 => s1
      | none => s.grantFirst cl rest (c.keys.headD 0 :: held)

/-- The CPE grants a posted command that was held (R249); at a stop it grants none (R260). -/
def execCpeGrant (cl : Nat) (s : State) : Out :=
  if clusterRuns s cl then .next (s.grantFirst cl (s.cluster cl).cpe []) else .next s

/-! ### Progress (R251, R252, R255) -/

/-- What a running command does next: writes of bytes after reads at keys, with how far it then is; the addresses of its next elements
read, with what they register; a wait; a failure; or nothing more. -/
inductive CopyNext where
  | write (reads : List Nat) (cells : List (Nat × Byte)) (done : Nat)
  | adds (addrs : List Nat) (op new : Nat) (operand : Word) (done : Nat)
  | taken (elems : List (Nat × Word)) (rlt : List RltEntry) (reads : List Nat)
  | wait (s : State)
  | fail (detail : Nat) (va : Word)
  | finished
  deriving DecidableEq, Repr

/-- The detail code of a refused access (Table 8.3). -/
def copyDetail (cause : Nat) : Nat := if cause = 7 then 4 else 3

/-- The address list of a gather or scatter, and the size of its elements. -/
def listBase (c : Cmd) : Word := if c.fn = 2 then copyDst c else copySrc c
def elemSize (c : Cmd) : Nat := shapeSize (c.words.getD 2 0)

/-- What is left of the element in hand, up to the next line boundary of the command's contiguous range, where a command may be suspended
(R260): a gather's destination; the source of a scatter that stores, where the destination's aligned 8 bytes stay whole (R228). -/
def elemPart (c : Cmd) (done : Nat) : Nat :=
  let e := elemSize c
  let left := e - done % e
  if c.fn = 1 then min left (64 - (copyDst c + word done).toNat % 64)
  else if shapeOp (c.words.getD 2 0) = 0 && 8 ≤ e && (copySrc c).toNat % 8 = 0 then min left (64 - (copySrc c + word done).toNat % 64)
  else left

/-- The bytes a running command reads next: of a copy's line, of the address list, of a gather's element or of a scatter's source. -/
def nextReads (r : Running) : Word × Nat :=
  let c := r.cmd
  if c.fn = 0 then (copySrc c + word r.done, min (64 - (copyDst c + word r.done).toNat % 64) (copyTotal c - r.done))
  else match r.elems with
    | [] => (listBase c + word (r.done / elemSize c * 8), 8)
    | (_, va) :: _ => (if c.fn = 1 then va + word (r.done % elemSize c) else copySrc c + word r.done, elemPart c r.done)

/-- The copies whose absent lines a running command's next read lies in (R208, R209). -/
def waitsForCopies (s : State) (r : Running) : List Nat :=
  let n := nextReads r
  (linesOf (span n.1.toNat n.2)).filterMap fun l => match s.presenceOf (l * 64) with
    | some (.absent q) => some q
    | _ => none

/-- The copies that some copies wait for, directly or by way of others. -/
def copiesBehind (s : State) : Nat → List Nat → List Nat
  | 0, l => l
  | n + 1, l => copiesBehind s n (dedup (l ++ s.clusters.flatMap fun e => (e.2.cpeRun.filter fun r => l.contains r.cmd.seq).flatMap (waitsForCopies s)))

/-- The device without the absent lines that would never leave that state for a command: its own, and those of copies that themselves wait for
it (R313). -/
def State.pastOwn (s : State) (c : Cmd) : State :=
  let n := (s.clusters.map fun e => e.2.cpeRun.length).sum
  let mine (q : Nat) : Bool := q == c.seq || (copiesBehind s n [q]).contains c.seq
  { s with clusters := s.clusters.map fun (e : Nat × Cluster) => (e.1, { e.2 with presence := e.2.presence.filter fun p => match p.2 with
      | .absent q => !mine q
      | .failed => true }) }

/-- A read by a copy engine's command: an absent line holds it (R184, R209), but not one that is absent for itself, or for a copy that waits for
it: every command completes (R313). (DESIGN CHOICE, log 99: unsafe.) -/
def copyRead (s : State) (cl : Nat) (c : Cmd) (va : Word) (n : Nat) : Agent :=
  match s.agent cl (1, c.seq) c.asid c.sup .read va n with
  | .wait s1 => match (s.pastOwn c).agent cl (1, c.seq) c.asid c.sup .read va n with
    | .ok addrs => .ok addrs
    | _ => .wait s1
  | r => r

/-- The address entry of an element, with the keys it lies at, or why there is none (R252): the list and the entry are aligned. The faulting
address of one that is not is the list's, or the entry's own. (DESIGN CHOICE, log 90: unsafe.) -/
def listEntry (s : State) (cl : Nat) (c : Cmd) (i : Nat) : Except CopyNext (Word × List Nat) :=
  let va := listBase c + word (8 * i)
  if (listBase c).toNat % 8 ≠ 0 then .error (.fail 1 (listBase c))
  else match copyRead s cl c va 8 with
    | .wait s1 => .error (.wait s1)
    | .refused x v => .error (.fail (copyDetail x) v)
    | .ok addrs =>
      let e := word (s.numAt addrs)
      if e.toNat % min (elemSize c) 64 ≠ 0 then .error (.fail 1 va) else .ok (e, addrs)

/-- The entries an element's extent may take: as many as it has pieces while a page of it is not mapped. -/
def elemCost (s : State) (cl : Nat) (c : Cmd) (va : Word) (rlt : List RltEntry) : Nat :=
  let pieces := pagePieces va (elemSize c)
  if !elemental c then 0
  else if (mappedPieces s cl c.asid c.sup (if c.fn = 2 then .write else .read) pieces).length = pieces.length then rlt.length else pieces.length

/-- A running command waits for entries of the RLT: for those of its next element, or of ranges mapped since its grant (R253). -/
def lacksEntries (s : State) (cl : Nat) (r : Running) : Bool :=
  let x := s.cluster cl
  let c := r.cmd
  let want := copyEntries s cl c ++ r.elems.flatMap fun e => elemEntries s cl c e.1 e.2
  (rltRoom x + (x.rlt.filter fun e => e.engine == 1 && e.seq == c.seq).length < want.length) ||
    (elemental c && r.elems.isEmpty && r.done < copyTotal c && match listEntry s cl c (r.done / elemSize c) with
      | .ok (va, _) => min 8 (rltRoom x) < elemCost s cl c va (elemEntries s cl c (r.done / elemSize c) va)
      | .error _ => false)

/-- Waiting frees no entry for a cluster's oldest running command: every range registered but its own is lasting, or is of a command that
waits for entries itself (R253, R313). -/
def entriesStuck (s : State) (cl i : Nat) (c : Cmd) : Bool :=
  let x := s.cluster cl
  i == 0 && x.rlt.all fun e => (e.engine == 1 && e.seq == c.seq) || rltLasting x e ||
    (e.engine == 1 && (x.cpeRun.find? fun r => r.cmd.seq == e.seq).any (lacksEntries s cl))

/-- A running command's entries as its ranges and its elements translate now: those of pages mapped since its grant are registered too. With
no room for them all a command waits; the oldest running one goes on with those that fit where waiting would free none, so that it completes
(R253, R313). (DESIGN CHOICE, log 85: unsafe.) -/
def State.registerRanges (s : State) (cl i : Nat) (r : Running) : Option State :=
  let x := s.cluster cl
  let want := copyEntries s cl r.cmd ++ r.elems.flatMap fun e => elemEntries s cl r.cmd e.1 e.2
  let held := x.rlt.filter fun e => e.engine == 1 && e.seq == r.cmd.seq
  let room := rltRoom x + held.length
  if want == held then some s
  else if room < want.length && !entriesStuck s cl i r.cmd then none
  else some (s.modCluster cl fun y => { y with rlt := (y.rlt.filter fun e => !held.contains e) ++ want.take room })

/-- The addresses of up to `n` elements from the `i`-th, as many as `room` entries suffice for (R253): what stops the first of them stops the
command there; one that is `stuck` goes on with the entries there are. (DESIGN CHOICE, log 85: unsafe.) -/
def takeElems (s : State) (cl : Nat) (c : Cmd) (stuck : Bool) : Nat → Nat → Nat → CopyNext
  | 0, _, _ => .taken [] [] []
  | n + 1, i, room =>
    match listEntry s cl c i with
    | .error e => e
    | .ok (va, keys) =>
      let rlt := elemEntries s cl c i va
      if room < elemCost s cl c va rlt then (if stuck then .taken [(i, va)] (rlt.take room) keys else .wait s)
      else match takeElems s cl c false n (i + 1) (room - elemCost s cl c va rlt) with
        | .taken l r ks => .taken ((i, va) :: l) (rlt ++ r) (keys ++ ks)
        | _ => .taken [(i, va)] rlt keys

/-- A `ccopy` translates and checks both its ranges before it moves a byte, and that they do not overlap (R251). Of an overlap the faulting
address is the destination's first. (DESIGN CHOICE, log 90: unsafe.) -/
def copyChecks (s : State) (cl : Nat) (c : Cmd) : Option CopyNext :=
  if c.fn ≠ 0 then none
  else
    match s.locate cl 1 c .read (pagePieces (copySrc c) (copyTotal c)) with
    | .wait s1 => some (.wait s1)
    | .refused x v => some (.fail (copyDetail x) v)
    | .ok src => match s.locate cl 1 c .write (pagePieces (copyDst c) (copyTotal c)) with
      | .wait s1 => some (.wait s1)
      | .refused x v => some (.fail (copyDetail x) v)
      | .ok dst => if piecesOverlap src dst then some (.fail 0x0B (copyDst c)) else none

/-- `n` bytes from `src` to byte `done` of the destination of a copy or gather. -/
def moveNext (s : State) (cl : Nat) (c : Cmd) (src : Word) (done n : Nat) : CopyNext :=
  match copyRead s cl c src n with
  | .wait s1 => .wait s1
  | .refused x v => .fail (copyDetail x) v
  | .ok from_ =>
    match s.agent cl (1, c.seq) c.asid c.sup .write (copyDst c + word done) n with
    | .wait s1 => .wait s1
    | .refused x v => .fail (copyDetail x) v
    | .ok dst => .write from_ (dst.zip (from_.map s.byteAt)) (done + n)

/-- A location whose kind refuses a scatter-add: a control word, in whatever cluster it lies (R252).
(DEDUCED, log 76: unsafe.) -/
def ctlWindow (va : Word) : Bool := windowBase ≤ va.toNat && match spotOf va.toNat with
  | some (.ctl _ _ _) => true
  | _ => false

/-- `e` bytes of a scatter's element at `va`: a store, or an atomic add that its location's kind carries (R252). The presence of a scratch line is no
guard of a scatter's write. (DEDUCED, log 32, log 76: unsafe.) -/
def scatterNext (s : State) (cl : Nat) (c : Cmd) (va : Word) (done e : Nat) : CopyNext :=
  match copyRead s cl c (copySrc c + word done) e with
  | .wait s1 => .wait s1
  | .refused x v => .fail (copyDetail x) v
  | .ok src =>
    let op := shapeOp (c.words.getD 2 0)
    if op ≠ 0 ∧ ctlWindow va then .fail 9 va
    else match s.agent cl (1, c.seq) c.asid c.sup .write va e with
      | .wait s1 => .wait s1
      | .refused x v => .fail (copyDetail x) v
      | .ok dst =>
        if op = 0 then .write src (dst.zip (src.map s.byteAt)) (done + e)
        else if hostKey (dst.headD 0) then .fail 9 va
        else .adds dst (19 + op) (atomicFAdd (if op = 1 then .f32 else .bf16) (s.numAt dst) (s.numAt src)) (word (s.numAt src)) (done + e)

/-- What a running command does next. -/
def copyNext (s : State) (cl i : Nat) (r : Running) : CopyNext :=
  let c := r.cmd
  if copyTotal c ≤ r.done then .finished
  else if c.fn = 0 then
    match (if r.done = 0 then copyChecks s cl c else none) with
    | some x => x
    | none =>
      let va := copyDst c + word r.done
      moveNext s cl c (copySrc c + word r.done) r.done (min (64 - va.toNat % 64) (copyTotal c - r.done))
  else match r.elems with
    | [] =>
      let n := r.done / elemSize c
      takeElems s cl c (entriesStuck s cl i c) (min 8 (shapeCount (c.words.getD 2 0) - n)) n (min 8 (rltRoom (s.cluster cl)))
    | (_, va) :: _ =>
      let at_ := va + word (r.done % elemSize c)
      if c.fn = 1 then moveNext s cl c at_ r.done (elemPart c r.done) else scatterNext s cl c at_ r.done (elemPart c r.done)

/-- A command stands at a line boundary of its contiguous range (R260): of its destination, or of a scatter's source; a scatter none of whose
elements may end there, at the end of the element that passes it. (DESIGN CHOICE, log 100: unsafe.) -/
def atBoundary (r : Running) : Bool :=
  let c := r.cmd
  r.done = 0 || copyTotal c ≤ r.done || c.fn = 0 ||
    (if c.fn = 1 then ((copyDst c).toNat + r.done) % 64 = 0
     else ((copySrc c).toNat + r.done) % 64 = 0 ||
       ((copySrc c).toNat % min (elemSize c) 8 ≠ 0 && ((copySrc c).toNat + r.done) % 64 < elemSize c))

/-- A command in flight goes on: its cluster runs, or a stop has found it within a line (R260). -/
def copyRuns (s : State) (cl : Nat) (r : Running) : Bool := clusterRuns s cl || (clusterFinishes s cl && !atBoundary r)

/-- Scratch lines that hold every byte of a command's destination become present: those it has passed, or all at its end (R208). -/
def State.present (s : State) (c : Cmd) (from_ done : Nat) : State :=
  let va := (copyDst c).toNat
  let last := if copyTotal c ≤ done then (va + done + 63) / 64 else (va + done) / 64
  ((List.range (last - (va + from_) / 64)).map fun i => ((va + from_) / 64 + i) * 64).foldl (fun s l => match spotOf l with
    | some (.scratch cl off) => s.modCluster cl fun x => { x with presence := mdel x.presence (off / 64) }
    | _ => s) s

/-- A running command's entry replaced. -/
def State.putCopy (s : State) (cl i : Nat) (r : Running) : State :=
  s.modCluster cl fun x => { x with cpeRun := setAt x.cpeRun i r }

/-- A running command past `done` bytes: once the head element of a gather or scatter is done its extent is released (R253), and finished
scratch lines are present (R208). -/
def State.passCopy (s : State) (cl i : Nat) (r : Running) (done : Nat) : State :=
  let whole := r.cmd.fn = 0 || done % elemSize r.cmd = 0
  let s1 := (s.modCluster cl fun x => { x with rlt := x.rlt.filter fun e =>
      !(whole && e.engine == 1 && e.seq == r.cmd.seq && e.elem.isSome && e.elem == r.elems.head?.map (·.1)) }).putCopy cl i
    { r with done := done, elems := if whole then r.elems.drop 1 else r.elems }
  if intoScratch r.cmd then s1.present r.cmd r.done done else s1

/-- The walks of a running command's next accesses, where they read host memory (R450). -/
def State.copyWalks (s : State) (cl : Nat) (r : Running) : State :=
  let c := r.cmd
  let write : List (Word × Nat) := match c.fn, r.elems with
    | 0, _ => [(copyDst c + word r.done, 1)]
    | _, [] => []
    | 1, _ => [(copyDst c + word r.done, 1)]
    | _, (_, va) :: _ => [(va, 1)]
  (s.agentWalks cl c.asid c.sup .read [nextReads r]).agentWalks cl c.asid c.sup .write write

/-- A copy finishes its next line, a gather or scatter its next element or the reading of its next addresses (R208, R251, R252, R253),
after its issuer's earlier accesses (R228). -/
def execCpeLineWritten (cl i : Nat) (s : State) : Out :=
  match (s.cluster cl).cpeRun[i]? with
  | none => .next s
  | some r =>
    if !copyRuns s cl r || !issuerDone s r.cmd then .next s
    else match s.registerRanges cl i r with
      | none => .next s
      | some s0 => match copyNext s0 cl i r with
        | .write reads cells done => .next ((((s0.copyWalks cl r).farRequest (s.partNo cl) 0 reads []).writeFrom cl cells).passCopy cl i r done)
        | .adds addrs op new operand done => .next (((s0.copyWalks cl r).atomicFrom cl op addrs new operand 0).passCopy cl i r done)
        | .taken elems rlt reads => .next ((((s0.copyWalks cl r).agentReads cl reads).modCluster cl fun x => { x with rlt := x.rlt ++ rlt }).putCopy cl i { r with elems := elems })
        | .wait s1 => .next s1
        | .fail _ _ => .next s
        | .finished => .next s

/-- A command in flight is suspended at a stop (R260): at a line boundary; or within a line, where nothing lets it go on. -/
def copyStill (s : State) (cl i : Nat) (r : Running) : Bool :=
  atBoundary r || match execCpeLineWritten cl i s with
    | .next s1 => s1 = s
    | _ => false

/-- A command leaves the engine: its tag, its RLT entries and cp (R249). -/
def State.endCopy (s : State) (cl i : Nat) (r : Running) : State :=
  let s1 := s.modCluster cl fun x =>
    { x with cpeRun := dropAt x.cpeRun i, rlt := x.rlt.filter fun e => !(e.engine == 1 && e.seq == r.cmd.seq) }
  r.cmd.keys.foldl (fun s k => match s.thread k with
    | some t => s.putThread k { t with cp := t.cp - 1 }
    | none => s) s1

/-- A command completes once every byte is written (R251, R252). -/
def execCpeCommandComplete (cl i : Nat) (s : State) : Out :=
  match (s.cluster cl).cpeRun[i]? with
  | none => .next s
  | some r => if clusterRuns s cl && copyTotal r.cmd ≤ r.done then .next (s.endCopy cl i r) else .next s

/-- Later posted commands of a failed command's issuer are cancelled, with no effect but cp (R256). -/
def State.cancelCopies (s : State) (cl key : Nat) : State :=
  let gone := (s.cluster cl).cpe.filter fun c => c.keys.contains key
  let s1 := s.modCluster cl fun x => { x with cpe := x.cpe.filter fun c => !c.keys.contains key }
  match s1.thread key with
  | some t => s1.putThread key { t with cp := t.cp - gone.length }
  | none => s1

/-- A command fails (R255, R256): its absent lines become failed, its issuer has a deferred fault pending, and its issuer's
later commands are cancelled. -/
def State.failCopy (s : State) (cl i : Nat) (r : Running) (detail : Nat) (va : Word) : State :=
  let key := r.cmd.keys.headD 0
  let s1 := (s.endCopy cl i r).cancelCopies cl key
  let s2 : State := { s1 with clusters := s1.clusters.map fun (e : Nat × Cluster) => (e.1, { e.2 with
    presence := e.2.presence.map fun (p : Nat × Presence) => (p.1, if p.2 = Presence.absent r.cmd.seq then .failed else p.2) }) }
  match s2.thread key with
  | some t => s2.putThread key { t with deferred := t.deferred ++ [{ engine := 1, detail := detail, value := va, pc := r.cmd.pc }] }
  | none => s2

/-- A running command that can go no further fails (R255). -/
def execCpeCommandFail (cl i : Nat) (s : State) : Out :=
  match (s.cluster cl).cpeRun[i]? with
  | none => .next s
  | some r =>
    if !clusterRuns s cl || !issuerDone s r.cmd then .next s
    else match copyNext s cl i r with
      | .fail detail va => .next (s.failCopy cl i r detail va)
      | _ => .next s

end Sys2Proof.Machine
end

