-- ==== Sys2Proof/Machine/Engine.lean ====
section
/-! DEFINITION. What the engines of a cluster share: posting into a table, the failure of a command and the cancelling of its
issuer's later ones (R173, R186, R356, R364). -/

namespace Sys2Proof.Machine

/-- The lowest lane of the issuing set (R187). -/
def State.lowest (s : State) : Option (Nat × Thread) := s.curThreads.head?

/-- A command for the issuing set in hand: context words, operands by lane. -/
def engineCmd (s : State) (fn : Nat) (ctx : Ctx) (words : List Word) (ops : List (Nat × Word × Word)) (scales : List (List Byte))
    (dst : Reg) (t : Thread) : Cmd :=
  { seq := s.nextSeq, fn := fn, issuer := (s.cur.cl, s.cur.core, s.cur.slot), keys := s.curKeys, gang := s.onGC, ctx := ctx.toNat
    words := words, ops := ops, scales := scales, dst := dst, pc := t.pc, asid := t.asid, sup := xsSUP t.xstat, posted := s.cyc, inst := s.free }

/-- A command at the end of its engine's table: 0 MXE, 2 ENB, 3 STE. -/
def tablePut (c : Cluster) (engine : Nat) (cmd : Cmd) : Cluster :=
  match engine with
  | 0 => { c with mxe := { c.mxe with table := c.mxe.table ++ [cmd] } }
  | 2 => { c with enb := { c.enb with queue := c.enb.queue ++ [cmd] } }
  | _ => { c with ste := { c.ste with table := c.ste.table ++ [cmd] } }

/-- A table has room and no lane's tl is at 63: the set can post (R173). -/
def State.postRoom (s : State) (engine : Nat) : Bool :=
  tableRoom (s.cluster s.cur.cl) engine && s.curThreads.all fun x => x.2.tl < 63

/-- A command posted for the issuing set, which retires with tl raised and `busy` still to be written; with no entry free, or
a lane's tl at 63, the set parks (R173). -/
def State.post (s : State) (engine : Nat) (cmd : Cmd) (busy : List RegRef) : State :=
  if !s.postRoom engine then s.forLanes fun s k t => s.parkAt k t (.tableFull engine)
  else
    ({ s with nextSeq := s.nextSeq + 1 }.modCluster s.cur.cl fun c => tablePut c engine cmd).forLanes fun s k t =>
      s.finish k t (addBusy { t with tl := t.tl + 1 } busy)

/-- The issuing set restricted to the lanes of which `f` holds. -/
def State.onlyLanes (s : State) (f : Thread → Bool) : State :=
  { s with cur := { s.cur with lanes := s.cur.lanes.filter fun l =>
      (s.thread (keyOf s.cur.cl s.cur.core (thrOf s.cur.core s.cur.slot l))).any f } }

/-- Lanes of which `bad` holds trap by themselves; the rest go on (R415). -/
def State.trapLanes (s : State) (bad : Thread → Bool) (cause : Nat) (f : State → State) : State :=
  let s1 := (s.onlyLanes bad).forLanes fun s k t => s.trap k t cause 0
  let good := s.onlyLanes (!bad ·)
  let s2 := { s1 with cur := good.cur }
  if s2.cur.lanes.isEmpty then s2 else f s2

/-- tl falls in a command's lanes (R173). -/
def State.lowerTl (s : State) (c : Cmd) : State :=
  c.keys.foldl (fun s k => match s.thread k with
    | some t => s.putThread k { t with tl := t.tl - 1 }
    | none => s) s

/-- A register a command was to write is no longer waited for, in the lanes of its operands. -/
def State.clearBusy (s : State) (c : Cmd) (keys : List Nat) : State :=
  keys.foldl (fun s k => match s.thread k with
    | some t => s.putThread k (unBusy t [.w c.dst])
    | none => s) s

/-- A deferred fault pending in the lanes of a failed command and of those its failure cancelled (R186). -/
def State.defer (s : State) (c : Cmd) (keys : List Nat) (engine detail : Nat) (va : Word) : State :=
  keys.foldl (fun s k => match s.thread k with
    | some t => s.putThread k { t with deferred := t.deferred ++ [{ engine := engine, detail := detail, value := va, pc := c.pc }] }
    | none => s) s

/-- The lanes of some commands. -/
def cmdKeys (cs : List Cmd) : List Nat := dedup (cs.flatMap (·.keys))

/-- RLT entries of a command released (R229). -/
def State.unlock (s : State) (cl engine : Nat) (c : Cmd) : State :=
  s.modCluster cl fun x => { x with rlt := x.rlt.filter fun e => !(e.engine == engine && e.seq == c.seq && e.elem.isNone) }

/-- Positions of a list with their thread keys: the lane of each operand is a lane of the command's slot. -/
def laneKey (c : Cmd) (lane : Nat) : Nat := keyOf c.issuer.1 c.issuer.2.1 (thrOf c.issuer.2.1 c.issuer.2.2 lane)

/-- A new fault was recorded while an access was checked, or what it met was contained. -/
def newFault (s s1 : State) (cl : Nat) : Bool :=
  (s.cluster cl).fbf.length + (s.cluster cl).fbfWait.length < (s1.cluster cl).fbf.length + (s1.cluster cl).fbfWait.length ||
    s.parts != s1.parts

/-- The detail code of a refused engine access: 0x03 protection, 0x04 presence (Tables 6.7, 11.7, 11.13). -/
def engineDetail (cause : Nat) : Nat := if cause = 7 then 4 else 3

end Sys2Proof.Machine
end

