-- ==== Sys2Proof/Machine/Mxe.lean ====
section
/-! DEFINITION. The matrix engine's commands: opcode 0x40, engine 0 (R163 to R199): contexts, operand words, posting. -/

namespace Sys2Proof.Machine

/-! ### Formats and contexts (R163, R167 to R169) -/

/-- The class of a format pair of Table 6.1: units weight W and the most K blocks. -/
def pairClass (fa fb : Nat) : Option (Nat × Nat) :=
  let low (f : Nat) : Bool := 4 ≤ f && f ≤ 7
  if fa = 1 ∧ fb = 1 then some (3, 1)
  else if (fa = 2 ∧ fb = 2) ∨ (fa = 3 ∧ fb = 3) then some (4, 4)
  else if (low fa ∧ low fb) ∨ (fa = 8 ∧ fb = 8) ∨ (fa = 8 ∧ fb = 9) ∨ (fa = 9 ∧ fb = 8) ∨ (fa = 10 ∧ low fb) ∨ (low fa ∧ fb = 10) then
    some (6, 8)
  else if (fa = 9 ∧ fb = 9) ∨ (fa = 10 ∧ fb = 10) then some (8, 16)
  else none

def baseTile (w : Word) : Nat := bitsOf 0 6 w
def basePT (w : Word) : Nat := bitsOf 8 8 w
def baseQueue (w : Word) : Nat := bitsOf 16 4 w
def basePri (w : Word) : Nat := bitsOf 20 2 w

/-- An integer element format: INT8 or INT4. -/
def intFmt (f : Nat) : Bool := f == 8 || f == 9
/-- A pair that accumulates in INT32 (R163). -/
def intPair (w : Word) : Bool := intFmt (cfgFA w) && intFmt (cfgFB w)

/-- A word 0 that `mcfg` accepts (R169). -/
def cfgOk (w : Word) : Bool :=
  match pairClass (cfgFA w) (cfgFB w) with
  | none => false
  | some (_, kb) =>
    1 ≤ cfgKB w && cfgKB w ≤ kb && (!cfgScb w || !(intFmt (cfgFB w) || cfgFB w == 10)) &&
      (cfgKB w ≤ 8 || cfgSel w / 2 ≠ 31) && bitsOf 25 39 w = 0 && bitsOf 22 2 w = 0 && bitsOf 13 3 w = 0

/-- A word 1 that `mcfg` accepts: reserved bits zero (R5, Table 6.3). -/
def baseOk (w : Word) : Bool := bitsOf 22 42 w = 0 && bitsOf 6 2 w = 0

/-- The writable bits of MXSTS (Table 6.4). -/
def stsMask : Word := 0x37

def State.putMxCtx (s : State) (cl n : Nat) (f : MxCtx → MxCtx) : State :=
  s.modCluster cl fun c => { c with mxe := { c.mxe with ctx := c.mxe.ctx.setIfInBounds n (f (c.mxe.ctx.toList.getD n MxCtx.reset)) } }

/-- Every lane of the issuing set retires. -/
def State.retireAll (s : State) : State := s.forLanes fun s k t => s.finish k t t

/-- `mcfg` (R189): word 0 and 1 whole, word 2 W1C, word 3 ignored. -/
def execMcfg (a : Reg) (c : Ctx) (i : BitVec 2) (s : State) : Out :=
  match s.lowest with
  | none => .next s
  | some (_, t) =>
    let v := readW t a
    let put (f : MxCtx → MxCtx) : State := (s.putMxCtx s.cur.cl c.toNat f).retireAll
    .next <| match i.toNat with
      | 0 => if cfgOk v then put fun x => { x with cfg := v } else s.illegal
      | 1 => if baseOk v then put fun x => { x with base := v } else s.illegal
      | 2 => if v &&& ~~~ stsMask = 0 then put fun x => { x with sts := x.sts &&& ~~~ v } else s.illegal
      | _ => s.retireAll

/-- `msel` (R188, R189): QUEUE and PRI, and MXSTS, UNITS and PASSES cleared. -/
def execMsel (a : Reg) (c : Ctx) (s : State) : Out :=
  match s.lowest with
  | none => .next s
  | some (_, t) =>
    let v := readW t a
    .next <| if bitsOf 6 58 v ≠ 0 then s.illegal
      else (s.putMxCtx s.cur.cl c.toNat fun x => { x with base := putBits x.base 16 6 v.toNat, sts := 0, cnt := 0 }).retireAll

/-- Commands of a context posted and not complete (Table 6.5). -/
def mxPending (m : Mxe) (n : Nat) : Nat :=
  ((m.table ++ m.running.map (·.cmd)).filter fun c => c.ctx == n).length

/-- MXCNT as it stands: BUSY and PEND are what is posted (Table 6.5). -/
def mxCount (m : Mxe) (n : Nat) (x : MxCtx) : Word :=
  let pend := mxPending m n
  putBit (putBits x.cnt 48 6 (min pend 63)) 63 (pend != 0)

/-- `mstat` (R193). -/
def execMstat (a : Reg) (c : Ctx) (i : BitVec 2) (s : State) : Out :=
  let x := mxCtx s c
  let v := match i.toNat with
    | 0 => x.cfg
    | 1 => x.base
    | 2 => x.sts
    | _ => mxCount (s.cluster s.cur.cl).mxe c.toNat x
  s.regOp fun t => setW t a v

/-! ### Posting (R168, R172, R173) -/

/-- A prefixed pair of formats that the class and the latched KB allow, with a selector they allow (R57, R190, R191). -/
def pfxOk (w : Word) (pass : Bool) : Bool :=
  match pairClass (cfgFA w) (cfgFB w) with
  | none => false
  | some (_, kb) => cfgKB w ≤ kb && (if pass then !(cfgSel w / 2 == 31 && cfgKB w > 8) else cfgSel w == 0)

/-- The words of a command: the latched configuration and base, then its b and a operands. -/
def mxWords (s : State) (c : Ctx) (b a : Word) : List Word :=
  [s.latchedCfg c, (mxCtx s c).base, b, a]

/-- A posted MXE command with operands by lane. -/
def State.postMxe (s : State) (fn : Nat) (c : Ctx) (t : Thread) (b a : Word) (ops : List (Nat × Word × Word))
    (scales : List (List Byte)) (dst : Reg) (busy : List RegRef) : State :=
  s.post 0 (engineCmd s fn c (mxWords s c b a) ops scales dst t) busy

/-- Operands of every lane of the set: lane, w[a], w[b]. -/
def laneOps (s : State) (a b : Reg) : List (Nat × Word × Word) :=
  s.curThreads.map fun x => (laneOf (keyCore x.1) (keyThr x.1), readW x.2 a, readW x.2 b)

/-- A pass of these formats reads a scale row of B (R171, R191). -/
def readsScale (w : Word) : Bool := cfgFB w == 10 || (cfgScb w && !intFmt (cfgFB w))

/-- `mlds` (R191). -/
def execMlds (a b : Reg) (c : Ctx) (s : State) : Out :=
  match s.lowest with
  | none => .next s
  | some (_, t) =>
    let w := s.latchedCfg c
    .next <| if s.cur.pfx.isSome && !pfxOk w false then s.illegal
      else if readsScale w == (b == 0) then s.illegal
      else s.postMxe 2 c t (readW t b) (readW t a) [] [] 0 []

def execMswp (c : Ctx) (s : State) : Out :=
  match s.lowest with
  | none => .next s
  | some (_, t) => .next (s.postMxe 3 c t 0 0 [] [] 0 [])

/-- The scale bytes of a lane's row, one for each K block (R172): read from the lane SEL names. -/
def scaleBytes (w : Word) (own lowest : Thread) : List Byte :=
  let t := if cfgSel w % 2 = 1 then lowest else own
  (List.range (cfgKB w)).map fun blk =>
    let f := readF t ((scaleRegs w).getD (blk / 8) 0)
    BitVec.ofNat 8 (f.toNat / 2 ^ (8 * (blk % 8)))

/-- A pass word within Table 6.9. -/
def passOk (w : Word) : Bool := bitsOf 13 51 w = 0 && bitsOf 7 1 w = 0

/-- What the stream rules make of the scale registers of a lane (R49, R51). -/
def scalePrep (w : Word) (t : Thread) : FPrep := fPrep t (scaleRegs w) none

/-- The scale registers of `mmas` under the stream rules, once for each lane that reads them (R49, R51, R172): a write-bound one is
refused; a lane whose element has not arrived, or has failed, parks or traps by itself, and the others go on as the set, unless it is
the lane that all share. (DEDUCED, log 69: unsafe.) -/
def State.withScales (s : State) (w : Word) (go : State → State) : State :=
  let lanes := scaleLanes s w
  let held := lanes.filter fun x => match scalePrep w x.2 with
    | .ok _ => false
    | _ => true
  if lanes.any fun x => scalePrep w x.2 == .illegal then s.trapAll 0x12
  else
    let s1 := lanes.foldl (fun s x => s.withF x.1 x.2 (scaleRegs w) none fun t => s.putThread x.1 t) s
    let rest := s1.cur.lanes.filter fun l => !held.any fun x => laneOf (keyCore x.1) (keyThr x.1) == l
    if held.isEmpty then go s1
    else if cfgSel w % 2 = 1 || rest.isEmpty then s1
    else go { s1 with cur := { s1.cur with lanes := rest } }

/-- A pass of `mma` or `mmas` posted for the issuing set (R190). -/
def postRows (a b : Reg) (c : Ctx) (scaled : Bool) (s : State) : State :=
  match s.lowest with
  | none => s
  | some (_, t) =>
    s.postMxe (if scaled then 5 else 4) c t (readW t b) 0 (laneOps s a b)
      (if scaled then s.curThreads.map fun x => scaleBytes (s.latchedCfg c) x.2 t else []) 0 []

/-- `mma` or `mmas` (R190): refused for N4 without scales, or integers with them, by the trap of where the format comes from. A full
table holds it before any scale element is taken. -/
def postPass (a b : Reg) (c : Ctx) (scaled : Bool) (s : State) : Out :=
  match s.lowest with
  | none => .next s
  | some (_, t) =>
    let w := s.latchedCfg c
    let refused := if scaled then intFmt (cfgFA w) else cfgFA w == 10
    .next <| if s.cur.pfx.isSome && !pfxOk w true then s.illegal
      else if refused then s.trapAll (if s.cur.pfx.isSome then 1 else 0x12)
      else if !passOk (readW t b) then s.illegal
      else if scaled && s.postRoom 0 then s.withScales w (postRows a b c true)
      else postRows a b c scaled s

def execMma (a b : Reg) (c : Ctx) (s : State) : Out := postPass a b c false s
def execMmas (a b : Reg) (c : Ctx) (s : State) : Out := postPass a b c true s

/-- `mzero` (R192). -/
def execMzero (b : Reg) (c : Ctx) (s : State) : Out :=
  match s.lowest with
  | none => .next s
  | some (_, t) =>
    .next <| if bitsOf 6 58 (readW t b) ≠ 0 then s.illegal else s.postMxe 6 c t (readW t b) 0 [] [] 0 []

/-- The format of a drain (Table 6.9, DF). -/
def drainDF (w : Word) : Nat := bitsOf 8 4 w
/-- Bytes of a drained row of 64 elements (R177). -/
def drainRow (df : Nat) : Nat :=
  match df with
  | 0 => 512
  | 1 => 256
  | 11 => 256
  | 2 => 128
  | 3 => 128
  | 9 => 32
  | _ => 64
/-- The pitch of a drain: PITCH, or the row length for 0 (R177). -/
def drainPitch (w : Word) : Nat := if bitsOf 32 16 w = 0 then drainRow (drainDF w) else bitsOf 32 16 w

/-- A drain word within Table 6.9 and R194, for `mdrn` (7), `mdrna` (8) and `mdrno` (9). -/
def drainOk (fn : Nat) (w : Word) : Bool :=
  let df := drainDF w
  let pitch := bitsOf 32 16 w
  let nsl := bitsOf 48 16 w
  let slice := bitsOf 16 16 w
  df ≠ 10 && df < 12 && bitsOf 15 1 w = 0 && bitsOf 6 1 w = 0 &&
    (pitch = 0 || (pitch % 32 = 0 && drainRow df ≤ pitch)) &&
    (if fn = 9 then nsl ≠ 0 && slice < nsl else nsl = 0 && slice = 0) &&
    (if fn = 7 then bitsOf 12 3 w ≤ 4 else bitsOf 12 3 w = 0 && bitsOf 7 1 w = 0)

/-- A drain (R194): the add-on forms require the tile's own format. -/
def postDrain (fn : Nat) (a b : Reg) (c : Ctx) (s : State) : Out :=
  match s.lowest with
  | none => .next s
  | some (_, t) =>
    let w := readW t b
    .next <| if !drainOk fn w then s.illegal
      else if fn ≠ 7 && drainDF w ≠ (if intPair (mxCtx s c).cfg then 11 else 1) then s.trapAll 0x12
      else s.postMxe fn c t w (readW t a) [] [] 0 []

def execMdrn (a b : Reg) (c : Ctx) (s : State) : Out := postDrain 7 a b c s
def execMdrna (a b : Reg) (c : Ctx) (s : State) : Out := postDrain 8 a b c s
def execMdrno (a b : Reg) (c : Ctx) (s : State) : Out := postDrain 9 a b c s

/-- An element word within Table 6.9. -/
def elementOk (w : Word) : Bool := bitsOf 21 43 w = 0 && bitsOf 13 3 w = 0 && bitsOf 6 2 w = 0

/-- `mrdr` and `mwrr` (R192): a lane whose element word is refused traps by itself. -/
def postElement (fn : Nat) (a b : Reg) (c : Ctx) (s : State) : Out :=
  .next <| s.trapLanes (fun t => !elementOk (readW t b)) 1 fun s =>
    match s.lowest with
    | none => s
    | some (_, t) => s.postMxe fn c t 0 0 (laneOps s a b) [] a (if fn = 10 then [.w a] else [])

def execMrdr (a b : Reg) (c : Ctx) (s : State) : Out := postElement 10 a b c s
def execMwrr (a b : Reg) (c : Ctx) (s : State) : Out := postElement 11 a b c s

end Sys2Proof.Machine
end

