-- ==== Sys2Proof/Machine/MxeRun.lean ====
section
/-! DEFINITION. The matrix engine's arbiter and the rows that complete or fail its commands (R164 to R186, R190 to R194). -/

namespace Sys2Proof.Machine

/-! ### Tiles (R165) -/

/-- AM key of element [i][j] of a tile of a cluster. -/
def tileKey (cl tile i j : Nat) : Nat := cl * 2 ^ 19 + tile * 8192 + (i * 64 + j) * 4
/-- Element [i][j] of a tile. -/
def tileWord (s : State) (cl tile i j : Nat) : Nat := leNat (memBytes s.am (span (tileKey cl tile i j) 4))
/-- Elements of a tile written: row, column, value. -/
def State.putTile (s : State) (cl tile : Nat) (es : List (Nat × Nat × Nat)) : State :=
  s.writeAm (es.flatMap fun e => (span (tileKey cl tile e.1 e.2.1) 4).zip (leBytes 4 e.2.2))

def cmdCfg (c : Cmd) : Word := c.words.getD 0 0
def cmdBase (c : Cmd) : Word := c.words.getD 1 0
def cmdB (c : Cmd) : Word := c.words.getD 2 0
def cmdA (c : Cmd) : Word := c.words.getD 3 0

def isPass (c : Cmd) : Bool := c.fn == 4 || c.fn == 5
def isDrain (c : Cmd) : Bool := c.fn == 7 || c.fn == 8 || c.fn == 9
/-- The array class of the arbiter: `mma`, `mmas` and `mswp` (R174). -/
def inArray (c : Cmd) : Bool := c.fn == 3 || isPass c

/-- The tile an operand's TOFF names for a command (R188). -/
def tileAt (c : Cmd) (w : Word) : Nat := (baseTile (cmdBase c) + bitsOf 0 6 w) % 64

/-- The tiles a command touches (R174). -/
def tilesOf (c : Cmd) : List Nat :=
  if c.fn = 2 ∨ c.fn = 3 then []
  else if c.fn = 10 ∨ c.fn = 11 then dedup (c.ops.map fun o => tileAt c o.2.2)
  else [tileAt c (cmdB c)]

/-- A granted command has not yet released a tile of another, which must wait for it (R174). -/
def tileHeld (m : Mxe) (c : Cmd) : Bool :=
  m.running.any fun r => !isDrain r.cmd && !(isPass r.cmd && isPass c) && (tilesOf r.cmd).any (tilesOf c).contains

/-- A tile of the command lies in a bank in neuron mode (R165). -/
def tileBarred (c : Cluster) (m : Cmd) : Bool :=
  (tilesOf m).any fun t => natBit 0 (c.enb.ctx[t / 4]?.getD EnbCtx.reset).ctl.toNat

/-! ### Budget (R164, R176) -/

/-- BUDCFG.REF and BUDCFG.CAP (R462). -/
def budRef (c : Cluster) : Nat := bitsOf 40 8 c.budcfg
def budCap (c : Cluster) : Nat := bitsOf 0 32 c.budcfg

/-- The budget level at a cycle: REF is added each cycle, up to CAP. (DEDUCED, log 30: unsafe.) -/
def levelNow (c : Cluster) (cyc : Nat) : Int := min (budCap c) (c.mxe.level + budRef c * (cyc - c.mxe.levelAt : Nat))

/-- Bits in which the first two 8-byte words of some bytes differ. -/
def toggles (raw : Nat) : Nat := (popCount (word raw ^^^ word (raw / 2 ^ 64))).toNat

/-- Bytes of the 32 × KB elements of a row. -/
def rowBytes (f : Fmt) (kb : Nat) : Nat := 32 * kb * fmtStride f / 8
/-- The format of a code that the context admits. -/
def fmtNo (n : Nat) : Fmt := (fmtOf (BitVec.ofNat 4 n)).getD .f32
/-- `n` elements packed in a number (R171). -/
def elementsOf (f : Fmt) (n raw : Nat) : List (BitVec 64) :=
  (List.range n).map fun k => BitVec.ofNat 64 (raw / 2 ^ (fmtStride f * k) % 2 ^ fmtStride f)

/-- The charge of a pass with the rows it read (R176). -/
def passCharge (w : Word) (raws : List Nat) (hB : Nat) : Nat :=
  let r := raws.length
  let hA := (raws.map toggles).sum / (8 * r)
  ((pairClass (cfgFA w) (cfgFB w)).getD (3, 1)).1 * r * (2 + hA + hB)

/-! ### Eligibility (R174, R183 to R185) -/

/-- What an ungranted entry stands at. -/
inductive Elig where
  /-- not eligible -/
  | no
  /-- eligible, with what it holds from its grant, its charge and its RLT entries -/
  | yes (r : Running) (charge : Nat) (rlt : List RltEntry)
  /-- it would fail at its grant: tile, plane (details 0x05 to 0x07) -/
  | bars (detail : Nat)
  /-- it waits for an access, with the state that waits -/
  | wait (s : State)
  /-- it fails ungranted: detail and faulting address -/
  | fail (detail : Nat) (va : Word)
  deriving DecidableEq, Repr

/-- The A rows of a pass: the row number and address of each lane (R190). -/
def passRows (c : Cmd) : List (Nat × Word) := c.ops.map fun o => (if c.gang then o.1 else bitsOf 8 5 (cmdB c), o.2.1)

/-- A plane a pass may use: its tag, B format and KB are the pass's (Table 6.7, 0x06). -/
def planeFits (c : Cmd) (p : Option Plane) : Bool :=
  p.any fun x => x.pt == basePT (cmdBase c) && x.fb == cfgFB (cmdCfg c) && x.kb == cfgKB (cmdCfg c)

/-- The raw bytes of every A row, or what stands in their way: of several that do, that of the first lane in order.
(DESIGN CHOICE, log 102: unsafe.) -/
def readRows (s : State) (cl : Nat) (c : Cmd) (n : Nat) : List (Nat × Word) → Except Elig (List (Nat × Nat))
  | [] => .ok []
  | (row, va) :: rest =>
    if va.toNat % min n 64 ≠ 0 then .error (.fail 1 va)
    else match s.agent cl (0, c.seq) c.asid c.sup .read va n with
      | .wait s1 => .error (.wait s1)
      | .refused x v => .error (.fail (engineDetail x) v)
      | .ok addrs => (readRows s cl c n rest).map fun l => (row, s.numAt addrs) :: l

/-- A pass reads its A rows before its grant, after its issuer's earlier accesses (R184, R228).
(DEDUCED, log 33: unsafe.) -/
def passElig (s : State) (cl : Nat) (c : Cmd) : Elig :=
  let m := (s.cluster cl).mxe
  let w := cmdCfg c
  let f := fmtNo (cfgFA w)
  if !issuerDone s c then .no
  else match readRows s cl c (rowBytes f (cfgKB w)) (passRows c) with
  | .error e => e
  | .ok raws =>
    if tileBarred (s.cluster cl) c then .bars 5
    else if !planeFits c m.active then .bars 6
    else .yes { runOf c with rows := raws.map fun x => (x.1, elementsOf f (32 * cfgKB w) x.2), plane := m.active }
      (passCharge w (raws.map (·.2)) ((m.active.map (·.hb)).getD 0)) []

/-- `mswp`: the last `mlds` granted has completed; the shadow plane holds the context's tag (R174, Table 6.7). -/
def swapElig (m : Mxe) (c : Cmd) : Elig :=
  if m.running.any fun r => m.lastLoad == some r.cmd.seq then .no
  else if m.shadow.any fun x => x.pt == basePT (cmdBase c) then .yes (runOf c) 0 []
  else .bars 7

/-- The ranges `mlds` reads: B, and the scale row where its format has one (R171, R191). -/
def planeRanges (c : Cmd) : List (Word × Nat) :=
  let w := cmdCfg c
  (cmdA c, 64 * rowBytes (fmtNo (cfgFB w)) (cfgKB w)) :: (if readsScale w then [(cmdB c, 64 * cfgKB w)] else [])

/-- The page-table lines of the walks of a command's ranges (R211). -/
def walkLines (s : State) (cl : Nat) (c : Cmd) (acc : Access) (l : List (Word × Nat)) : List Nat :=
  match s.partOf cl with
  | none => []
  | some (_, x) => dedup (l.flatMap fun e => match resolve s x c.asid c.sup acc e.1 with
    | .ok _ lines => lines
    | .bad _ _ _ => [])

/-- A command whose ranges lie at `place` is eligible when its issuer's earlier accesses are performed (R228), no write is still to change a
page-table line of its walks (R211), and the RLT has room (R183): from its grant its accesses are made where its translation placed them, so
that nothing but its own turn holds it (R184, R197). -/
def placedElig (s : State) (cl : Nat) (c : Cmd) (r : Running) (acc : Access) (ranges : List (Word × Nat)) (place : List (Nat × Nat))
    (runs : List (Nat × Nat)) : Elig :=
  let lines := walkLines s cl c acc ranges
  if !issuerDone s c || tableDirty s lines then .no
  else match rltTake (s.cluster cl) (rltEntries 0 c (acc == .write) (lineRuns runs)) with
    | none => .no
    | some rlt => .yes { r with place := place, lines := lines } 0 rlt

/-- The ranges a drain writes: one for each row (R177). -/
def drainRows (c : Cmd) : List (Word × Nat) :=
  (List.range 32).map fun i => (cmdA c + word (i * drainPitch (cmdB c)), drainRow (drainDF (cmdB c)))

/-- The ranges of a command as its place has them: the parts of an `mlds`'s that lie in one page each, or a drain's rows. -/
def placedRanges (c : Cmd) : List (Word × Nat) :=
  if c.fn = 2 then (planeRanges c).flatMap fun r => pagePieces r.1 r.2 else drainRows c

/-- `mlds` is granted once the whole of its ranges may be read: it waits ungranted for a fault and for an absent line, though R182 has it read
them after its grant. (DEDUCED, log 98: unsafe.) -/
def loadElig (s : State) (cl : Nat) (c : Cmd) : Elig :=
  match (planeRanges c).find? fun r => r.1.toNat % 64 ≠ 0 with
  | some r => .fail 1 r.1
  | none =>
    match s.agentAll cl (0, c.seq) c.asid c.sup .read (planeRanges c) with
    | .wait s1 => .wait s1
    | .refused x v => .fail (engineDetail x) v
    | .ok _ => match s.locate cl 0 c .read (placedRanges c) with
      | .wait s1 => .wait s1
      | .refused x v => .fail (engineDetail x) v
      | .ok place => placedElig s cl c (runOf c) .read (placedRanges c) place place

/-- The first byte and the length of a drain's extent (R177). -/
def drainExtent (c : Cmd) : Nat × Nat := ((cmdA c).toNat, drainPitch (cmdB c) * 31 + drainRow (drainDF (cmdB c)))

/-- A range lies within one 64 KiB page, one CSM bank or one LM (R177). -/
def withinUnit (a n : Nat) : Bool :=
  if a < windowBase then a / 65536 == (a + n - 1) / 65536
  else match spotOf a, spotOf (a + n - 1) with
    | some (.scratch cl o), some (.scratch cl' o') => cl == cl' && o / 0x20000 == o' / 0x20000
    | some (.lm cl k _), some (.lm cl' k' _) => cl == cl' && k == k'
    | some (.ctl cl _ _), some (.ctl cl' _ _) => cl == cl'
    | none, none => true
    | _, _ => false

/-- The address lies in a CSM bank in FIFO mode (R179). -/
def inFifoBank (s : State) (a : Nat) : Bool := match spotOf a with
  | some (.scratch cl o) => bankMode (s.cluster cl) (o / 0x20000) == 2
  | _ => false

/-- The first byte of every row of a drain, from the keys of all its bytes. -/
def rowKeys (c : Cmd) (addrs : List Nat) : List Nat :=
  (List.range 32).map fun i => addrs.getD (i * drainRow (drainDF (cmdB c))) 0

/-- A drain at the arbiter (R174, R177 to R179, R184). Of several conditions of Table 6.7 that hold, the first tested here names the detail; the
faulting address of one that is the extent's or its kind's is the destination's first. (DESIGN CHOICE, log 102: unsafe.) -/
def drainElig (s : State) (cl : Nat) (c : Cmd) : Elig :=
  let (a, n) := drainExtent c
  if a % 32 ≠ 0 then .fail 1 (cmdA c)
  else if !withinUnit a n then .fail 2 (cmdA c)
  else if inFifoBank s a then .fail 9 (cmdA c)
  else match s.agentAll cl (0, c.seq) c.asid c.sup .write (drainRows c) with
    | .wait s1 => .wait s1
    | .refused x v => .fail (engineDetail x) v
    | .ok addrs =>
      let key := addrs.headD 0
      if c.fn ≠ 7 ∧ hostSpace ≤ key then .fail 9 (cmdA c)
      else
        let t := tileAt c (cmdB c)
        let r := { runOf c with tile := (List.range 2048).map fun x => BitVec.ofNat 32 (tileWord s cl t (x / 64) (x % 64)) }
        match placedElig s cl c r .write (drainRows c) ((rowKeys c addrs).map fun k => (k, drainRow (drainDF (cmdB c)))) [(key, n)] with
        | .yes r charge rlt =>
          if tileBarred (s.cluster cl) c then .bars 5
          else match badAm s (tileKey cl t 0 0) 8192 with
            | some b => .wait (s.containBad (s.partNo cl) cl 31 b 0)
            | none => .yes r charge rlt
        | e => e

/-- An entry's standing: `earlier` are the entries posted before it (R174). -/
def mxEligible (s : State) (cl : Nat) (earlier : List Cmd) (c : Cmd) : Elig :=
  let m := (s.cluster cl).mxe
  if earlier.any (fun e => e.issuer == c.issuer) || tileHeld m c then .no
  else if isPass c then passElig s cl c
  else if c.fn = 3 then swapElig m c
  else if c.fn = 2 then loadElig s cl c
  else if isDrain c then drainElig s cl c
  else if tileBarred (s.cluster cl) c then .bars 5
  else .yes (runOf c) 0 []

/-- The entries of a class with their standing, oldest first. -/
def standings (s : State) (cl : Nat) (array : Bool) : List (Cmd × Elig) :=
  let table := (s.cluster cl).mxe.table
  ((indexed table).filter fun x => inArray x.2 == array).map fun x => (x.2, mxEligible s cl (table.take x.1) x.2)

def atArbiter : Elig → Bool
  | .yes _ _ _ => true
  | .bars _ => true
  | _ => false

/-- The arbiter's choice in a class: an entry posted 2,048 cycles ago or more, else by PRI, QCHG and age (R174). -/
def choice (s : State) (cl : Nat) (array : Bool) : Option (Cmd × Elig) :=
  let es := (standings s cl array).filter fun e => atArbiter e.2
  match es.find? fun e => e.1.posted + 2048 ≤ s.cyc with
  | some e => some e
  | none =>
    let q := (s.cluster cl).mxe.qchg
    leastBy (fun e : Cmd × Elig => (3 - basePri (cmdBase e.1)) * 2 ^ 64 + q.toList.getD (baseQueue (cmdBase e.1)) 0) es

/-- A grant (R174): the entry leaves the table; a pass is charged and takes the array input; `mswp` exchanges the planes. -/
def State.grantMxe (s : State) (cl : Nat) (c : Cmd) (r : Running) (charge : Nat) (rlt : List RltEntry) : State :=
  let s1 := s.modCluster cl fun x =>
    let m := x.mxe
    let q := baseQueue (cmdBase c)
    let m1 := { m with table := m.table.erase c, running := m.running ++ [r] }
    let m2 := if isPass c then
        { m1 with
          level := levelNow x s.cyc - charge
          levelAt := s.cyc
          qchg := m.qchg.setIfInBounds q (m.qchg.toList.getD q 0 + charge)
          inputFree := s.cyc + c.ops.length }
      else if c.fn = 3 then { m1 with active := m.shadow, shadow := m.active }
      else if c.fn = 2 then { m1 with lastLoad := some c.seq }
      else m1
    { x with mxe := m2, rlt := x.rlt ++ rlt }
  if isPass c then s1.putMxCtx cl c.ctx fun x => { x with cnt := putBits x.cnt 0 32 (bitsOf 0 32 x.cnt + charge) } else s1

/-- A pass's A rows that lie in host memory or another device are asked for there, row by row (R378, R450, R454). -/
def State.passReads (s : State) (cl : Nat) (c : Cmd) : State :=
  if !isPass c then s
  else (passRows c).foldl (fun u x =>
    match s.agent cl (0, c.seq) c.asid c.sup .read x.2 (rowBytes (fmtNo (cfgFA (cmdCfg c))) (cfgKB (cmdCfg c))) with
    | .ok addrs => (u.agentReads cl addrs).agentWalks cl c.asid c.sup .read [(x.2, rowBytes (fmtNo (cfgFA (cmdCfg c))) (cfgKB (cmdCfg c)))]
    | _ => u) s

/-- The arbiter acts in a class (R174): 0 the array class, 1 the port class. A translation fault of an entry's access is
entered first (R184), and bad data that one meets is contained (R438). At a stop nothing is granted (R197). -/
def execMxeGrant (cl cls : Nat) (s : State) : Out :=
  if !clusterRuns s cl then .next s
  else
    let faulted := (standings s cl (cls == 0)).findSome? fun e => match e.2 with
      | .wait s1 => if newFault s s1 cl then some s1 else none
      | _ => none
    match faulted with
    | some s1 => .next s1
    | none =>
      let x := s.cluster cl
      match choice s cl (cls == 0) with
      | some (c, .yes r charge rlt) =>
        if cls == 0 && s.cyc < x.mxe.inputFree then .next s
        else if isPass c && levelNow x s.cyc < min charge (budCap x) then .next s
        else .next (((s.passReads cl c).walkReads cl r.lines).grantMxe cl c r charge rlt)
      | _ => .next s

/-! ### Passes (R130 to R132, R190) -/

/-- A value times 2^k. -/
def shiftVal (v : Val) (k : Int) : Val :=
  match v with
  | .fin n m e => .fin n m (e + k)
  | v => v

/-- One block of R130: acc := RoundFP32(acc + RoundFP32(sum × 2^k)), with the flags of both roundings.
(DEDUCED, log 34: unsafe.) -/
def blockStep (xs ys : List Val) (k : Int) (acc : Nat) : Rounded :=
  let d := dotExact 0 xs ys (.fin true 0 0)
  let r1 := roundTo .f32 0 0 false 0 (shiftVal d.val k)
  let e := addV 0 (valueOf .f32 0 acc) (valueOf .f32 0 r1.bits)
  let r2 := roundTo .f32 0 0 false 0 e.val
  ⟨r2.bits, orFlags (orFlags d.flags r1.flags) (orFlags e.flags r2.flags)⟩

/-- What a pass multiplies: its formats, its blocks, the bytes that scale A and B by block. -/
structure PassShape where
  fa : Fmt
  fb : Fmt
  kb : Nat
  deriving DecidableEq, Repr

def shapeOf (w : Word) : PassShape := { fa := fmtNo (cfgFA w), fb := fmtNo (cfgFB w), kb := cfgKB w }

/-- The exponent a scale byte adds, none where the byte is an N4 block's own (R172). -/
def extraScale (f : Fmt) (b : Option Byte) : Int :=
  match b with
  | some x => if f = .n4 then 0 else (natField 0 6 x.toNat : Int) - 32
  | none => 0

/-- An element of a floating-point pass (R130): `a` the row, `col` the column of B, scale bytes by block. -/
def floatElement (p : PassShape) (a col : List (BitVec 64)) (sa sb : Nat → Option Byte) (acc : Nat) : Rounded :=
  (List.range p.kb).foldl (fun (r : Rounded) blk =>
    let part (l : List (BitVec 64)) (f : Fmt) (b : Option Byte) : List Val :=
      ((l.drop (32 * blk)).take 32).map fun x => valueOf f ((b.map (·.toNat)).getD 0) x.toNat
    let step := blockStep (part a p.fa (sa blk)) (part col p.fb (sb blk)) (extraScale p.fa (sa blk) + extraScale p.fb (sb blk)) r.bits
    ⟨step.bits, orFlags r.flags step.flags⟩) ⟨acc, noFlags⟩

/-- An integer's value. -/
def intOf (f : Fmt) (x : Nat) : Int :=
  match intValue (fmtBits f) x with
  | .fin neg m _ => if neg then -(m : Int) else m
  | _ => 0

/-- An element of an integer pass (R132). -/
def intElement (p : PassShape) (a col : List (BitVec 64)) (acc : Nat) : Nat :=
  let sum := ((a.zip col).map fun x => intOf p.fa x.1.toNat * intOf p.fb x.2.toNat).sum
  (((acc : Int) + sum) % 2 ^ 32).toNat

/-- Column j of a plane. -/
def planeColumn (p : Plane) (j : Nat) : List (BitVec 64) := (List.range (32 * p.kb)).map fun k => p.b.getD (64 * k + j) 0

/-- The rows a pass writes, with the flags it meets. -/
def passResult (s : State) (cl : Nat) (r : Running) (p : Plane) : List (Nat × Nat × Nat) × Flags :=
  let c := r.cmd
  let sh := shapeOf (cmdCfg c)
  let t := tileAt c (cmdB c)
  let zero := natBit 6 (cmdB c).toNat
  let one (i j : Nat) : Rounded :=
    let row := (r.rows.getD i (0, [])).1
    let a := (r.rows.getD i (0, [])).2
    let acc := if zero then 0 else tileWord s cl t row j
    let col := planeColumn p j
    if intPair (cmdCfg c) then ⟨intElement sh a col acc, noFlags⟩
    else floatElement sh a col (fun blk => (c.scales.getD i [])[blk]?) (fun blk => p.scale.bind fun l => l[64 * blk + j]?) acc
  let all := (List.range r.rows.length).flatMap fun i => (List.range 64).map fun j => ((r.rows.getD i (0, [])).1, j, one i j)
  (all.map fun x => (x.1, x.2.1, x.2.2.bits), all.foldl (fun f x => orFlags f x.2.2.flags) noFlags)

/-- The running command a row names, while its cluster's granted work goes on. -/
def mxRunning (s : State) (cl i : Nat) : Option Running :=
  if clusterFinishes s cl then (s.cluster cl).mxe.running[i]? else none

/-- A command leaves the engine complete: its RLT entries are released and tl falls (R173, R183). -/
def State.endMxe (s : State) (cl i : Nat) (c : Cmd) : State :=
  ((s.modCluster cl fun x => { x with mxe := { x.mxe with running := dropAt x.mxe.running i } }).unlock cl 0 c).lowerTl c

/-- Conditions recorded in MXSTS (R168). -/
def State.mxFlags (s : State) (cl n : Nat) (f : Flags) : State :=
  s.putMxCtx cl n fun x => { x with sts := x.sts ||| (flagBits f &&& stsMask) }

/-- A pass completes, in the order of the grants of passes (R164, R166, R190). -/
def execMxePassComplete (cl i : Nat) (s : State) : Out :=
  match mxRunning s cl i with
  | none => .next s
  | some r =>
    match r.plane with
    | none => .next s
    | some p =>
      if !isPass r.cmd || ((s.cluster cl).mxe.running.take i).any (fun x => isPass x.cmd) then .next s
      else .next <| s.guardAm cl (tileKey cl (tileAt r.cmd (cmdB r.cmd)) 0 0) (if natBit 6 (cmdB r.cmd).toNat then 0 else 8192) <|
        let res := passResult s cl r p
        let s1 := (s.putTile cl (tileAt r.cmd (cmdB r.cmd)) res.1).mxFlags cl r.cmd.ctx res.2
        let s2 := s1.putMxCtx cl r.cmd.ctx fun x => { x with cnt := putBits x.cnt 32 16 (bitsOf 32 16 x.cnt + 1) }
        s2.endMxe cl i r.cmd

/-! ### Plane loads and tile commands (R170, R171, R191, R192) -/

/-- The plane `mlds` forms of the bytes it read. -/
def planeOf (c : Cmd) (raw : Nat) (scale : List Byte) : Plane :=
  let w := cmdCfg c
  { b := elementsOf (fmtNo (cfgFB w)) (64 * 32 * cfgKB w) raw, fb := cfgFB w, kb := cfgKB w, pt := basePT (cmdBase c)
    scale := if readsScale w then some scale else none, hb := toggles raw / 8 }

/-- The keys of the bytes of a granted command's place, in order. -/
def placeKeys (r : Running) : List Nat := r.place.flatMap fun p => span p.1 p.2

/-- The cluster without a running command of its matrix engine. -/
def State.withoutMxe (s : State) (cl i : Nat) : State :=
  s.modCluster cl fun x => { x with mxe := { x.mxe with running := dropAt x.mxe.running i } }

/-- What another device, or a line whose copy has failed, refuses a granted command since its grant: cause and address (R184, R185, R378). -/
def placeRefused (s : State) (cl : Nat) (r : Running) : Option (Nat × Word) :=
  ((placedRanges r.cmd).zip r.place).findSome? fun e =>
    if farRefused s (s.partNo cl) e.2.1 (r.cmd.fn != 2) then some (4, e.1.1)
    else if r.cmd.fn != 2 then none
    else match presenceCheck s e.1.1 (span e.2.1 e.2.2) with
      | some (.trap c v) => some (c, v)
      | _ => none

/-- The keys of the i-th running command's bytes when they may be read or written now, where its translation placed them (R184): a page that is
racked, an absent line, and page-table lines by which an access of another is still to be performed are waited for (R209, R211, R212), and bad data
and links that are down are contained (R438, R440). A drain that adds reads its destination too. -/
def placeReady (s : State) (cl i : Nat) (r : Running) : Agent :=
  let c := r.cmd
  let keys := placeKeys r
  let write := c.fn != 2
  if (rackedFrame s keys).isSome || (placeRefused s cl r).isSome then .wait s
  else if let some key := linkHeld s write keys then .wait (s.containLink (s.partNo cl) cl 31 key 0)
  else if write && tableHeld (s.withoutMxe cl i) keys then .wait s
  else if !write && (presenceCheck s 0 keys).isSome then .wait s
  else match (if c.fn = 7 then none else badAmong s keys) with
    | some b => .wait (s.containBad (s.partNo cl) cl 31 b 0)
    | none => .ok keys

/-- `mlds` completes once its bytes are read and no pass granted on the plane it replaces is running (R170). -/
def execMxePlaneLoadComplete (cl i : Nat) (s : State) : Out :=
  match mxRunning s cl i with
  | none => .next s
  | some r =>
    let c := r.cmd
    let m := (s.cluster cl).mxe
    if c.fn ≠ 2 ∨ m.running.any (fun x => isPass x.cmd && x.plane == m.shadow) then .next s
    else match placeReady s cl i r with
      | .wait s1 => .next s1
      | .refused _ _ => .next s
      | .ok addrs =>
        let n := ((planeRanges c).headD (0, 0)).2
        let p := planeOf c (s.numAt (addrs.take n)) ((addrs.drop n).map s.byteAt)
        .next (((s.farRequest (s.partNo cl) 0 addrs []).modCluster cl fun x =>
          { x with mxe := { x.mxe with shadow := some p } }).endMxe cl i c)

/-- The row, and the column of the lower element, an element word names (R188, R192). -/
def elementRow (c : Cmd) (lane : Nat) (w : Word) : Nat := if c.gang then lane else bitsOf 8 5 w
def elementCol (w : Word) : Nat := 2 * bitsOf 16 5 w

/-- `mrdr` writes its register in every lane (R192). -/
def State.readElements (s : State) (cl : Nat) (c : Cmd) : State :=
  c.ops.foldl (fun st o =>
    let i := elementRow c o.1 o.2.2
    let j := elementCol o.2.2
    let t := tileAt c o.2.2
    let v := word (tileWord s cl t i (j + 1) * 2 ^ 32 + tileWord s cl t i j)
    match st.thread (laneKey c o.1) with
    | some th => st.putThread (laneKey c o.1) (unBusy (setW th c.dst v) [.w c.dst])
    | none => st) s

/-- `mzero`, `mrdr`, `mwrr` or `mswp` completes (R191, R192). -/
def execMxeTileOpComplete (cl i : Nat) (s : State) : Out :=
  match mxRunning s cl i with
  | none => .next s
  | some r =>
    let c := r.cmd
    match c.fn with
    | 3 => .next (s.endMxe cl i c)
    | 6 => .next ((s.putTile cl (tileAt c (cmdB c)) ((List.range 2048).map fun x => (x / 64, x % 64, 0))).endMxe cl i c)
    | 10 => .next <| c.ops.foldr (fun o f => s.guardAm cl (tileKey cl (tileAt c o.2.2) (elementRow c o.1 o.2.2) (elementCol o.2.2)) 8 f)
        ((s.readElements cl c).endMxe cl i c)
    | 11 =>
      let s1 := c.ops.foldl (fun s o =>
        let i := elementRow c o.1 o.2.2
        let j := elementCol o.2.2
        s.putTile cl (tileAt c o.2.2) [(i, j, o.2.1.toNat % 2 ^ 32), (i, j + 1, o.2.1.toNat / 2 ^ 32)]) s
      .next (s1.endMxe cl i c)
    | _ => .next s

/-! ### Drains and reductions (R177 to R181) -/

/-- An element of a tile drained in a format: RoundToFormat, or the bits themselves where the format is the tile's own (R178). -/
def drainElement (w cfg : Word) (x : Nat) : Rounded :=
  let src : Fmt := if intPair cfg then .i32 else .f32
  let df := fmtNo (drainDF w)
  if df = src then ⟨x, noFlags⟩ else roundTo df 0 (bitsOf 12 3 w) (natBit 7 w.toNat) 0 (valueOf src 0 x)

/-- A row of a drain as bytes, with its flags. -/
def drainBytes (w cfg : Word) (row : List (BitVec 32)) : List Byte × Flags :=
  let f := fmtNo (drainDF w)
  let es := row.map fun x => drainElement w cfg x.toNat
  (leBytes (drainRow (drainDF w)) ((es.zip (List.range 64)).map fun x => x.1.bits * 2 ^ (fmtStride f * x.2)).sum,
    es.foldl (fun f x => orFlags f x.flags) noFlags)

def tileRow (tile : List (BitVec 32)) (i : Nat) : List (BitVec 32) := (tile.drop (64 * i)).take 64

/-- A tile added into memory, as one update (R133, R179). -/
def State.addTile (s : State) (int : Bool) (rows : List Nat) (tile : List (BitVec 32)) : State :=
  s.writeCells ((List.range 32).flatMap fun i =>
    ((indexed (tileRow tile i)).flatMap fun e =>
      let addrs := span (rows.getD i 0 + 4 * e.1) 4
      let old := s.numAt addrs
      addrs.zip (leBytes 4 (if int then old + e.2.toNat else atomicFAdd .f32 old e.2.toNat))))

/-- A running `mdrno`'s mark: applied, or staged (R180). -/
def State.markDrain (s : State) (cl seq : Nat) (applied : Bool) : State :=
  s.modCluster cl fun x => { x with mxe := { x.mxe with running := x.mxe.running.map fun (r : Running) =>
    if r.cmd.seq = seq then { r with done := if applied then 1 else r.done, staged := true } else r } }

/-- A staged contribution may not be applied yet: it would change a page-table line by which an access is still to be performed (R211), or
meets bad data or a host that does not answer (R438, R452). -/
def heldRows (s : State) (c : Contribution) : Bool :=
  let addrs := c.rows.flatMap fun a => span a 256
  tableHeld s addrs || snoopDown s addrs || (badAmong s addrs).isSome

/-- Staged contributions applied while the next slice is among them (R180). -/
def State.applyStaged (s : State) (d : Nat) : Nat → State
  | 0 => s
  | n + 1 =>
    match mget s.reductions d with
    | none => s
    | some x =>
      if x.next = x.n then { s with reductions := mdel s.reductions d }
      else match x.staged.find? fun c => c.slice == x.next with
        | none => s
        | some c =>
          if heldRows s c then s
          else
            let s1 := (s.addTile c.int c.rows c.tile).markDrain c.cl c.seq true
            { s1 with reductions := mset s1.reductions d { x with next := x.next + 1, staged := x.staged.erase c } }.applyStaged d n

/-- What is staged anywhere is applied as far as its turn has come. -/
def State.applyAll (s : State) : State := s.reductions.foldl (fun s e => s.applyStaged e.1 (e.2.n + 1)) s

/-- The home slice of a byte of device memory: one of its partition's (R375). -/
def homeOf (s : State) (a : Nat) : Option Nat :=
  (s.parts.find? fun e => e.2.granules.contains (a / 2 ^ 30)).map fun e => homeSliceOf e.2 (a / 65536)

/-- Two keys have one coherence point (R7, R181, R375): the home slice of both pages, the bank, or the LM. (Free, log 35: safe.) -/
def samePoint (s : State) (a b : Nat) : Bool :=
  if a < windowBase && b < windowBase then (homeOf s a).isSome && homeOf s a == homeOf s b
  else match spotOf a, spotOf b with
    | some (.scratch c o), some (.scratch c' o') => c == c' && o / 0x20000 == o' / 0x20000
    | some (.lm c k _), some (.lm c' k' _) => c == c' && k == k'
    | _, _ => false

/-- Contributions staged in the own storage of a key's coherence point. -/
def stagedAt (s : State) (d : Nat) : Nat :=
  ((s.reductions.filter fun e => samePoint s e.1 d).map fun e => (e.2.staged.filter fun c => !c.area).length).sum

/-- The writes of a drain are performed, or its contribution has been applied: it completes (R178 to R181). At a stop a staged
contribution completes its drain (R197). What is staged and had to wait is applied. -/
def execMxeDrainComplete (cl i : Nat) (s : State) : Out :=
  match mxRunning s cl i with
  | none => .next s
  | some r =>
    let c := r.cmd
    if c.fn = 9 then
      if r.done = 1 || (r.staged && !clusterRuns s cl) then .next (s.endMxe cl i c) else .next s.applyAll
    else if !isDrain c then .next s
    else match placeReady s cl i r with
      | .wait s1 => .next s1
      | .refused _ _ => .next s
      | .ok addrs =>
        if c.fn = 8 then .next ((s.addTile (intPair (cmdCfg c)) (rowKeys c addrs) r.tile).endMxe cl i c)
        else
          let rows := (List.range 32).map fun k => drainBytes (cmdB c) (cmdCfg c) (tileRow r.tile k)
          let s1 := s.writeFrom cl (addrs.zip (rows.flatMap (·.1)))
          .next ((s1.mxFlags cl c.ctx (rows.foldl (fun f x => orFlags f x.2) noFlags)).endMxe cl i c)

/-- Contributions staged in a partition's area (R181). -/
def stagedInArea (s : State) (part : Nat) : Nat :=
  (s.reductions.map fun e => (e.2.staged.filter fun c => c.area && s.partNo c.cl == part).length).sum

/-- A command that has failed leaves the engine with its issuer's later ungranted commands (R186). -/
def State.failMxe (s : State) (cl : Nat) (c : Cmd) (detail : Nat) (va : Word) : State :=
  let later := (s.cluster cl).mxe.table.filter fun e => e.issuer == c.issuer && c.seq < e.seq
  let gone := c :: later
  let s1 := s.modCluster cl fun x => { x with mxe := { x.mxe with
    table := x.mxe.table.filter fun e => !gone.contains e
    running := x.mxe.running.filter fun r => r.cmd != c } }
  let s2 := gone.foldl (fun s e => (s.unlock cl 0 e).lowerTl e) s1
  let s3 := gone.foldl (fun s e => if e.fn = 10 then s.clearBusy e (e.ops.map fun o => laneKey e o.1) else s) s2
  s3.defer c (cmdKeys gone) 0 detail va

/-- An ordered drain's contribution arrives at its destination (R180, R181); with none on its way, what is staged and had to wait is
applied. The faulting address of a conflict, and of a staging area that is full, is the destination's first. (DESIGN CHOICE, log 102: unsafe.) -/
def execMdrnoContributionArrival (cl i : Nat) (s : State) : Out :=
  match mxRunning s cl i with
  | none => .next s.applyAll
  | some r =>
    let c := r.cmd
    let n := bitsOf 48 16 (cmdB c)
    let slice := bitsOf 16 16 (cmdB c)
    if c.fn ≠ 9 || r.staged then .next s
    else match placeReady s cl i r with
      | .wait s1 => .next s1
      | .refused _ _ => .next s
      | .ok addrs =>
        let d := addrs.headD 0
        let x := (mget s.reductions d).getD { n := n, next := 0, staged := [] }
        let full := slice ≠ x.next && Config.stagedHere ≤ stagedAt s d
        let me : Contribution :=
          { slice := slice, int := intPair (cmdCfg c), rows := rowKeys c addrs, tile := r.tile, cl := cl, seq := c.seq, area := full }
        if n ≠ x.n ∨ slice < x.next ∨ x.staged.any (fun e => e.slice == slice) then .next (s.failMxe cl c 8 (cmdA c))
        else if full && Config.stagingRoom ≤ stagedInArea s (s.partNo cl) then
          .next ({ s with reductions := mset s.reductions d x }.failMxe cl c 0x0A (cmdA c))
        else
          let s1 := (s.markDrain cl c.seq false)
          .next ({ s1 with reductions := mset s1.reductions d { x with staged := x.staged ++ [me] } }.applyStaged d (x.n + 1))

/-- A command that can go no further fails (R185, R186): an entry of the table by its place, or a running command after them.
One that would fail at its grant does so when the arbiter chooses it. -/
def execMxeCommandFail (cl i : Nat) (s : State) : Out :=
  let m := (s.cluster cl).mxe
  if !clusterFinishes s cl then .next s
  else match m.table[i]? with
    | some c =>
      if !clusterRuns s cl then .next s
      else match mxEligible s cl (m.table.take i) c with
        | .fail detail va => .next (s.failMxe cl c detail va)
        | .bars detail => if (choice s cl (inArray c)).any fun e => e.1 == c then .next (s.failMxe cl c detail 0) else .next s
        | _ => .next s
    | none =>
      match m.running[i - m.table.length]? with
      | none => .next s
      | some r =>
        match (if r.staged then none else placeRefused s cl r) with
        | some (x, v) => .next (s.failMxe cl r.cmd (engineDetail x) v)
        | none => .next s

end Sys2Proof.Machine
end

