-- ==== Sys2Proof/Machine/Enb.lean ====
section
/-! DEFINITION. The event neuron banks: opcode 0x40, engine 2 (R341 to R360): contexts, the command queue, events, ticks. -/

namespace Sys2Proof.Machine

/-! ### Contexts (R341, R342) -/

def enbCtx (s : State) (cl n : Nat) : EnbCtx := (s.cluster cl).enb.ctx[n]?.getD EnbCtx.reset
def State.modEnb (s : State) (cl : Nat) (f : Enb → Enb) : State := s.modCluster cl fun c => { c with enb := f c.enb }
def State.putEnbCtx (s : State) (cl n : Nat) (f : EnbCtx → EnbCtx) : State :=
  s.modEnb cl fun e => { e with ctx := e.ctx.setIfInBounds n (f (e.ctx.toList.getD n EnbCtx.reset)) }

/-- NCTL.NM -/
def ctlNM (w : Word) : Bool := natBit 0 w.toNat
/-- Bank n of a cluster is in neuron mode. -/
def neuronMode (c : Cluster) (n : Nat) : Bool := ctlNM (c.enb.ctx[n]?.getD EnbCtx.reset).ctl
/-- The banks of a cluster in neuron mode. -/
def neuronBanks (c : Cluster) : List Nat := (List.range 16).filter (neuronMode c)

/-- A 32-bit field as a signed number. -/
def signed32 (n : Nat) : Int := if n % 2 ^ 32 < 2 ^ 31 then (n % 2 ^ 32 : Nat) else (n % 2 ^ 32 : Nat) - 2 ^ 32
/-- A number modulo 2^32. -/
def mod32 (z : Int) : Nat := (z % 2 ^ 32).toNat

def ctlREST (w : Word) : Int := signed32 (bitsOf 32 32 w)
def levTHR (w : Word) : Int := signed32 (bitsOf 0 32 w)

/-- A write of a context word that R342 does not refuse as illegal. -/
def enbWordOk (x : EnbCtx) (i : Nat) (v : Word) : Bool :=
  match i with
  | 0 => bitsOf 1 3 v = 0 && bitsOf 4 4 v ≠ 0 && ctlREST v < levTHR x.lev
  | 1 => ctlREST x.ctl < levTHR v
  | 2 => bitsOf 56 8 v = 0 && bitsOf 0 3 v = 0
  | _ => bitsOf 4 60 v = 0

/-- The calendar bank of a context (R342). -/
def calBank (x : EnbCtx) : Nat := bitsOf 0 4 x.cal

/-- A CSM bank may not become bank n's calendar: not in scratch mode, or another's (R342). -/
def calBarred (c : Cluster) (n : Nat) : Bool :=
  let b := calBank (c.enb.ctx[n]?.getD EnbCtx.reset)
  bankMode c b ≠ 1 || bankBusy c b ||
    (neuronBanks c).any fun m => m != n && calBank (c.enb.ctx[m]?.getD EnbCtx.reset) == b

/-- A context word replaced; word 2 keeps the address space it was written in. -/
def putEnbWord (x : EnbCtx) (i : Nat) (v : Word) (t : Thread) : EnbCtx :=
  match i with
  | 0 => { x with ctl := v }
  | 1 => { x with lev := v }
  | 2 => { x with fob := v, asid := t.asid, sup := xsSUP t.xstat }
  | _ => { x with cal := v }

/-- `ncfg` (R342): a write that changes NM is posted, any other acts at retirement. -/
def execNcfg (a : Reg) (c : Ctx) (i : BitVec 2) (s : State) : Out :=
  match s.lowest with
  | none => .next s
  | some (_, t) =>
    let v := readW t a
    let n := c.toNat
    let x := enbCtx s s.cur.cl n
    let changes := i.toNat = 0 ∧ ctlNM v ≠ ctlNM x.ctl
    .next <| if !enbWordOk x i.toNat v then s.illegal
      else if 2 ≤ i.toNat ∧ ctlNM x.ctl then s.trapAll 0x12
      else if changes then
        if ctlNM v && calBarred (s.cluster s.cur.cl) n then s.trapAll 0x12
        else s.post 2 (engineCmd s 0 c [v] [] [] 0 t) []
      else (s.putEnbCtx s.cur.cl n fun x => putEnbWord x i.toNat v t).retireAll

/-! ### Posting (R355 to R357, R359) -/

/-- A register that a posted command writes in its lowest lane alone is waited for there (R355, R356). -/
def State.busyLowest (s : State) (before : State) (k : Nat) (a : Reg) : State :=
  if s.nextSeq = before.nextSeq then s
  else match s.thread k with
    | some t => s.putThread k (addBusy t [.w a])
    | none => s

/-- A load word within its limits (R357). -/
def loadWordOk (w : Word) : Bool :=
  let count := bitsOf 16 12 w
  bitsOf 11 5 w = 0 && bitsOf 28 36 w = 0 && 1 ≤ count && count ≤ 2048 && bitsOf 0 11 w + count ≤ 2048

/-- `nld` (R357). -/
def execNld (a b : Reg) (c : Ctx) (s : State) : Out :=
  match s.lowest with
  | none => .next s
  | some (_, t) =>
    .next <| if !loadWordOk (readW t b) then s.illegal else s.post 2 (engineCmd s 1 c [readW t a, readW t b] [] [] 0 t) []

/-- `nrd` (R359); words: the selector and the operand imm. -/
def execNrd (a b : Reg) (c : Ctx) (i : BitVec 2) (s : State) : Out :=
  match s.lowest with
  | none => .next s
  | some (k, t) => .next ((s.post 2 (engineCmd s 4 c [readW t b, i.setWidth 64] [] [] a t) []).busyLowest s k a)

/-- `nspk` (R359). -/
def execNspk (a b : Reg) (c : Ctx) (s : State) : Out :=
  match s.lowest with
  | none => .next s
  | some (k, t) => .next ((s.post 2 (engineCmd s 5 c [readW t b] [] [] a t) []).busyLowest s k a)

/-! ### Events (R345, R346, R358) -/

def evCLU (w : Word) : Nat := bitsOf 31 9 w
def evBANK (w : Word) : Nat := bitsOf 27 4 w
def evNEUR (w : Word) : Nat := bitsOf 16 11 w
/-- The weight as it enters a Q16.16 sum: SignExtend(WT) × 2^8. -/
def evInput (w : Word) : Int := (if natBit 15 w.toNat then (bitsOf 0 16 w : Int) - 2 ^ 16 else (bitsOf 0 16 w : Int)) * 2 ^ 8

/-- A destination cluster of the partition that owns cluster `cl`. -/
def eventInside (s : State) (cl dst : Nat) : Bool :=
  dst < Config.clusters && ((s.partOf cl).any fun p => p.2.halfDies.getLsbD (halfDieOf dst))

/-- A count of a vector raised by one. -/
def bump (v : Vector Nat 16) (i : Nat) : Vector Nat 16 := v.setIfInBounds (i % 16) (v.toList.getD (i % 16) 0 + 1)

/-- `ninj` (R358): checked at its source, then sent, with SENT and tl raised. -/
def execNinj (a b : Reg) (s : State) : Out :=
  match s.lowest with
  | none => .next s
  | some (_, t) =>
    let w0 := readW t a
    let w1 := readW t b
    let cl := s.cur.cl
    let e := (s.cluster cl).enb
    let tick := signed32 (bitsOf 0 32 w1)
    let bad := bitsOf 63 1 w0 ≠ 0 || bitsOf 40 23 w0 ≠ 0 || bitsOf 32 32 w1 ≠ 0 || !eventInside s cl (evCLU w0) || tick ≤ e.cl ||
      e.ct + 15 < tick
    .next <| if bad then s.trapAll 0x11
      else if s.curThreads.any fun x => x.2.tl ≥ 63 then s.forLanes fun s k t => s.parkAt k t (.counterFull 3)
      else ((s.modEnb cl fun e => { e with sent := bump e.sent tick.toNat }).send (cl * 20 + s.cur.core) (.event w0 w1 s.curKeys)).forLanes fun s k t =>
        s.finish k t { t with tl := t.tl + 1 }

/-- A neuron event fault record (R348). -/
def neuronRecord (s : State) (cl reason : Nat) (w1 w2 : Word) : Record :=
  { part := s.partNo cl
    w0 := word (0x11 + reason * 2 ^ 8 + cl * 2 ^ 12 + mod32 (s.cluster cl).enb.ct * 2 ^ 32)
    w1 := w1, w2 := w2, w3 := 0, route := none }

/-- AM key of neuron i of bank n (R344). -/
def neuronKey (cl n i : Nat) : Nat := cl * 2 ^ 19 + n * 32768 + 16 * i
/-- A neuron record as a number. -/
def neuronAt (s : State) (cl n i : Nat) : Nat := leNat (memBytes s.am (span (neuronKey cl n i) 16))
/-- Bytes of the AM written. -/
def State.putAm (s : State) (key n v : Nat) : State := s.writeAm ((span key n).zip (leBytes n v))
/-- Flag EN of a record. -/
def recEN (r : Nat) : Bool := natBit 88 r

/-- The address of a calendar word: bucket and neuron (R347). -/
def calendarKey (s : State) (cl n bucket i : Nat) : Nat := scratchAddr cl (calBank (enbCtx s cl n) * 0x20000 + bucket * 8192 + 4 * i)

/-- A number added into a 32-bit calendar word; bad data there is contained (R438). -/
def State.addCalendar (s : State) (cl n bucket i : Nat) (z : Int) : State :=
  let addrs := span (calendarKey s cl n bucket i) 4
  s.guardKeys cl addrs (s.writeNum addrs (mod32 (s.numAt addrs + z)))

/-- An event handled at its cluster (R346, Table 11.5). -/
def State.placeEvent (s : State) (w0 w1 : Word) : State :=
  let cl := evCLU w0
  let n := evBANK w0
  let i := evNEUR w0
  let tick := bitsOf 0 32 w1
  let s1 := s.modEnb cl fun e => { e with recv := bump e.recv tick }
  let c := s.cluster cl
  let refuse (reason : Nat) : State := s1.sendRecord cl (neuronRecord s cl reason w0 w1)
  if !neuronMode c n then refuse 1
  else if !recEN (neuronAt s cl n i) then refuse 2
  else if (tick : Int) < c.enb.ct then refuse 3
  else if c.enb.ct + 15 < tick then refuse 4
  else if (tick : Int) = c.enb.ct then
    s1.putAm (neuronKey cl n i + 4) 4 (mod32 (leNat (memBytes s.am (span (neuronKey cl n i + 4) 4)) + evInput w0))
  else s1.addCalendar cl n (tick % 16) i (evInput w0)

/-- An event reaches its cluster (R346); it lowers tl of the threads that sent it (R358). -/
def execNeuronEventArrival (i : Nat) (s : State) : Out :=
  match s.flights[i]? with
  | some (.event w0 w1 srcs) =>
    if !arrives s (evCLU w0) i then .next s
    else
      let s1 := (s.landFlight i).placeEvent w0 w1
      .next <| s.guardAm (evCLU w0) (neuronKey (evCLU w0) (evBANK w0) (evNEUR w0)) (if neuronMode (s.cluster (evCLU w0)) (evBANK w0) then 16 else 0) <|
        (srcs.foldl (fun s k => match s.thread k with
        | some t => s.putThread k { t with tl := t.tl - 1 }
        | none => s) s1)
  | _ => .next s

/-! ### The queue (R343, R356, R357, R359, R360) -/

/-- A queued command leaves the queue: its range is released and tl falls (R229, R356). -/
def State.endEnb (s : State) (cl : Nat) (c : Cmd) : State :=
  ((s.modEnb cl fun e => { e with queue := e.queue.erase c }).unlock cl 2 c).lowerTl c

/-- A failed command cancels its issuer's later queued ones (R360). -/
def State.failEnb (s : State) (cl : Nat) (c : Cmd) (detail : Nat) (va : Word) : State :=
  let gone := c :: ((s.cluster cl).enb.queue.filter fun e => e.issuer == c.issuer && c.seq < e.seq)
  let s1 := gone.foldl (fun s e => s.endEnb cl e) s
  let s2 := gone.foldl (fun s e => if e.fn = 4 ∨ e.fn = 5 then s.clearBusy e (e.keys.take 1) else s) s1
  s2.defer c (cmdKeys gone) 2 detail va

/-- A result written in the lowest lane (R355). -/
def State.enbResult (s : State) (c : Cmd) (v : Word) : State :=
  match c.keys.head? with
  | none => s
  | some k => match s.thread k with
    | some t => s.putThread k (unBusy (setW t c.dst v) [.w c.dst])
    | none => s

/-- Records copied into neurons: reserved bits and SAT zero (R344, R357). -/
def State.loadNeurons (s : State) (cl n first : Nat) (bytes : List Byte) : State :=
  (List.range (bytes.length / 16)).foldl (fun s i =>
    let r := leNat ((bytes.drop (16 * i)).take 16)
    s.putAm (neuronKey cl n (first + i)) 16 (r % 2 ^ 89 + r / 2 ^ 96 * 2 ^ 96)) s

/-- What `nrd` reads (R359). -/
def nrdValue (s : State) (cl n i : Nat) (sel : Word) : Word :=
  let e := (s.cluster cl).enb
  match i with
  | 0 => if neuronMode (s.cluster cl) n then word (neuronAt s cl n (bitsOf 0 11 sel)) else 0
  | 1 => if neuronMode (s.cluster cl) n then word (neuronAt s cl n (bitsOf 0 11 sel) / 2 ^ 64) else 0
  | 2 => word (mod32 e.ct + ((neuronBanks (s.cluster cl)).map fun b => 2 ^ (32 + b)).sum)
  | _ => word (e.sent.toList.getD (sel.toNat % 16) 0 % 2 ^ 32 + e.recv.toList.getD (sel.toNat % 16) 0 % 2 ^ 32 * 2 ^ 32)

/-- Word k of a bank's spike bitmap (R351, R359). -/
def spikeWord (c : Cluster) (n k : Nat) : Word :=
  if neuronMode c n then
    word ((((mget c.enb.spikes n).getD []).filter fun i => i / 64 == k).map fun i => 2 ^ (i % 64)).sum
  else 0

/-- The records of an `nld` copied into its bank (R357). -/
def State.copyNeurons (s : State) (cl : Nat) (c : Cmd) (pieces : List (Word × Nat)) : State :=
  match s.agentAll cl (2, c.seq) c.asid c.sup .read pieces with
  | .wait s1 => s1
  | .refused x v => s.failEnb cl c (engineDetail x) v
  | .ok addrs => (((s.farRequest (s.partNo cl) 0 addrs []).agentWalks cl c.asid c.sup .read pieces).loadNeurons cl c.ctx
      (bitsOf 0 11 (c.words.getD 1 0)) (addrs.map s.byteAt)).endEnb cl c

/-- An `nld` at the head of the queue (R357): it is granted with its source range registered, and its next turn copies the records. -/
def State.runNld (s : State) (cl : Nat) (c : Cmd) : State :=
  let va := c.words.getD 0 0
  let w := c.words.getD 1 0
  let pieces := pagePieces va (16 * bitsOf 16 12 w)
  if va.toNat % 16 ≠ 0 then s.failEnb cl c 1 va
  else if !neuronMode (s.cluster cl) c.ctx then s.failEnb cl c 5 0
  else if !(s.cluster cl).rlt.any fun e => e.engine == 2 && e.seq == c.seq && e.elem.isNone then
    match s.locate cl 2 c .read pieces with
    | .wait s1 => s1
    | .refused x v => s.failEnb cl c (engineDetail x) v
    | .ok l => match rltTake (s.cluster cl) (rltEntries 2 c false (lineRuns l)) with
      | none => s
      | some [] => s.copyNeurons cl c pieces
      | some rlt => s.modCluster cl fun x => { x with rlt := x.rlt ++ rlt }
  else s.copyNeurons cl c pieces

/-- The queue executes its next command, indivisibly (R356); a change of NM has its own row. (DEDUCED, log 36: unsafe.) -/
def execEnbCommandExecute (cl : Nat) (s : State) : Out :=
  match (s.cluster cl).enb.queue with
  | [] => .next s
  | c :: _ =>
    if !clusterRuns s cl || !issuerDone s c then .next s
    else match c.fn with
      | 1 => .next (s.runNld cl c)
      | 4 => .next <| s.guardAm cl (neuronKey cl c.ctx (bitsOf 0 11 (c.words.getD 0 0))) (if (c.words.getD 1 0).toNat < 2 then 16 else 0) <|
          ((s.enbResult c (nrdValue s cl c.ctx (c.words.getD 1 0).toNat (c.words.getD 0 0))).endEnb cl c)
      | 5 => .next ((s.enbResult c (spikeWord (s.cluster cl) c.ctx (bitsOf 0 5 (c.words.getD 0 0)))).endEnb cl c)
      | _ => .next s

/-- Bank n enters neuron mode (R343): its records, bitmap and calendar zero, the calendar registered, the clock started with the
cluster's first bank. -/
def State.enterNeuronMode (s : State) (cl n : Nat) (c : Cmd) (v : Word) : State :=
  let first := (neuronBanks (s.cluster cl)).isEmpty
  let cal := scratchAddr cl (calBank (enbCtx s cl n) * 0x20000)
  let s1 := s.writeAm ((span (neuronKey cl n 0) 32768).map fun a => (a, 0))
  let s2 := s1.writeCells ((span cal 0x20000).map fun a => (a, 0))
  let s3 := s2.putEnbCtx cl n fun x => { x with ctl := v }
  let s4 := s3.modEnb cl fun e => { e with spikes := mdel e.spikes n }
  let s5 := s4.modCluster cl fun x => { x with rlt := x.rlt ++
    [{ line := cal / 64, lines := 2048, dest := true, engine := 2, seq := c.seq, core := c.issuer.2.1, slot := c.issuer.2.2, elem := some n }] }
  if first then s5.modEnb cl fun e => { e with ct := 0, cl := -1, sent := Vector.replicate 16 0, recv := Vector.replicate 16 0 }
  else s5

/-- Bank n leaves neuron mode (R343): its RLT entry is free and its contents are undefined. (DEDUCED, log 38: unsafe.) -/
def State.leaveNeuronMode (s : State) (cl n : Nat) (v : Word) : State :=
  let s1 := { s with am := memWriteAll s.am ((span (neuronKey cl n 0) 32768).map fun a => (a, Config.freeByte s.free (2 ^ 61 + a))) }
  (s1.putEnbCtx cl n fun x => { x with ctl := v }).modCluster cl fun x =>
    { x with rlt := x.rlt.filter fun e => !(e.engine == 2 && e.elem == some n) }

/-- A posted change of NM acts (R343), once every MXE command granted on the bank's tiles has completed and the RLT has room. -/
def execNeuronModeSwitch (cl i : Nat) (s : State) : Out :=
  match (s.cluster cl).enb.queue[i]? with
  | none => .next s
  | some c =>
    let x := s.cluster cl
    let n := c.ctx
    let v := c.words.getD 0 0
    if i ≠ 0 ∨ c.fn ≠ 0 ∨ !clusterRuns s cl ∨ !issuerDone s c then .next s
    else if ctlNM v == neuronMode x n then .next ((s.putEnbCtx cl n fun e => { e with ctl := v }).endEnb cl c)
    else if !ctlNM v then .next ((s.leaveNeuronMode cl n v).endEnb cl c)
    else if (x.mxe.running.any fun r => (tilesOf r.cmd).any fun t => t / 4 == n) || rltRoom x = 0 then .next s
    else .next ((s.enterNeuronMode cl n c v).endEnb cl c)

/-! ### Ticks (R349 to R353) -/

/-- The clusters of a group. -/
def memberClusters (e : Group) : List Nat := dedup (e.members.map (·.1))

/-- Two members of a group lie in one cluster (R349). -/
def crowded (e : Group) : Bool :=
  (memberClusters e).any fun cl => 1 < ((List.range 20).filter fun k => isMember e cl k).length

/-- `ntick` in lanes that have arrived (R349): each waits for the step of the tick it arrived for; a refused arrival traps. -/
def State.awaitTick (s : State) (g : Nat) : State := s.forLanes fun s k t =>
  if mget t.last 256 = some 0 then
    s.trap k { t with xstat := xsSetAP t.xstat false, last := mdel t.last 256 } 0x12 0
  else if tickOver s k t g then s.finish k t t else s.parkAt k t (.tick g)

/-- `ntick` in lanes that have not arrived (R349): the core arrives, once, as a release. -/
def State.arriveTick (s : State) (p g : Nat) : State :=
  let enb := (s.cluster s.cur.cl).enb
  let tick := enb.ct.toNat
  if tickArrived s p s.cur.cl s.cur.core g || !enb.due.isEmpty then s.forLanes fun s k t => s.parkAt k t (.tick g)
  else (s.send (s.cur.cl * 20 + s.cur.core) (.tick s.curKeys p g tick (enb.sent.toList.getD (tick % 16) 0) (enb.recv.toList.getD (tick % 16) 0))).forLanes
    fun s k t => s.parkAt k { t with xstat := xsSetAP t.xstat true, last := mset t.last 256 (tick + 1) } (.tick g)

/-- `ntick` (R349), once for the issuing set with the operand of its lowest lane (R355); of its lanes those with AP = 1 wait, and those with
AP = 0 arrive together. -/
def execNtick (a : Reg) (c : Ctx) (s : State) : Out :=
  match s.lowest with
  | none => .next s
  | some (k, low) =>
    let w := readW low a
    let g := bitsOf 0 8 w
    .next <| if bitsOf 8 56 w ≠ 0 ∨ !neuronMode (s.cluster s.cur.cl) c.toNat then s.trapAll 0x12
    else match s.groupFor k low g with
      | none => s.trapAll 0x12
      | some (p, e) =>
        let waiting := s.onlyLanes fun t => xsAP t.xstat
        let arriving := s.onlyLanes fun t => !xsAP t.xstat
        if crowded e then s.trapAll 0x12
        else if arriving.cur.lanes.isEmpty then s.awaitTick g
        else if waiting.cur.lanes.isEmpty then s.arriveTick p g
        else { ({ waiting.awaitTick g with cur := arriving.cur }).arriveTick p g with cur := s.cur }

/-- An arrival refused by its group's home (R349): the `ntick` takes the trap with no arrival recorded. -/
def State.refuseTick (s : State) (k : Nat) : State :=
  match s.thread k with
  | none => s
  | some t =>
    match t.park with
    | some { why := .tick _, since := _ } => s.trapWaiting k { t with xstat := xsSetAP t.xstat false, last := mdel t.last 256 } 0x12
    | _ => s.putThread k { t with last := mset t.last 256 0 }

/-- An `ntick` arrival of the set with the thread at a position reaches its group's home (R349). -/
def execNtickArrival (k : Nat) (s : State) : Out :=
  let isIt (f : Flight) : Bool := match f with
    | .tick ks _ _ _ _ _ => ks.contains k
    | _ => false
  match s.flights.find? isIt with
  | some (.tick ks p g t sent recv) =>
    let s1 := { s with flights := s.flights.erase (.tick ks p g t sent recv) }
    match (s.part p).bind fun x => mget x.groups g with
    | none => .next (ks.foldl State.refuseTick s1)
    | some e =>
      if !clusterRuns s ((leastBy id (e.members.map (·.1))).getD 0) then .next s
      else if e.tick.any (· != t) then .next (ks.foldl State.refuseTick s1)
      else
        .next ((s1.modPart p fun x => { x with groups := mset x.groups g { e with
          tick := some t, tickCores := e.tickCores ++ [(keyCl k, keyCore k)] } }).modEnb (keyCl k) fun e => { e with cl := t })
  | _ => .next s

/-- The member cores that hold a live thread of the group's launch (R306, R350). -/
def liveCores (s : State) (p : Nat) (e : Group) : List (Nat × Nat) :=
  let mine (l : Option (Nat × Nat)) : Bool := l == some (p, e.serial)
  let inSlots := s.threads.filterMap fun x => if mine x.2.launch then some (keyCl x.1, keyCore x.1) else none
  let onWay := s.flights.filterMap fun x => match x with
    | .migration c cl core => if mine c.launch then some (cl, core) else none
    | _ => none
  let queued := s.clusters.flatMap fun c => c.2.cores.filterMap fun x =>
    if (x.2.arrivals ++ x.2.heap ++ x.2.overflow).any fun m => mine m.launch then some (c.1, x.1) else none
  let offCore := s.clusters.flatMap fun c => c.2.offCore.filterMap fun o =>
    if o.lanes.any fun l => mine l.2.launch then some (c.1, o.core) else none
  (inSlots ++ onWay ++ queued ++ offCore).filter fun x => isMember e x.1 x.2

/-- The counts of a tick summed over the member clusters: SENT and RECV (R350). -/
def tickSums (s : State) (e : Group) (t : Nat) : Nat × Nat :=
  let enbs := (memberClusters e).map fun cl => (s.cluster cl).enb
  ((enbs.map fun x => x.sent.toList.getD (t % 16) 0).sum, (enbs.map fun x => x.recv.toList.getD (t % 16) 0).sum)

/-- The home gathers the members' RECV counts; the tick completes once every live member core has arrived and the sums agree: it
signals the clusters' steps and clears the counts (R350). -/
def execTickRecvGather (part g : Nat) (s : State) : Out :=
  match (s.part part).bind fun x => mget x.groups g with
  | none => .next s
  | some e =>
    match e.tick with
    | none => .next s
    | some t =>
      let sums := tickSums s e t
      if !clusterRuns s ((leastBy id (e.members.map (·.1))).getD 0) || e.tickCores.isEmpty ||
          !(liveCores s part e).all e.tickCores.contains || sums.1 ≠ sums.2 then .next s
      else
        let s1 := s.modPart part fun x => { x with groups := mset x.groups g { e with tick := some (t + 1), tickCores := [] } }
        .next ((memberClusters e).foldl (fun s cl => s.modEnb cl fun b =>
          { b with due := b.due ++ [t], sent := b.sent.setIfInBounds (t % 16) 0, recv := b.recv.setIfInBounds (t % 16) 0 }) s1)

/-- A neuron's step (R351): the record after it, and whether it fires. -/
def neuronStep (x : EnbCtx) (t : Nat) (r : Nat) : Nat × Bool :=
  let rest := ctlREST x.ctl
  let d := signed32 r - rest
  let v := rest + (d * bitsOf 16 16 x.ctl + 0x8000) / 2 ^ 16
  let sum := v + signed32 (r / 2 ^ 32)
  let sat : Bool := 2 ^ 31 ≤ sum || sum < -(2 ^ 31)
  let v1 := max (-(2 ^ 31)) (min (2 ^ 31 - 1) sum)
  let refr := natField 80 8 r
  let fires : Bool := levTHR x.lev ≤ v1 && refr == 0
  let v2 := if fires then signed32 (bitsOf 32 32 x.lev) else v1
  let refr2 := if fires then bitsOf 8 8 x.ctl else refr - 1
  let last := if fires then t % 2 ^ 16 else natField 64 16 r
  let flags := natField 88 8 r ||| (if sat then 2 else 0)
  (mod32 v2 + last * 2 ^ 64 + refr2 * 2 ^ 80 + flags * 2 ^ 88 + r / 2 ^ 96 * 2 ^ 96, fires)

/-- A neuron the step processes (R351). -/
def neuronActive (x : EnbCtx) (r : Nat) : Bool :=
  recEN r && (natField 32 32 r != 0 || signed32 r != ctlREST x.ctl || natField 80 8 r != 0)

/-- A fan-out entry read: its word and the keys it lies at, a fault, what it meets contained, or a wait. (DEDUCED, log 37: unsafe.) -/
inductive FanRead where
  | word (w : Word) (keys : List Nat)
  | fault
  | bad (s : State)
  | wait
  deriving DecidableEq, Repr

def fanRead (s : State) (cl : Nat) (x : EnbCtx) (va : Word) : FanRead :=
  match s.partOf cl with
  | none => .fault
  | some (p, q) =>
    match checkAccess s true cl p q x.asid x.sup .read va 8 with
    | .ok addrs _ =>
      if let some key := linkHeld s false addrs then .bad (s.containLink p cl 31 key 0)
      else match badAmong s addrs with
        | some b => .bad (s.containBad p cl 31 b 0)
        | none => .word (word (s.numAt addrs)) addrs
    | .trap 0x15 key => .bad (s.containKey p cl 31 key.toNat 0)
    | .park _ => .wait
    | _ => .fault

/-- The fan-out of a spike (R352, Table 11.8): entries from `va`, at most `fuel` more; none where a read must wait. -/
def State.emit (s : State) (cl : Nat) (x : EnbCtx) (tick : Nat) : Nat → Word → Option State
  | fuel, va =>
    match fanRead s cl x va with
    | .wait => none
    | .fault => some (s.sendRecord cl (neuronRecord s cl 7 va 0))
    | .bad s1 => some s1
    | .word w keys =>
      let s := (s.agentReads cl keys).agentWalks cl x.asid x.sup .read [(va, 8)]
      let ev := w &&& ~~~ maskOf 63 1
      let bad := bitsOf 40 23 w ≠ 0 || !eventInside s cl (evCLU w)
      let s1 := if bad then s.sendRecord cl (neuronRecord s cl 6 ev (word (tick % 2 ^ 32)))
        else (s.modEnb cl fun e => { e with sent := bump e.sent tick }).send (cl * 20) (.event ev (word (tick % 2 ^ 32)) [])
      if natBit 63 w.toNat then some s1
      else match fuel with
        | 0 => some (s1.sendRecord cl (neuronRecord s cl 5 va 0))
        | n + 1 => s1.emit cl x tick n (va + 8)

/-- Neuron i of bank n in the step for tick t. -/
def State.stepNeuron (s : State) (cl t n i : Nat) : Option State :=
  let x := enbCtx s cl n
  let r := neuronAt s cl n i
  if !neuronActive x r then some s
  else
    let out := neuronStep x t r
    let s1 := s.putAm (neuronKey cl n i) 16 out.1
    if !out.2 then some s1
    else
      let s2 := s1.modEnb cl fun e => { e with spikes := mset e.spikes n (((mget e.spikes n).getD []) ++ [i]) }
      let fidx := natField 96 32 r
      if fidx = 0xFFFFFFFF then some s2
      else s2.emit cl x (t + bitsOf 4 4 x.ctl) 4095 (x.fob + word (8 * fidx))

/-- The fold (R347): the bucket of the new tick is added to PEND and zeroed. -/
def State.foldCalendar (s : State) (cl n bucket : Nat) : State :=
  (List.range 2048).foldl (fun s i =>
    let addrs := span (calendarKey s cl n bucket i) 4
    let v := s.numAt addrs
    if v = 0 then s
    else
      let key := neuronKey cl n i + 4
      (s.putAm key 4 (mod32 (leNat (memBytes s.am (span key 4)) + v))).writeNum addrs 0) s

/-- A cluster's tick step (R351), also at a stop, before the save reads the banks (R353): every bank's neurons, then CT and the fold. A
fan-out read that waits for a block or an absent line holds the step. CT goes to the tick after the one that the home signalled, whatever it
was before. (DESIGN CHOICE, log 94: unsafe.) -/
def execTickStep (cl : Nat) (s : State) : Out :=
  match (s.cluster cl).enb.due with
  | [] => .next s
  | t :: rest =>
    if !clusterFinishes s cl then .next s
    else
      let banks := neuronBanks (s.cluster cl)
      let s1 := s.modEnb cl fun e => { e with due := rest, spikes := [] }
      let stepped := (banks.flatMap fun n => (List.range 2048).map fun i => (n, i)).foldl
        (fun (o : Option State) x => o.bind fun s => s.stepNeuron cl t x.1 x.2) (some s1)
      match stepped with
      | none => .next s
      | some s2 =>
        let ct := t + 1
        .next <| banks.foldr (fun n f => s.guardAm cl (neuronKey cl n 0) 32768 (s.guardKeys cl (span (calendarKey s cl n (ct % 16) 0) 8192) f))
          (banks.foldl (fun s n => s.foldCalendar cl n (ct % 16)) (s2.modEnb cl fun e => { e with ct := ct }))

end Sys2Proof.Machine
end

