-- ==== Sys2Proof/Machine/Launch.lean ====
section
/-! DEFINITION. Launches: opcode 0x39 (R332), records, queues and checks (R275 to R281, R475), group tables (R305), placement
(R282), completion (R277), and their rows. -/

namespace Sys2Proof.Machine

/-- `launch` (R332): the record's address is checked, the release performed, and the record is on its way to the launch unit. -/
def execLaunch (d a : Reg) (s : State) : Out := s.eachLane fun s k t =>
  let va := readW t a
  if va.toNat % 128 ≠ 0 then s.trap k t 4 va
  else s.counterAccess k t .read va 128 fun _ _ => s.withReleased k t <|
    (s.send (coreNo k) (.launch (s.partNo (keyCl k)) (keyCl k) none t.asid (xsSUP t.xstat) va (some (k, d)))).parkAt k t .launch

/-- A launch record from its 128 bytes (Table 9.1). -/
def recordOf (bs : List Byte) : LaunchRec :=
  let at_ (off n : Nat) : Nat := leNat ((bs.drop off).take n)
  { ver := at_ 0 2, sigop := at_ 2 2 % 4, image := at_ 4 4, entry := at_ 8 8, args := word (at_ 0x10 8), argsz := at_ 0x18 4
    csz := at_ 0x1C 4, const := word (at_ 0x20 8), nthr := at_ 0x28 4, ngang := at_ 0x2C 4, groups := word (at_ 0x30 8)
    depctr := word (at_ 0x38 8), signal := word (at_ 0x40 8), sigval := word (at_ 0x48 8), prio := at_ 0x50 1, tq := at_ 0x51 1
    place := word (at_ 0x58 8), reserved := at_ 2 2 ≥ 4 || at_ 0x52 6 ≠ 0 || leNat (bs.drop 0x60) ≠ 0 }

/-- A record is malformed (code 1 of Table 9.2), its image and kernel apart. -/
def malformed (r : LaunchRec) : Bool :=
  r.ver ≠ 1 || r.sigop = 3 || r.reserved || r.tq > 15 || r.const.toNat % 8 ≠ 0 || r.groups.toNat % 16 ≠ 0 ||
    r.depctr.toNat % 8 ≠ 0 || r.signal.toNat % 16 ≠ 0 || r.place.toNat % 8 ≠ 0

/-- The status of the checks a record meets at its acceptance: the lowest code that applies, 0 when none does (R276). Code 5 is tested
once its placement mask is read. (DEDUCED, log 86: unsafe.) -/
def recordStatus (x : Partition) (asid : BitVec 16) (r : LaunchRec) : Nat :=
  match mget x.images r.image with
  | none => 1
  | some im =>
    match im.kernels.find? fun q => q.entry == r.entry with
    | none => 1
    | some q =>
      if malformed r || im.asid ≠ asid || r.argsz ≠ q.argsz then 1
      else if r.csz % 8 ≠ 0 ∨ r.csz > 1984 then 2
      else if im.revoked then 3
      else if !im.accepted then 4
      else 0

/-- Clusters a 48-byte placement mask selects within the partition; no mask selects all (R282). -/
def maskClusters (x : Partition) (mask : Option (List Byte)) : List Nat :=
  (clustersIn x.halfDies).filter fun k => match mask with
    | none => true
    | some bs => (bs.getD (k / 8) 0).getLsbD (k % 8)

/-- The name of a launch unit's access in the FBF: that of an issuer's record, of a queue's, or of an accepted launch. -/
def issuerAgent (k : Nat) : Nat × Nat := (6, 3 * k)
def queueAgent (p q : Nat) : Nat × Nat := (6, 3 * (16 * p + q) + 1)
def launchAgent (p serial : Nat) : Nat × Nat := (6, 3 * (serial * 8 + p) + 2)

/-- A record to the partition's fault handler of a launch unit's refusal or of a queue's fault; ADDR of a queue's is its descriptor, and
CORE 31 names the launch unit. (DESIGN CHOICE, log 78: unsafe.) -/
def State.launchRecord (s : State) (p cl cause : Nat) (va : Word) : State :=
  s.sendRecord cl (mkRecord p cl 31 cause 0 0 va 0)

/-! ### Starting (R279, R305, R475) -/

/-- A group record of Table 9.5: LIST, COUNT and whether it is refused for itself. -/
def groupRecord (bs : List Byte) : Word × Nat × Bool :=
  let l := leNat (bs.take 8)
  let c := leNat ((bs.drop 8).take 8)
  (word l, c % 2 ^ 16, c ≥ 2 ^ 16 || l % 4 ≠ 0)

/-- Members of a list of 4-byte words; none where one has a reserved bit or lies outside the partition. -/
def membersOf (x : Partition) (bs : List Byte) : Option (List (Nat × BitVec 20)) :=
  ((List.range (bs.length / 4)).mapM fun i =>
    let w := leNat ((bs.drop (4 * i)).take 4)
    let cl := w / 2 ^ 20 % 512
    if w ≥ 2 ^ 29 ∨ cl ≥ Config.clusters ∨ !x.halfDies.getLsbD (halfDieOf cl) then none
    else some (cl, BitVec.ofNat 20 w))

/-- Entries of the GTB a core is a member of. -/
def groupsOfCore (g : Map Group) (cl core : Nat) : Nat := (g.filter fun e => isMember e.2 cl core).length

/-- Some core belongs to more than four entries (R305). -/
def overGrouped (g : Map Group) (members : List (Nat × BitVec 20)) : Bool :=
  members.any fun m => (List.range 20).any fun i => m.2.getLsbD i && groupsOfCore g m.1 i > 4

/-- What loading the group table comes to. -/
inductive Loaded where
  | groups (g : Map Group)
  | wait (s : State)
  | refused
  deriving DecidableEq, Repr

/-- One record of the group table loaded into the GTB (R305). -/
def loadGroup (s : State) (l : Launch) (p serial : Nat) (x : Partition) (n : Nat) (bs : List Byte) (g : Map Group) : Loaded :=
  let r := groupRecord bs
  if r.2.1 = 0 then .groups g
  else if r.2.2 || (mget g n).isSome then .refused
  else
    match s.agentAll l.cl (launchAgent p serial) l.asid l.sup .read ((List.range r.2.1).map fun i => (r.1 + word (4 * i), 4)) with
    | .wait s1 => .wait s1
    | .refused _ _ => .refused
    | .ok addrs =>
      match membersOf x (addrs.map s.byteAt) with
      | none => .refused
      | some ms =>
        let g1 := mset g n { serial := serial, members := ms, phase := 0, arrived := [], tick := none, tickCores := [] }
        if overGrouped g1 ms then .refused else .groups g1

/-- The whole group table, records in order (R305). -/
def loadGroups (s : State) (l : Launch) (p serial : Nat) (x : Partition) : Loaded :=
  if l.r.groups = 0 then .groups x.groups
  else
    match s.agentAll l.cl (launchAgent p serial) l.asid l.sup .read ((List.range 256).map fun i => (l.r.groups + word (16 * i), 16)) with
    | .wait s1 => .wait s1
    | .refused _ _ => .refused
    | .ok addrs =>
      (List.range 256).foldl (fun r i => match r with
        | .groups g => loadGroup s l p serial x i (((addrs.drop (16 * i)).take 16).map s.byteAt) g
        | other => other) (.groups x.groups)

/-- The group table and its member lists are asked for where they lie in host memory or another device (R450, R454). -/
def State.tableReads (s : State) (l : Launch) (p serial : Nat) : State :=
  let read (ranges : List (Word × Nat)) : List Nat :=
    match s.agentAll l.cl (launchAgent p serial) l.asid l.sup .read ranges with
    | .ok addrs => addrs
    | _ => []
  let table := if l.r.groups = 0 then [] else read ((List.range 256).map fun i => (l.r.groups + word (16 * i), 16))
  (List.range (table.length / 16)).foldl (fun u i =>
    let r := groupRecord (((table.drop (16 * i)).take 16).map s.byteAt)
    let list := (List.range r.2.1).map fun j => (r.1 + word (4 * j), 4)
    (u.agentReads l.cl (read list)).agentWalks l.cl l.asid l.sup .read list)
    ((s.agentReads l.cl table).agentWalks l.cl l.asid l.sup .read (if l.r.groups = 0 then [] else [(l.r.groups, 4096)]))

/-- A launch's entry changed. -/
def State.putLaunch (s : State) (p serial : Nat) (l : Launch) : State :=
  s.modPart p fun x => { x with launches := mset x.launches serial l }

/-- A launch that ends with a status before any of its instructions executes: LAUNCH_COMPLETE signals it. -/
def State.failLaunch (s : State) (p serial : Nat) (l : Launch) (status : Nat) : State :=
  s.putLaunch p serial { l with stage := .placed, status := status }

/-- A launch whose constant image is read loads its group table, and is placed (R282, R305). -/
def State.readGroups (s : State) (p serial : Nat) (x : Partition) (l : Launch) : State :=
  match loadGroups s l p serial x with
  | .wait s1 => s1
  | .refused => s.failLaunch p serial l 6
  | .groups g => ((s.tableReads l p serial).modPart p fun x => { x with groups := g }).putLaunch p serial
      { l with stage := if l.r.nthr + l.r.ngang = 0 then .placed else .placing }

/-- A launch whose dependence counter has read zero: image, constants, group table, then placing (R59, R279, R305, R400). A launch's reads are
made in this order, each once it has been performed for good: mask, counter, constants, groups. (DESIGN CHOICE, log 103: unsafe.) -/
def State.startLaunch (s : State) (p serial : Nat) (x : Partition) (l : Launch) : State :=
  if (mget x.images l.r.image).any (·.revoked) then s.failLaunch p serial l 3
  else if l.reads = 2 then s.readGroups p serial x l
  else
    match (if l.r.csz = 0 then Agent.ok [] else s.agent l.cl (launchAgent p serial) l.asid l.sup .read l.r.const l.r.csz) with
    | .wait s1 => s1
    | .refused _ _ => s.failLaunch p serial l 1
    | .ok addrs =>
      let l1 := { l with const := addrs.map s.byteAt, reads := 2 }
      (((s.agentReads l.cl addrs).agentWalks l.cl l.asid l.sup .read [(l.r.const, l.r.csz)]).putLaunch p serial l1).readGroups p serial x l1

/-- A launch whose clusters are known reads its dependence counter, an acquire, until it reads zero, and starts then (R279). -/
def State.tryCounter (s : State) (p serial : Nat) (x : Partition) (l : Launch) : State :=
  if l.r.depctr = 0 || l.reads ≠ 0 then s.startLaunch p serial x l
  else
    match s.agent l.cl (launchAgent p serial) l.asid l.sup .read l.r.depctr 8 with
    | .wait s1 => s1
    | .refused _ _ => s.failLaunch p serial l 1
    | .ok addrs =>
      let s1 := (s.agentReads l.cl addrs).agentWalks l.cl l.asid l.sup .read [(l.r.depctr, 8)]
      if s.numAt addrs = 0 then (s1.putLaunch p serial { l with reads := 1 }).startLaunch p serial x { l with reads := 1 } else s1

/-- A waiting launch reads its placement mask, once, and fails where that selects nothing for what it launches (R276, R282); then its
counter. -/
def State.tryStart (s : State) (p serial : Nat) : State :=
  match s.part p with
  | none => s
  | some x =>
    match mget x.launches serial with
    | none => s
    | some l =>
      if l.stage ≠ .waiting then s
      else if l.r.place = 0 || !l.clusters.isEmpty then s.tryCounter p serial x l
      else
        match s.agent l.cl (launchAgent p serial) l.asid l.sup .read l.r.place 48 with
        | .wait s1 => s1
        | .refused _ _ => s.failLaunch p serial l 1
        | .ok addrs =>
          let l1 := { l with clusters := maskClusters x (some (addrs.map s.byteAt)) }
          if l1.clusters.isEmpty && 0 < l.r.nthr + l.r.ngang then s.failLaunch p serial l 5
          else (((s.agentReads l.cl addrs).agentWalks l.cl l.asid l.sup .read [(l.r.place, 48)]).putLaunch p serial l1).tryCounter p serial x l1

def execLaunchDepctrRead (part serial : Nat) (s : State) : Out :=
  match (s.part part).bind fun x => mget x.launches serial with
  | some l => if clusterRuns s l.cl then .next (s.tryStart part serial) else .next s
  | none => .next s

/-! ### Accepting (R276, R278) -/

/-- The issuer's `launch` retires with the serial (step 4 of R332). -/
def State.giveSerial (s : State) (issuer : Option (Nat × Reg)) (serial : Nat) : State :=
  match issuer with
  | none => s
  | some (k, d) => match s.thread k with
    | some t => s.finishAt k t (setW t d (word serial)) (t.pc + 4)
    | none => s

/-- The record is accepted: the next serial, its checks, and its start when nothing holds it (R276). -/
def State.accept (s : State) (p cl : Nat) (x : Partition) (queue : Option Nat) (asid : BitVec 16) (sup : Bool) (r : LaunchRec)
    (issuer : Option (Nat × Reg)) : State :=
  let status := recordStatus x asid r
  let l : Launch := { r := r, cl := cl, queue := queue, asid := asid, sup := sup, stage := if status = 0 then .waiting else .placed,
                      placedThr := 0, placedGang := 0, status := status, clusters := if r.place = 0 then maskClusters x none else [],
                      const := [], reads := 0, started := false, signals := 0 }
  let s1 := (s.modPart p fun x => { x with serial := x.serial + 1, launches := mset x.launches x.serial l }).giveSerial issuer x.serial
  if status = 0 then s1.tryStart p x.serial else s1

/-- A queue holds its next record behind one that still waits to start, or for a fill of its launch unit's access, or while the HEAD of one
before it is still to be stored (R278, R279, R475). -/
def queueWaits (s : State) (p : Nat) (x : Partition) (queue : Option Nat) : Bool :=
  queue.any fun q => (mget x.queues q).any (·.due) || x.launches.any fun e => e.2.queue == queue &&
    (e.2.stage == .waiting || fbfHolds (s.cluster e.2.cl) (launchAgent p e.1))

/-- A halted queue reads no further record (R278, R410). -/
def haltQueue (x : Partition) (q : Nat) : Partition :=
  { x with queues := match mget x.queues q with
      | some e => mset x.queues q { e with halted := true }
      | none => x.queues }

/-- The queue's records on their way are dropped as it halts. -/
def State.halt (s : State) (p q : Nat) : State :=
  let s1 := s.modPart p fun x => haltQueue x q
  { s1 with flights := s1.flights.filter fun f => match f with
      | .launch p' _ (some q') _ _ _ _ => !(p' == p && q' == q)
      | _ => true }

/-- A queue changed. -/
def State.modQueue (s : State) (p q : Nat) (f : LaunchQueue → LaunchQueue) : State :=
  s.modPart p fun x => { x with queues := match mget x.queues q with
    | some e => mset x.queues q (f e)
    | none => x.queues }

/-- The HEAD of the records a queue has accepted is stored in its descriptor (R278): a fault there leaves it for later, and a refusal halts the
queue (DESIGN CHOICE, log 78: unsafe). -/
def State.storeHead (s : State) (p q : Nat) (asid : BitVec 16) (sup : Bool) : State :=
  match (s.part p).bind fun x => mget x.queues q with
  | none => s
  | some e =>
    let cl := bitsOf 16 9 e.cfg
    match s.agent cl (queueAgent p q) asid sup .write (e.addr + 0x10) 8 with
    | .wait s1 => s1
    | .refused c v => ((s.launchRecord p cl c v).halt p q).modQueue p q fun e => { e with due := false }
    | .ok addrs => (((s.writeFrom cl (addrs.zip (leBytes 8 (e.head.getD 0)))).agentWalks cl asid sup .write [(e.addr + 0x10, 8)]).modQueue p q
        fun e => { e with due := false })

/-- The record read: it is accepted whatever follows (R276), and a queue's HEAD rises (R278). -/
def State.acceptRead (s : State) (i p cl : Nat) (x : Partition) (queue : Option Nat) (asid : BitVec 16) (sup : Bool)
    (r : LaunchRec) (issuer : Option (Nat × Reg)) : State :=
  match queue with
  | none => (s.landFlight i).accept p cl x queue asid sup r issuer
  | some q =>
    let s1 := (s.landFlight i).modQueue p q fun e => { e with head := some (e.head.getD 0 + 1), due := true }
    (s1.accept p cl ((s1.part p).getD x) queue asid sup r issuer).storeHead p q asid sup

/-- Two launch records come to a launch unit in order: those of one queue, and those of the lanes of one gang (R278, R332). -/
def sameStream (q : Option Nat) (i : Option (Nat × Reg)) (q' : Option Nat) (i' : Option (Nat × Reg)) : Bool :=
  q == q' && (q.isSome || (i.map fun x => (x.1 / 256, slotOf (keyCore x.1) (keyThr x.1))) == i'.map fun x =>
    (x.1 / 256, slotOf (keyCore x.1) (keyThr x.1)))

/-- A launch unit reads the next record for it and accepts it (R276, R278, R332). A `launch` takes no presence failure of its record's
line (R340). -/
def execLaunchAccept (i : Nat) (s : State) : Out :=
  match s.flights[i]? with
  | some (.launch p cl queue asid sup va issuer) =>
    let earlier := (s.flights.take i).any fun f => match f with
      | .launch p' cl' q' _ _ _ issuer' => p' == p && cl' == cl && sameStream queue issuer q' issuer'
      | _ => false
    match s.part p with
    | none => .next s
    | some x =>
      let agent := match queue, issuer with
        | some q, _ => queueAgent p q
        | none, some (k, _) => issuerAgent k
        | none, none => issuerAgent 0
      if earlier || !clusterRuns s cl || queueWaits s p x queue then .next s
      else
        let got (addrs : List Nat) : State :=
          ((s.agentReads cl addrs).agentWalks cl asid sup .read [(va, 128)]).acceptRead i p cl x queue asid sup (recordOf (addrs.map s.byteAt)) issuer
        match s.agent cl agent asid sup .read va 128 with
        | .wait s1 => .next s1
        | .refused c v =>
          match queue, issuer with
          | some q, _ => .next ((s.launchRecord p cl c v).halt p q)
          | none, some (k, _) => match s.thread k, (if c = 7 then byteKeys s x asid sup .read va 128 else .trap c v) with
            | some _, .ok addrs _ => .next (got addrs)
            | some t, _ => .next ({ s.landFlight i with cur := { s.cur with pfx := none } }.trap k t c v)
            | none, _ => .next (s.landFlight i)
          | none, none => .next (s.landFlight i)
        | .ok addrs => .next (got addrs)
  | _ => .next s

/-- A queue's records on their way to its launch unit. -/
def queueOnWay (s : State) (p q : Nat) : Nat :=
  (s.flights.filter fun f => match f with
    | .launch p' _ q' _ _ _ _ => p' == p && q' == some q
    | _ => false).length

/-- The launch unit reads the descriptor and TAIL, an acquire, for the first time since its registration HEAD too, and takes up the
records from HEAD onward (R278, R410), as a supervisor or not as LQCFG.SUP says (DESIGN CHOICE, log 103: unsafe). A refused access of a queue
sends a record of its cause and halts the queue (DESIGN CHOICE, log 78: unsafe). A descriptor with a bit of its word at 0x08 above LOG2N set
halts it too. (DESIGN CHOICE, log 92: unsafe.) -/
def State.readTail (s : State) (p q : Nat) (e : LaunchQueue) : State :=
  let asid := e.cfg.setWidth 16
  let cl := bitsOf 16 9 e.cfg
  let sup := natBit 30 e.cfg.toNat
  match s.agent cl (queueAgent p q) asid sup .read e.addr 128 with
  | .wait s1 => s1
  | .refused c v => (s.launchRecord p cl c v).halt p q
  | .ok addrs =>
    let base := word (s.numAt (addrs.take 8))
    let log2n := s.numAt ((addrs.drop 8).take 8)
    let head := e.head.getD (s.numAt ((addrs.drop 0x10).take 8))
    let tail := s.numAt ((addrs.drop 0x40).take 8)
    let n := (tail + 2 ^ 64 - head) % 2 ^ 64
    if log2n < 1 ∨ log2n > 16 ∨ base.toNat % 128 ≠ 0 then s.halt p q
    else if n > 2 ^ log2n then (s.launchRecord p cl 0x14 e.addr).halt p q
    else
      let have_ := queueOnWay s p q
      { ((s.agentReads cl addrs).agentWalks cl asid sup .read [(e.addr, 128)]).modPart p fun x => { x with queues := mset x.queues q { e with head := some head } } with
        flights := s.flights ++ (List.range (n - have_)).map fun j =>
          .launch p cl (some q) asid sup (base + word ((head + have_ + j) % 2 ^ log2n * 128)) none }

/-- The invalidation of a queue's TAIL line wakes its launch unit (R278), which first stores a HEAD that it has still to store. -/
def execLaunchQueueWake (part q : Nat) (s : State) : Out :=
  match (s.part part).bind fun x => mget x.queues q with
  | some e =>
    if !clusterRuns s (bitsOf 16 9 e.cfg) then .next s
    else if e.due then .next (s.storeHead part q (e.cfg.setWidth 16) (natBit 30 e.cfg.toNat))
    else if !natBit 31 e.cfg.toNat || e.halted then .next s
    else .next (s.readTail part q e)
  | none => .next s

/-! ### Placing (R282) -/

/-- Cores of the right kind in a launch's clusters that are eligible: swarm threads on SCs, gangs on GCs. -/
def eligible (s : State) (p serial : Nat) (l : Launch) (gang : Bool) : List (Nat × Nat) :=
  l.clusters.flatMap fun cl =>
    if clusterRuns s cl then
      ((if gang then [16, 17, 18, 19] else List.range 16).filter fun c => windowFits s cl c (p, serial)).map fun c => (cl, c)
    else []

/-- The load of a cluster: residents and pending of a kind over its cores of that kind (R282). -/
def loadOf (s : State) (cl : Nat) (gang : Bool) : Nat :=
  ((if gang then [16, 17, 18, 19] else List.range 16).map fun c => residents s cl c).sum

/-- The core the next thread or gang of a launch is placed on (R282). -/
def placeCore (s : State) (p serial : Nat) (l : Launch) (gang : Bool) : Option (Nat × Nat) :=
  let ks := eligible s p serial l gang
  (leastBy (fun cl => loadOf s cl gang) (dedup (ks.map (·.1)))).bind fun cl =>
    leastBy (fun x => residents s x.1 x.2) (ks.filter fun x => x.1 == cl)

/-- A placing launch's next is a gang: every swarm thread is placed. -/
def nextGang (l : Launch) : Bool := l.placedThr ≥ l.r.nthr

/-- A launch goes before another among those ready at once: higher PRIO, then lower serial (R282). -/
def goesBefore (a b : Nat × Launch) : Bool := b.2.r.prio < a.2.r.prio || (a.2.r.prio == b.2.r.prio && a.1 < b.1)

/-- Another placing launch that could place now goes first. -/
def outranked (s : State) (p serial : Nat) (x : Partition) (l : Launch) : Bool :=
  x.launches.any fun e => e.2.stage == .placing && goesBefore e (serial, l) && (placeCore s p e.1 e.2 (nextGang e.2)).isSome

/-- The next thread or gang of a launch is made pending on its core (R282). -/
def execLaunchPlace (part serial : Nat) (s : State) : Out :=
  match s.part part with
  | none => .next s
  | some x =>
    match mget x.launches serial with
    | none => .next s
    | some l =>
      if l.stage ≠ .placing || !clusterRuns s l.cl || outranked s part serial x l then .next s
      else
        let gang := nextGang l
        match placeCore s part serial l gang with
        | none => .next s
        | some (cl, core) =>
          let pend : Pending := { part := part, serial := serial, index := if gang then l.placedGang else l.placedThr, tq := l.r.tq }
          let s1 := (s.ensureWindow cl core part serial).modCore cl core fun c => { c with pending := c.pending ++ [pend] }
          let l1 := { l with placedThr := if gang then l.placedThr else l.placedThr + 1, placedGang := if gang then l.placedGang + 1 else 0 }
          .next (s1.putLaunch part serial { l1 with stage := if l1.placedThr + l1.placedGang = l.r.nthr + l.r.ngang then .placed else .placing })

/-- A launch of a revoked image of which nothing has started ends with status 3, and what was placed of it is taken back (R400). -/
def State.revokeLaunch (s : State) (p serial : Nat) (l : Launch) : State :=
  { s with clusters := s.clusters.map fun (c : Nat × Cluster) => (c.1, { c.2 with
      cores := c.2.cores.map fun (x : Nat × Core) =>
        (x.1, { x.2 with pending := x.2.pending.filter fun q => !(q.part == p && q.serial == serial) }) }) }
    |>.failLaunch p serial l 3

/-- The launches of a partition's revoked images that have not started (R400). -/
def State.revokeLaunches (s : State) (p : Nat) (x : Partition) : State :=
  x.launches.foldl (fun s e => match e.2.stage with
    | .done _ => s
    | _ => if !e.2.started && e.2.status = 0 && (mget x.images e.2.r.image).any (·.revoked) then s.revokeLaunch p e.1 e.2 else s) s

/-! ### Completion (R277) -/

/-- Something of a launch is still to end: a thread, a lane, a child, a context, or one pending. -/
def launchAlive (s : State) (p serial : Nat) : Bool :=
  let mine (l : Option (Nat × Nat)) : Bool := l == some (p, serial)
  (s.threads.any fun e => mine e.2.launch) ||
    (s.flights.any fun f => match f with
      | .migration c _ _ => mine c.launch
      | _ => false) ||
    (s.clusters.any fun c => (c.2.offCore.any fun o => o.lanes.any fun l => mine l.2.launch) ||
      c.2.cores.any fun x => x.2.waiting.any (fun t => mine t.launch) || x.2.arrivals.any (fun m => mine m.launch) ||
        x.2.heap.any (fun m => mine m.launch) || x.2.overflow.any (fun m => mine m.launch) ||
        x.2.pending.any fun q => q.part == p && q.serial == serial)

/-- One write of the completion block: its address, the atomic operation or none for a store, and the value. -/
def signalWrites (l : Launch) (status : Nat) : List (Word × Option Nat × Word) :=
  let report := if status = 0 then [] else [(l.r.signal + 8, if l.r.sigop = 1 then some (atomicCode 2 1) else none, word status)]
  let signal := match l.r.sigop with
    | 0 => [(l.r.signal, none, l.r.sigval)]
    | 1 => [(l.r.signal, some (atomicCode 0 1), l.r.sigval)]
    | _ => []
  if l.r.signal = 0 then [] else report ++ signal

/-- A launch has made one more write of its completion. -/
def State.noteSignal (s : State) (p serial : Nat) : State :=
  s.modPart p fun x => { x with launches := match mget x.launches serial with
    | some l => mset x.launches serial { l with signals := l.signals + 1 }
    | none => x.launches }

/-- The writes made in order; a refused one is reported, and a wait leaves the rest of the completion for later (R277, R475). An abort refuses
the one access that was held (R421). -/
def State.signal (s : State) (p serial : Nat) (l : Launch) : List (Word × Option Nat × Word) → State × Bool
  | [] => (s, true)
  | (va, op, v) :: rest =>
    match (if op.isSome then s.agentAtomic l.cl (launchAgent p serial) l.asid l.sup va 8
        else s.agent l.cl (launchAgent p serial) l.asid l.sup .write va 8) with
    | .wait s1 => (s1, false)
    | .refused c a =>
      (((s.launchRecord p l.cl c a).modCluster l.cl fun x => { x with aborting := none }).noteSignal p serial).signal p serial l rest
    | .ok addrs =>
      let s1 := s.agentWalks l.cl l.asid l.sup .write [(va, 8)]
      match op with
      | none => ((s1.writeFrom l.cl (addrs.zip (leBytes 8 v.toNat))).noteSignal p serial).signal p serial l rest
      | some op =>
        if atomicBarred s (keyOf l.cl 0 0) op addrs then ((s.launchRecord p l.cl 4 va).noteSignal p serial).signal p serial l rest
        else ((s1.atomicFrom l.cl op addrs (atomicNew op 8 (word (s.numAt addrs)) v 0) v 0).noteSignal p serial).signal p serial l rest

/-- A launch completes with a status: what is left of its signal, then its group entries are freed (R277, R305). -/
def State.complete (s : State) (p serial : Nat) (l : Launch) (status : Nat) : State :=
  let r := if l.r.signal.toNat % 16 ≠ 0 then (s.launchRecord p l.cl 4 l.r.signal, true)
    else s.signal p serial l ((signalWrites l status).drop l.signals)
  if r.2 then
    (r.1.modPart p fun x => { x with groups := x.groups.filter fun g => g.2.serial != serial }).putLaunch p serial
      { l with stage := .done status }
  else r.1

/-- Every thread and gang of the launch has retired `exit`, or its checks ended it: the launch completes (R277). -/
def execLaunchComplete (part serial : Nat) (s : State) : Out :=
  match (s.part part).bind fun x => mget x.launches serial with
  | some l =>
    if l.stage ≠ .placed || !clusterRuns s l.cl || launchAlive s part serial then .next s
    else .next (s.complete part serial l l.status)
  | none => .next s

end Sys2Proof.Machine
end

