-- ==== Sys2Proof/Machine/Ste.lean ====
section
/-! DEFINITION. The search-tree engine: opcode 0x40, engine 3 (R361 to R373). A command's accesses are made together, when it
completes or fails. -/

namespace Sys2Proof.Machine

/-! ### Contexts and posting (R363, R364) -/

def steCtx (s : State) (cl n : Nat) : SteCtx := (s.cluster cl).ste.ctx[n]?.getD SteCtx.reset

/-- A context word `tcfg` accepts (R363). -/
def steWordOk (i : Nat) (v : Word) : Bool :=
  match i with
  | 0 => bitsOf 56 8 v = 0 && bitsOf 0 6 v = 0
  | 3 => bitsOf 16 48 v = 0 && bitsOf 2 6 v = 0 && 1 ≤ bitsOf 8 8 v && bitsOf 8 8 v ≤ 64
  | _ => true

/-- `tcfg` (R363). -/
def execTcfg (a : Reg) (c : Ctx) (i : BitVec 2) (s : State) : Out :=
  match s.lowest with
  | none => .next s
  | some (_, t) =>
    let v := readW t a
    let put (x : SteCtx) : SteCtx := match i.toNat with
      | 0 => { x with desc := v }
      | 1 => { x with expl := v }
      | 2 => { x with loss := v }
      | _ => { x with opts := v }
    .next <| if !steWordOk i.toNat v then s.illegal
      else (s.modCluster s.cur.cl fun x => { x with ste := { x.ste with
        ctx := x.ste.ctx.setIfInBounds c.toNat (put (x.ste.ctx.toList.getD c.toNat SteCtx.reset)) } }).retireAll

/-- A lane may post to the STE, else it parks (R364). -/
def State.withSteRoom (s : State) (k : Nat) (t : Thread) (f : State) : State :=
  if !tableRoom (s.cluster s.cur.cl) 3 || t.tl ≥ 63 then s.parkAt k t (.tableFull 3) else f

/-- A lane posts its own command; `go` is what the lane then does, tl raised (R364). -/
def State.postSte (s : State) (k : Nat) (t : Thread) (fn : Nat) (c : Ctx) (va vb : Word) (dst : Reg)
    (go : State → Thread → State) : State :=
  s.withSteRoom k t <|
    let x := steCtx s s.cur.cl c.toNat
    let cmd := { engineCmd s fn c [x.desc, x.expl, x.loss, x.opts] [(laneOf (keyCore k) (keyThr k), va, vb)] [] dst t with keys := [k] }
    go ({ s with nextSeq := s.nextSeq + 1 }.modCluster s.cur.cl fun y => tablePut y 3 cmd) { t with tl := t.tl + 1 }

/-- A command posted by each lane, whose register, if it writes one, is waited for. -/
def steOp (fn : Nat) (c : Ctx) (dst : Reg) (busy : List RegRef) (va vb : Thread → Word) (s : State) : Out := s.eachLane fun s k t =>
  s.postSte k t fn c (va t) (vb t) dst fun s t' => s.finish k t (addBusy t' busy)

def execTdesc (a b : Reg) (c : Ctx) (s : State) : Out := steOp 1 c a [.w a] (fun _ => 0) (readW · b) s
def execTrdn (a b : Reg) (c : Ctx) (i : BitVec 2) (s : State) : Out := steOp 5 c a [.w a] (fun _ => i.setWidth 64) (readW · b) s
def execTroot (a : Reg) (c : Ctx) (s : State) : Out := steOp 4 c 0 [] (readW · a) (fun _ => 0) s
def execTvl (a b : Reg) (c : Ctx) (s : State) : Out := steOp 6 c 0 [] (readW · a) (readW · b) s

/-- `tback` (R369): the value is read from f[b]; a full table holds the lane before it takes an element. -/
def execTback (a b : Reg) (c : Ctx) (s : State) : Out := s.eachLane fun s k t => s.withSteRoom k t <| s.withF k t [b] none fun t1 =>
  s.postSte k t1 3 c (readW t a) (readF t1 b) 0 fun s t' => s.finish k t t'

/-- `texp` (R368): the lane parks until its command completes. -/
def execTexp (a b : Reg) (c : Ctx) (s : State) : Out := s.eachLane fun s k t =>
  let w := readW t a
  let n := bitsOf 32 9 w
  if n = 0 ∨ 256 < n ∨ bitsOf 41 23 w ≠ 0 ∨ (readW t b).toNat % 8 ≠ 0 then s.trap k t 1 0
  else s.postSte k t 2 c w (readW t b) 0 fun s t' => s.parkAt k t' .texp

/-! ### Accesses -/

/-- What a part of a command comes to: a value and the state with its writes; a failure with what it has written; or a wait. -/
inductive SteRun (α : Type) where
  | ok (a : α) (s : State)
  | fail (detail : Nat) (va : Word) (s : State)
  | wait (s : State)

/-- One part of a command after another. -/
def steThen {α β : Type} (r : SteRun α) (f : α → State → SteRun β) : SteRun β :=
  match r with
  | .ok a s => f a s
  | .fail d va s => .fail d va s
  | .wait s => .wait s

def cmdLaneA (c : Cmd) : Word := (c.ops.headD (0, 0, 0)).2.1
def cmdLaneB (c : Cmd) : Word := (c.ops.headD (0, 0, 0)).2.2

/-- An access of `n` bytes by a command: the keys of its bytes. A write meets the presence of its lines, as a read does (R373). -/
def steAccess (cl : Nat) (c : Cmd) (acc : Access) (va : Word) (n : Nat) (s : State) : SteRun (List Nat) :=
  match s.agent cl (3, c.seq) c.asid c.sup acc va n with
  | .wait s1 => .wait s1
  | .refused x v => .fail (engineDetail x) v s
  | .ok addrs => match presenceCheck s va addrs with
    | some (.park _) => .wait s
    | some _ => .fail 4 va s
    | none => .ok addrs s

/-- An 8-byte read, which goes out where its bytes lie in host memory or another device (R450, R454). -/
def steRead (cl : Nat) (c : Cmd) (va : Word) (s : State) : SteRun Word :=
  steThen (steAccess cl c .read va 8 s) fun addrs s =>
    .ok (word (s.numAt addrs)) ((s.agentReads cl addrs).agentWalks cl c.asid c.sup .read [(va, 8)])

/-- An 8-byte write. -/
def steWrite (cl : Nat) (c : Cmd) (va v : Word) (s : State) : SteRun Unit :=
  steThen (steAccess cl c .write va 8 s) fun addrs s =>
    .ok () ((s.writeFrom cl (addrs.zip (leBytes 8 v.toNat))).agentWalks cl c.asid c.sup .write [(va, 8)])

/-- A change of an 8-byte word, as one atomic (R224). -/
def steUpdate (cl : Nat) (c : Cmd) (va : Word) (f : Word → Word) (s : State) : SteRun Word :=
  steThen (steRead cl c va s) fun v s => steThen (steWrite cl c va (f v) s) fun _ s => .ok v s

/-- A step for each member of a list, in order. -/
def steEach {α : Type} (f : α → State → SteRun Unit) : List α → State → SteRun Unit
  | [], s => .ok () s
  | x :: l, s => steThen (f x s) fun _ s => steEach f l s

/-! ### Nodes and the descriptor (R361, R362) -/

def noNode : Nat := 0xFFFFFFFF
/-- The descriptor's address. -/
def steDesc (c : Cmd) : Word := c.words.getD 0 0
/-- The address of BIN k. -/
def binAddr (c : Cmd) (k : Nat) : Word := steDesc c + word (0x40 + 8 * k - 8)
/-- The address of the word that holds ROOT, and of the one that holds NEXT. -/
def rootAddr (c : Cmd) : Word := steDesc c + 0x18
def nextAddr (c : Cmd) : Word := steDesc c + 0x10

/-- A tree: its pool and its capacity. -/
structure Tree where
  pool : Word
  cap : Nat
  deriving DecidableEq, Repr

/-- POOL and CAP; a misaligned pool fails (Table 11.13). -/
def steTree (cl : Nat) (c : Cmd) (s : State) : SteRun Tree :=
  steThen (steRead cl c (steDesc c) s) fun pool s =>
    if pool.toNat % 64 ≠ 0 then .fail 1 pool s
    else steThen (steRead cl c (steDesc c + 8) s) fun cap s => .ok { pool := pool, cap := bitsOf 0 32 cap } s

/-- Word j of node x. -/
def nodeAddr (t : Tree) (x j : Nat) : Word := t.pool + word (32 * x + 8 * j)

/-- A node index that names a node of the pool. -/
def steNode {α : Type} (t : Tree) (x : Nat) (s : State) (f : State → SteRun α) : SteRun α :=
  if t.cap ≤ x then .fail 0x0D 0 s else f s

def nodeN (h : Word) : Nat := bitsOf 0 32 h
def nodeVL (h : Word) : Nat := bitsOf 32 16 h
def nodeEXP (h : Word) : Bool := natBit 48 h.toNat
def nodeTERM (h : Word) : Bool := natBit 49 h.toNat
def nodePEND (h : Word) : Bool := natBit 50 h.toNat
def nodeRET (h : Word) : Bool := natBit 51 h.toNat
def nodeFIRST (w2 : Word) : Nat := bitsOf 32 32 w2
def nodePARENT (w3 : Word) : Nat := bitsOf 0 32 w3
def nodeNCH (w3 : Word) : Nat := bitsOf 32 16 w3
def optTWO (c : Cmd) : Bool := natBit 0 (c.words.getD 3 0).toNat
def optTRP (c : Cmd) : Bool := natBit 1 (c.words.getD 3 0).toNat
def optDMAX (c : Cmd) : Nat := bitsOf 8 8 (c.words.getD 3 0)

/-! ### Descent (R365 to R367) -/

def f32 (v : Val) : Nat := (roundTo .f32 0 0 false 0 v).bits
def f32Val (bits : Nat) : Val := valueOf .f32 0 bits

/-- Score of a child from W, word 8 and P, of a parent with N visits (R366). -/
def steScore (c : Cmd) (w h : Word) (p nParent : Nat) : Nat :=
  let expl := c.words.getD 1 0
  let n := nodeN h + nodeVL h
  let diff : Int := w.toInt - nodeVL h * (c.words.getD 2 0).toInt
  let q := if n = 0 then bitsOf 32 32 expl else f32 (divV (f32Val (f32 (ofInt diff (-30) false))) (f32Val (f32 (.fin false n 0)))).val
  let t1 := f32 (sqrtV (f32Val (f32 (.fin false nParent 0)))).val
  let t2 := f32 (mulV (f32Val (bitsOf 0 32 expl)) (f32Val p)).val
  let t3 := f32 (mulV (f32Val t2) (f32Val t1)).val
  let u := f32 (divV (f32Val t3) (f32Val (f32 (.fin false (1 + n) 0)))).val
  f32 (addV 0 (f32Val q) (f32Val u)).val

/-- Better(x, y) (R366). -/
def steBetter (x y : Nat) : Bool :=
  !isNan (f32Val x) && (isNan (f32Val y) || ltV (f32Val y) (f32Val x))

/-- The best child among those of indices `first + i`: its index and score so far. -/
def bestChild (cl : Nat) (c : Cmd) (t : Tree) (nParent : Nat) : List Nat → Option (Nat × Nat) → State → SteRun Nat
  | [], best, s => .ok ((best.map (·.1)).getD 0) s
  | x :: l, best, s => steNode t x s fun s =>
    steThen (steRead cl c (nodeAddr t x 1) s) fun h s =>
      steThen (steRead cl c (nodeAddr t x 0) s) fun w s =>
        steThen (steRead cl c (nodeAddr t x 2) s) fun p s =>
          let score := steScore c w h (bitsOf 0 32 p) nParent
          let best' := match best with
            | none => some (x, score)
            | some (y, v) => if steBetter score v then some (x, score) else some (y, v)
          bestChild cl c t nParent l best' s

/-- VL of a node raised by one; past 0xFFFF it fails (Table 11.13, 0x0C). -/
def raiseVl (cl : Nat) (c : Cmd) (t : Tree) (x : Nat) (s : State) : SteRun Unit :=
  steThen (steRead cl c (nodeAddr t x 1) s) fun h s =>
    if nodeVL h = 0xFFFF then .fail 0x0C (nodeAddr t x 1) s
    else steWrite cl c (nodeAddr t x 1) (putBits h 32 16 (nodeVL h + 1)) s

/-- The loop of R366 from node x: the path, root first, and word 8 of its last node. -/
def descend (cl : Nat) (c : Cmd) (t : Tree) : Nat → List Nat → Nat → State → SteRun (List Nat × Word)
  | fuel, path, x, s =>
    steThen (steRead cl c (nodeAddr t x 1) s) fun h s =>
      steThen (steRead cl c (nodeAddr t x 3) s) fun w3 s =>
        match fuel with
        | 0 => .ok (path, h) s
        | n + 1 =>
          if !nodeEXP h || nodeTERM h || nodeNCH w3 = 0 then .ok (path, h) s
          else
            steThen (steRead cl c (nodeAddr t x 2) s) fun w2 s =>
              steThen (bestChild cl c t (nodeN h) ((List.range (nodeNCH w3)).map (nodeFIRST w2 + ·)) none s) fun y s =>
                steThen (raiseVl cl c t y s) fun _ s => descend cl c t n (path ++ [y]) y s

/-- `tdesc` (R366): its result. A root found retired restarts the command, which waits for the new root. A failure undoes every
increment (R373). (DEDUCED, log 40: unsafe.) -/
def runTdesc (cl : Nat) (c : Cmd) (s0 : State) : SteRun Word :=
  let rec_ := cmdLaneB c
  let body :=
    if rec_.toNat % 8 ≠ 0 then SteRun.fail 1 rec_ s0
    else steThen (steTree cl c s0) fun t s =>
      steThen (steRead cl c (rootAddr c) s) fun r s =>
        let root := bitsOf 0 32 r
        steNode t root s fun s =>
          steThen (steRead cl c (nodeAddr t root 1) s) fun h s =>
            if nodeRET h then .wait s
            else steThen (raiseVl cl c t root s) fun _ s =>
              steThen (descend cl c t (optDMAX c - 1) [root] root s) fun out s =>
                let path := out.1
                let words := word path.length :: path.map word
                steThen (steEach (fun (x : Nat × Word) s => steWrite cl c (rec_ + word (8 * x.1)) x.2 s) (indexed words) s) fun _ s =>
                  .ok (word (path.getLastD 0 + (path.length - 1) * 2 ^ 32 + bit01 (nodeTERM out.2) * 2 ^ 48 + bit01 (nodeEXP out.2) * 2 ^ 49)) s
  match body with
  | .fail d va _ => .fail d va s0
  | r => r

/-! ### Expansion (R368) -/

/-- A run pushed onto its bin: the link first, then head and tag (R362). The new tag is not the spec's to say. -/
def pushRun (cl : Nat) (c : Cmd) (t : Tree) (f k : Nat) (s : State) : SteRun Unit :=
  steThen (steRead cl c (binAddr c k) s) fun b s =>
    steThen (steRead cl c (nodeAddr t f 3) s) fun w3 s =>
      steThen (steWrite cl c (nodeAddr t f 3) (putBits w3 0 32 (bitsOf 0 32 b)) s) fun _ s =>
        steWrite cl c (binAddr c k) (word (f + bitsOf 0 32 (s.freeNow (c.seq % 1024)) * 2 ^ 32)) s

/-- A run popped from BIN k, or cut from NEXT while it fits; none where neither has one (R368). -/
def takeRun (cl : Nat) (c : Cmd) (t : Tree) (k : Nat) (s : State) : SteRun (Option Nat) :=
  steThen (steRead cl c (binAddr c k) s) fun b s =>
    let head := bitsOf 0 32 b
    if head ≠ noNode then
      steNode t head s fun s =>
        steThen (steRead cl c (nodeAddr t head 3) s) fun w3 s =>
          steThen (steWrite cl c (binAddr c k) (word (nodePARENT w3 + bitsOf 0 32 (s.freeNow (c.seq % 1024)) * 2 ^ 32)) s) fun _ s =>
            .ok (some head) s
    else
      steThen (steRead cl c (nextAddr c) s) fun n s =>
        let next := bitsOf 0 32 n
        if next + k ≤ t.cap then
          steThen (steWrite cl c (nextAddr c) (putBits n 0 32 (next + k)) s) fun _ s => .ok (some next) s
        else .ok none s

/-- The k new nodes of an expansion of x, and x's own fields, EXP last (R368). -/
def fillRun (cl : Nat) (c : Cmd) (t : Tree) (x f k : Nat) (s : State) : SteRun Unit :=
  let node (i : Nat) (s : State) : SteRun Unit := steNode t (f + i) s fun s =>
    steThen (steRead cl c (cmdLaneB c + word (8 * i)) s) fun row s =>
      steEach (fun (w : Nat × Word) s => steWrite cl c (nodeAddr t (f + i) w.1) w.2 s)
        [(0, 0), (1, word (bitsOf 48 1 row * 2 ^ 49)), (2, word (bitsOf 0 32 row + noNode * 2 ^ 32)),
          (3, word (x + bitsOf 32 16 row * 2 ^ 48))] s
  steThen (steEach node (List.range k) s) fun _ s =>
    steThen (steUpdate cl c (nodeAddr t x 2) (fun w => putBits w 32 32 f) s) fun _ s =>
      steThen (steUpdate cl c (nodeAddr t x 3) (fun w => putBits w 32 16 k) s) fun _ s =>
        steThen (steUpdate cl c (nodeAddr t x 1) (fun h => putBit (putBit h 48 true) 50 false) s) fun _ s => .ok () s

/-- How an expansion ends: p1, or the trap of a short pool. -/
inductive Expansion where
  | p1 (b : Bool)
  | exhausted
  deriving DecidableEq, Repr

/-- A part of the undoing of a failing `texp`: one that is refused is left undone, and one that must wait is waited for (R373). -/
def undoPart (r : SteRun Unit) (s : State) : SteRun Unit :=
  match r with
  | .fail _ _ _ => .ok () s
  | r => r

/-- A failing `texp` undoes PEND of x, and the run it took, so far as the failure lets it, and then its failure is delivered (R373). -/
def undoExpansion (cl : Nat) (c : Cmd) (t : Tree) (x k : Nat) (f : Option Nat) (detail : Nat) (va : Word) (s : State) : SteRun Expansion :=
  steThen (undoPart (steThen (steUpdate cl c (nodeAddr t x 1) (fun h => putBit h 50 false) s) fun _ s => .ok () s) s) fun _ s =>
    match f with
    | none => .fail detail va s
    | some f => steThen (undoPart (pushRun cl c t f k s) s) fun _ s => .fail detail va s

/-- `texp` (R368). -/
def runTexp (cl : Nat) (c : Cmd) (s : State) : SteRun Expansion :=
  let x := bitsOf 0 32 (cmdLaneA c)
  let k := bitsOf 32 9 (cmdLaneA c)
  steThen (steTree cl c s) fun t s => steNode t x s fun s =>
    steThen (steRead cl c (nodeAddr t x 1) s) fun h s =>
      if nodeEXP h || nodePEND h || nodeTERM h || nodeRET h then .ok (.p1 false) s
      else
        steThen (steWrite cl c (nodeAddr t x 1) (putBit h 50 true) s) fun _ s =>
          match takeRun cl c t k s with
          | .wait s => .wait s
          | .fail d va s => undoExpansion cl c t x k none d va s
          | .ok none s =>
            steThen (steUpdate cl c (nodeAddr t x 1) (fun h => putBit h 50 false) s) fun _ s =>
              .ok (if optTRP c then .exhausted else .p1 false) s
          | .ok (some f) s =>
            match fillRun cl c t x f k s with
            | .wait s => .wait s
            | .fail d va s => undoExpansion cl c t x k (some f) d va s
            | .ok _ s => .ok (.p1 true) s

/-! ### Backup, root and reads (R369 to R372) -/

/-- The nodes of a path record, root first (R365): COUNT, then words 1 to COUNT. -/
def readPath (cl : Nat) (c : Cmd) (va : Word) (s : State) : SteRun (List Nat) :=
  if va.toNat % 8 ≠ 0 then .fail 1 va s
  else steThen (steRead cl c va s) fun n s =>
    let count := bitsOf 0 8 n
    if count = 0 ∨ 64 < count then .fail 0x0F va s
    else match s.agent cl (3, c.seq) c.asid c.sup .read (va + 8) (8 * count) with
      | .wait s1 => .wait s1
      | .refused x v => .fail (engineDetail x) v s
      | .ok addrs => .ok ((List.range count).map fun j => s.numAt ((addrs.drop (8 * j)).take 4))
          ((s.agentReads cl addrs).agentWalks cl c.asid c.sup .read [(va + 8, 8 * count)])

/-- v × 2^30 to the nearest integer, ties to even, saturated (R369); none for a NaN. -/
def backupValue (bits : Nat) : Option Int :=
  match f32Val bits with
  | .nan _ => none
  | .inf neg => some (if neg then -(2 ^ 63) else 2 ^ 63 - 1)
  | .fin neg m e =>
    let n : Int := ((roundUnits 0 neg m (e + 30) 0 0).1 : Nat)
    some (max (-(2 ^ 63)) (min (2 ^ 63 - 1) (if neg then -n else n)))

/-- `tback` (R369): from the leaf to the root. -/
def runTback (cl : Nat) (c : Cmd) (s : State) : SteRun Unit :=
  match backupValue (bitsOf 0 32 (cmdLaneB c)) with
  | none => .fail 0x10 0 s
  | some v =>
    steThen (readPath cl c (cmdLaneA c) s) fun path s => steThen (steTree cl c s) fun t s =>
      steEach (fun (e : Nat × Nat) s => steNode t e.2 s fun s =>
        steThen (steUpdate cl c (nodeAddr t e.2 1)
          (fun h => putBits (putBits h 0 32 (nodeN h + 1)) 32 16 (nodeVL h + 65535)) s) fun _ s =>
          let z := if optTWO c && e.1 % 2 == 1 then -v else v
          steThen (steUpdate cl c (nodeAddr t e.2 0) (fun w => w + BitVec.ofInt 64 z) s) fun _ s => .ok () s)
        (indexed path.reverse) s

/-- `tvl` (R370). -/
def runTvl (cl : Nat) (c : Cmd) (s : State) : SteRun Unit :=
  steThen (readPath cl c (cmdLaneA c) s) fun path s => steThen (steTree cl c s) fun t s =>
    steEach (fun x s => steNode t x s fun s =>
      steThen (steUpdate cl c (nodeAddr t x 1) (fun h => putBits h 32 16 (nodeVL h + bitsOf 0 16 (cmdLaneB c))) s) fun _ s => .ok () s)
      path.reverse s

/-- One point of the walk of step 4 of R371: a node visited, whose children and whose run of children come next, children before parents; or
a run pushed. More than CAP nodes fail it. It answers the rest of the walk and the nodes visited. -/
def walkStep (cl : Nat) (c : Cmd) (t : Tree) (e : Nat × Nat) (rest : List (Nat × Nat)) (seen : Nat) (s : State) :
    SteRun (List (Nat × Nat) × Nat) :=
  if e.2 ≠ 0 then steThen (pushRun cl c t e.1 e.2 s) fun _ s => .ok (rest, seen) s
  else if t.cap ≤ seen then .fail 0x11 0 s
  else steNode t e.1 s fun s =>
    steThen (steRead cl c (nodeAddr t e.1 3) s) fun w3 s =>
      if nodeNCH w3 = 0 then .ok (rest, seen + 1) s
      else steThen (steRead cl c (nodeAddr t e.1 2) s) fun w2 s =>
        .ok ((List.range (nodeNCH w3)).map (fun i => (nodeFIRST w2 + i, 0)) ++ (nodeFIRST w2, nodeNCH w3) :: rest, seen + 1) s

/-- Steps 1 to 3 of `troot` (R371): the walk that is then to be made. Where an index at or above CAP is no child of ROOT either, detail 0x0D
comes first. (DEDUCED, log 40: unsafe.) -/
def runTroot (cl : Nat) (c : Cmd) (s : State) : SteRun (List (Nat × Nat)) :=
  let y := bitsOf 0 32 (cmdLaneA c)
  steThen (steTree cl c s) fun t s => steThen (steRead cl c (rootAddr c) s) fun rw s =>
    let r := bitsOf 0 32 rw
    steNode t r s fun s => steNode t y s fun s =>
      steThen (steRead cl c (nodeAddr t r 1) s) fun h s =>
        steThen (steRead cl c (nodeAddr t r 2) s) fun w2 s => steThen (steRead cl c (nodeAddr t r 3) s) fun w3 s =>
          let first := nodeFIRST w2
          if nodeVL h ≠ 0 ∨ y < first ∨ first + nodeNCH w3 ≤ y then .fail 0x0E 0 s
          else
            steThen (steWrite cl c (nodeAddr t r 1) (putBit h 51 true) s) fun _ s =>
              steThen (steUpdate cl c (nodeAddr t y 3) (fun w => putBits w 0 32 noNode) s) fun _ s =>
                steThen (steWrite cl c (rootAddr c) (putBits rw 0 32 y) s) fun _ s =>
                  .ok ((((List.range (nodeNCH w3)).map (first + ·)).filter (· != y)).map fun x => (x, 0)) s

/-- `trdn` (R372). -/
def runTrdn (cl : Nat) (c : Cmd) (s : State) : SteRun Word :=
  steThen (steTree cl c s) fun t s =>
    let x := bitsOf 0 32 (cmdLaneB c)
    steNode t x s fun s => steRead cl c (nodeAddr t x (cmdLaneA c).toNat) s

/-! ### Begin, completion and failure (R364, R373) -/

/-- A state that waits at a command's access: as it was, with the fault the access entered, or the stop that contains what it met. -/
def waitState (s s1 : State) (cl : Nat) : State :=
  let fbf := (s1.cluster cl).fbf.drop (s.cluster cl).fbf.length
  let fbfWait := (s1.cluster cl).fbfWait.drop (s.cluster cl).fbfWait.length
  ({ s with collectors := s1.collectors, parts := s1.parts }.modCluster cl fun x => { x with fbf := x.fbf ++ fbf, fbfWait := x.fbfWait ++ fbfWait }).walkReads
    cl ((fbf ++ fbfWait).flatMap fun (e : FbfEntry) => e.lines)

/-- The range a command registers as it begins: its path record, a destination of `tdesc`, a source of `tback` and `tvl` (R365); the
expansion row that `texp` reads, as a source of a command that writes memory (R229). -/
def pathRange (cl : Nat) (c : Cmd) (s : State) : SteRun (Option (Bool × Word × Nat)) :=
  match c.fn with
  | 1 => .ok (if (cmdLaneB c).toNat % 8 = 0 then some (true, cmdLaneB c, 8 * (optDMAX c + 1)) else none) s
  | 2 => .ok (some (false, cmdLaneB c, 8 * bitsOf 32 9 (cmdLaneA c))) s
  | 4 => .ok none s
  | 5 => .ok none s
  | _ =>
    if (cmdLaneA c).toNat % 8 ≠ 0 then .ok none s
    else match steRead cl c (cmdLaneA c) s with
      | .ok n s => .ok (some (false, cmdLaneA c, 8 * (min (bitsOf 0 8 n) 64 + 1))) s
      | .fail _ _ s => .ok none s
      | .wait s => .wait s

/-- A posted command begins, the earlier ones of its issuer having begun (R364), with its path record in the RLT (R365). -/
def execSteCommandBegin (cl i : Nat) (s : State) : Out :=
  let x := s.cluster cl
  match x.ste.table[i]? with
  | none => .next s
  | some c =>
    let go (rlt : List RltEntry) : State := s.modCluster cl fun y => { y with
      ste := { y.ste with table := y.ste.table.erase c, running := y.ste.running ++ [runOf c] }
      rlt := y.rlt ++ rlt }
    if !clusterRuns s cl || !issuerDone s c || (x.ste.table.take i).any fun e => e.issuer == c.issuer then .next s
    else match pathRange cl c s with
      | .wait s1 => .next s1
      | .fail _ _ _ => .next s
      | .ok none _ => .next (go [])
      | .ok (some (dest, va, n)) _ =>
        match s.locate cl 3 c (if dest then .write else .read) (pagePieces va n) with
        | .wait s1 => .next s1
        | .refused _ _ => .next (go [])
        | .ok pieces =>
          .next (((rltTake x (rltEntries 3 c dest (lineRuns pieces))).map go).getD s)

/-- A command leaves the engine: its RLT entries are free and tl falls. -/
def State.endSte (s : State) (cl : Nat) (c : Cmd) : State :=
  ((s.modCluster cl fun x => { x with ste := { x.ste with
    table := x.ste.table.erase c, running := x.ste.running.filter fun r => r.cmd != c } }).unlock cl 3 c).lowerTl c

/-- A result written in a command's lane. -/
def State.steResult (s : State) (c : Cmd) (v : Word) : State :=
  match s.thread (c.keys.headD 0) with
  | some t => s.putThread (c.keys.headD 0) (unBusy (setW t c.dst v) [.w c.dst])
  | none => s

/-- A `texp` retires with p1, or takes the trap of a short pool (R368). -/
def State.endTexp (s : State) (c : Cmd) (r : Expansion) : State :=
  let k := c.keys.headD 0
  match s.thread k with
  | none => s
  | some t => match r with
    | .p1 b => s.finishAt k t (setP t 1 b) (t.pc + 4)
    | .exhausted => s.trapWaiting k t 0x10

/-- The running command a row names, while its cluster's begun work goes on (R373). -/
def steRunning (s : State) (cl i : Nat) : Option Cmd :=
  if clusterFinishes s cl then ((s.cluster cl).ste.running[i]?).map (·.cmd) else none

/-- The running entry of a command changed. -/
def State.modSte (s : State) (cl : Nat) (c : Cmd) (f : Running → Running) : State :=
  s.modCluster cl fun x => { x with ste := { x.ste with running := x.ste.running.map fun (r : Running) => if r.cmd = c then f r else r } }

/-- A `troot` goes on (R371): its root moves, and then its walk makes one point a step; with no point left it completes. At a stop it stays where
it is. -/
def stepTroot (cl : Nat) (c : Cmd) (s : State) : SteRun State :=
  match ((s.cluster cl).ste.running.find? fun r => r.cmd == c).map fun r => (r.walk, r.done) with
  | some (some [], _) => .ok (s.endSte cl c) s
  | some (some (e :: rest), seen) =>
    steThen (steTree cl c s) fun t s => steThen (walkStep cl c t e rest seen s) fun w s =>
      .ok (s.modSte cl c fun r => { r with walk := some w.1, done := w.2 }) s
  | _ => steThen (runTroot cl c s) fun w s => .ok (s.modSte cl c fun r => { r with walk := some w }) s

/-- What a command comes to: the state with its effect, complete but for the walk of a `troot`. -/
def steDone (cl : Nat) (c : Cmd) (s : State) : SteRun State :=
  match c.fn with
  | 1 => steThen (runTdesc cl c s) fun v s => .ok ((s.endSte cl c).steResult c v) s
  | 2 => steThen (runTexp cl c s) fun r s => .ok ((s.endSte cl c).endTexp c r) s
  | 3 => steThen (runTback cl c s) fun _ s => .ok (s.endSte cl c) s
  | 4 => if clusterRuns s cl then stepTroot cl c s else .wait s
  | 5 => steThen (runTrdn cl c s) fun v s => .ok ((s.endSte cl c).steResult c v) s
  | _ => steThen (runTvl cl c s) fun _ s => .ok (s.endSte cl c) s

/-- A begun command goes no further for now: its root's walk is suspended at a stop (R371), or its next access waits at a fault, a block or an
absent line (R418, R422). -/
def steHeld (s : State) (cl : Nat) (c : Cmd) : Bool :=
  match steDone cl c s with
  | .wait s1 => waitState s s1 cl = s
  | _ => false

/-- A begun command makes its accesses and completes, a `troot` one point of its walk at a time (R364, R371). (DESIGN CHOICE, log 39:
unsafe.) -/
def execSteCommandComplete (cl i : Nat) (s : State) : Out :=
  match steRunning s cl i with
  | none => .next s
  | some c => match steDone cl c s with
    | .ok s1 _ => .next s1
    | .wait s1 => .next (waitState s s1 cl)
    | .fail _ _ _ => .next s

/-- A lane whose `texp` failed or was cancelled takes the deferred engine fault at it (R368). -/
def State.trapTexp (s : State) (failed : Cmd) (detail : Nat) (va : Word) (k : Nat) : State :=
  match s.thread k with
  | none => s
  | some t => s.takeTrap k t t.pc (xsRead t.xstat) 0x0F detail false va failed.pc

/-- A command fails, and cancels its issuer's later commands that have not begun (R373). -/
def State.failSte (s : State) (cl : Nat) (c : Cmd) (detail : Nat) (va : Word) : State :=
  let gone := c :: ((s.cluster cl).ste.table.filter fun e => e.issuer == c.issuer && c.seq < e.seq)
  let s2 := gone.foldl (fun s e => s.endSte cl e) s
  let s3 := gone.foldl (fun s e => if e.fn = 1 ∨ e.fn = 5 then s.clearBusy e e.keys else s) s2
  let held := cmdKeys (gone.filter fun e => e.fn == 2)
  let s4 := s3.defer c ((cmdKeys gone).filter fun k => !held.contains k) 3 detail va
  held.foldl (fun s k => s.trapTexp c detail va k) s4

/-- A begun command that can go no further fails (R373). -/
def execSteCommandFail (cl i : Nat) (s : State) : Out :=
  match steRunning s cl i with
  | none => .next s
  | some c => match steDone cl c s with
    | .fail detail va s1 => .next (s1.failSte cl c detail va)
    | _ => .next s

end Sys2Proof.Machine
end

