-- ==== Sys2Proof/Machine/Streams.lean ====
section
/-! DEFINITION. Stream commands and the placement hint: opcode 0x40, engines 4 and 5 (R283, R333 to R336), and the row of an
element read ahead. -/

namespace Sys2Proof.Machine

/-- A descriptor word `scfg` refuses: a reserved bit, COUNT = 0, or a BASE that is not a multiple of 8 (R334). -/
def badStream (base desc : Word) : Bool := bitsOf 49 15 desc ≠ 0 || bitsOf 0 32 desc = 0 || base.toNat % 8 ≠ 0

/-- `scfg` (R333, R334): a record that is refused traps as illegal though the register is bound too. (DESIGN CHOICE, log 107: unsafe.) -/
def execScfg (a b : Reg) (n : BitVec 2) (s : State) : Out := s.eachLane fun s k t =>
  let x := streamOf t n.toNat
  if badStream (readW t a) (readW t b) then s.trap k t 1 0
  else if x.state ≠ .unbound then s.trap k t 0x12 0
  else s.finish k t (putStream t n.toNat { x with base := readW t a, desc := readW t b, pos := 0, cfg := true })

/-- `son` binds from element 0 (R333, R334). -/
def execSon (n : BitVec 2) (s : State) : Out := s.eachLane fun s k t =>
  let x := streamOf t n.toNat
  if x.state ≠ .unbound ∨ x.cfg = false then s.trap k t 0x12 0
  else s.finish k t (putStream t n.toNat
    { x with pos := 0, ahead := [], dead := false, bind := x.bind + 1, state := if streamDir x then .writeBound else .readBound })

/-- `soff` unbinds, and discards the elements read ahead (R333, R335). -/
def execSoff (n : BitVec 2) (s : State) : Out := s.eachLane fun s k t =>
  (s.dropRead k n.toNat).finish k t (putStream t n.toNat { streamOf t n.toNat with state := .unbound, ahead := [], dead := false })

/-- A hint to the RKE, which alone places pages (R283): it changes no value. -/
def execHplace (_a _b : Reg) (s : State) : Out := s.eachLane fun s k t => s.finish k t t

/-- A thread's stream may be read ahead: it is read-bound with an element to come and room for it, and no acquire or append of the thread's
is still to be performed or made (R222, R335). -/
def readsAhead (t : Thread) (n : Nat) : Bool :=
  let x := streamOf t n
  x.state == .readBound && x.ahead.length < 8 && (x.pos + word x.ahead.length).toNat < streamCount x && !t.out.any outAcquires && !appendDue t

/-- The next element of a stream of a thread of a cluster is read, or fails and is marked; `name` names the thread in the fault buffer, and
`put` changes it (R335, R336): a relaxed load, which follows the thread's own earlier accesses to its bytes (R222). -/
def State.readAhead (s : State) (cl name : Nat) (t : Thread) (n : Nat) (put : State → (Thread → Thread) → State) : State :=
  let x := streamOf t n
  let va := elemAddr x (x.pos + word x.ahead.length)
  let add (s : State) (e : StreamElem) : State := put s fun t => putStream t n { streamOf t n with ahead := (streamOf t n).ahead ++ [e] }
  match s.agent cl (streamAgent name n) t.asid (xsSUP t.xstat) .read va 8 with
  | .wait s1 => s1
  | .ok addrs =>
    if !readReady t.out { kind := .load (.f 0) false, addrs := addrs, data := [], order := 0, scope := 0, pc := t.pc, serial := 0,
                          inst := s.free, lines := [], va := va } then s
    else add ((s.agentReads cl addrs).agentWalks cl t.asid (xsSUP t.xstat) .read [(va, 8)]) (.value (word (leNat (addrs.map (s.seen t.out)))))
  | .refused c _ => add s (.failed (if c = 7 then 4 else 3))

/-- A lane of a gang held off-core, by the position it left (R434). -/
def offAt (c : Cluster) (k : Nat) : Option Thread :=
  c.offCore.findSome? fun o => o.lanes.findSome? fun l => if keyCore k = o.core ∧ keyThr k = thrOf o.core o.slot l.1 then some l.2 else none

/-- An element of a read-bound stream is read ahead, up to eight of them (R335, R336): for the thread at a position, or else for the lane
that left it with its gang, whose stream goes on (R469). -/
def execStreamElementRead (k n : Nat) (s : State) : Out :=
  let cl := keyCl k
  if !clusterRuns s cl then .next s
  else match s.thread k, offAt (s.cluster cl) k with
    | some t, away =>
      if readsAhead t n then .next (s.readAhead cl k t n fun s f => s.putThread k (f t))
      else .next (away.elim s fun u => if readsAhead u n then s.readAhead cl (awayKey u.uid) u n fun s f => s.modAway u.uid f else s)
    | none, some u => .next (if readsAhead u n then s.readAhead cl (awayKey u.uid) u n fun s f => s.modAway u.uid f else s)
    | none, none => .next s

end Sys2Proof.Machine
end

