-- ==== Sys2Proof/Machine/System.lean ====
section
/-! DEFINITION. System instructions, opcode 0x60 (R404 to R410, Tables 2.5, 12.9, 13.2), trap instructions, opcode 0x61
(R433 to R435, R443 to R445), and the rows of parked register writes, the timer and the message trap. -/

namespace Sys2Proof.Machine

/-! ### The registers -/

/-- A system register's fields for a thread: bits that are reserved, bits the thread may write, and write-one-to-clear bits it
may clear (R6, R405). -/
structure SysFields where
  reserved : Word
  write : Word
  clear : Word
  deriving DecidableEq, Repr

/-- A read-only register. -/
def fieldsRO : SysFields := { reserved := 0, write := 0, clear := 0 }
/-- A register writable by every thread in the bits of a mask. -/
def fieldsRW (m : Word) : SysFields := { reserved := ~~~ m, write := m, clear := 0 }
/-- A register writable by a supervisor thread alone in the bits of a mask. -/
def fieldsRS (sup : Bool) (m : Word) : SysFields := { reserved := ~~~ m, write := if sup then m else 0, clear := 0 }

/-- The fields of XSTAT (Table 2.6); on a GC MIG is no field to write. -/
def fieldsXstat (gc sup : Bool) : SysFields :=
  { reserved := maskOf 20 44 ||| maskOf 14 2
    write := maskOf 16 4 ||| maskOf 5 1 ||| maskOf 2 3 ||| (if gc then 0 else maskOf 6 1) |||
      (if sup then maskOf 13 1 ||| maskOf 12 1 ||| maskOf 7 1 ||| maskOf 0 1 else 0)
    clear := 0 }

/-- The fields of an assigned register; none for a number that is not assigned (R38). -/
def sysFields (gc sup : Bool) (r : Nat) : Option SysFields :=
  match r with
  | 0x000 => some (fieldsXstat gc sup)
  | 0x001 => some (fieldsRW (maskOf 0 6))
  | 0x002 => some fieldsRO
  | 0x003 => some (fieldsRW (maskOf 0 32))
  | 0x004 => some (fieldsRW (maskOf 0 64))
  | 0x010 => some fieldsRO
  | 0x011 => some fieldsRO
  | 0x012 => some fieldsRO
  | 0x018 => some fieldsRO
  | 0x019 => some fieldsRO
  | 0x01A => some fieldsRO
  | 0x01B => some fieldsRO
  | 0x01C => some fieldsRO
  | 0x020 => some fieldsRO
  | 0x021 => some fieldsRO
  | 0x100 => some (fieldsRS sup (maskOf 0 16))
  | 0x101 => some (fieldsRS sup (maskOf 6 58))
  | 0x102 => some (fieldsRS sup (maskOf 20 36))
  | 0x103 => some fieldsRO
  | 0x104 => some (fieldsRS sup (maskOf 0 4))
  | 0x105 => some (fieldsRS sup (maskOf 7 49))
  | 0x106 => some (fieldsRS sup (maskOf 0 16 ||| maskOf 16 9 ||| maskOf 30 2))
  | 0x107 => some fieldsRO
  | 0x108 => some (fieldsRS sup (maskOf 0 64))
  | 0x109 => some (fieldsRS sup (maskOf 0 64))
  | 0x10A => some { fieldsRS sup (maskOf 0 6 ||| maskOf 8 9) with
      reserved := maskOf 6 2 ||| maskOf 17 46, clear := if sup then maskOf 63 1 else 0 }
  | 0x10B => some (fieldsRS sup (maskOf 0 64))
  | 0x10C => some (fieldsRS sup (maskOf 0 64))
  | 0x10D => some (fieldsRS sup (maskOf 7 49))
  | 0x10E => some (fieldsRS sup (maskOf 0 41))
  | 0x10F => some (fieldsRS sup (maskOf 7 49 ||| maskOf 0 1))
  | 0x110 => some (fieldsRS sup (maskOf 0 64))
  | _ => none

/-- CFLAGS: the union over the threads in slots and arrival queues of a cluster (R129), as they stand: a change shows at once, within
the 64 cyc the rule allows. The slot of the cellar adds nothing, and neither does a context in a core's heap or overflow list.
(DESIGN CHOICE, log 72: unsafe.) -/
def cflags (s : State) (cl : Nat) : Word :=
  let slots := s.threads.filter fun e => keyCl e.1 == cl
  let queued := (s.cluster cl).cores.flatMap fun c => c.2.arrivals.map (·.fflags)
  (slots.map (·.2.fflags) ++ queued).foldl (· ||| ·) 0

/-- The launch queue LQSEL selects. -/
def selQueue (p : Partition) : LaunchQueue :=
  (mget p.queues (bitsOf 0 4 p.lqsel)).getD { lqaddr := 0, cfg := 0, addr := 0, head := none, due := false, halted := true }

/-- XSTAT as a thread of a core reads it: on a GC MIG reads 0 (Table 2.6). -/
def readXstat (core : Nat) (w : Word) : Word := if isSC core then xsRead w else putBit (xsRead w) 6 false

/-- A register's value (Tables 2.5, 12.9, 13.2). -/
def sysValue (s : State) (k : Nat) (t : Thread) (p : Nat) (x : Partition) (r : Nat) : Word :=
  match r with
  | 0x000 => readXstat (keyCore k) t.xstat
  | 0x001 => t.fflags
  | 0x002 => cflags s (keyCl k)
  | 0x003 => t.rndseed
  | 0x004 => t.grantlim
  | 0x010 => word Config.lanes
  | 0x011 => word Config.tileK
  | 0x012 => word Config.tileN
  | 0x018 => word (keyThr k)
  | 0x019 => word (keyCore k)
  | 0x01A => word (keyCl k)
  | 0x01B => s.devno.setWidth 64
  | 0x01C => word p
  | 0x020 => word s.gtime
  | 0x021 => word (s.cyc - (mget s.dieAt (dieOf (keyCl k))).getD 0)
  | 0x100 => t.asid.setWidth 64
  | 0x101 => x.svcbase
  | 0x102 => x.astb
  | 0x103 => word (x.halfDies.toNat + (clustersIn x.halfDies).length * 2 ^ 8)
  | 0x104 => x.lqsel
  | 0x105 => (selQueue x).lqaddr
  | 0x106 => (selQueue x).cfg
  | 0x107 => s.secver.setWidth 64
  | 0x108 => t.tpc
  | 0x109 => t.tstat
  | 0x10A => t.tcause
  | 0x10B => t.tval
  | 0x10C => t.tscr
  | 0x10D => x.fhbase
  | 0x10E => x.fhcfg
  | 0x10F => x.hrbase
  | _ => t.tepc

/-- A selected queue changed (R408). -/
def State.putQueue (s : State) (p : Nat) (f : LaunchQueue → LaunchQueue) : State :=
  s.modPart p fun x => { x with queues := mset x.queues (bitsOf 0 4 x.lqsel) (f (selQueue x)) }

/-- A queue's record on its way to its launch unit. -/
def ofQueue (p q : Nat) : Flight → Bool
  | .launch p' _ (some q') _ _ _ _ => p' == p && q' == q
  | _ => false

/-- A queue registered again (R410): what its launch unit was reading is dropped, in its fault buffer too, and HEAD is to be read from
the descriptor. (DEDUCED, log 53: unsafe.) -/
def State.registerQueue (s : State) (p : Nat) (x : Partition) (v : Word) : State :=
  let q := bitsOf 0 4 x.lqsel
  let gone (e : FbfEntry) : Bool := e.engine == some (queueAgent p q)
  { s with
    flights := s.flights.filter fun f => !ofQueue p q f
    clusters := s.clusters.map fun (c : Nat × Cluster) => if x.halfDies.getLsbD (halfDieOf c.1) then
      (c.1, { c.2 with fbf := c.2.fbf.filter fun e => !gone e, fbfWait := c.2.fbfWait.filter fun e => !gone e }) else c }
    |>.putQueue p fun e => { e with cfg := v, addr := e.lqaddr, head := none, due := false, halted := false }

/-- A queue halted by LQCFG.EN = 0 (R410): the record whose reading has begun, the oldest, is still accepted. -/
def State.haltAfterRead (s : State) (p : Nat) (x : Partition) (v : Word) : State :=
  let q := bitsOf 0 4 x.lqsel
  let begun := !(selQueue x).due && fbfHolds (s.cluster (bitsOf 16 9 (selQueue x).cfg)) (queueAgent p q)
  let kept := if begun then (s.flights.filter (ofQueue p q)).take 1 else []
  { s with flights := s.flights.filter fun f => !ofQueue p q f || kept.contains f }
    |>.putQueue p fun e => { e with cfg := v, halted := true }

/-- LQCFG written (R410): with EN the queue is registered with the descriptor at LQADDR, else it is halted. -/
def State.putLqcfg (s : State) (p : Nat) (x : Partition) (v : Word) : State :=
  if natBit 31 v.toNat then s.registerQueue p x v else s.haltAfterRead p x v

/-- FHCFG.EN. -/
def fhEnabled (fhcfg : Word) : Bool := natBit 16 fhcfg.toNat

/-- FHBASE or FHCFG is about to change: the records of the partition produced before keep the old values (R414). Those that wait because
the old FHCFG.EN is 0 have no ring but the new one. (DEDUCED, log 87: unsafe.) -/
def State.pinRoutes (s : State) (p : Nat) (x : Partition) : State :=
  if !fhEnabled x.fhcfg then s
  else { s with collectors := s.collectors.map fun (e : Nat × List Record) => (e.1, e.2.map fun (r : Record) =>
      if r.part = p ∧ r.route = none then { r with route := some (x.fhbase, x.fhcfg) } else r) }

/-- A register of the thread or of its partition takes a value; a zero RNDSEED is stored as 1 (R115), and a write of ASID discards the words the
thread has fetched beyond it (R386). -/
def State.putSys (s : State) (t : Thread) (p : Nat) (x : Partition) (r : Nat) (v : Word) : State × Thread :=
  match r with
  | 0x000 => (s, { t with xstat := v })
  | 0x001 => (s, { t with fflags := v })
  | 0x003 => (s, { t with rndseed := if v = 0 then 1 else v })
  | 0x004 => (s, { t with grantlim := v })
  | 0x100 => (s.refetch t.uid, { t with asid := v.setWidth 16 })
  | 0x101 => (s.modPart p fun x => { x with svcbase := v }, t)
  | 0x102 => (s.modPart p fun x => { x with astb := v }, t)
  | 0x104 => (s.modPart p fun x => { x with lqsel := v }, t)
  | 0x105 => (s.putQueue p fun q => { q with lqaddr := v }, t)
  | 0x106 => (s.putLqcfg p x v, t)
  | 0x108 => (s, { t with tpc := v })
  | 0x109 => (s, { t with tstat := v })
  | 0x10A => (s, { t with tcause := v })
  | 0x10B => (s, { t with tval := v })
  | 0x10C => (s, { t with tscr := v })
  | 0x10D => ((s.pinRoutes p x).modPart p fun x => { x with fhbase := v }, t)
  | 0x10E => ((s.pinRoutes p x).modPart p fun x => { x with fhcfg := v }, t)
  | 0x10F => (s.modPart p fun x => { x with hrbase := v }, t)
  | 0x110 => (s, { t with tepc := v })
  | _ => (s, t)

/-- A value of a register that R5 or R410 refuses: RM of 6 or 7, or a serving cluster outside the partition. -/
def sysRefused (x : Partition) (r : Nat) (v : Word) : Bool :=
  match r with
  | 0x000 => 6 ≤ xsRM v
  | 0x106 => natBit 31 v.toNat && !(clustersIn x.halfDies).contains (bitsOf 16 9 v)
  | _ => false

/-- The value a write leaves: 1 `syswr`, 2 `sysset`, 3 `sysclr` (R405). -/
def sysNew (fn : Nat) (f : SysFields) (old a : Word) : Word :=
  match fn with
  | 1 => ((old &&& ~~~ f.write) ||| (a &&& f.write)) &&& ~~~ (a &&& f.clear)
  | 2 => old ||| (a &&& f.write)
  | _ => old &&& ~~~ (a &&& (f.write ||| f.clear))

/-- A register whose write waits for a condition (R386, R409, R410, R414). -/
def sysWaits (r : Nat) : Bool :=
  r == 0x100 || r == 0x102 || r == 0x106 || r == 0x10D || r == 0x10E || r == 0x10F

/-- A write form that applies: the old value to w[d] for `sysset` and `sysclr`, the new one to the register.
(DEDUCED, log 49: unsafe.) -/
def State.applySys (s : State) (k : Nat) (t : Thread) (p : Nat) (x : Partition) (fn r : Nat) (f : SysFields) (d : Reg) (a : Word) :
    State :=
  let old := sysValue s k t p x r
  let new := sysNew fn f old a
  let out := s.putSys t p x r new
  out.1.finishAt k t (if fn = 1 then out.2 else setW out.2 d old) (t.pc + 4)

/-- A write form's value is refused: of a `sysclr`, that of LQCFG alone, whose other bits may name a cluster it does not clear. -/
def sysTurnedDown (x : Partition) (fn r : Nat) (v : Word) : Bool := (fn != 3 || r == 0x106) && sysRefused x r v

/-- A write form in a lane (R38, R104, R405). -/
def State.sysLane (s : State) (k : Nat) (t : Thread) (fn : Nat) (r : BitVec 12) (d : Reg) (a : Word) : State :=
  match s.partOf (keyCl k), sysFields (!isSC (keyCore k)) (xsSUP t.xstat) r.toNat with
  | some (p, x), some f =>
    let n := r.toNat
    if f.write = 0 ∧ f.clear = 0 then
      s.finish k t (if fn = 1 then t else setW t d (sysValue s k t p x n))
    else if (fn ≠ 3 ∧ a &&& f.reserved ≠ 0) ∨ sysTurnedDown x fn n (sysNew fn f (sysValue s k t p x n) a) then s.trap k t 1 0
    else if sysWaits n then s.parkAt k t (.sysWrite fn r a d)
    else s.applySys k t p x fn n f d a
  | _, _ => s.trap k t 1 0

def execSyswr (a : Reg) (r : BitVec 12) (s : State) : Out := s.eachLane fun s k t => s.sysLane k t 1 r 0 (readW t a)
def execSysset (d a : Reg) (r : BitVec 12) (s : State) : Out := s.eachLane fun s k t => s.sysLane k t 2 r d (readW t a)
def execSysclr (d a : Reg) (r : BitVec 12) (s : State) : Out := s.eachLane fun s k t => s.sysLane k t 3 r d (readW t a)

/-- `sysrd` (R405). -/
def execSysrd (d : Reg) (r : BitVec 12) (s : State) : Out := s.eachLane fun s k t =>
  match s.partOf (keyCl k), sysFields (!isSC (keyCore k)) (xsSUP t.xstat) r.toNat with
  | some (p, x), some _ => s.finish k t (setW t d (sysValue s k t p x r.toNat))
  | _, _ => s.trap k t 1 0

/-! ### Parked writes (R386, R409, R410, R414) -/

/-- The parked write of a register among `rs` by the thread at a position is applied when `ready` holds of it. -/
def applyParked (k : Nat) (rs : List Nat) (ready : Thread → Bool) (s : State) : Out :=
  match s.thread k with
  | none => .next s
  | some t =>
    match t.park with
    | some { why := .sysWrite fn r a d, since := _ } =>
      if !rs.contains r.toNat || !clusterRuns s (keyCl k) || !ready t then .next s
      else match s.partOf (keyCl k), sysFields (!isSC (keyCore k)) (xsSUP t.xstat) r.toNat with
        | some (p, x), some f =>
          if sysTurnedDown x fn r.toNat (sysNew fn f (sysValue s k t p x r.toNat) a) then .next (s.trap k t 1 0)
          else .next (s.applySys k t p x fn r.toNat f d a)
        | _, _ => .next s
    | _ => .next s

/-- An append whose page is not yet mapped has not been translated (R336). -/
def untranslated (o : OutOp) : Bool := match o.kind with
  | .append _ _ _ => o.addrs.isEmpty
  | _ => false

/-- A write of ASID is made once every earlier access has been translated; the next fetch uses the new address space (R386). -/
def execSyswrAsid (k : Nat) (s : State) : Out := applyParked k [0x100] (fun t => !t.out.any untranslated) s
/-- A write of ASTB is made once every translation cache of the partition has been discarded: the model holds none (R409). -/
def execSyswrAstb (k : Nat) (s : State) : Out := applyParked k [0x102] (fun _ => true) s
/-- A write of LQCFG takes effect (R410). -/
def execLqcfgWrite (k : Nat) (s : State) : Out := applyParked k [0x106] (fun _ => true) s
/-- A write of FHBASE, FHCFG or HRBASE is made once every earlier access of the thread is performed, what its counters count among them
(R414). -/
def execFaultRoutingWrite (k : Nat) (s : State) : Out :=
  applyParked k [0x10D, 0x10E, 0x10F] (fun t => t.out.isEmpty && t.ld = 0 && t.st = 0 && t.cp = 0 && t.tl = 0) s

/-! ### feat and timer (R406, R407) -/

/-- HBM GiB of the dies released: three stacks of 48 to a die (Table 1.6). (DEDUCED, log 54: unsafe.) -/
def hbmGib (s : State) : Nat := 144 * s.dieAt.length

/-- The feature words (Table 12.8). -/
def featWord (s : State) (cl : Nat) (i : Word) : Word :=
  let x := s.partOf cl
  let mask := (x.map fun p => p.2.halfDies).getD 0
  match i.toNat with
  | 0 => word (0x0001 + 1 * 2 ^ 16)
  | 1 => word (serviceLevel s.stage + Config.clockMhz (s.stage = .full) * 2 ^ 16)
  | 2 => word (Config.lanes + Config.tileK * 2 ^ 8 + Config.tileN * 2 ^ 24)
  | 3 => word ((clustersIn mask).length + Config.scs * 2 ^ 16 + 4 * 2 ^ 24 + 16 * 2 ^ 32 + 8 * 2 ^ 40)
  | 4 => word 0x07FE
  | 5 => word s.secver.toNat
  | 6 => word (s.partNo cl + mask.toNat * 2 ^ 8)
  | 7 => word (hbmGib s + (if s.stage = .full then s.ddrGib else 0) * 2 ^ 16)
  | _ => 0

def execFeat (d a : Reg) (s : State) : Out := s.eachLane fun s k t => s.finish k t (setW t d (featWord s (keyCl k) (readW t a)))

/-- `timer` (R407, R473): arms or disarms the core's timer, and discards a pending timer trap; refused on a GC (R103). -/
def execTimer (a : Reg) (s : State) : Out := .next <| s.scOnly fun s => s.forLanes fun s k t =>
  let v := readW t a
  (s.modCore (keyCl k) (keyCore k) fun c =>
    { c with timer := if v = 0 then none else some (keyThr k, v), timerDue := none }).finish k t t

/-- GTIME reaches the armed time: the timer disarms and its trap is pending (R407, R473). -/
def execTimerExpiry (cl core : Nat) (s : State) : Out :=
  match (s.core cl core).timer with
  | some (slot, g) =>
    if clusterRuns s cl && g.toNat ≤ s.gtime then
      .next (s.modCore cl core fun c => { c with timer := none, timerDue := some slot })
    else .next s
  | none => .next s

/-! ### Asynchronous traps (R407, R471, R472, R473) -/

/-- A trap that no instruction takes: it comes between two, so that no prefixed pair does either (R56, R407). -/
def State.asyncTrap (s : State) (k : Nat) (t : Thread) (cause : Nat) : State := s.takeTrap k t t.pc (xsSaved t.xstat none) cause 0 false 0 0

/-- An asynchronous trap taken (R323, R407): a `sleep` retires first, any other waiting instruction is withdrawn. -/
def State.interrupt (s : State) (k : Nat) (t : Thread) (cause : Nat) : State :=
  if (t.park.map (·.why)) = some .sleep then
    if xsSS t.xstat then s.endSleep k
    else (s.endSleep k).asyncTrap k (retired t (t.pc + 4)) cause
  else if t.park.any fun p => budgeted p.why then ((s.withdraw k).asyncTrap k t cause).retryGrant (keyCl k)
  else s.asyncTrap k t cause

/-- The pending timer trap is taken at a boundary with IE = 1 (R407, R473). -/
def execTimerTrapTaken (k : Nat) (s : State) : Out :=
  match s.thread k with
  | none => .next s
  | some t =>
    if timerTrapDue s k t then
      let s1 := s.modCore (keyCl k) (keyCore k) fun c =>
        if (t.park.map (·.why)) = some .sleep ∧ xsSS t.xstat then c else { c with timerDue := none }
      .next (s1.interrupt k t 0x16)
    else .next s

/-- The message trap (R271, R472). -/
def execMessageInterruptTrap (k : Nat) (s : State) : Out :=
  match s.thread k with
  | none => .next s
  | some t =>
    if messageTrapDue s k t then
      .next (s.interrupt k t 0x17)
    else .next s

/-! ### svc, brk, rft, wfi (R433 to R435, R443 to R445) -/

/-- An access of a partition's host ring made for a lane, in the ring's ASID as a supervisor's (R417): a fault holds the lane, its request
kept; bad data and a link that is down are contained (R438, R440); a reading goes out where its bytes lie in host memory or another device
(R378, R450, R454). (PRESUMED, log 50: unsafe.) -/
def State.ringAccess (s : State) (k : Nat) (t : Thread) (p : Nat) (x : Partition) (c : HostCall) (acc : Access) (va : Word) (n : Nat)
    (f : List Nat → State) : State :=
  let cl := keyCl k
  match checkAccess s true cl p x c.asid true acc va n with
  | .ok addrs lines =>
    if let some key := linkHeld s (acc == .write) addrs then s.containLink p cl (keyCore k) key t.pc
    else if acc = .write && tableHeld s addrs then s.parkAt k t .ring
    else if acc = .write && farRefused s p (addrs.headD 0) true then s.trap k t 4 va
    else if acc = .write && farRefused s p (addrs.getLastD 0) true then s.trap k t 4 (edgeOf va n)
    else match (if acc = .write then none else badAmong s addrs) with
      | some b => s.containBad p cl (keyCore k) b t.pc
      | none =>
        let s1 := (f addrs).walkReads cl lines
        if acc = .write then s1 else s1.farRequest p 0 addrs []
  | .trap 0x15 key => s.containKey p cl (keyCore k) key.toNat t.pc
  | .trap c v => s.trap k t c v
  | .fault cause r a l =>
    (s.parkAt k t .fault).enterFbf cl r
      { key := some k, engine := none, asid := c.asid, vpn := vpnOf a, va := a, cause := cause, write := acc = .write, fetch := false,
        sup := true, lines := l, poked := false } t.pc
  | .park w => s.parkAt k t w

/-- The words of a host request (Table 13.11). -/
def hostRequest (k : Nat) (t : Thread) (index nb pos : Nat) : List Word :=
  [word (index + 1),
    word (nameOf k + laneOf (keyCore k) (keyThr k) * 2 ^ 24 + t.asid.toNat * 2 ^ 32 + nb * 2 ^ 48 + pos * 2 ^ 56), t.pc] ++
    ((List.range 8).map fun i => readW t (BitVec.ofNat 5 (10 + i))) ++ ((List.range 4).map fun i => readF t (BitVec.ofNat 5 (10 + i))) ++ [0]

/-- A lane's request is written at its index once its entry is free, its marker last (R417, R434). -/
def State.writeRequest (s : State) (k : Nat) (t : Thread) (p : Nat) (x : Partition) (c : HostCall) (index : Nat) : State :=
  if !ringRoom s (keyCl k) c then s.parkAt k t .ring
  else s.ringAccess k t p x c .read c.base 24 fun desc =>
    let ring := word (s.numAt (desc.take 8))
    let n := s.numAt ((desc.drop 8).take 8) % 32
    s.ringAccess k t p x c .write (ring + word (index % 2 ^ n * 128)) 128 fun addrs =>
      (s.writeFrom (keyCl k) (addrs.zip (wordsBytes (hostRequest k t index c.nb c.pos)))).parkAt k t .host

/-- A lane's request goes on (R434): in its turn it reserves an index at RESV, then its entry is written. (DEDUCED, log 51: unsafe.) -/
def State.askHost (s : State) (k : Nat) (t : Thread) (p : Nat) (x : Partition) (c : HostCall) : State :=
  match c.index with
  | some i => s.writeRequest k t p x c i
  | none =>
    if !ringTurn s k t c then s.parkAt k t .ring
    else s.ringAccess k t p x c .write (c.base + 0x40) 8 fun addrs =>
      let i := s.numAt addrs
      let c' : HostCall := { c with index := some i }
      let t' := { t with call := some c' }
      if let some b := badAmong s addrs then s.containBad p (keyCl k) (keyCore k) b t.pc
      else ((s.atomicFrom (keyCl k) 1 addrs (i + 1) 1 0).putThread k t').writeRequest k t' p x c' i

/-- The lanes of the issuing set whose `svc` has no request yet. -/
def State.askingKeys (s : State) : List Nat := (s.curThreads.filter fun x => x.2.call.isNone).map (·.1)

/-- One lane's `svc` in a gang (R434): with a request under way it goes on; else it asks beside the lanes `ks` of its set, once the
counters of all of them are zero and the host ring is enabled. -/
def State.svcLane (s : State) (ks : List Nat) (drained : Bool) (k : Nat) (t : Thread) : State :=
  match s.partOf (keyCl k) with
  | none => s
  | some (p, x) => match t.call with
    | some c => s.askHost k t p x c
    | none =>
      if !drained then s.parkAt k t (.svcDrain ks)
      else if !natBit 0 x.hrbase.toNat then s.parkAt k t .hostOff
      else
        let c : HostCall := { base := ringBase x.hrbase, asid := ringAsid x, index := none, nb := ks.length, pos := ks.idxOf k }
        let t' := { t with call := some c }
        (s.putThread k t').askHost k t' p x c

/-- `svc`: the software trap on an SC (R433); in a gang, once each lane's counters are zero, one host request per lane in
ascending order, each lane then waiting on the host (R434). -/
def execSvc (s : State) : Out :=
  if !s.onGC then .next (s.trapAll 0x0B)
  else
    let ks := s.askingKeys
    let drained := ks.all fun k => (s.thread k).all fun t => parkOver s k t (.drain true)
    s.eachLane fun s k t => s.svcLane ks drained k t

/-- `brk` (R443): the breakpoint trap, or with FHCFG.BRKSTOP a gang stop that can be resumed (R423 to R425).
(DEDUCED, log 55: unsafe.) -/
def execBrk (s : State) : Out :=
  match s.lowest, s.partOf s.cur.cl with
  | some (k, t), some (p, x) =>
    if natBit 18 x.fhcfg.toNat then .next (s.startStop p true (mkRecord p (keyCl k) (keyCore k) 0x0D 15 0 0 t.pc))
    else .next (s.trapAll 0x0D)
  | _, _ => .next s

/-- TSTAT holds a value XSTAT cannot (R444). -/
def tstatRefused (t : Thread) : Bool := bitsOf 20 44 t.tstat ≠ 0 || bitsOf 14 2 t.tstat ≠ 0 || 6 ≤ xsRM t.tstat

/-- `rft` (R444), refused while a lane of the set is no supervisor (R80, R104); a GC's MIG reads 0 (Table 2.6). -/
def execRft (s : State) : Out := .next <| s.supOnly fun s => s.forLanes fun s k t =>
  if tstatRefused t then s.trap k t 1 0
  else
    let r := returnThread t
    let r' := { r with xstat := readXstat (keyCore k) r.xstat }
    if xsSS t.xstat then s.stepTrap k r' else s.putThread k r'

/-- `wfi` (R445): it retires on a wake, which it consumes, or with a timer or message pending; else it parks. -/
def execWfi (s : State) : Out := .next <| s.supOnly fun s => s.forLanes fun s k t =>
  if s.wakes.contains k then { s with wakes := s.wakes.erase k }.finish k t t
  else if parkOver s k t .wfi then s.finish k t t
  else s.parkAt k t .wfi

end Sys2Proof.Machine
end

