-- ==== Sys2Proof/Machine/Faults.lean ====
section
/-! DEFINITION. Control words (R205, R207, R284, R421), the fault buffer (R418 to R422) and the collectors' delivery of records
(R416, R417). -/

namespace Sys2Proof.Machine

/-- A store to control word `w` is performed: `f` of the cluster and the value. -/
def ctlStore (k i w : Nat) (f : State → Nat → Word → State) (s : State) : Out :=
  match s.drainThread k with
  | none => .next s
  | some t =>
    match t.out[i]? with
    | none => .next s
    | some o =>
      if !writeReady (t.out.take i) o || !lanesBefore s k o || o.kind != .store then .next s
      else match ctlOf o with
        | some (cl, w') => if w' = w then .next (f ((s.putThread k (landStore t i)).countAccess k o) cl (word (leNat o.data))) else .next s
        | none => .next s

/-! ### CSMCTL and TQWGT -/

/-- Bank modes replaced; the banks that change start their switches (R207). -/
def putModes (c : Cluster) (v : Word) : Cluster :=
  let changed := (List.range 16).filter fun b => bitsOf (2 * b) 2 v ≠ bankMode c b
  { c with csmctl := v &&& maskOf 0 32, switching := c.switching ++ changed.map fun b => (b, bankMode c b) }

/-- A store to CSMCTL (R207); one that would change a calendar bank by now leaves it as it is (R343). -/
def execCsmctlWrite (k i : Nat) (s : State) : Out := ctlStore k i 0 (fun s cl v =>
  if (List.range 16).any fun b => isCalendar s cl b && bitsOf (2 * b) 2 v != bankMode (s.cluster cl) b then s
  else s.modCluster cl fun c => putModes c v) s

/-- A store to TQWGT (R284). -/
def execControlWordWrite (k i : Nat) (s : State) : Out := ctlStore k i 1 (fun s cl v => s.modCluster cl fun c => { c with tqwgt := v }) s

/-- Copies in flight into a bank, and engine operations with a range in it (step 1 of R207). -/
def bankInUse (s : State) (cl b : Nat) : Bool :=
  let line := scratchAddr cl (b * 0x20000) / 64
  (s.clusters.any fun e => e.2.rlt.any fun x => x.line < line + 2048 && line < x.line + x.lines) ||
    (s.cluster cl).presence.any fun e => e.1 / 2048 == b && e.2 != .failed

/-- Pushes and pops waiting at the queues of a bank that leaves FIFO mode take the queue fault, with no entry placed or taken (R207,
R265). -/
def State.dropFifos (s : State) (cl b : Nat) : State :=
  let gone := (s.cluster cl).fifos.filter fun e => e.1 / 16 == b
  let s1 := s.modCluster cl fun c => { c with fifos := c.fifos.filter fun e => e.1 / 16 != b }
  (gone.flatMap fun e => e.2.pushes.map (·.1) ++ e.2.pops.map (·.1)).foldl (fun s k => match s.thread k with
    | some t => s.trapWaiting k t 0x14
    | none => s.loseQueue k) s1

/-- A bank that leaves cache mode writes back the written lines it holds (R207). Which lines a cache holds is open (log 20). -/
def State.dropCached (s : State) (cl b : Nat) : State :=
  { s with dirty := s.dirty.filter fun a => !Config.cachedIn s.free cl b a }

/-- A bank's oldest switch ends (R207): written lines of a cache are written back, entries of a FIFO are discarded, the contents are
undefined, every line is present. (DEDUCED, log 56: safe.) -/
def execCsmBankSwitchComplete (cl bank : Nat) (s : State) : Out :=
  match (s.cluster cl).switching.find? fun e => e.1 == bank with
  | none => .next s
  | some e =>
    if !clusterFinishes s cl || bankInUse s cl bank then .next s
    else
      let s1 := if e.2 = 2 then s.dropFifos cl bank else if e.2 = 0 then s.dropCached cl bank else s
      let s2 := { s1 with mem := memWriteAll s1.mem ((span (scratchAddr cl (bank * 0x20000)) 0x20000).map fun a => (a, Config.freeByte s.free a)) }
      .next (s2.modCluster cl fun c => { c with
        switching := c.switching.erase e
        presence := c.presence.filter fun p => p.1 / 2048 != bank
        fifos := c.fifos.filter fun f => f.1 / 16 != bank })

/-! ### The fault buffer (R418 to R422) -/

/-- What a held access does. -/
def fbfAccess (e : FbfEntry) : Access := if e.fetch then .fetch else if e.write then .write else .read

/-- A walk made again for an access: the cause, REASON and lines of the fault it still meets. -/
def refault (s : State) (cl : Nat) (e : FbfEntry) : Option (Nat × Nat × List Nat) :=
  match s.partOf cl with
  | none => none
  | some (_, x) =>
    match resolve s x e.asid e.sup (fbfAccess e) e.va with
    | .bad c r l => if c = 3 ∨ c = 5 then some (c, r, l) else none
    | .ok _ _ => none

/-- A lane of a gang held off-core, by its name. -/
def offLane (c : Cluster) (uid : Nat) : Option Thread :=
  (c.offCore.findSome? fun o => o.lanes.find? fun l => l.2.uid == uid).map (·.2)

/-- The thread whose access an entry holds. -/
def holder (s : State) (cl : Nat) (e : FbfEntry) : Option Thread :=
  match e.engine with
  | some (9, n) => offLane (s.cluster cl) (n / 20)
  | some _ => none
  | none => e.key.bind s.thread

/-- The PC a held access's record carries. -/
def heldPc (s : State) (cl : Nat) (e : FbfEntry) : Word := ((holder s cl e).map (·.pc)).getD 0

/-- A thread whose access is no longer held executes it again, as if it had never faulted (R419). -/
def State.unhold (s : State) (cl : Nat) (e : FbfEntry) : State :=
  match e.key, e.engine with
  | _, some (9, n) => s.modCluster cl (modOff (n / 20) fun t => { t with park := none })
  | some k, none => match s.thread k with
    | some t => s.putThread k { t with park := none }
    | none => s
  | _, _ => s

/-- An entry retries its walk (R419): it leaves, or it is kept with a new record. -/
def State.retryEntry (s : State) (cl : Nat) (e : FbfEntry) : State :=
  match refault s cl e with
  | none => (s.modCluster cl fun c => { c with fbf := c.fbf.erase e }).unhold cl e
  | some (c, r, l) =>
    let e' := { e with cause := c, lines := l, poked := false }
    (s.modCluster cl fun x => { x with fbf := x.fbf.map fun y => if y = e then e' else y }).sendRecord cl
      (faultRecord (s.partNo cl) cl r e' (heldPc s cl e))

/-- An invalidation of a line an entry recorded retries its walk (R419). -/
def execFbfRetryOnInvalidation (cl i : Nat) (s : State) : Out :=
  match (s.cluster cl).fbf[i]? with
  | some e => if e.poked && clusterRuns s cl then .next (s.retryEntry cl e) else .next s
  | none => .next s

/-- An entry freed admits the oldest access that waits for one: it retries its walk, and enters with its record if it faults
again (R422). -/
def execFbfEntryFreed (cl : Nat) (s : State) : Out :=
  let c := s.cluster cl
  match c.fbfWait with
  | [] => .next s
  | e :: rest =>
    if 256 ≤ c.fbf.length || !clusterRuns s cl then .next s
    else
      let s1 := s.putCluster cl { c with fbfWait := rest }
      match refault s cl e with
      | none => .next (s1.unhold cl e)
      | some (x, r, l) => .next (s1.enterFbf cl r { e with cause := x, lines := l, poked := false } (heldPc s cl e))

/-- The entries FBFCMD names (Table 13.5). -/
def fbfNamed (c : Cluster) (v : Word) : List FbfEntry :=
  c.fbf.filter fun e => e.asid.toNat == bitsOf 0 16 v && e.vpn == bitsOf 16 40 v

/-- FBFCMD with ABORT = 0 (R419, R421). -/
def execFbfcmdRetry (k i : Nat) (s : State) : Out := ctlStore k i 2 (fun s cl v =>
  if natBit 56 v.toNat then s else (fbfNamed (s.cluster cl) v).foldl (fun s e => s.retryEntry cl e) s) s

def outState (o : Out) (s : State) : State := match o with
  | .next s1 => s1
  | _ => s

/-- The first of some steps that changes the state. -/
def firstChange (s : State) : List (State → Out) → State
  | [] => s
  | f :: fs => let s1 := outState (f s) s
    if s1 = s then firstChange s fs else s1

/-- The steps that meet the refusal of a launch unit's access, by its number: of a queue's, the reading or storing of its descriptor, or that
of its record. -/
def launchSteps (s : State) (n : Nat) (va : Word) : List (State → Out) :=
  let accepts (f : Flight → Bool) : List (State → Out) :=
    ((indexed s.flights).filter fun e => f e.2).map fun e => execLaunchAccept e.1
  let m := n / 3
  match n % 3 with
  | 0 => accepts fun f => match f with
    | .launch _ _ none _ _ _ (some (k, _)) => k == m
    | _ => false
  | 1 =>
    if ((s.part (m / 16)).bind fun x => mget x.queues (m % 16)).any fun e => (va - e.addr).toNat < 128 then [execLaunchQueueWake (m / 16) (m % 16)]
    else accepts fun f => match f with
      | .launch p _ (some q) _ _ _ _ => p == m / 16 && q == m % 16
      | _ => false
  | _ => [execLaunchDepctrRead (m % 8) (m / 8), execLaunchComplete (m % 8) (m / 8)]

/-- The steps that serve a child's exit notice. -/
def noticeSteps (s : State) (n : Nat) : List (State → Out) :=
  ((indexed s.flights).filter fun e => match e.2 with
    | .exitNotice cl core entry _ => (cl * 64 + entry) * 20 + core == n
    | _ => false).map fun e => execExitNotice e.1

/-- The append of stream n whose access is held at a page. -/
def heldAppend (n vpn : Nat) (o : OutOp) : Bool := match o.kind with
  | .append m _ va => m == n && vpnOf va == vpn
  | _ => false

/-- An element append whose access is ended (R336, R337, R421). -/
def State.abortAppend (s : State) (n vpn : Nat) : State :=
  match s.thread (n / 4) with
  | none => s
  | some t => match (indexed t.out).find? fun e => heldAppend (n % 4) vpn e.2 with
    | some (i, o) => match o.kind with
      | .append m bind va => s.putThread (n / 4) (failAppend t i m bind va o.pc)
      | _ => s
    | none => s

/-- A held access of a command of the tree engine is ended (R421): a begun command fails at it, with what it has done and undoes (R373); one that
has not begun fails with nothing done. -/
def State.abortSte (s : State) (cl seq : Nat) (e : FbfEntry) : State :=
  let held := s.modCluster cl fun x => { x with aborting := some ((3, seq), e.vpn) }
  let steps := ((indexed (s.cluster cl).ste.running).filter fun x => x.2.cmd.seq == seq).map fun x => execSteCommandFail cl x.1
  let done := firstChange held steps
  if done = held then
    (((s.cluster cl).ste.table ++ (s.cluster cl).ste.running.map (·.cmd)).find? fun x => x.seq == seq).elim s fun x => s.failSte cl x 3 e.va
  else done.modCluster cl fun x => { x with aborting := none }

/-- A held access of an agent is ended (R421): an engine command or a stream element fails with detail 0x03; a launch unit's or a notice's
access is refused. Of a collector's the record is dropped. (DESIGN CHOICE, log 95: unsafe.) -/
def State.abortAgent (s : State) (cl : Nat) (e : FbfEntry) (id : Nat × Nat) : State :=
  let c := s.cluster cl
  let named (l : List Cmd) : Option Cmd := l.find? fun x => x.seq == id.2
  match id.1 with
  | 0 => ((named (c.mxe.table ++ c.mxe.running.map (·.cmd))).map fun x => s.failMxe cl x 3 e.va).getD s
  | 1 =>
    let s1 := ((named c.cpe).map fun x => s.modCluster cl fun y => { y with cpe := y.cpe.erase x, cpeRun := y.cpeRun ++ [runOf x] }).getD s
    match (indexed (s1.cluster cl).cpeRun).find? fun x => x.2.cmd.seq == id.2 with
    | some (i, r) => s1.failCopy cl i r 3 e.va
    | none => s1
  | 2 => ((named c.enb.queue).map fun x => s.failEnb cl x 3 e.va).getD s
  | 3 => s.abortSte cl id.2 e
  | 4 => s.abortAppend id.2 e.vpn
  | 5 =>
    let fail (t : Thread) : Thread := putStream t (id.2 % 4) { streamOf t (id.2 % 4) with ahead := (streamOf t (id.2 % 4)).ahead ++ [.failed 3] }
    match s.thread (id.2 / 4) with
    | some t => s.putThread (id.2 / 4) (fail t)
    | none => s.modAway (id.2 / 4 - awayKey 0) fail
  | 8 => { s with collectors := mset s.collectors id.2 (((mget s.collectors id.2).getD []).drop 1), reserved := mdel s.reserved id.2 }
  | n =>
    let held := s.modCluster cl fun x => { x with aborting := some (id, e.vpn) }
    let done := firstChange held (if n = 6 then launchSteps s id.2 e.va else if n = 7 then noticeSteps s id.2 else [])
    done.modCluster cl fun x => { x with aborting := none }

/-- An entry ended by an abort (R421): a thread takes the protection fault at its PC. -/
def State.abortEntry (s : State) (cl : Nat) (e : FbfEntry) : State :=
  let s1 := s.modCluster cl fun c => { c with fbf := c.fbf.erase e }
  match e.engine, e.key with
  | some (9, n), _ => s1.modCluster cl (modOff (n / 20) fun t => { t with park := some { why := .aborted e.va, since := s.cyc } })
  | some id, _ => s1.abortAgent cl e id
  | none, some k => match s1.thread k with
    | some t => s1.takeTrap k t t.pc (xsSaved t.xstat none) 4 0 false e.va 0
    | none => s1
  | none, none => s1

/-- FBFCMD with ABORT = 1 (R421). -/
def execFbfcmdAbort (k i : Nat) (s : State) : Out := ctlStore k i 2 (fun s cl v =>
  if natBit 56 v.toNat then (fbfNamed (s.cluster cl) v).foldl (fun s e => s.abortEntry cl e) s else s) s

/-! ### Records (R416, R417) -/

/-- A word of a record. -/
def recordWords (r : Record) : List Word := [r.w0, r.w1, r.w2, r.w3]

/-- A row's cluster of a partition: whose fault buffer its collector's accesses use. -/
def rowCluster (x : Partition) (row : Nat) : Nat := ((clustersIn x.halfDies).find? fun c => rowOf c == row).getD 0

/-- FHBASE and FHCFG as they stand for a record (R414). -/
def recordRoute (x : Partition) (r : Record) : Word × Word := r.route.getD (x.fhbase, x.fhcfg)

/-- The wake each placed record sends, to a thread of the partition (R380, R417). -/
def State.recordWake (s : State) (x : Partition) (fhcfg : Word) : State :=
  match natBit 17 fhcfg.toNat, nameKey (word (bitsOf 19 22 fhcfg)) with
  | false, some k => if x.halfDies.getLsbD (halfDieOf (keyCl k)) then s.send 0 (.wake none k) else s
  | _, _ => s

/-- A record written into its entry, marker last, with the wake of FHCFG (R417). -/
def State.writeRecord (s : State) (cl row : Nat) (x : Partition) (r : Record) (index : Nat) : State :=
  let route := recordRoute x r
  let asid : BitVec 16 := route.2.setWidth 16
  let base := ringBase route.1
  if !ringFree s x asid base index then s
  else match s.agent cl (8, row) asid true .read base 24 with
    | .wait s1 => s1
    | .refused _ _ => s
    | .ok desc =>
      let ring := word (s.numAt (desc.take 8))
      let n := s.numAt ((desc.drop 8).take 8) % 32
      match s.agent cl (8, row) asid true .write (ring + word (index % 2 ^ n * 32)) 32 with
      | .wait s1 => s1
      | .refused _ _ => s
      | .ok addrs =>
        let s0 := (s.agentReads cl desc).agentWalks cl asid true .read [(base, 24)]
        let s1 := (s0.writeFrom cl (addrs.zip (wordsBytes (recordWords r)))).agentWalks cl asid true .write [(ring + word (index % 2 ^ n * 32), 32)]
        { s1 with collectors := mset s1.collectors row (((mget s1.collectors row).getD []).drop 1), reserved := mdel s1.reserved row }.recordWake x route.2

/-- A collector delivers its first record (R417): it reserves an index at RESV and writes the entry once it is free. While the
FHCFG.EN it was produced under is 0 the record waits (R414). -/
def execRecordDelivery (row : Nat) (s : State) : Out :=
  match (mget s.collectors row).getD [] with
  | [] => .next s
  | r :: rest =>
    match s.part r.part with
    | none => .next { s with collectors := mset s.collectors row rest, reserved := mdel s.reserved row }
    | some x =>
      let cl := rowCluster x row
      let route := recordRoute x r
      if !fhEnabled route.2 then .next s
      else match mget s.reserved row with
        | some i => .next (s.writeRecord cl row x r i)
        | none =>
          match s.agentAtomic cl (8, row) (route.2.setWidth 16) true (ringBase route.1 + 0x40) 8 with
          | .wait s1 => .next s1
          | .refused _ _ => .next s
          | .ok addrs =>
            let i := s.numAt addrs
            let s1 := (s.atomicFrom cl 1 addrs (i + 1) 1 0).agentWalks cl (route.2.setWidth 16) true .write [(ringBase route.1 + 0x40, 8)]
            .next ({ s1 with reserved := mset s.reserved row i }.writeRecord cl row x r i)

end Sys2Proof.Machine
end

