-- ==== Sys2Proof/Machine/Stops.lean ====
section
/-! DEFINITION. Gang stops (R423 to R425), gang switches (R426 to R432), gangs off-core (R434, R436, R469), racking (R212)
and errors (R437, R438). -/

namespace Sys2Proof.Machine

/-! ### Gang stop (R423, R424) -/

/-- Core cycles to an amount of GTIME: early service counts two for a cycle (R4). -/
def gtimeCycles (s : State) (n : Nat) : Nat := if s.stage = .early then n / 2 else n

/-- The partition's lowest cluster. -/
def lowestCluster (x : Partition) : Nat := (clustersIn x.halfDies).headD 0

/-- An operation writes a register as it is performed, so its request has left its core; a `qtry`'s is a flight. -/
def answersLater (o : OutOp) : Bool := match o.kind with
  | .queueLen _ _ _ => true
  | _ => outReads o

/-- Requests of a core's loads, atomics and `qlen`s that are still on their way. -/
def requestsOut (s : State) (n : Nat) : Nat :=
  ((s.threads.filter fun e => coreNo e.1 == n).map fun e => (e.2.out.filter fun o => answersLater o && (accessTo e.1 o).isSome).length).sum

/-- The packets a core has originated since its partition's start, and those it has consumed: of the packets sent to it, all that are not
still on their way (R424). -/
def packetCounts (s : State) (n : Nat) : Nat × Nat :=
  let c := (mget s.packets n).getD (0, 0)
  ((c.1 + requestsOut s n) % 2 ^ 32, (c.2 - (s.flights.filter fun f => packetTo f == some n).length) % 2 ^ 32)

/-- The stop records of a partition's cores (R424): CYCLE and GTIME at the stop, and the packets originated and consumed. -/
def stopRecords (s : State) (x : Partition) : List (Nat × Nat × Nat × Nat × Nat) :=
  (clustersIn x.halfDies).flatMap fun cl => (List.range 20).map fun core =>
    let n := cl * 20 + core
    (n, x.stopCyc - (mget s.dieAt (dieOf cl)).getD 0, x.stopTime, (packetCounts s n).1, (packetCounts s n).2)

/-- Every cluster of the partition has stopped: the cores write their stop records and the stop report is sent (R423, R424).
(DESIGN CHOICE, log 57: unsafe.) -/
def execGangStop (part : Nat) (s : State) : Out :=
  match s.part part with
  | none => .next s
  | some x => match x.run with
    | .stopping resumable report =>
      .next ((s.modPart part fun y => { y with run := .stopped resumable, stops := stopRecords s x }).sendRecord (bitsOf 12 9 report.w0) report)
    | _ => .next s

/-! ### Restarting (R425, R432) -/

/-- A deadline at restart: TR plus the time that remained at the stop. -/
def shiftTime (tr stop g : Nat) : Nat := tr + (g - stop)

/-- A park's stall budget does not run while its partition is stopped. -/
def shiftPark (d : Nat) (t : Thread) : Thread := { t with park := t.park.map fun p => { p with since := p.since + d } }

/-- A command's age does not run either. -/
def shiftCmd (d : Nat) (c : Cmd) : Cmd := { c with posted := c.posted + d }

/-- A core's timer, the ages of its gangs and the times of its issues at restart. -/
def restartCore (tr stop d : Nat) (c : Core) : Core :=
  { c with
    timer := c.timer.map fun x => (x.1, word (shiftTime tr stop x.2.toNat))
    gangs := c.gangs.map fun (g : Nat × Gang) => (g.1, { g.2 with since := g.2.since + d })
    issued := c.issued.map fun (x : Nat × Nat) => (x.1, x.2 + d)
    issueFrom := c.issueFrom + d
    yields := c.yields.map fun (y : YieldHold) => { y with since := y.since + d } }

/-- A cluster at restart: grant deadlines, timers, stall budgets and ages keep what remained (R297, R432), and the MXE's budget
level is CAP (R176). After a switch its fault buffer's entries retry (R419). -/
def restartCluster (cyc tr stop d : Nat) (switched : Bool) (c : Cluster) : Cluster :=
  { c with
    grant := c.grant.map fun (g : Nat × GrantKey) => (g.1, { g.2 with deadline := shiftTime tr stop g.2.deadline })
    cores := c.cores.map fun (x : Nat × Core) => (x.1, restartCore tr stop d x.2)
    offCore := c.offCore.map fun (o : OffGang) =>
      { o with lanes := o.lanes.map fun (l : Nat × Thread) => (l.1, shiftPark d l.2), gang := { o.gang with since := o.gang.since + d } }
    mxe := { c.mxe with table := c.mxe.table.map (shiftCmd d), level := budCap c, levelAt := cyc }
    cpe := c.cpe.map (shiftCmd d)
    enb := { c.enb with queue := c.enb.queue.map (shiftCmd d) }
    ste := { c.ste with table := c.ste.table.map (shiftCmd d) }
    fbf := if switched then c.fbf.map fun (e : FbfEntry) => { e with poked := true } else c.fbf }

/-- The cores of a partition restart at GTIME `tr`, what was stopped at its stop going on from there. -/
def State.restart (s : State) (p : Nat) (x : Partition) (tr : Nat) (switched : Bool) : State :=
  let cyc := s.cyc - gtimeCycles s (s.gtime - tr)
  let d := cyc - x.stopCyc
  let mine (cl : Nat) : Bool := x.halfDies.getLsbD (halfDieOf cl)
  { s with
    threads := s.threads.map fun (e : Nat × Thread) => if mine (keyCl e.1) then (e.1, shiftPark d e.2) else e
    clusters := s.clusters.map fun (e : Nat × Cluster) => if mine e.1 then (e.1, restartCluster cyc tr x.stopTime d switched e.2) else e }
    |>.modPart p fun y => { y with run := .running }

/-- The agreed GTIME of a resume is reached (R425). -/
def execResumeRestart (part : Nat) (s : State) : Out :=
  match s.part part with
  | none => .next s
  | some x => match x.run with
    | .resuming tr => if tr ≤ s.gtime then .next (s.restart part x tr false) else .next s
    | _ => .next s

/-! ### Gang switch (R426 to R432) -/

/-- A save image of which nothing is written yet. -/
def blankImage : SaveImage :=
  { compl := 0, words := [], groups := [], launches := [], queues := [], spill := [], clusters := [], threads := [], bytes := [], mail := []
    wakes := [] }

/-- GTIME reaches T: every cluster of the partition stops there and the save begins (R426, R427). -/
def execSwitchOutAtT (part : Nat) (s : State) : Out :=
  match s.part part with
  | none => .next s
  | some x => match x.run with
    | .leaving t =>
      if t ≤ s.gtime then
        .next (s.modPart part fun y => { y with
          run := .saved t false false
          stopTime := t
          stopCyc := s.cyc - gtimeCycles s (s.gtime - t)
          save := some blankImage })
      else .next s
    | _ => .next s

/-- The number of a thread record within its cluster (R429). -/
def recordNo (core thr : Nat) : Nat := if isSC core then core * 16 + thr else 256 + (core - 16) * 256 + thr

/-- The remaining stall budget of a thread at its partition's stop (Table 13.8). -/
def budgetLeft (x : Partition) (t : Thread) : Nat :=
  match t.park, stallLimit t.xstat with
  | some p, some n => if budgeted p.why then p.since + n - x.stopCyc else 0
  | _, _ => 0

/-- The remaining time of the timer armed for a thread at its partition's stop (Table 13.8). -/
def timerLeft (s : State) (x : Partition) (k : Nat) : Nat :=
  match (s.core (keyCl k) (keyCore k)).timer with
  | some (slot, g) => if isSC (keyCore k) && slot == keyThr k then g.toNat - x.stopTime else 0
  | none => 0

/-- p1 to p7 in bits [7:1]. -/
def savedPreds (t : Thread) : Word := (List.range 8).foldl (fun w i => putBit w i (i != 0 && readP t (BitVec.ofNat 3 i))) 0

/-- An operation is a store that its thread still holds: a stream's append is one (R50, R427). -/
def unsent (o : OutOp) : Bool := match o.kind with
  | .store => true
  | .append _ _ _ => true
  | _ => false

/-- The unsent stores of a thread, oldest first: address, size and data in whole words (Table 13.8). -/
def unsentStores (t : Thread) : List Word :=
  (t.out.filter unsent).flatMap fun o =>
    o.va :: word o.data.length :: (List.range ((o.data.length + 7) / 8)).map fun i => word (leNat ((o.data.drop (8 * i)).take 8))

/-- The words of a thread record (Table 13.8): the codes of parks are fields the spec leaves open, and what does not fit into the 32 words
for unsent stores is in the image's threads alone. (DESIGN CHOICE, log 59: unsafe.) -/
def threadWords (s : State) (x : Partition) (k : Nat) (t : Thread) : List Word :=
  let open_ (i : Nat) : Nat := Config.freeField s.free (128 * k + i)
  [t.pc, t.xstat, t.fflags, t.rndseed, t.grantlim, t.tpc, t.tstat, t.tcause, t.tval, t.tscr, savedPreds t,
    word (t.ld + t.st * 2 ^ 8 + t.cp * 2 ^ 16 + t.tl * 2 ^ 24 + (if t.park.isSome then open_ 11 % 2 ^ 8 else 0) * 2 ^ 32),
    word (open_ 12), word (budgetLeft x t), word (timerLeft s x k), t.tepc] ++ t.w.toList ++ t.f.toList ++
    t.streams.toList.flatMap streamWords ++ (unsentStores t ++ List.replicate 32 0).take 32

/-- The place of a cluster's block in the image (R428, R429). -/
def blockAt (x : Partition) (cl : Nat) : Nat := 0x80000 + (clustersIn x.halfDies).idxOf cl * 0x540000

/-- A cluster is a partition's. -/
def ownsCluster (x : Partition) (cl : Nat) : Bool := x.halfDies.getLsbD (halfDieOf cl)

/-- The positions of a core. -/
def positions (core : Nat) : Nat := if isSC core then 16 else 256

/-- The words of the thread records, by their offsets in the image (R429); of a position that holds no thread, the first word alone: PC 0
with bit 0 set. -/
def savedThreads (s : State) (x : Partition) : List (Nat × Word) :=
  (clustersIn x.halfDies).flatMap fun cl => (List.range 20).flatMap fun core => (List.range (positions core)).flatMap fun thr =>
    let at_ := blockAt x cl + 0x40000 + recordNo core thr * 1024
    match s.thread (keyOf cl core thr) with
    | none => [(at_, 1)]
    | some t => (indexed (threadWords s x (keyOf cl core thr) t)).map fun w => (at_ + 8 * w.1, w.2)

/-- Where the spill region begins: after the last cluster block (Table 13.6). -/
def spillAt (x : Partition) : Nat := 0x80000 + (clustersIn x.halfDies).length * 0x540000

/-- The words of the image's header after COMPL (Table 13.6). How word 0x3_D840 holds both an offset and a length is open: the offset is
taken as its low half. (DESIGN CHOICE, log 59: unsafe.) -/
def headerWords (s : State) (part : Nat) (x : Partition) (t : Nat) : List (Nat × Word) :=
  [(0x08, 1), (0x10, word t), (0x18, word (part + x.halfDies.toNat * 2 ^ 8 + (clustersIn x.halfDies).length * 2 ^ 16)),
    (0x20, s.secver.setWidth 64), (0x3D840, word (spillAt x + Config.freeField s.free 0 % 2 ^ 32 * 2 ^ 32))]

/-- The stop block (R424, Table 13.6): the 32-byte record of core c of the partition's i-th cluster at 0x1840 + 32 × (20 × i + c), a word each
for its four numbers. (DESIGN CHOICE, log 59: unsafe.) -/
def stopBlock (x : Partition) (records : List (Nat × Nat × Nat × Nat × Nat)) : List (Nat × Word) :=
  records.flatMap fun r =>
    let at_ := 0x1840 + 32 * (20 * (clustersIn x.halfDies).idxOf (r.1 / 20) + r.1 % 20)
    [(at_, word r.2.1), (at_ + 8, word r.2.2.1), (at_ + 16, word r.2.2.2.1), (at_ + 24, word r.2.2.2.2)]

/-- A byte of the LMs and the banks of a partition. -/
def inWindow (x : Partition) (key : Nat) : Bool := (spotOf key).any fun sp => ownsCluster x (spotCl sp)

/-- Where a core's LM lies in its cluster's block (Table 13.7). -/
def lmBlock (core : Nat) : Nat := 0x180000 + if isSC core then core * 0x8000 else 0x80000 + (core - 16) * 0x20000

/-- The offset in the image of a byte of an LM or of the scratch and FIFO banks, by its window address (Table 13.7); banks in cache mode are no part
of it (R427). -/
def windowAt (s : State) (x : Partition) (key : Nat) : Option Nat :=
  match spotOf key with
  | some (.lm cl core off) => if ownsCluster x cl then some (blockAt x cl + lmBlock core + off) else none
  | some (.scratch cl off) =>
    if ownsCluster x cl && bankMode (s.cluster cl) (off / 0x20000) != 0 then some (blockAt x cl + 0x280000 + off) else none
  | _ => none

/-- The offset in the image of a byte of AM, by its key (Table 13.7). -/
def amAt (x : Partition) (key : Nat) : Option Nat :=
  if ownsCluster x (key / 2 ^ 19) then some (blockAt x (key / 2 ^ 19) + 0x480000 + key % 2 ^ 19) else none

/-- The cells that lie in an image, by their offsets there. -/
def blockCells (place : Nat → Option Nat) (m : Mem) : List (Nat × Byte) := m.filterMap fun c => (place c.1).map fun o => (o, c.2)

/-- What a byte of an image is, by its offset: of AM or not, and its key there (Table 13.7). -/
def imageKey (x : Partition) (o : Nat) : Option (Bool × Nat) :=
  let r := (o - 0x80000) % 0x540000
  (clustersIn x.halfDies)[(o - 0x80000) / 0x540000]?.bind fun cl =>
    if r < 0x180000 then none
    else if r < 0x200000 then some (false, lmAddr cl ((r - 0x180000) / 0x8000) (r % 0x8000))
    else if r < 0x280000 then some (false, lmAddr cl (16 + (r - 0x200000) / 0x20000) (r % 0x20000))
    else if r < 0x480000 then some (false, scratchAddr cl (r - 0x280000))
    else if r < 0x500000 then some (true, cl * 2 ^ 19 + (r - 0x480000))
    else none

/-- The bytes of an image that are AM's, or the others, at their keys. -/
def cellsBack (x : Partition) (am : Bool) (m : Mem) : List (Nat × Byte) :=
  m.filterMap fun c => (imageKey x c.1).bind fun k => if k.1 = am then some (k.2, c.2) else none

/-- What is on the channels for a partition (step 3 of R427). -/
def onChannels (p : Nat) (x : Partition) (f : Flight) : Bool :=
  match f with
  | .message _ _ dst _ _ _ => ownsCluster x (keyCl dst)
  | .wake _ dst => ownsCluster x (keyCl dst)
  | .event w0 _ _ => ownsCluster x (evCLU w0)
  | .migration _ cl _ => ownsCluster x cl
  | .exitNotice cl _ _ _ => ownsCluster x cl
  | .work cl _ _ _ _ _ => ownsCluster x cl
  | .push _ _ cl _ _ _ _ => ownsCluster x cl
  | .pop _ cl _ _ _ => ownsCluster x cl
  | .gcall k _ => ownsCluster x (keyCl k)
  | .arrival _ q _ _ => q == p
  | .tick _ q _ _ _ _ => q == p
  | .launch q _ _ _ _ _ _ => q == p
  | .results k _ _ _ _ => ownsCluster x (keyCl k)

/-- Bad data is met as a partition is saved (R438): among the bytes of its image, in a bank that is written back, or in a register. -/
def badInSave (s : State) (x : Partition) : Bool :=
  (s.bad.any fun b => inWindow x b.1 || (amSpace ≤ b.1 && ownsCluster x ((b.1 - amSpace) / 2 ^ 19))) ||
    s.threads.any fun e => ownsCluster x (keyCl e.1) && !e.2.badRegs.isEmpty

/-- The save image of a partition (Tables 13.6 to 13.8). -/
def saveImage (s : State) (part : Nat) (x : Partition) (t : Nat) : SaveImage :=
  { compl := ((x.save.map (·.compl)).getD 0) ||| 1 ||| (if badInSave s x then 0x10 else 0)
    words := headerWords s part x t ++ stopBlock x (stopRecords s x) ++ savedThreads s x
    groups := x.groups
    launches := x.launches
    queues := x.queues
    spill := s.flights.filter (onChannels part x)
    clusters := s.clusters.filter fun e => ownsCluster x e.1
    threads := s.threads.filter fun e => ownsCluster x (keyCl e.1)
    bytes := memWriteAll [] (blockCells (windowAt s x) s.mem ++ blockCells (amAt x) s.am)
    mail := s.mail.filter fun e => ownsCluster x (keyCl e.1)
    wakes := s.wakes.filter fun k => ownsCluster x (keyCl k) }

/-- An operation writes a register at its end. -/
def writesLater (o : OutOp) : Bool := match o.kind with
  | .store => false
  | .append _ _ _ => false
  | .cache _ => false
  | _ => true

/-- A thread's operation `o` waits for one issued before it, `e`: a read for acquires and for what changes its bytes, a write for reads,
acquires and its bytes, and a release for all (R216, R218, R222, R223). -/
def waitsFor (e o : OutOp) : Bool :=
  if answersLater o then !readReady [e] o || (outWrites o && !writeReady [e] o) else !writesLater o && !writeReady [e] o

/-- What an outstanding operation waits for: the thread's earlier ones, the lanes of its instruction at its bytes, accesses by the table entries it
writes, and of an entry or a message taken, the writes its producer had issued (R211, R225, R230, R239). -/
def opWaits (s : State) (k i : Nat) (o : OutOp) : List (Nat × OutOp × Nat) :=
  s.threads.flatMap fun e => ((indexed e.2.out).filter fun x =>
    if e.1 = k && x.1 ≤ i then x.1 < i && waitsFor x.2 o
    else match o.kind with
      | .pop _ _ core stamp => e.1 / 256 == core && outWrites x.2 && x.2.serial ≤ stamp
      | .work _ _ _ core stamp => e.1 / 256 == core && outWrites x.2 && x.2.serial ≤ stamp
      | .message _ _ core stamp => e.1 / 256 == core && outWrites x.2 && x.2.serial ≤ stamp
      | _ => outWrites o && e.1 != k && (x.2.lines.any (linesOf o.addrs).contains || (x.2.inst == o.inst && coreNo e.1 == coreNo k && outOverlap x.2 o))).map fun x =>
    (e.1, x.2, x.1)

/-- What by itself keeps an operation from being performed at a stop: bad data or a link that is down, an engine's access by the table entry it
writes, a fault at which an append waits, or a bank whose switch holds a `qtry`. -/
def opStops (s : State) (k : Nat) (o : OutOp) : Bool :=
  (linkHeld s (outWrites o) o.addrs).isSome || (outWrites o && engineHeld s o.addrs) || (outReads o && (badAmong s o.addrs).isSome) || match o.kind with
    | .append n _ _ => fbfHolds (s.cluster (keyCl k)) (4, k * 4 + n)
    | .popWait d => (indexed s.flights).any fun f => match f.2 with
      | .pop j cl q e true => j == k && e == d && (bankBusy (s.cluster cl) (q / 16) || behindSpill s f.1)
      | _ => false
    | _ => false

/-- An operation cannot be performed for now: it stops by itself, or waits for one that does. -/
def opStuck (s : State) : Nat → Nat → OutOp → Nat → Bool
  | 0, _, _, _ => false
  | n + 1, k, o, i => opStops s k o || (opWaits s k i o).any fun e => opStuck s n e.1 e.2.1 e.2.2

/-- An operation that has issued has still to write its registers (step 1 of R427), and nothing that the stop cannot end keeps it waiting.
(DEDUCED, log 98: unsafe.) -/
def readPending (s : State) (k : Nat) (t : Thread) : Bool :=
  (indexed t.out).any fun e => writesLater e.2 && !opStuck s ((s.threads.map fun x => x.2.out.length).sum + 1) k e.2 e.1

/-- A granted `mlds` or drain goes no further for now: it waits at a line whose copy is suspended or behind accesses, held over the stop, by the
table entries it changes. (DEDUCED, log 98: unsafe.) -/
def mxeHeld (s : State) (cl i : Nat) (r : Running) : Bool :=
  !r.staged && (r.cmd.fn == 2 || isDrain r.cmd) && (placeRefused s cl r).isNone && (rackedFrame s (placeKeys r)).isNone &&
    match placeReady s cl i r with
    | .wait s1 => s1 = s
    | _ => false

/-- A tick step waits at a block or an absent line. -/
def tickHeld (s : State) (cl : Nat) : Bool :=
  match execTickStep cl s with
  | .next s1 => s1 = s
  | _ => false

/-- The channels of a partition are quiet and its engines have completed or suspended what they were granted (R197, R260, R353, R371, R373,
R427); what is staged at a coherence point stays there. -/
def quiet (s : State) (x : Partition) : Bool :=
  (s.clusters.all fun e => !ownsCluster x e.1 || (((indexed e.2.mxe.running).all fun r => mxeHeld s e.1 r.1 r.2) && ((indexed e.2.cpeRun).all fun r => copyStill s e.1 r.1 r.2) &&
    (e.2.ste.running.all fun r => steHeld s e.1 r.cmd) && (e.2.enb.due.isEmpty || tickHeld s e.1))) &&
    s.threads.all fun e => !ownsCluster x (keyCl e.1) || !readPending s e.1 e.2

/-- The save image is whole: caches are written back, the channels' flits lie in it, and the completion word is written last (R427,
R428). STATUS is 1 when an error was met meanwhile (R438). (DESIGN CHOICE, log 59: unsafe.) -/
def execSaveComplete (part : Nat) (s : State) : Out :=
  match s.part part with
  | none => .next s
  | some x => match x.run with
    | .saved t false held =>
      if !quiet s x then .next s
      else
        let image := saveImage s part x t
        let s1 := { s with
          dirty := s.dirty.filter fun a => !x.granules.contains (a / 2 ^ 30)
          flights := s.flights.filter fun f => !onChannels part x f }
        .next (s1.modPart part fun y => { y with run := .saved t true held, stops := stopRecords s x, save := some image })
    | _ => .next s

/-- A cluster of the image with the budget words as the SMC has them now (R462). -/
def reloaded (now saved : Cluster) : Cluster := { saved with budcfg := now.budcfg, refSet := now.refSet }

/-- Every block of a partition's image restored, and its spilled flits re-injected in their order ahead of any other (R432). -/
def State.reload (s : State) (p : Nat) (x : Partition) (m : SaveImage) : State :=
  { s with
    threads := m.threads.foldl (fun (l : Map Thread) (e : Nat × Thread) => mset l e.1 e.2) (s.threads.filter fun e => !ownsCluster x (keyCl e.1))
    clusters := m.clusters.foldl (fun (l : Map Cluster) (e : Nat × Cluster) => mset l e.1 (reloaded (s.cluster e.1) e.2)) s.clusters
    mem := memWriteAll (s.mem.filter fun c => !inWindow x c.1) (cellsBack x false m.bytes)
    am := memWriteAll (s.am.filter fun c => !ownsCluster x (c.1 / 2 ^ 19)) (cellsBack x true m.bytes)
    mail := m.mail.foldl (fun (l : Map (List (Word × Nat × Nat))) (e : Nat × List (Word × Nat × Nat)) => mset l e.1 e.2) (s.mail.filter fun e => !ownsCluster x (keyCl e.1))
    wakes := m.wakes.foldl insertRising (s.wakes.filter fun k => !ownsCluster x (keyCl k))
    flights := m.spill ++ s.flights }
    |>.modPart p fun y => { y with groups := m.groups, launches := m.launches, queues := m.queues, respilled := m.spill }

/-- A switch-in restores the image and restarts the cores at TR, and a record of cause 0x18 carries T and TR (R432). Launches of images
revoked meanwhile that have not started end (R400). -/
def execSwitchInRestart (part : Nat) (s : State) : Out :=
  match s.part part with
  | none => .next s
  | some x => match x.run with
    | .entering t tr =>
      if tr ≤ s.gtime then
        let s1 := ((x.save.map fun m => s.reload part x m).getD s).restart part x tr true
        let s2 := ((s1.part part).map fun y => s1.revokeLaunches part y).getD s1
        .next (s2.sendRecord (lowestCluster x) (mkRecord part (lowestCluster x) 31 0x18 0 0 (word t) (word tr)))
      else .next s
    | _ => .next s

/-! ### Gangs off-core (R434, R436, R469) -/

/-- The park of a gang lane lets its gang leave: it holds no step of its own in progress. (DEDUCED, log 60: unsafe.) -/
def leavable : ParkWhy → Bool
  | .hostOff => false
  | .ring => false
  | .svcDrain _ => false
  | .assist _ _ => false
  | .launch => false
  | _ => true

/-- A lane has an `ntick` arrival on its way. -/
def tickOnWay (s : State) (k : Nat) : Bool := s.flights.any fun f => match f with
  | .tick ks _ _ _ _ _ => ks.contains k
  | _ => false

/-- A lane waits on the host: its request is written and the reply is still to be read. -/
def waitsOnHost (t : Thread) : Bool := (t.park.map (·.why)) == some .host

/-- A gang's lane lets its gang leave: parked, with every counter zero (step 4 of R434). -/
def laneLeaves (s : State) (k : Nat) (t : Thread) : Bool :=
  !isReady s k t && t.ld = 0 && t.st = 0 && t.cp = 0 && t.tl = 0 && !tickOnWay s k && (t.call.isNone || waitsOnHost t) &&
    t.park.any fun p => leavable p.why

/-- The lanes of a slot with their threads. -/
def gangLanes (s : State) (cl core slot : Nat) : List (Nat × Thread) :=
  (slotLanes s cl core slot).filterMap fun l => (s.thread (keyOf cl core (thrOf core slot l))).map fun t => (l, t)

/-- An entry of the fault buffer follows its lane off-core: the lane's own access, or a read of one of its streams. -/
def offEntry (ks : List (Nat × Nat)) (core : Nat) (e : FbfEntry) : FbfEntry :=
  match e.engine with
  | none => match e.key.bind fun k => ks.find? fun x => x.1 == k with
    | some (_, uid) => { e with key := none, engine := some (9, uid * 20 + core) }
    | none => e
  | some (5, n) => match ks.find? fun x => x.1 == n / 4 with
    | some (_, uid) => { e with engine := some (streamAgent (awayKey uid) (n % 4)) }
    | none => e
  | _ => e

/-- A gang leaves its slot as it stands: a lane waits on the host, no lane is ready or has a counter above zero, and an off-core record is
free (step 4 of R434). -/
def gangLeaves (s : State) (cl core slot : Nat) : Bool :=
  let lanes := gangLanes s cl core slot
  !isSC core && (s.cluster cl).offCore.length < Config.offCoreRoom && (lanes.any fun l => waitsOnHost l.2) &&
    lanes.all fun l => laneLeaves s (keyOf cl core (thrOf core slot l.1)) l.2

/-- The requests that wait at a bank, or travel to it, under other names (R434, R469). -/
def State.renameWaits (s : State) (names : List (Nat × Nat)) : State :=
  let renamed (k : Nat) : Nat := ((names.find? fun x => x.1 == k).map (·.2)).getD k
  { s with
    flights := s.flights.map fun f => match f with
      | .pop k cl q d once => .pop (renamed k) cl q d once
      | f => f
    clusters := s.clusters.map fun (e : Nat × Cluster) => (e.1, { e.2 with
      fifos := e.2.fifos.map fun (x : Nat × Fifo) => (x.1, { x.2 with
        pushes := x.2.pushes.map fun y => (renamed y.1, y.2)
        pops := x.2.pops.map fun y => (renamed y.1, y.2) }) }) }

/-- A gang whose lanes all wait leaves its gang slot for an off-core record; its requests at banks keep their places under the lanes' own
names (step 4 of R434, R469). -/
def execGangOffCore (cl core slot : Nat) (s : State) : Out :=
  let lanes := gangLanes s cl core slot
  let key (l : Nat) : Nat := keyOf cl core (thrOf core slot l)
  match mget (s.core cl core).gangs slot with
  | none => .next s
  | some g =>
    if !clusterRuns s cl || !gangLeaves s cl core slot then .next s
    else
      let s1 := lanes.foldl (fun s l => { s.dropThread (key l.1) with wakes := s.wakes.erase (key l.1) })
        (s.renameWaits (lanes.map fun l => (key l.1, awayKey l.2.uid)))
      let names := lanes.map fun l => (key l.1, l.2.uid)
      let s2 := s1.modCluster cl fun c => { c with
        offCore := c.offCore ++ [{ core := core, slot := slot, gang := g, lanes := lanes }]
        fbf := c.fbf.map (offEntry names core)
        fbfWait := c.fbfWait.map (offEntry names core) }
      .next (s2.modCore cl core fun c => { c with gangs := mdel c.gangs slot })

/-- The address of the entry of a ring's request (Table 13.11), from the keys of the ring's descriptor. -/
def ringEntry (s : State) (desc : List Nat) (index : Nat) : Word :=
  word (s.numAt (desc.take 8)) + word (index % 2 ^ (s.numAt (desc.drop 8) % 32) * 128)

/-- The reads of a ring's descriptor and of a reply's entry go out where they lie in host memory or another device (R378, R450, R454). -/
def State.replyAsked (s : State) (cl : Nat) (c : HostCall) (index : Nat) : State :=
  match s.agent cl (10, index) c.asid true .read c.base 16 with
  | .ok desc =>
    let s1 := (s.agentReads cl desc).agentWalks cl c.asid true .read [(c.base, 16), (ringEntry s desc index, 128)]
    match s.agent cl (10, index) c.asid true .read (ringEntry s desc index) 128 with
    | .ok addrs => s1.agentReads cl addrs
    | _ => s1
  | _ => s

/-- A reply's words, once DONE is set: the new w10 and w11 (R436). A page not mapped holds the reading in the fault buffer. -/
def readReply (s : State) (cl : Nat) (c : HostCall) (index : Nat) : Except State (Word × Word) :=
  match s.agent cl (10, index) c.asid true .read c.base 16 with
  | .wait s1 => .error s1
  | .refused _ _ => .error s
  | .ok desc =>
    match s.agent cl (10, index) c.asid true .read (ringEntry s desc index) 128 with
    | .wait s1 => .error s1
    | .refused _ _ => .error s
    | .ok addrs =>
      if natBit 0 (s.numAt ((addrs.drop 0x78).take 8)) then
        .ok (word (s.numAt ((addrs.drop 0x18).take 8)), word (s.numAt ((addrs.drop 0x20).take 8)))
      else .error (s.replyAsked cl c index)

/-- The request a lane waits on, with its ring index. -/
def hostWait (t : Thread) : Option (HostCall × Nat) :=
  if waitsOnHost t then t.call.bind fun c => c.index.map fun i => (c, i) else none

/-- A lane whose reply has been read: w10, w11 and the PC are set, and it waits for the other lanes' replies (R436). -/
def repliedLane (cyc : Nat) (a b : Word) (t : Thread) : Thread :=
  { setW (setW t 10 a) 11 b with pc := t.pc + 4, call := none, park := some { why := .replied, since := cyc } }

/-- The lane of an off-core record that stood at a position and waits for a reply: its name and its request. -/
def offWaiting (c : Cluster) (k : Nat) : Option (Nat × HostCall × Nat) :=
  c.offCore.findSome? fun o => o.lanes.findSome? fun l =>
    if keyCore k = o.core ∧ keyThr k = thrOf o.core o.slot l.1 then (hostWait l.2).map fun c => (l.2.uid, c) else none

/-- In a gang that stays in its slot, the lanes whose replies have been read retire their `svc` together, once no lane has a request
(R436, R470). -/
def State.resumeReplied (s : State) (cl core slot : Nat) : State :=
  let lanes := gangLanes s cl core slot
  if lanes.any fun l => l.2.call.isSome then s
  else lanes.foldl (fun s l => if (l.2.park.map (·.why)) == some .replied then
      s.finishAt (keyOf cl core (thrOf core slot l.1)) l.2 l.2 l.2.pc else s) s

/-- The reply of the lane at a position, or of the lane that left it, is read (R436). A gang that can leave its slot leaves it first
(R470). -/
def execHostReplyRead (k : Nat) (s : State) : Out :=
  let cl := keyCl k
  let core := keyCore k
  let slot := slotOf core (keyThr k)
  if !clusterRuns s cl then .next s
  else match (s.thread k).bind fun t => (hostWait t).map fun c => (t, c), offWaiting (s.cluster cl) k with
    | some (t, c, i), _ =>
      if gangLeaves s cl core slot then .next s
      else match readReply s cl c i with
        | .error s1 => .next s1
        | .ok (a, b) => .next (((s.replyAsked cl c i).putThread k (repliedLane s.cyc a b t)).resumeReplied cl core slot)
    | none, some (uid, c, i) => match readReply s cl c i with
      | .error s1 => .next s1
      | .ok (a, b) => .next ((s.replyAsked cl c i).modCluster cl (modOff uid (repliedLane s.cyc a b)))
    | none, none => .next (s.resumeReplied cl core slot)

/-- A lane at its return: a reply read has retired its `svc`; every other park stands, with the cycle it began (R436, R469). -/
def returned (t : Thread) : Thread :=
  match t.park with
  | some { why := .replied, since := _ } => retired t t.pc
  | _ => t

/-- What a lane takes before its gang issues: the protection fault of an access that was ended (R421), the stall-limit trap of a
count that expired (R469), or the step trap of its `svc` (R439). -/
def State.landLane (s : State) (k : Nat) (was : Thread) : State :=
  match s.thread k with
  | none => s
  | some t =>
    match was.park with
    | some { why := .aborted va, since := _ } => s.takeTrap k t t.pc (xsSaved t.xstat none) 4 0 false va 0
    | some { why := .queueGone, since := _ } => s.trapWaiting k t 0x14
    | some { why := .replied, since := _ } => if xsSS t.xstat then s.stepTrap k t else s
    | some { why := .stalled, since := _ } => s.trapWaiting k t 8
    | some p =>
      if budgeted p.why && (stallLimit t.xstat).any (fun n => p.since + n ≤ s.cyc) && !offOver s k was p.why then s.trapWaiting k t 8
      else s
    | none => s

/-- An entry of the fault buffer follows its lane back. -/
def backEntry (ks : List (Nat × Nat)) (e : FbfEntry) : FbfEntry :=
  match e.engine with
  | some (9, n) => match ks.find? fun x => x.2 == n / 20 with
    | some (k, _) => { e with key := some k, engine := none }
    | none => e
  | some (5, n) => match ks.find? fun x => awayKey x.2 == n / 4 with
    | some (k, _) => { e with engine := some (streamAgent k (n % 4)) }
    | none => e
  | _ => e

/-- A gang whose replies have all been read returns to the lowest free gang slot of its GC (R436). -/
def execGangReturn (cl i : Nat) (s : State) : Out :=
  match (s.cluster cl).offCore[i]? with
  | none => .next s
  | some o =>
    match freeGangSlots s cl o.core with
    | [] => .next s
    | slot :: _ =>
      if !clusterRuns s cl || o.lanes.any fun l => waitsOnHost l.2 then .next s
      else
        let key (l : Nat) : Nat := keyOf cl o.core (thrOf o.core slot l)
        let names := o.lanes.map fun l => (key l.1, l.2.uid)
        let s1 := (s.renameWaits (o.lanes.map fun l => (awayKey l.2.uid, key l.1))).modCluster cl fun c => { c with
          offCore := dropAt c.offCore i
          fbf := c.fbf.map (backEntry names)
          fbfWait := c.fbfWait.map (backEntry names) }
        let s2 := s1.modCore cl o.core fun c => { c with gangs := mset c.gangs slot { o.gang with since := s.cyc } }
        let s3 := o.lanes.foldl (fun s l => { s.putThread (key l.1) (returned l.2) with wakes := s.wakes.erase (key l.1) }) s2
        .next (o.lanes.foldl (fun s l => s.landLane (key l.1) l.2) s3)

/-! ### Racking (R212, R388) -/

/-- One partition holds the granules of `n` frames from each of two, all of them of this device's memory. -/
def sameOwner (s : State) (src dst n : Nat) : Bool :=
  let within (x : Partition) (f : Nat) : Bool :=
    f + n ≤ hostBase0 / 65536 && (List.range ((f + n - 1) / 16384 + 1 - f / 16384)).all fun i => x.granules.contains (f / 16384 + i)
  s.parts.any fun e => within e.2 src && within e.2 dst

/-- Two runs of frames have none in common. -/
def framesApart (a m b n : Nat) : Bool := a + m ≤ b || b + n ≤ a

/-- The RKE blocks a page, of the size of its leaf's level, for its last copy (R212): its copies so far changed nothing, and from here
every access to the page parks. Racking is disabled in early service (R459). (DEDUCED, log 61: unsafe.) -/
def execRackPage (page : RackedPage) (dst : Nat) (s : State) : Out :=
  let src := page.frame
  let n := 1024 ^ page.level
  if s.stage = .full && page.level ≤ 2 && src % n == 0 && dst % n == 0 && src != dst && sameOwner s src dst n &&
      s.racking.all fun e => framesApart src n e.1 e.2.2 && framesApart src n e.2.1 e.2.2 && framesApart dst n e.1 e.2.2 &&
        framesApart dst n e.2.1 e.2.2 then
    .next { s with racking := s.racking ++ [(src, dst, n)] }
  else .next s

/-- A page's move: its first frame before and after, and its frames. -/
structure Move where
  src : Nat
  dst : Nat
  n : Nat
  deriving DecidableEq, Repr

/-- Where a number lies after a move, the page holding `unit` of them to a frame: 65,536 bytes, 1,024 lines, 1 frame. -/
def moved (m : Move) (unit a : Nat) : Nat :=
  if m.src * unit ≤ a && a < (m.src + m.n) * unit then a - m.src * unit + m.dst * unit else a

/-- A number lies in the page as it was, or in its new place. -/
def inSource (m : Move) (unit a : Nat) : Bool := m.src * unit ≤ a && a < (m.src + m.n) * unit
def inTarget (m : Move) (unit a : Nat) : Bool := m.dst * unit ≤ a && a < (m.dst + m.n) * unit

/-- A registered range after a move: the parts before, within and after the page. -/
def movedRange (m : Move) (e : RltEntry) : List RltEntry :=
  let lo := m.src * 1024
  let hi := (m.src + m.n) * 1024
  let stop := e.line + e.lines
  ([(e.line, min stop lo), (max e.line lo, min stop hi), (max e.line hi, stop)].filter fun r => r.1 < r.2).map fun r =>
    { e with line := moved m 1024 r.1, lines := r.2 - r.1 }

/-- A thread's outstanding operations after a move: they are performed at the page's new home. -/
def movedThread (m : Move) (t : Thread) : Thread :=
  { t with out := t.out.map fun (o : OutOp) => { o with addrs := o.addrs.map (moved m 65536), lines := o.lines.map (moved m 1024) } }

/-- A granted command's bytes and page-table lines after a move. -/
def movedRun (m : Move) (r : Running) : Running :=
  { r with place := r.place.map fun p => (moved m 65536 p.1, p.2), lines := r.lines.map (moved m 1024) }

/-- A cluster's registered ranges and granted commands after a move. -/
def movedCluster (m : Move) (c : Cluster) : Cluster :=
  { c with
    rlt := c.rlt.flatMap (movedRange m)
    mxe := { c.mxe with running := c.mxe.running.map (movedRun m) } }

/-- A partition after a move: its images' frames, and the work its save image holds. -/
def movedPart (m : Move) (p : Partition) : Partition :=
  { p with
    images := p.images.map fun (e : Nat × Image) => (e.1, { e.2 with frames := e.2.frames.map (moved m 1) })
    save := p.save.map fun (i : SaveImage) => { i with
      threads := i.threads.map fun (e : Nat × Thread) => (e.1, movedThread m e.2)
      clusters := i.clusters.map fun (e : Nat × Cluster) => (e.1, movedCluster m e.2) } }

/-- A reduction after a move. -/
def movedReduction (m : Move) (r : Reduction) : Reduction :=
  { r with staged := r.staged.map fun (c : Contribution) => { c with rows := c.rows.map (moved m 65536) } }

/-- Entries of the fault buffers that recorded a line among `p` see it invalidated (R419). -/
def pokeWhere (s : State) (p : Nat → Bool) : State :=
  { s with clusters := s.clusters.map fun (e : Nat × Cluster) =>
      (e.1, { e.2 with fbf := e.2.fbf.map fun (x : FbfEntry) => { x with poked := x.poked || x.lines.any p } }) }

/-- A page's bytes, code state and unwritten lines in their new frames, and whatever is at work on it (R212, R388). -/
def State.movePage (s : State) (m : Move) : State :=
  let kept := s.dirty.filter fun a => !inSource m 65536 a && !inTarget m 65536 a
  { pokeWhere s fun l => frameLine 0 ≤ l && (inSource m 1 (l - frameLine 0) || inTarget m 1 (l - frameLine 0)) with
    mem := memWriteAll (s.mem.filter fun c => !inTarget m 65536 c.1)
      ((s.mem.filter fun c => inSource m 65536 c.1).map fun c => (moved m 65536 c.1, c.2))
    threads := s.threads.map fun (e : Nat × Thread) => (e.1, movedThread m e.2)
    frames := s.frames.foldl (fun l e => if inTarget m 1 e.1 then l else mset l (moved m 1 e.1) e.2) []
    dirty := ((s.dirty.filter (inSource m 65536)).map (moved m 65536)).foldl insertRising kept
    hostShares := s.hostShares.filter fun l => !inSource m 1024 l && !inTarget m 1024 l
    bad := s.bad.filter fun b => !inTarget m 65536 b.1
    reductions := s.reductions.foldl (fun l e => mset l (moved m 65536 e.1) (movedReduction m e.2)) []
    racking := s.racking.filter fun e => e.1 != m.src
    parts := s.parts.map fun (e : Nat × Partition) => (e.1, movedPart m e.2) }
    |> fun (u : State) => { u with clusters := u.clusters.map fun (e : Nat × Cluster) => (e.1, movedCluster m e.2) }

/-- A word is the good leaf of a page of `n` frames that starts at a frame of this device. -/
def leafOf (s : State) (src n e : Nat) : Bool :=
  natBit 0 e && natBit 1 e && natField 16 29 e == src && natField 45 11 e == s.devno.toNat &&
    !leafBad (if n = 1 then 0 else if n = 1024 then 1 else 2) e false

/-- A block ends (R212): the page's entry, the leaf at `pte`, is stored with the new frame, and the page is unblocked. What was translated
by the old entry goes on at the new home, so that nothing performed after the store uses the old one (R211). A word that is the entry of no
blocked page ends the oldest block with the page where it was: its entry has gone, or the RKE gives the move up. Bad data in the page is
contained and the page stays where it is (R438). (DEDUCED, log 61: unsafe.) -/
def execRackBlockEnd (pte : Nat) (s : State) : Out :=
  let e := tableWord s pte
  match s.racking.find? fun r => leafOf s r.1 r.2.2 e with
  | none => .next { s with racking := s.racking.drop 1 }
  | some r =>
    let m : Move := { src := r.1, dst := r.2.1, n := r.2.2 }
    let owner := s.parts.find? fun x => x.2.granules.contains (r.1 / 16384)
    if pte % 8 ≠ 0 || inTarget m 65536 pte || !owner.any fun x => x.2.granules.contains (pte / 2 ^ 30) then .next s
    else match s.bad.find? fun b => inSource m 65536 b.1, owner with
      | some b, some (p, x) => .next ({ s with racking := s.racking.filter fun q => q.1 != r.1 }.containBad p (lowestCluster x) 31 b 0)
      | _, _ => .next ((s.movePage m).writeNum (span (moved m 65536 pte) 8) (e - r.1 * 65536 + r.2.1 * 65536))

/-! ### Errors (R437, R438) -/

/-- The partition that owns bad storage, by the REASON that names it and its address; a register file, or what waits on a link,
is its consumer's. -/
def storageOwner (s : State) (storage addr k : Nat) : Option Nat :=
  match storage with
  | 0 => (s.parts.find? fun e => e.2.granules.contains (addr / 2 ^ 30)).map (·.1)
  | 1 => (s.parts.find? fun e => e.2.granules.contains (addr / 2 ^ 30)).map (·.1)
  | 2 => (s.parts.find? fun e => e.2.granules.contains (addr / 2 ^ 30)).map (·.1)
  | 3 => (spotOf addr).bind fun sp => (s.partOf (spotCl sp)).map (·.1)
  | 4 => (spotOf addr).bind fun sp => (s.partOf (spotCl sp)).map (·.1)
  | 5 => (s.partOf (addr / 2 ^ 19)).map (·.1)
  | _ => (s.partOf (keyCl k)).map (·.1)

/-- The 0x15 record of an error (R438): its place and PCW are the consuming thread's where the consumer is a thread of the
partition. -/
def errorRecord (s : State) (p : Nat) (x : Partition) (storage addr k : Nat) : Record :=
  match (s.thread k).filter fun _ => x.halfDies.getLsbD (halfDieOf (keyCl k)) with
  | some t => mkRecord p (keyCl k) (keyCore k) 0x15 storage 0 (word addr) t.pc
  | none => mkRecord p (lowestCluster x) 31 0x15 storage 0 (word addr) 0

/-- The key of bad storage at an address: AM has keys of its own; a register, or what waits on a link, has none.
(DEDUCED, log 58: unsafe.) -/
def badKey (s : State) (storage addr : Nat) : Option Nat :=
  if storage ≤ 4 then some (homeKey s addr) else if storage = 5 then some (amSpace + addr) else none

/-- A register by its number, of w0 to w31 and f0 to f31. -/
def regOfNo (n : Nat) : RegRef := if n % 64 < 32 then .w (BitVec.ofNat 5 n) else .f (BitVec.ofNat 5 n)

/-- Storage stays bad until it is rewritten (R438): of a register file, the register of that number of the thread at `k`.
(DESIGN CHOICE, log 110: unsafe.) -/
def State.markBad (s : State) (storage addr k : Nat) : State :=
  match badKey s storage addr, s.thread k with
  | some key, _ => { s with bad := s.bad.filter (fun b => b.1 != key) ++ [(key, storage)] }
  | none, some t => if storage % 8 = 6 && addr % 64 != 0 then s.putThread k { t with badRegs := regOfNo addr :: t.badRegs } else s
  | none, none => s

/-- An uncorrectable error (R438): contained, or, when scrubbing found it, recorded alone; its storage stays bad.
(DEDUCED, log 58: unsafe.) -/
def execUncorrectableError (storage addr k : Nat) (scrub : Bool) (s : State) : Out :=
  match storageOwner s storage addr k with
  | none => .next s
  | some p => match s.part p with
    | none => .next s
    | some x =>
      let r := errorRecord s p x (storage % 8) addr k
      let s1 := s.markBad storage addr k
      if scrub then .next (s1.sendRecord (bitsOf 12 9 r.w0) r) else .next (s1.contain p r)

/-- A correctable error is corrected before its value is used, and counted (R437). -/
def execCorrectableError (s : State) : Out := .next { s with corrected := s.corrected + 1 }

end Sys2Proof.Machine
end

