-- ==== Sys2Proof/Machine/Smc.lean ====
section
/-! DEFINITION. The SMC: its commands (R458, Table 14.3), partitions (R374, R376), the loader (R392 to R398), security versions
(R400), measurement (R402, R403), checkpoints (R442) and power budgets (R462). -/

namespace Sys2Proof.Machine

/-! ### Commands and answers (R431, R458) -/

/-- Verified firmware runs on the SMC (R401, Table 14.4). -/
def smcRuns (s : State) : Bool := match s.stage with
  | .rom => false
  | .recovery => false
  | _ => true

/-- A command answered with a status: 0 done, 1 malformed, 2 refused, 3 not authenticated (R458). -/
def State.answer (s : State) (status : Nat) (bytes : List Byte) : State := { s with smcStatus := status, smcAnswer := bytes }

/-- What serving a command comes to: it is answered; it has begun something and waits for it; or it can only wait. -/
inductive Served where
  | done (s : State)
  | wait (s : State)
  | held
  deriving DecidableEq, Repr

/-- Two commands at the SMC have the same words. -/
def sameRequest (a b : SmcRequest) : Bool := a.prio == b.prio && a.code == b.code && a.args == b.args

/-- A command may be served now: it is the one in progress; or none is, and among those that wait none has a higher priority, and none of
its own priority arrived before it (R431, R458). -/
def smcNext (waiting : List SmcRequest) (r : SmcRequest) : Bool :=
  match waiting.find? (·.begun) with
  | some b => sameRequest b r
  | none =>
    let others := waiting.filter fun e => !sameRequest e r
    let earlier := waiting.takeWhile fun e => !sameRequest e r
    !(others.any fun e => r.prio < e.prio) && !earlier.any fun e => e.prio == r.prio

/-- The commands at the SMC without the first of some words, which has been answered. -/
def answeredOne (waiting : List SmcRequest) (r : SmcRequest) : List SmcRequest :=
  match waiting.findIdx? (sameRequest · r) with
  | some i => dropAt waiting i
  | none => waiting

/-- The commands at the SMC with the first of some words in progress, which arrives if none has. -/
def begunOne (waiting : List SmcRequest) (r : SmcRequest) : List SmcRequest :=
  match waiting.findIdx? (sameRequest · r) with
  | some i => setAt waiting i { r with begun := true }
  | none => waiting ++ [{ r with begun := true }]

/-- A command at the SMC (R458): with none of the firmware running it is not read; one of the same words that waits is served in its turn, or
else this one has arrived and waits; each is answered by itself. (DESIGN CHOICE, log 88: unsafe.) -/
def smcTurn (s : State) (prio code : Nat) (args : List Nat) (f : State → Served) : Out :=
  let r : SmcRequest := { begun := false, prio := prio, code := code, args := args }
  let arrives : State := { s with smcWaiting := s.smcWaiting ++ [r] }
  if !smcRuns s then .next s
  else if !smcNext s.smcWaiting r then .next arrives
  else match f s with
    | .done u => .next { u with smcWaiting := answeredOne u.smcWaiting r }
    | .wait u => .next { u with smcWaiting := begunOne u.smcWaiting r }
    | .held => .next (if s.smcWaiting.any (·.begun) then arrives else { s with smcWaiting := begunOne s.smcWaiting r })

/-- A command that is answered as soon as it is served. -/
def smc (s : State) (code : Nat) (args : List Nat) (f : State → State) : Out := smcTurn s 0 code args fun s => .done (f s)

/-- An event recorded in the measurement log (R402). -/
def State.record (s : State) (kind : Nat) (args : List Nat) : State :=
  { s with
    measure := Config.sm3 (s.measure ++ Config.sm3 (Config.eventBytes kind args))
    log := s.log ++ [{ kind := kind, args := args }] }

/-! ### Partitions (R374, R376) -/

/-- A cluster as a partition starts with it (R376): every register, queue and engine at its reset value, but for the budget words,
which are the SMC's (R462). -/
def freshCluster (cyc : Nat) (c : Cluster) : Cluster :=
  { Cluster.reset with
    budcfg := c.budcfg
    refSet := c.refSet
    mxe := { Mxe.reset with level := budCap c, levelAt := cyc } }

/-- Everything a partition holds in its clusters, on the channels and in the collectors is gone. -/
def State.clearPart (s : State) (p : Nat) (x : Partition) : State :=
  { s with
    threads := s.threads.filter fun e => !ownsCluster x (keyCl e.1)
    mail := s.mail.filter fun e => !ownsCluster x (keyCl e.1)
    wakes := s.wakes.filter fun k => !ownsCluster x (keyCl k)
    clusters := s.clusters.map fun (e : Nat × Cluster) => if ownsCluster x e.1 then (e.1, freshCluster s.cyc e.2) else e
    flights := s.flights.filter fun f => !onChannels p x f
    packets := s.packets.filter fun e => !ownsCluster x (e.1 / 20)
    collectors := s.collectors.map fun (e : Nat × List Record) => (e.1, e.2.filter fun r => r.part != p)
    reserved := s.reserved.filter fun e => !(((mget s.collectors e.1).getD []).head?.any fun r => r.part == p) }

/-- A key lies in a partition's memory: a granule of this device or, at its host physical base, of the host; or the window of its
clusters (R376, R450). -/
def ownsKey (s : State) (x : Partition) (a : Nat) : Bool :=
  if a < 2 ^ 45 then x.granules.contains (a / 2 ^ 30)
  else if hostKey a then x.granules.any fun g => 16384 ≤ g && homeKey s (g * 2 ^ 30) ≤ a && a < homeKey s (g * 2 ^ 30) + 2 ^ 30
  else inWindow x a

/-- Every byte of a partition's memory reads zero, and no frame of it is code (R376, R388). -/
def State.zeroPart (s : State) (x : Partition) : State :=
  { s with
    mem := s.mem.filter fun c => !ownsKey s x c.1
    am := s.am.filter fun c => !ownsCluster x (c.1 / 2 ^ 19)
    frames := s.frames.filter fun f => !x.granules.contains (f.1 / 16384)
    oldText := s.oldText.filter fun o => !ownsKey s x o.addr
    dirty := s.dirty.filter fun a => !ownsKey s x a
    racking := s.racking.filter fun r => !x.granules.contains (r.1 / 16384)
    hostShares := s.hostShares.filter fun l => !ownsKey s x (l * 64)
    bad := s.bad.filter fun b => !(if amSpace ≤ b.1 && b.1 < remoteBase then ownsCluster x ((b.1 - amSpace) / 2 ^ 19) else ownsKey s x b.1)
    reductions := s.reductions.filter fun r => !ownsKey s x r.1 }

/-- Queue 0 as the SMC registers it at partition start, with SUP = 1 (R410). (DESIGN CHOICE, log 41: unsafe.) -/
def hostQueue (mask : BitVec 8) : LaunchQueue :=
  { lqaddr := 0, cfg := word (((clustersIn mask).headD 0) * 2 ^ 16 + 2 ^ 30 + 2 ^ 31), addr := 0, head := none, due := false, halted := false }

/-- A partition at its start. SVCBASE, for which Table 2.5 names neither a scope nor a first value, is one register of the partition and
starts at 0. (DESIGN CHOICE, log 70: unsafe.) -/
def newPartition (mask : BitVec 8) (granules keys : List Nat) : Partition :=
  { halfDies := mask, granules := granules, keys := keys, svcbase := 0, astb := 0, lqsel := 0, fhbase := 0, fhcfg := 0, hrbase := 0,
    queues := [(0, hostQueue mask)], groups := [], launches := [], serial := 0, images := [], run := .running, stopTime := 0,
    stopCyc := 0, save := none, respilled := [], stops := [] }

/-- Half-dies of a mask. -/
def halfDiesOf (mask : BitVec 8) : List Nat := (List.range 8).filter fun h => mask.getLsbD h

/-- A granule exists: HBM, the DDR-5 trained in full service, and host memory (R450, R459, Table 12.8). -/
def granuleExists (s : State) (g : Nat) : Bool :=
  g < 576 || (16384 ≤ g && g < 32768) || (s.stage = .full && g < 576 + s.ddrGib)

/-- The status of a create command (R374, R376, R459). -/
def createStatus (s : State) (mask : BitVec 8) (granules keys : List Nat) (auth : Bool) : Nat :=
  if !auth then 3
  else if mask = 0 || (granules.any fun g => 32768 ≤ g) || dedup granules != granules || 16 < keys.length then 1
  else if (halfDiesOf mask).any fun h => (mget s.dieAt (h / 2)).isNone then 2
  else if s.parts.any fun e => e.2.halfDies &&& mask != 0 || e.2.granules.any granules.contains then 2
  else if granules.any fun g => !granuleExists s g then 2
  else 0

/-- Command 0x01 (R374, R376): the partition's number is its lowest half-die; its memory is zeroed and its clusters are reset. -/
def execSmcCreatePartition (halfDies : BitVec 8) (granules keys : List Nat) (auth : Bool) (s : State) : Out :=
  smc s 1 (halfDies.toNat :: bit01 auth :: granules.length :: granules ++ keys) fun s =>
  match createStatus s halfDies granules keys auth with
  | 0 =>
    let p := (halfDiesOf halfDies).headD 0
    let x := newPartition halfDies granules keys
    let s1 := (s.clearPart p x).zeroPart x
    let s2 := { s1 with parts := mset s1.parts p x }.record 2 (p :: halfDies.toNat :: granules)
    (keys.foldl (fun s k => s.record 4 [p, k]) s2).answer 0 []
  | n => s.answer n []

/-- Command 0x02 (R376): the granules are zeroed before they leave the map; what was the partition's is gone. -/
def execSmcDestroyPartition (part : Nat) (auth : Bool) (s : State) : Out := smc s 2 [part, bit01 auth] fun s =>
  match auth, s.part part with
  | false, _ => s.answer 3 []
  | true, none => s.answer 2 []
  | true, some x =>
    let s1 := (s.clearPart part x).zeroPart x
    let s2 := { s1 with
      parts := mdel s1.parts part
      stepping := s1.stepping.filter (· != part)
      hostBase := s1.hostBase.filter fun e => !x.granules.contains e.1
      pfxGrants := s1.pfxGrants.filter fun g => !x.granules.contains g.1 }
    (s2.record 3 (part :: x.halfDies.toNat :: x.granules)).answer 0 []

/-! ### Images (R392 to R394) -/

/-- The number in `n` bytes of an image from an offset. -/
def field (bs : List Byte) (off n : Nat) : Nat := leNat ((bs.drop off).take n)

/-- A body of an image, as its entry gives it (R393), and whether a byte that must be zero is not. -/
structure Body where
  kind : Nat
  cls : Nat
  gen : Nat
  text : Nat
  textSize : Nat
  rodata : Nat
  rodataSize : Nat
  dataSize : Nat
  bss : Nat
  reserved : Bool
  deriving DecidableEq, Repr

/-- A kernel of an image, as its entry gives it (R393): `.args` size, constant image, launch template, an entry for each body. -/
structure KernelEntry where
  argsz : Nat
  constOff : Nat
  constSize : Nat
  template : BitVec 32
  entries : List Nat
  deriving DecidableEq, Repr

/-- A Goleg image whose header and tables are well formed (R392, R393). -/
structure ImageFile where
  bytes : List Byte
  secv : Nat
  keyid : List Byte
  bodies : List Body
  kernels : List KernelEntry
  deriving DecidableEq, Repr

/-- The 32-byte body entry at an offset (R393). -/
def bodyAt (bs : List Byte) (off : Nat) : Body :=
  { kind := field bs off 1, cls := field bs (off + 2) 2, gen := field bs (off + 4) 1, text := field bs (off + 8) 4
    textSize := field bs (off + 12) 4, rodata := field bs (off + 16) 4, rodataSize := field bs (off + 20) 4
    dataSize := field bs (off + 24) 4, bss := field bs (off + 28) 4
    reserved := field bs (off + 1) 1 != 0 || field bs (off + 5) 3 != 0 }

/-- The kernel entry at an offset (R393). -/
def kernelAt (bs : List Byte) (nbody off : Nat) : KernelEntry :=
  { argsz := field bs off 4, constOff := field bs (off + 4) 4, constSize := field bs (off + 8) 4
    template := BitVec.ofNat 32 (field bs (off + 12) 4)
    entries := (List.range nbody).map fun i => field bs (off + 16 + 8 * i) 8 }

/-- A body's sections lie before the signature, body 0 and no other is Elpol, and text is whole words (R392, R393). -/
def bodyOk (lim i : Nat) (b : Body) : Bool :=
  !b.reserved && b.kind == (if i = 0 then 0 else 1) && b.text + b.textSize ≤ lim && b.textSize % 4 == 0 &&
    b.rodata + b.rodataSize + b.dataSize ≤ lim

/-- A kernel's constant image lies before the signature, and each of its entries is a word of its body's text. -/
def kernelOk (lim : Nat) (bodies : List Body) (k : KernelEntry) : Bool :=
  k.constOff + k.constSize ≤ lim && (k.entries.zip bodies).all fun e => e.1 + 4 ≤ e.2.textSize && e.1 % 4 == 0

/-- An image's header is well formed (Table 12.6). -/
def headerOk (bs : List Byte) : Bool :=
  field bs 0 4 == 0x014D4947 && field bs 4 2 == 1 && field bs 6 2 == 0 && field bs 8 4 == bs.length && bs.length % 8 == 0 &&
    128 ≤ bs.length && 1 ≤ field bs 0x0C 2 && field bs 0x0C 2 ≤ 16 && 1 ≤ field bs 0x0E 2 && field bs 0x0E 2 ≤ 4096 &&
    field bs 0x10 4 ≤ 255 && field bs 0x14 4 == 0 && field bs 0x28 24 == 0

/-- The image of a byte string; none where its header, a table or an offset is malformed (R392, R393, R395).
(DEDUCED, log 62: unsafe.) -/
def imageFile (bs : List Byte) : Option ImageFile :=
  let lim := bs.length - 64
  let nbody := field bs 0x0C 2
  let nkern := field bs 0x0E 2
  let bodyT := field bs 0x18 4
  let kernT := field bs 0x1C 4
  let entry := 16 + 8 * nbody
  if !headerOk bs || lim < bodyT + 32 * nbody || lim < kernT + entry * nkern then none
  else
    let bodies := (List.range nbody).map fun i => bodyAt bs (bodyT + 32 * i)
    let kernels := (List.range nkern).map fun i => kernelAt bs nbody (kernT + entry * i)
    if (indexed bodies).all (fun b => bodyOk lim b.1 b.2) && kernels.all (kernelOk lim bodies) then
      some { bytes := bs, secv := field bs 0x10 4, keyid := (bs.drop 0x20).take 8, bodies := bodies, kernels := kernels }
    else none

/-- The keys of the bytes at an image's address, as many as its header says (R395). -/
def imageKeys (s : State) (a : Nat) : List Nat :=
  let n := s.numAt ((span (a + 8) 4).map (homeKey s))
  if 2 ^ 45 < a + n then [] else (span a n).map (homeKey s)

/-- The bytes at an image's address. -/
def imageBytes (s : State) (a : Nat) : List Byte := (imageKeys s a).map s.byteAt

/-- Bad data, or a link that is down, that the loader meets as it reads an image: its owner, or the partition loaded for, is contained, and the load
refused (R438, R440). (DEDUCED, log 58: unsafe.) -/
def imageStop (s : State) (p a : Nat) : Option State :=
  let keys := (span a 12).map (homeKey s) ++ imageKeys s a
  let owner (key : Nat) : Nat × Nat := ((s.parts.find? fun e => ownsKey s e.2 key).map fun e => (e.1, lowestCluster e.2)).getD
    (p, ((s.part p).map lowestCluster).getD 0)
  match keys.find? (onDownLink s), badAmong s keys with
  | some key, _ => some (s.containLink (owner key).1 (owner key).2 31 key 0)
  | none, some b => some (s.containBad (owner b.1).1 (owner b.1).2 31 b 0)
  | none, none => none

/-- The SM3 digest that is signed, of bytes 0 to SIZE − 65 (R394). -/
def imageDigest (m : ImageFile) : List Byte := Config.sm3 (m.bytes.take (m.bytes.length - 64))

/-- The SM3 digest of an enrolled key, of its 64 bytes. -/
def keyDigest (k : Nat) : List Byte := Config.sm3 (leBytes 64 k)

/-- The signature verifies under the key that KEYID names, the vendor's or one enrolled for the partition (R394). -/
def imageSigned (x : Partition) (m : ImageFile) : Bool :=
  (Config.vendorKeyDigest :: x.keys.map keyDigest).any fun d =>
    d.take 8 == m.keyid && Config.verifies d (imageDigest m) (m.bytes.drop (m.bytes.length - 64))

/-- The words of a body's text. -/
def textOf (m : ImageFile) (b : Body) : List (BitVec 32) :=
  (List.range (b.textSize / 4)).map fun i => BitVec.ofNat 32 (field m.bytes (b.text + 4 * i) 4)

/-- A body's rodata and data, and its bss (R393). -/
def dataOf (m : ImageFile) (b : Body) : List Byte :=
  (m.bytes.drop b.rodata).take (b.rodataSize + b.dataSize) ++ List.replicate b.bss 0

/-- A word of an Elpol body (R75, R81), after a prefix word or none: an encoding marked E with listed sub-fields, or the loop pseudo-form.
The opcode map marks neither E nor N at `pfx`; it is taken as marked E, with formats of Table 2.9. (DESIGN CHOICE, log 71: unsafe.) -/
def elpolWord (pfx : Option (BitVec 4 × BitVec 4 × BitVec 6)) (w : BitVec 32) : Bool :=
  match decode w with
  | .error _ => false
  | .ok i => WellFormed i && match i with
    | .cinval _ => false
    | .hplace _ _ => false
    | .rft => false
    | .wfi => false
    | .pfx fa fb _ => fa.toNat < 12 && fb.toNat < 12
    | .cvt _ _ b fs ft _ => (cvtShape b fs ft pfx).isSome
    | .cvti _ _ fs ft _ => (cvtiPair fs ft pfx).isSome
    | .nadd _ _ _ e _ => (narrowFmt e false pfx).isSome
    | .nsub _ _ _ e _ => (narrowFmt e false pfx).isSome
    | .nmul _ _ _ e _ => (narrowFmt e false pfx).isSome
    | .nfma _ _ _ e _ => (narrowFmt e false pfx).isSome
    | .nmin _ _ _ e _ => (narrowFmt e false pfx).isSome
    | .nmax _ _ _ e _ => (narrowFmt e false pfx).isSome
    | .ndot _ _ _ e _ => (narrowFmt e true pfx).isSome
    | _ => true

/-- Every word of an Elpol body (R75), each beside the prefix before it. -/
def elpolText : Option (BitVec 4 × BitVec 4 × BitVec 6) → List (BitVec 32) → Bool
  | _, [] => true
  | pfx, w :: ws => elpolWord pfx w && elpolText (match decode w with
    | .ok (.pfx fa fb sel) => some (fa, fb, sel)
    | _ => none) ws

/-- The native bodies an image stamps alike (R395). -/
def stampsRepeat (m : ImageFile) : Bool :=
  let stamps := (m.bodies.filter fun b => b.kind == 1).map fun b => b.cls * 256 + b.gen
  dedup stamps != stamps

/-- The image's own refusals (R395), its form apart. -/
def imageRefused (s : State) (x : Partition) (m : ImageFile) : Bool :=
  !imageSigned x m || m.secv < s.secver.toNat || stampsRepeat m || !(m.bodies.head?.any fun b => elpolText none (textOf m b))

/-- The number of the body that runs: the native one stamped with class 0x0001 and generation 1, else the Elpol body (R396). -/
def chosenBody (m : ImageFile) : Nat := (m.bodies.findIdx? fun b => b.kind == 1 && b.cls == 1 && b.gen == 1).getD 0

/-! ### The loader (R395 to R398) -/

/-- The level and the entry of the leaf that maps an address, below a table. -/
def leafAt (s : State) (p : Partition) (va : Nat) : Nat → Nat → Option (Nat × Nat)
  | level, table =>
    let e := tableWord s (table + 8 * natField (16 + 10 * level) 10 va)
    if !natBit 0 e then none
    else if natBit 1 e then some (level, e)
    else match level, ownedLocal s p (natField 13 43 e * 2 ^ 13) with
      | n + 1, some next => leafAt s p va n next
      | _, _ => none

/-- The frame of a page of code: a level-0 leaf with X = 1, W = 0 and S = 0, in the partition's memory (R395). -/
def codeFrame (s : State) (p : Partition) (asid : BitVec 16) (va : Word) : Option Nat :=
  match resolve s p asid true .read va with
  | .bad _ _ _ => none
  | .ok _ _ =>
    let root := (ownedLocal s p (bitsOf 20 36 p.astb * 2 ^ 20 + 16 * asid.toNat)).bind fun a =>
      ownedLocal s p (natField 13 43 (tableWord s a) * 2 ^ 13)
    match root.bind (leafAt s p va.toNat 3) with
    | some (0, e) =>
      if natBit 3 e && !natBit 2 e && !natBit 4 e then (leafOut s p 0 e va.toNat).bind fun a => if a < 2 ^ 45 then some (a / 65536) else none
      else none
    | _ => none

/-- 64 KiB pages of a text. -/
def textPages (text : List (BitVec 32)) : Nat := max 1 ((4 * text.length + 65535) / 65536)

/-- The keys of the data's bytes, each of which may be stored to; none where one may not, and `none` for them all while a block or the
accesses translated by one of them hold the store (R211, R212). -/
def dataKeys (s : State) (p : Nat) (x : Partition) (r : LoadRequest) (n : Nat) : Option (Option (List Nat)) :=
  let checks := (List.range n).map fun i => checkAccess s true (lowestCluster x) p x r.asid true .write (r.dataBase + word i) 1
  let keys := checks.filterMap fun c => match c with
    | .ok addrs _ => addrs.head?
    | _ => none
  if checks.any fun c => match c with
    | .trap _ _ => true
    | .fault _ _ _ _ => true
    | _ => false then none
  else if keys.length < n || tableHeld s keys then some none
  else some (some keys)

/-- The kernels of a loaded image whose body `b` runs (R393, R398). -/
def kernelsOf (r : LoadRequest) (m : ImageFile) (b : Nat) : List Kernel :=
  (indexed m.kernels).map fun (e : Nat × KernelEntry) =>
    { entry := e.2.entries.headD 0, run := r.codeBase + word (e.2.entries.getD b 0), argsz := e.2.argsz, constOff := e.2.constOff
      constSize := e.2.constSize, template := e.2.template, grantlim := Config.grantlimOf (leNat (imageDigest m)) e.1 }

/-- The translation of an Elpol body: every other word as it is, each loop pseudo-form replaced by native code (R78, R397), a word for a word.
(DESIGN CHOICE, log 12: unsafe.) -/
def translation (text : List (BitVec 32)) : List (BitVec 32) := text.map fun w => if loopWord w then Config.nativeLoop w else w

/-- The pseudo-forms that the native code in one frame of a translated text replaces, by their offsets: `page` counts the frames of the text. -/
def loopsIn (text : List (BitVec 32)) (page : Nat) : Map (BitVec 32) :=
  ((indexed ((text.drop (16384 * page)).take 16384)).filter fun e => loopWord e.2).map fun e => (4 * e.1, e.2)

/-- The translation of an Elpol body, from the code cache or kept there (R397). -/
def State.translate (s : State) (digest secv : Nat) (text : List (BitVec 32)) : State × List (BitVec 32) :=
  match s.codeCache.find? fun e => e.digest == digest && e.secv == secv && e.cls == 1 && e.gen == 1 with
  | some e => (s, e.text)
  | none =>
    let e : CodeEntry := { digest := digest, secv := secv, cls := 1, gen := 1, text := translation text,
                           sig := Config.codeSign (Config.sm3 ((translation text).flatMap fun w => leBytes 4 w.toNat)) }
    ({ s with codeCache := s.codeCache ++ [e] }, e.text)

/-- Frames whose code a later load replaces are no longer an earlier image's. -/
def loseFrames (frames : List Nat) (m : Image) : Image := { m with frames := m.frames.filter fun f => !frames.contains f }

/-- The names of the threads a partition holds, contexts and lanes off-core among them. -/
def threadNames (s : State) (x : Partition) : List Nat :=
  (s.threads.filter fun e => ownsCluster x (keyCl e.1)).map (·.2.uid) ++
    (s.clusters.filter fun e => ownsCluster x e.1).flatMap (fun e =>
      (e.2.offCore.flatMap fun o => o.lanes.map (·.2.uid)) ++
        e.2.cores.flatMap fun c => (c.2.arrivals ++ c.2.heap ++ c.2.overflow).map (·.uid)) ++
    s.flights.filterMap fun f => match f with
      | .migration c cl _ => if ownsCluster x cl then some c.uid else none
      | _ => none

/-- The words of code frames that a load replaces, at their keys, which the threads there may still fetch (R389). -/
def replacedWords (s : State) (x : Partition) (frames words : List Nat) : List OldWord :=
  let names := threadNames s x
  let code := (frames.filter fun f => (mget s.frames f).isSome).map fun f => homeKey s (f * 65536) / 65536
  if names.isEmpty then []
  else (words.filter fun k => code.contains (k / 65536)).map fun k => { addr := k, word := wordAt s k, loop := loopAt s k, readers := names }

/-- The pseudo-forms whose native code lies in a code frame from an offset on: a text that ends there leaves them as they are (R78, R397). -/
def loopsLeft (s : State) (frame off : Nat) : Map (BitVec 32) := ((mget s.frames frame).map fun f => f.loops.filter fun l => off ≤ l.1).getD []

/-- An image's data, as stores of the loader's (R395): those that another device or the host link refuses change nothing, and each line of them
sends a record of cause 0x04 (R378). (DESIGN CHOICE, log 66: safe.) -/
def State.storeData (s : State) (p : Nat) (x : Partition) (base : Word) (cells : List (Nat × Byte)) : State :=
  let refused (c : Nat × Byte) : Bool := farRefused s p c.1 true
  let lost := (indexed cells).filter fun e => refused e.2
  (dedup (lost.map fun e => (base + word e.1).toNat / 64)).foldl (fun s l =>
    s.sendRecord (lowestCluster x) (mkRecord p (lowestCluster x) 31 4 0 0 (word (max base.toNat (64 * l))) 0))
    (s.writeFrom (lowestCluster x) (cells.filter fun c => !refused c))

/-- The text and data written, the frames set to code, and the image's entry (R395, R397). -/
def State.install (s : State) (p : Nat) (x : Partition) (r : LoadRequest) (m : ImageFile) (frames data : List Nat) : State :=
  let b := chosenBody m
  let body := m.bodies.getD b (bodyAt [] 0)
  let digest := leNat (imageDigest m)
  let run := if b = 0 then s.translate digest m.secv (textOf m body) else (s, textOf m body)
  let bytes := run.2.flatMap fun w => leBytes 4 w.toNat
  let keys := (frames.flatMap fun f => span (f * 65536) 65536).map (homeKey s)
  let s1 := run.1.writeFrom (lowestCluster x) (keys.zip bytes)
  let s2 := { pokeLines s1 (frames.map frameLine) with
    oldText := s1.oldText ++ replacedWords s x frames ((List.range run.2.length).map fun i => keys.getD (4 * i) 0)
    frames := (indexed frames).foldl (fun (l : Map Frame) (e : Nat × Nat) =>
      mset l e.2 { revoked := false, loops := (if b = 0 then loopsIn (textOf m body) e.1 else []) ++ loopsLeft s e.2 (4 * run.2.length - 65536 * e.1) })
      s1.frames }
  let s3 := s2.storeData p x r.dataBase (data.zip (dataOf m body))
  let handle := x.images.length + 1
  let image : Image := { asid := r.asid, digest := digest, secv := m.secv, revoked := false, accepted := true,
                         kernels := kernelsOf r m b, frames := frames, codeBase := r.codeBase, words := run.2.length, native := b != 0 }
  let s4 := s3.modPart p fun y => { y with
    images := mset (y.images.map fun (e : Nat × Image) => (e.1, loseFrames frames e.2)) handle image }
  (s4.record 5 [digest, p, r.asid.toNat, handle, b]).answer 0 (leBytes 4 handle)

/-- What the stores of a load wait for at a link that is down: data beyond one, or a line that the host shares (R440, R452). -/
def loadHeld (s : State) (frames : List Nat) (n : Nat) (data : List Nat) : Option Nat :=
  let text := ((frames.flatMap fun f => span (f * 65536) 65536).take n).map (homeKey s)
  (data.find? (onDownLink s)).orElse fun _ => if snoopDown s (text ++ data) then some (text.headD 0) else none

/-- Command 0x03 (R395). A page being racked holds the load; one whose image or whose stores cannot be reached or read soundly is contained and
refused (R438, R440, R452). (DEDUCED, log 58: unsafe.) -/
def execSmcLoadImage (req : LoadRequest) (s : State) : Out :=
  smcTurn s 0 3 [req.image, req.part, req.asid.toNat, req.codeBase.toNat, req.dataBase.toNat] fun s =>
  match s.part req.part with
  | none => .done (s.answer 2 [])
  | some x =>
    if req.codeBase.toNat % 65536 ≠ 0 || req.dataBase.toNat % 65536 ≠ 0 then .done (s.answer 1 [])
    else if let some s1 := imageStop s req.part req.image then .done (s1.answer 2 [])
    else match imageFile (imageBytes s req.image) with
      | none => .done (s.answer 2 [])
      | some m =>
        let body := m.bodies.getD (chosenBody m) (bodyAt [] 0)
        if imageRefused s x m then .done (s.answer 2 [])
        else match (List.range (textPages (textOf m body))).mapM fun i => codeFrame s x req.asid (req.codeBase + word (i * 65536)) with
          | none => .done (s.answer 2 [])
          | some frames =>
            match x.images.find? fun e => e.2.digest == leNat (imageDigest m) && e.2.asid == req.asid && !e.2.revoked with
            | some (handle, _) => .done (s.answer 0 (leBytes 4 handle))
            | none =>
              if frames.any (racked s) then .held
              else match dataKeys s req.part x req (dataOf m body).length with
                | none => .done (s.answer 2 [])
                | some none => .held
                | some (some data) =>
                  match loadHeld s frames (4 * (textOf m body).length) data with
                  | some key => .done ((s.containLink req.part (lowestCluster x) 31 key 0).answer 2 [])
                  | none => .done (s.install req.part x req m frames data)

/-- The loader's image query (R397): the Elpol offset of the word an address in the translated text came from. -/
def imageQuery (x : Partition) (handle : Nat) (va : Word) : Option Nat :=
  (mget x.images handle).bind fun m =>
    let off := (va - m.codeBase).toNat
    if !m.native && off < 4 * m.words then some (off / 4 * 4) else none

/-! ### Security versions (R400) -/

/-- Images older than a version are revoked, and all their frames with them, those that a write has made plain among them. -/
def State.revokeBelow (s : State) (v : Nat) : State :=
  let old := s.parts.flatMap fun e => e.2.images.flatMap fun m => if m.2.secv < v then m.2.frames else []
  { pokeLines s (old.map frameLine) with
    codeCache := s.codeCache.filter fun e => v ≤ e.secv
    frames := old.foldl (fun (l : Map Frame) f => mset l f { ((mget l f).getD { revoked := true, loops := [] }) with revoked := true }) s.frames
    parts := s.parts.map fun (e : Nat × Partition) => (e.1, { e.2 with
      images := e.2.images.map fun (m : Nat × Image) => if m.2.secv < v then (m.1, { m.2 with revoked := true }) else m }) }

/-- Launches of revoked images that have not started end, in every partition (R400). -/
def State.revokeAll (s : State) : State :=
  s.parts.foldl (fun s e => ((s.part e.1).map fun x => s.revokeLaunches e.1 x).getD s) s

/-- Command 0x04 (R399, R400): SECVER never decreases. -/
def execSmcRaiseSecver (v : Nat) (auth : Bool) (s : State) : Out := smc s 4 [v, bit01 auth] fun s =>
  if !auth then s.answer 3 []
  else if 255 < v then s.answer 1 []
  else if v < s.secver.toNat then s.answer 2 []
  else ({ (s.revokeBelow v).revokeAll with secver := BitVec.ofNat 8 v }.record 6 [v]).answer 0 []

/-! ### Stop, resume, release (R423 to R425, R431) -/

/-- The report of a commanded stop (R424). -/
def stopReport (p : Nat) (x : Partition) : Record := mkRecord p (lowestCluster x) 31 0x19 15 0 0 0

/-- A save is being written (R431). -/
def saving (s : State) : Bool := s.parts.any fun e => match e.2.run with
  | .saved _ whole _ => !whole
  | _ => false

/-- A switch-out is under way (R426, R427). -/
def leavingOut (s : State) : Bool := s.parts.any fun e => match e.2.run with
  | .leaving _ => true
  | .saved _ whole _ => !whole
  | _ => false

/-- A request to stop, resume, release or switch a partition, or for a checkpoint: while a save is being written it waits, with the priority that the
SMC gives it, which the spec leaves open (R431). (Free, log 88: safe.) -/
def smcRequest (s : State) (code : Nat) (args : List Nat) (f : State → Served) : Out :=
  smcTurn s (Config.requestPriority code (args.headD 0) % 4) code args fun s => if saving s then .held else f s

/-- Command 0x05, stop. After a save it holds the saved image (R431); before a restart nothing has run since the stop. -/
def execSmcStop (part : Nat) (s : State) : Out := smcRequest s 5 [0, part] fun s =>
  match s.part part with
  | none => .done (s.answer 2 [])
  | some x => match x.run with
    | .running => .done ((s.startStop part true (stopReport part x)).answer 0 [])
    | .leaving t => if s.gtime < t then .done ((s.startStop part true (stopReport part x)).answer 0 []) else .held
    | .resuming _ => .done ((s.modPart part fun y => { y with run := .stopping true (stopReport part x) }).answer 0 [])
    | .saved t whole _ => .done ((s.modPart part fun y => { y with run := .saved t whole true }).answer 0 [])
    | .entering t _ => .done ((s.modPart part fun y => { y with run := .saved t true true }).answer 0 [])
    | .stopping _ _ => .done (s.answer 0 [])
    | .stopped _ => .done (s.answer 0 [])

/-- Command 0x05, resume (R425): the SMC agrees a GTIME that is still to come. -/
def execSmcResume (part tr : Nat) (s : State) : Out :=
  if tr < s.gtime then .next s
  else smcRequest s 5 [1, part] fun s =>
    match s.part part with
    | none => .done (s.answer 2 [])
    | some x => match x.run with
      | .stopped true => .done ((s.modPart part fun y => { y with run := .resuming tr }).answer 0 [])
      | .stopping _ _ => .held
      | _ => .done (s.answer 2 [])

/-- A running launch completes with status 7, or with the lower code it has failed with, whatever its signal's writes come to (R276, R277,
R425). -/
def State.completeNow (s : State) (p serial : Nat) : State :=
  match (s.part p).bind fun x => mget x.launches serial with
  | none => s
  | some l => match l.stage with
    | .done _ => s
    | _ =>
      let status := if l.status = 0 then 7 else l.status
      let s1 := s.complete p serial l status
      (s1.modPart p fun x => { x with groups := x.groups.filter fun g => g.2.serial != serial }).putLaunch p serial { l with stage := .done status }

/-- A stopped partition's release (R425): running launches complete with status 7; threads, callers parked in a grant, gangs off-core and
FBF entries are discarded. The partition stays stopped until it is destroyed. -/
def State.release (s : State) (part : Nat) (x : Partition) : State :=
  let s1 := x.launches.foldl (fun s e => s.completeNow part e.1) s
  let s2 := s1.clearPart part x
  { s2 with collectors := s1.collectors, reserved := s1.reserved }.modPart part fun y => { y with run := .stopped false }

/-- Command 0x05, release (R425), of a stopped partition or of a saved image that a stop holds (R431). -/
def execSmcRelease (part : Nat) (s : State) : Out := smcRequest s 5 [2, part] fun s =>
  match s.part part with
  | none => .done (s.answer 2 [])
  | some x => match x.run with
    | .stopped _ => .done ((s.release part x).answer 0 [])
    | .saved _ true true => .done ((s.release part x).answer 0 [])
    | .stopping _ _ => .held
    | _ => .done (s.answer 2 [])

/-! ### Switch out, switch in (R426, R431, R432) -/

/-- Command 0x06, switch out (R426), of a priority from 0 to 3: the SMC chooses T at least 8,192 ahead, and the command is complete once the image
is; of a partition already saved it is complete at once, and behind another switch-out, one for the step to full service too, it waits (R431). -/
def execSmcSwitchOut (part prio t : Nat) (s : State) : Out := smcTurn s prio 6 [0, part] fun s =>
  match s.part part with
  | none => .done (s.answer 2 [])
  | some x => if 3 < prio then .done (s.answer 1 []) else match x.run with
    | .running =>
      if leavingOut s then .held
      else if t < s.gtime + 8192 then .held
      else .wait (s.modPart part fun y => { y with run := .leaving t })
    | .saved _ true _ => .done (s.answer 0 [])
    | .saved _ false _ => .held
    | .leaving _ => .held
    | _ => .done (s.answer 2 [])

/-- The saved image holds a contained error (Table 13.6). -/
def unsound (x : Partition) : Bool := x.save.any fun i => bitsOf 4 4 i.compl != 0

/-- Command 0x06, switch in (R432), at a GTIME still to come: refused for an image with STATUS 1, and for one that a stop holds (R431). -/
def execSmcSwitchIn (part tr : Nat) (s : State) : Out :=
  if tr < s.gtime then .next s
  else smcRequest s 6 [1, part] fun s =>
    match s.part part with
    | none => .done (s.answer 2 [])
    | some x => match x.run with
      | .saved t true held =>
        if held || unsound x then .done (s.answer 2 [])
        else .done ((s.modPart part fun y => { y with run := .entering t tr }).answer 0 [])
      | _ => .done (s.answer 2 [])

/-! ### Checkpoints (R442) -/

/-- The next partition that is to be switched out. -/
def nextOut (s : State) : Option Nat := (s.parts.find? fun e => e.2.run == .running).map (·.1)

/-- The next running partition is asked out at the earliest time R426 allows: saves never nest (R431). -/
def State.askOut (s : State) : State :=
  match nextOut s with
  | some p => s.modPart p fun x => { x with run := .leaving (s.gtime + 8192) }
  | none => s

/-- A partition stands still: saved whole, or stopped. -/
def still (x : Partition) : Bool := match x.run with
  | .saved _ true _ => true
  | .stopped _ => true
  | _ => false

/-- The bytes a checkpoint is written as (R442). -/
opaque snapshotBytes : Snapshot → List Byte

/-- What a checkpoint holds of the device, unsigned. -/
def unsignedSnapshot (s : State) : Snapshot :=
  { mem := s.mem.filter fun c => !hostKey c.1, am := s.am, threads := s.threads, mail := s.mail, wakes := s.wakes, clusters := s.clusters,
    parts := s.parts, flights := s.flights, packets := s.packets, collectors := s.collectors, reserved := s.reserved, reductions := s.reductions,
    frames := s.frames, codeCache := s.codeCache, secver := s.secver.toNat, measure := s.measure, signer := Config.identityDigest
    signature := [] }

/-- The SM3 digest of a checkpoint, which the identity key signs (R442). -/
def snapshotDigest (c : Snapshot) : List Byte := Config.sm3 (snapshotBytes { c with signature := [] })

/-- A checkpoint of the device as it stands. -/
def snapshot (s : State) : Snapshot :=
  let c := unsignedSnapshot s
  { c with signature := Config.sign (snapshotDigest c) }

/-- What the identity key signs of a quote. -/
def signedBy (payload : List Byte) : List Byte := payload ++ Config.sign (Config.sm3 payload)

/-- Command 0x07, checkpoint (R442): partitions are switched out first, then the store is written and signed.
(DEDUCED, log 63: unsafe.) -/
def execSmcCheckpoint (auth : Bool) (s : State) : Out := smcRequest s 7 [0, bit01 auth] fun s =>
  if !auth then .done (s.answer 3 [])
  else if s.stage ≠ .full then .done (s.answer 2 [])
  else if leavingOut s then .held
  else if s.parts.any fun e => e.2.run == .running then .wait s.askOut
  else if s.parts.any fun e => !still e.2 then .held
  else
    let c := snapshot s
    .done ({ s with checkpoints := s.checkpoints ++ [c] }.answer 0 c.signature)

/-- The state a checkpoint restores: host memory stays as it is. -/
def State.restored (s : State) (c : Snapshot) : State :=
  let bare : Map Cluster := s.clusters.map fun (e : Nat × Cluster) => (e.1, reloaded e.2 Cluster.reset)
  { s with
    mem := memWriteAll (s.mem.filter fun e => hostKey e.1) (c.mem.filter fun e => !hostKey e.1)
    am := memWriteAll [] c.am
    threads := c.threads, mail := c.mail, wakes := c.wakes, parts := c.parts, flights := c.flights
    clusters := c.clusters.foldl (fun (l : Map Cluster) (e : Nat × Cluster) => mset l e.1 (reloaded (s.cluster e.1) e.2)) bare
    packets := c.packets, collectors := c.collectors, reserved := c.reserved, reductions := c.reductions, frames := c.frames
    codeCache := c.codeCache, oldText := [], dirty := [], racking := [], hostShares := [], bad := [] }

/-- What the host presents to be restored, by its place in the safe store: a checkpoint of this device, or beyond those whatever it chooses,
another device's or an altered one among them. (Free, log 63: safe.) -/
opaque presented : Nat → Nat → Option Snapshot
def checkpointAt (s : State) (i : Nat) : Option Snapshot :=
  match s.checkpoints[i]? with
  | some c => some c
  | none => presented s.free i

/-- A checkpoint's signature verifies for this device's identity, or for that of another device of its class (R442). -/
def checkpointOk (c : Snapshot) : Bool :=
  (c.signer == Config.identityDigest || Config.sameClass c.signer) && Config.verifies c.signer (snapshotDigest c) c.signature

/-- Command 0x07, restore (R442): its signature verifies, and R400 is applied at the current SECVER before any partition is switched in. No
partition may be running. -/
def execSmcRestore (i : Nat) (auth : Bool) (s : State) : Out := smcRequest s 7 [1, i, bit01 auth] fun s =>
  if !auth then .done (s.answer 3 [])
  else match checkpointAt s i with
    | none => .done (s.answer 1 [])
    | some c =>
      if s.parts.any (fun e => !still e.2) || !checkpointOk c then .done (s.answer 2 [])
      else .done (((s.restored c).revokeBelow s.secver.toNat).revokeAll.answer 0 [])

/-! ### Attestation (R402, R403) -/

/-- Command 0x08, quote (R403). (DESIGN CHOICE, log 42: unsafe.) -/
def execSmcQuote (nonce : List Byte) (s : State) : Out := smc s 8 (0 :: nonce.map (·.toNat)) fun s =>
  if nonce.length ≠ 32 then s.answer 1 []
  else s.answer 0 (signedBy (nonce ++ s.measure ++ leBytes 8 s.log.length ++ [s.secver] ++ leBytes 2 s.devno.toNat ++ leBytes 2 1 ++ [1]))

/-- Command 0x08, read log: the events in order (R402). -/
def execSmcReadLog (s : State) : Out := smc s 8 [1] fun s => s.answer 0 (s.log.flatMap fun e => Config.eventBytes e.kind e.args)

/-! ### PFX grants, budgets, host windows (R450, R455, R462) -/

/-- Operands of a grant are in range. -/
def grantNamed (granule dev part : Nat) : Bool := granule < 32768 && dev < 2048 && part < 8

/-- Grants apart from that of a pair to a granule. -/
def otherGrants (s : State) (granule dev part : Nat) : List (Nat × Nat × Nat × Bool) :=
  s.pfxGrants.filter fun g => !(g.1 == granule && g.2.1 == dev && g.2.2.1 == part)

/-- Command 0x09, grant: up to 8 for a granule (R455). -/
def execSmcGrantPfx (granule dev part : Nat) (write auth : Bool) (s : State) : Out :=
  smc s 9 [0, granule, dev, part, bit01 write, bit01 auth] fun s =>
  let rest := otherGrants s granule dev part
  if !auth then s.answer 3 []
  else if !grantNamed granule dev part then s.answer 1 []
  else if 8 ≤ (rest.filter fun g => g.1 == granule).length then s.answer 2 []
  else { s with pfxGrants := rest ++ [(granule, dev, part, write)] }.answer 0 []

/-- Command 0x09, withdraw (R455): no access under a grant is ever in progress here, and the model keeps no remote copy.
(DEDUCED, log 65: safe.) -/
def execSmcWithdrawPfx (granule dev part : Nat) (auth : Bool) (s : State) : Out :=
  smc s 9 [1, granule, dev, part, bit01 auth] fun s =>
  if !auth then s.answer 3 []
  else if !grantNamed granule dev part then s.answer 1 []
  else { s with pfxGrants := otherGrants s granule dev part }.answer 0 []

/-- A cluster with REF and CAP written, its level settled first (R176, R462). -/
def setBudget (cyc ref cap : Nat) (c : Cluster) : Cluster :=
  { c with
    budcfg := putBits (putBits c.budcfg 40 8 ref) 0 32 cap
    mxe := { c.mxe with level := levelNow c cyc, levelAt := cyc } }

/-- Command 0x0A (R462): CAP below 4,608 is refused. -/
def execSmcSetBudget (cl ref cap : Nat) (auth : Bool) (s : State) : Out := smc s 10 [cl, ref, cap, bit01 auth] fun s =>
  if !auth then s.answer 3 []
  else if Config.clusters ≤ cl || 255 < ref || 2 ^ 31 ≤ cap then s.answer 1 []
  else if cap < 4608 then s.answer 2 []
  else (s.modCluster cl fun c => { setBudget s.cyc (ref * s.railScale / 256) cap c with refSet := ref }).answer 0 []

/-- Command 0x0B (R450): a base is a multiple of 64 KiB. (DESIGN CHOICE, log 80: unsafe.) -/
def execSmcHostWindowBase (granule base : Nat) (auth : Bool) (s : State) : Out :=
  smc s 11 [granule, base, bit01 auth] fun s =>
  if !auth then s.answer 3 []
  else if granule < 16384 || 32768 ≤ granule || 2 ^ 56 ≤ base || base % 65536 ≠ 0 then s.answer 1 []
  else if !s.parts.any fun e => e.2.granules.contains granule then s.answer 2 []
  else { s with hostBase := mset s.hostBase granule base }.answer 0 []

/-- Any other code (R458). -/
def execSmcInvalidCommand (code : Nat) (s : State) : Out :=
  if 1 ≤ code && code ≤ 11 then .next s else smc s code [] fun s => s.answer 1 []

end Sys2Proof.Machine
end

