-- ==== Sys2Proof/Machine/Power.lean ====
section
/-! DEFINITION. Bring-up (R401, R459, R460), power (R463), the links (R440, R441, R448, R449, R454) and the accesses the host and
other devices make over them (R451, R452, R455). -/

namespace Sys2Proof.Machine

/-! ### Bring-up -/

/-- A firmware image verifies (R401): its signature, its last 64 bytes, over the SM3 digest of the rest under the vendor key, and its version
against the fuse counter. (DEDUCED, log 64: unsafe.) -/
def firmwareOk (s : State) (image : List Byte) : Bool :=
  let n := image.length - 64
  Config.verifies Config.vendorKeyDigest (Config.sm3 (image.take n)) (image.drop n) && s.fwFuse ≤ Config.firmwareVersion image

/-- Verified firmware starts: the ROM's digest of it and its configuration are measured, and the links train (R401, R402, R448). -/
def State.startFirmware (s : State) (image : List Byte) : State :=
  { ((s.record 0 [leNat (Config.sm3 image)]).record 1 (Config.firmwareConfig image)) with
    stage := .firmware
    fwVersion := Config.firmwareVersion image
    links := [(0, { Link.reset with gen3 := Config.glk3 })] }

/-- Power-on (R401): only fuses, host memory and the safe store outlive it; the ROM runs the firmware image that verifies, or
nothing. (DEDUCED, log 64: unsafe.) -/
def execPowerOn (s : State) : Out :=
  let s1 := { State.reset with
    mem := s.mem.filter fun c => hostKey c.1
    devno := s.devno, secver := s.secver, fwFuse := s.fwFuse, checkpoints := s.checkpoints, agenda := s.agenda, free := s.free, cur := s.cur }
  .next (if firmwareOk s1 Config.bootImage then s1.startFirmware Config.bootImage else { s1 with stage := .recovery })

/-- A replacement image is verified in the same way (R401). -/
def execFirmwareImageReceived (image : List Byte) (s : State) : Out :=
  .next (if s.stage = .recovery && firmwareOk s image then s.startFirmware image else s)

/-- A die whose three stacks have trained is released, dies in order; the first starts early service (R459). -/
def execDieRelease (die : Nat) (s : State) : Out :=
  if (s.stage = .firmware || s.stage = .early) && s.dieAt.length = die then
    .next { s with stage := .early, dieAt := mset s.dieAt die s.cyc }
  else .next s

/-- The partitions the step to full service has switched out are switched back in (R460). -/
def State.stepIn (s : State) : State :=
  { s with
    stepping := []
    parts := s.parts.map fun (e : Nat × Partition) => match e.2.run with
      | .saved t true false => if s.stepping.contains e.1 && !unsound e.2 then (e.1, { e.2 with run := .entering t s.gtime }) else e
      | _ => e }

/-- The step to full service (R460): every partition is switched out, one at a time (R431), DDR-5 trains, the clock rises, and they are
switched back in. -/
def execFullServiceStep (ddrGib : Nat) (s : State) : Out :=
  if s.stage ≠ .early || s.dieAt.length ≠ 4 then .next s
  else
    if leavingOut s then .next s
    else if s.parts.any fun e => e.2.run == .running then .next { s.askOut with stepping := s.stepping ++ (nextOut s).toList }
    else if s.parts.any fun e => !still e.2 then .next s
    else .next { s with stage := .full, ddrGib := ddrGib }.stepIn

/-- The core rail's average current passes its limit, or falls back: REF of every cluster is set to a proportion of what was
commanded (R463). -/
def execCoreRailOvercurrent (ref : Nat) (s : State) : Out :=
  .next <| (List.range Config.clusters).foldl (fun s cl => s.modCluster cl fun c => setBudget s.cyc (c.refSet * ref / 256) (budCap c) c)
    { s with railScale := ref }

/-! ### Links (R440, R441, R449) -/

def State.putLink (s : State) (port : Nat) (l : Link) : State := { s with links := mset s.links port l }

/-- A channel the flit's port and generation carry (Table 14.1, R454). -/
def channelOk (port : Nat) (l : Link) (f : Flit) : Bool :=
  if port = 0 then (f.gen = 0 || l.gen3) && f.vc < (if f.gen = 1 then 4 else 3)
  else f.gen = 1 && f.vc < 2

/-- A flit whose CRC fails, or that is treated so (R449). -/
def badFlit (port : Nat) (l : Link) (f : Flit) : Bool := f.crc != flitCrc f || !channelOk port l f

/-- Flits acknowledged leave the replay buffer: those up to number `ack`, when it is held (R440). -/
def ackReplay (replay : List Flit) (ack : BitVec 12) : List Flit :=
  match replay.findIdx? fun f => f.seq == ack with
  | some i => replay.drop (i + 1)
  | none => replay

/-- The credits a resynchronisation sets (R441). -/
def creditAt (vc sent freed : Nat) : Nat := Config.linkCapacity vc - (sent + 65536 - freed % 65536) % 65536

/-- Messages that wait leave as their channel has room, those of one channel in order (R441). -/
def drainUnsent (port : Nat) (l : Link) : Link :=
  l.unsent.foldl (fun l m =>
    match (if l.unsent.any (·.1 == m.1) then none else sendFlit port l m.1 m.2) with
    | some l1 => l1
    | none => { l with unsent := l.unsent ++ [m] }) { l with unsent := [] }

/-- The header's acknowledgement and counts taken up, and what they make room for; a flit acknowledged ends the count of its replays. -/
def linkHeader (port : Nat) (l : Link) (f : Flit) : Link :=
  let kept := ackReplay l.replay f.ack
  let l1 := { l with replay := kept, replays := if kept.any fun g => g.seq.toNat == l.replayAt then l.replays else 0 }
  let vc := f.vcs.toNat
  drainUnsent port (if f.rs then { l1 with credit := mset l1.credit vc (creditAt vc ((mget l1.sentOn vc).getD 0) f.crdt.toNat) } else l1)

/-- A flit accepted in order: its payload is delivered and its entry freed, it is acknowledged, and after each 1,024 the freed counts are
sent (R440, R441). (DEDUCED, log 45: unsafe.) -/
def linkAccept (l : Link) (f : Flit) : Link :=
  let vc := f.vc.toNat
  let freed := mset l.freed vc (((mget l.freed vc).getD 0 + 1) % 65536)
  let n := l.received + 1
  { l with
    rx := (l.rx + 1) % 4096, acked := f.seq.toNat, asked := false, freed := freed
    delivered := l.delivered ++ [(vc, f.msgs, f.payload)]
    received := if n = 1024 then 0 else n
    resync := if n = 1024 then freed else l.resync }

/-- A flit is received (R440): a bad one and every one after a gap is discarded, its header with it, and a replay asked for; a duplicate is
discarded by its number. -/
def execLinkFlitReceive (port : Nat) (flit : Flit) (s : State) : Out :=
  let l := s.link port
  if !l.up then .next s
  else if badFlit port l flit then .next (s.putLink port { l with asked := true })
  else if flit.seq.toNat = l.rx then .next (s.putLink port (linkAccept (linkHeader port l flit) flit))
  else if (l.rx + 4096 - flit.seq.toNat) % 4096 ≤ 512 then .next s
  else .next (s.putLink port { l with asked := true })

/-- The far end asks for a replay from a number (R440): the buffer is sent again from there; after 16 replays of one flit the link
retrains and keeps its buffer. -/
def execLinkReplayRequest (port seq : Nat) (s : State) : Out :=
  let l := s.link port
  match l.replay.findIdx? fun f => f.seq.toNat == seq with
  | none => .next s
  | some i =>
    if !l.up then .next s
    else
      let n := if l.replayAt = seq then l.replays else 0
      let l1 := { l with resent := l.resent ++ l.replay.drop i, replayAt := seq }
      if 16 ≤ n then .next (s.putLink port { l1 with replays := 0, retrains := l.retrains + 1 })
      else .next (s.putLink port { l1 with replays := n + 1 })

/-- An outstanding access waits on a port: its bytes lie beyond it; or, at GLK, it writes a line that the host shares, whose
invalidation the host must answer (R440, R452). -/
def waitsOn (s : State) (port : Nat) (o : OutOp) : Bool :=
  (o.addrs.any fun a => portOf a == some port) || (port == 0 && outWrites o && (linesOf o.addrs).any s.hostShares.contains)

/-- A thread of a partition with an access that waits on a port. -/
def waitsOnPort (s : State) (x : Partition) (port : Nat) : Option (Nat × OutOp) :=
  s.threads.findSome? fun e =>
    if x.halfDies.getLsbD (halfDieOf (keyCl e.1)) then
      (e.2.out.find? (waitsOn s port)).map fun o => (e.1, o)
    else none

/-- A link is down: the accesses that wait on it are contained (R440); those that come to wait on it are contained then. -/
def State.dropLink (s : State) (port : Nat) : State :=
  let s1 := s.putLink port { s.link port with up := false }
  s1.parts.foldl (fun s e => match waitsOnPort s1 e.2 port with
    | some (k, o) => s.containLink e.1 (keyCl k) (keyCore k) (o.addrs.headD 0) o.pc
    | none => s) s1

def execLinkDown (port : Nat) (s : State) : Out := .next (s.dropLink port)

/-- A host that does not answer a snoop within 1 ms is a GLK that is down (R452). -/
def execHostSnoopTimeout (s : State) : Out := .next (s.dropLink 0)

/-! ### Accesses from outside (R379, R388, R451, R455) -/

/-- The addresses of the bytes of an access from outside. -/
def outerKeys (acc : HostReq) : List Nat := span acc.addr (if acc.write || acc.atomic.isSome then acc.bytes.length else acc.len)

/-- The partition that owns a granule. -/
def granuleOwner (s : State) (g : Nat) : Option (Nat × Partition) := s.parts.find? fun e => e.2.granules.contains g

/-- Bytes of this device's address space that a partition owns, granules of host memory among them: the SMC's own memory is reached by no
window (R376, R379, R450, R455). -/
def outerOwned (s : State) (addrs : List Nat) : Bool := addrs.all fun a => a < 2 ^ 45 && (granuleOwner s (a / 2 ^ 30)).isSome

/-- Bytes in windows that the SMC has assigned to the host (R379). -/
def inWindows (s : State) (keys : List Nat) : Bool :=
  keys.all fun a => (granuleOwner s (a / 2 ^ 30)).any fun e => Config.glkWindow e.1 (a / 2 ^ 30)

/-- An access from outside waits: its page is racked, or accesses translated through a line it writes are still to be performed
(R211, R212). -/
def outerWaits (s : State) (acc : HostReq) (keys : List Nat) : Bool :=
  (rackedFrame s keys).isSome || ((acc.write || acc.atomic.isSome) && tableHeld s keys)

/-- An answer leaves on the response channel of a port (R441, R449). -/
def State.respond (s : State) (port kind : Nat) (acc : HostReq) (bytes : List Byte) : State :=
  s.postMessage port 1 (Config.messageBytes kind [s.devno.toNat, acc.addr, bytes.length] bytes)

/-- The host holds the lines it has read as a sharer (R452). -/
def State.shareLines (s : State) (port : Nat) (keys : List Nat) : State :=
  if port = 0 then { s with hostShares := (linesOf keys).foldl insertRising s.hostShares } else s

/-- An access to a granule of host memory is refused there: by its address over GLK-2, or as an atomic the link does not carry (R450). -/
def outerBarred (s : State) (acc : HostReq) (keys : List Nat) : Bool :=
  keys.any (hostRefused s) || acc.atomic.any fun a => farNoAtomic s (keys.headD 0) a.1

/-- The access performed at its lines' homes, one to a granule of host memory over GLK; a read or an atomic is answered on the response
channel. What waits on a GLK that is down, and bad data, are contained in the partition that owns them (R438, R440). A fence message, and the
order of a marked access, hold because each access is performed before the next. -/
def State.outerAccess (s : State) (port : Nat) (acc : HostReq) : State :=
  let keys := (outerKeys acc).map (homeKey s)
  let writes := acc.write || acc.atomic.isSome
  if keys.isEmpty || !outerOwned s (outerKeys acc) || outerWaits s acc keys then s
  else match granuleOwner s (acc.addr / 2 ^ 30) with
    | none => s
    | some (p, x) =>
      if let some key := linkHeld s writes keys then s.containLink p (lowestCluster x) 31 key 0
      else if outerBarred s acc keys then s.respond port 4 acc []
      else match (if acc.write then none else badAmong s keys), acc.atomic with
        | some b, _ => s.containBad p (lowestCluster x) 31 b 0
        | none, some (op, operand, expected) =>
          let old := s.numAt keys
          (({ s.writeNum keys (atomicNew op keys.length (word old) operand expected) with answered := leBytes keys.length old }).farRequest p 2 keys
            acc.bytes).respond port 3 acc (leBytes keys.length old)
        | none, none =>
          if acc.write then (s.writeCells (keys.zip acc.bytes)).farRequest p 1 keys acc.bytes
          else
            let bytes := keys.map s.byteAt
            ((({ s with answered := bytes }).farRequest p 0 keys []).shareLines port keys).respond port 3 acc bytes

/-- An atomic of the table, of its size, aligned (R95, R240). -/
def outerAtomicOk (acc : HostReq) : Bool := match acc.atomic with
  | none => true
  | some (op, _, _) => op < 22 && acc.bytes.length == (if op = 20 then 4 else if op = 21 then 2 else if op % 2 = 1 then 8 else 4) &&
      acc.addr % acc.bytes.length == 0

/-- The host's access to its own memory, at a host physical address: a write or an atomic is performed at the host's home agent, and is what
the device reads there from then on (R450, R453); one to a page-table line waits for the accesses translated by it (R211). -/
def State.homeAccess (s : State) (acc : HostReq) : State :=
  let keys := (outerKeys acc).map (hostSpace + ·)
  if (acc.write || acc.atomic.isSome) && tableHeld s keys then s
  else match acc.atomic with
  | some (op, operand, expected) => s.writeNum keys (atomicNew op keys.length (word (s.numAt keys)) operand expected)
  | none => if acc.write then s.writeCells (keys.zip acc.bytes) else s

/-- A text of bytes in room for `n`: what is left of the room reads zero. -/
def padded (n : Nat) (bs : List Byte) : List Byte := (bs ++ List.replicate n 0).take n

/-- The command mailbox (R457, R458): the command in progress, or the first that waits, its doorbell rung. (DESIGN CHOICE, log 88: unsafe.) -/
def commandMailbox (s : State) : List Byte :=
  padded 4096 ((((s.smcWaiting.find? (·.begun)).orElse fun _ => s.smcWaiting.head?).map fun r => Config.commandBytes r.code r.args).getD [])

/-- The doorbell has been rung for a command that is not answered (R458). -/
def doorbellRung (s : State) : Bool := !s.smcWaiting.isEmpty

/-- The response mailbox (R457, R458): the status word of the last answer and its bytes. (DESIGN CHOICE, log 88: unsafe.) -/
def responseMailbox (s : State) : List Byte := padded 4096 (leBytes 4 s.smcStatus ++ s.smcAnswer)

/-- The log window (R457): the events of the measurement log, in the rest of the BAR. (DESIGN CHOICE, log 88: unsafe.) -/
def logWindow (s : State) : List Byte := padded 8192 (s.log.flatMap fun e => Config.eventBytes e.kind e.args)

/-- The 16 KiB BAR of the PCIe port (R457). (DESIGN CHOICE, log 88: unsafe.) -/
def bar (s : State) : List Byte := commandMailbox s ++ responseMailbox s ++ logWindow s

/-- The host reads the mailboxes over GLK, where the firmware has reported them (R457); a command written there is the SMC's own row (R458). -/
def State.readMailbox (s : State) (acc : HostReq) : State :=
  if acc.write || acc.atomic.isSome || acc.addr < Config.mailboxAddr || Config.mailboxAddr + 8192 < acc.addr + acc.len then s
  else
    let bytes := ((bar s).drop (acc.addr - Config.mailboxAddr)).take acc.len
    { s with answered := bytes }.respond 0 3 acc bytes

/-- A host message (R451): an atomic must be one the generation in use carries (Table 14.1), and a byte of device memory lie in a window
(R379). (DESIGN CHOICE, log 47: unsafe.) -/
def execHostAccess (acc : HostReq) (s : State) : Out :=
  if !outerAtomicOk acc then .next s
  else if acc.home then .next (if acc.addr + (outerKeys acc).length ≤ 2 ^ 56 then s.homeAccess acc else s)
  else if !(s.link 0).up then .next s
  else if !inWindows s (outerKeys acc) then .next (s.readMailbox acc)
  else if (outerKeys acc).any (fun a => hostBase0 ≤ a) || acc.atomic.any fun a => farNoAtomic s hostSpace a.1 then .next s
  else .next (s.outerAccess 0 acc)

/-- A pair of device and partition has been granted every granule an access touches (R455). -/
def pfxGranted (s : State) (dev part : Nat) (acc : HostReq) : Bool :=
  (dedup ((outerKeys acc).map fun a => a / 2 ^ 30)).all fun g =>
    s.pfxGrants.any fun e => e.1 == g && e.2.1 == dev && e.2.2.1 == part && (e.2.2.2 || !(acc.write || acc.atomic.isSome))

/-- An access from another device (R378, R454, R455): performed when granted; a refused one changes no byte, and its sender is told. -/
def execPfxRemoteAccess (dev part : Nat) (acc : HostReq) (s : State) : Out :=
  let port := routePort dev
  if !(s.link port).up || !outerAtomicOk acc then .next s
  else if !pfxGranted s dev part acc then .next (s.respond port 4 acc [])
  else .next (s.outerAccess port acc)

end Sys2Proof.Machine
end

