-- ==== Sys2Proof/Machine/Dispatch.lean ====
section
/-! DEFINITION. The dispatch: one arm for each constructor of `Instr`. -/

namespace Sys2Proof.Machine

open Host

def exec (i : Instr) (s : State) : Host.Outcome State Fault Refusal :=
  match i with
  | .add d a b => Sys2Proof.Machine.execAdd d a b s
  | .sub d a b => Sys2Proof.Machine.execSub d a b s
  | .mul d a b => Sys2Proof.Machine.execMul d a b s
  | .mulh d a b => Sys2Proof.Machine.execMulh d a b s
  | .mulhu d a b => Sys2Proof.Machine.execMulhu d a b s
  | .div d a b => Sys2Proof.Machine.execDiv d a b s
  | .divu d a b => Sys2Proof.Machine.execDivu d a b s
  | .rem d a b => Sys2Proof.Machine.execRem d a b s
  | .remu d a b => Sys2Proof.Machine.execRemu d a b s
  | .and d a b => Sys2Proof.Machine.execAnd d a b s
  | .or d a b => Sys2Proof.Machine.execOr d a b s
  | .xor d a b => Sys2Proof.Machine.execXor d a b s
  | .andn d a b => Sys2Proof.Machine.execAndn d a b s
  | .sll d a b => Sys2Proof.Machine.execSll d a b s
  | .srl d a b => Sys2Proof.Machine.execSrl d a b s
  | .sra d a b => Sys2Proof.Machine.execSra d a b s
  | .ror d a b => Sys2Proof.Machine.execRor d a b s
  | .clz d a => Sys2Proof.Machine.execClz d a s
  | .ctz d a => Sys2Proof.Machine.execCtz d a s
  | .popc d a => Sys2Proof.Machine.execPopc d a s
  | .brev d a => Sys2Proof.Machine.execBrev d a s
  | .bswap d a => Sys2Proof.Machine.execBswap d a s
  | .min d a b => Sys2Proof.Machine.execMin d a b s
  | .max d a b => Sys2Proof.Machine.execMax d a b s
  | .minu d a b => Sys2Proof.Machine.execMinu d a b s
  | .maxu d a b => Sys2Proof.Machine.execMaxu d a b s
  | .slt d a b => Sys2Proof.Machine.execSlt d a b s
  | .sltu d a b => Sys2Proof.Machine.execSltu d a b s
  | .sel n d a b => Sys2Proof.Machine.execSel n d a b s
  | .bfxu d a b => Sys2Proof.Machine.execBfxu d a b s
  | .bfxs d a b => Sys2Proof.Machine.execBfxs d a b s
  | .bfi d a b => Sys2Proof.Machine.execBfi d a b s
  | .addi d a imm => Sys2Proof.Machine.execAddi d a imm s
  | .andi d a imm => Sys2Proof.Machine.execAndi d a imm s
  | .ori d a imm => Sys2Proof.Machine.execOri d a imm s
  | .xori d a imm => Sys2Proof.Machine.execXori d a imm s
  | .slti d a imm => Sys2Proof.Machine.execSlti d a imm s
  | .slli d a n => Sys2Proof.Machine.execSlli d a n s
  | .srli d a n => Sys2Proof.Machine.execSrli d a n s
  | .srai d a n => Sys2Proof.Machine.execSrai d a n s
  | .rori d a n => Sys2Proof.Machine.execRori d a n s
  | .slliw d a n => Sys2Proof.Machine.execSlliw d a n s
  | .srliw d a n => Sys2Proof.Machine.execSrliw d a n s
  | .sraiw d a n => Sys2Proof.Machine.execSraiw d a n s
  | .roriw d a n => Sys2Proof.Machine.execRoriw d a n s
  | .lui d imm => Sys2Proof.Machine.execLui d imm s
  | .ldk d k => Sys2Proof.Machine.execLdk d k s
  | .addk d a k => Sys2Proof.Machine.execAddk d a k s
  | .subk d a k => Sys2Proof.Machine.execSubk d a k s
  | .andk d a k => Sys2Proof.Machine.execAndk d a k s
  | .ldkf d k => Sys2Proof.Machine.execLdkf d k s
  | .cpeq d a b => Sys2Proof.Machine.execCpeq d a b s
  | .cpne d a b => Sys2Proof.Machine.execCpne d a b s
  | .cplt d a b => Sys2Proof.Machine.execCplt d a b s
  | .cpltu d a b => Sys2Proof.Machine.execCpltu d a b s
  | .cpge d a b => Sys2Proof.Machine.execCpge d a b s
  | .cpgeu d a b => Sys2Proof.Machine.execCpgeu d a b s
  | .pand d a b => Sys2Proof.Machine.execPand d a b s
  | .por d a b => Sys2Proof.Machine.execPor d a b s
  | .pxor d a b => Sys2Proof.Machine.execPxor d a b s
  | .pmovw d a => Sys2Proof.Machine.execPmovw d a s
  | .wmovp d a => Sys2Proof.Machine.execWmovp d a s
  | .br p neg off => Sys2Proof.Machine.execBr p neg off s
  | .jal d off => Sys2Proof.Machine.execJal d off s
  | .jalr d a => Sys2Proof.Machine.execJalr d a s
  | .fadd d a b p => Sys2Proof.Machine.execFadd d a b p s
  | .fsub d a b p => Sys2Proof.Machine.execFsub d a b p s
  | .fmul d a b p => Sys2Proof.Machine.execFmul d a b p s
  | .fdiv d a b p => Sys2Proof.Machine.execFdiv d a b p s
  | .fsqrt d a p => Sys2Proof.Machine.execFsqrt d a p s
  | .fmadd d a b p => Sys2Proof.Machine.execFmadd d a b p s
  | .fmsub d a b p => Sys2Proof.Machine.execFmsub d a b p s
  | .fnmadd d a b p => Sys2Proof.Machine.execFnmadd d a b p s
  | .fnmsub d a b p => Sys2Proof.Machine.execFnmsub d a b p s
  | .fmin d a b p => Sys2Proof.Machine.execFmin d a b p s
  | .fmax d a b p => Sys2Proof.Machine.execFmax d a b p s
  | .fsgnj d a b p => Sys2Proof.Machine.execFsgnj d a b p s
  | .fsgnjn d a b p => Sys2Proof.Machine.execFsgnjn d a b p s
  | .fsgnjx d a b p => Sys2Proof.Machine.execFsgnjx d a b p s
  | .fceq d a b p => Sys2Proof.Machine.execFceq d a b p s
  | .fclt d a b p => Sys2Proof.Machine.execFclt d a b p s
  | .fcle d a b p => Sys2Proof.Machine.execFcle d a b p s
  | .fcun d a b p => Sys2Proof.Machine.execFcun d a b p s
  | .fclass d a p => Sys2Proof.Machine.execFclass d a p s
  | .frint d a p => Sys2Proof.Machine.execFrint d a p s
  | .fmov d a => Sys2Proof.Machine.execFmov d a s
  | .fmvwf d a => Sys2Proof.Machine.execFmvwf d a s
  | .fmvfw d a => Sys2Proof.Machine.execFmvfw d a s
  | .cvt d a b fs t sat => Sys2Proof.Machine.execCvt d a b fs t sat s
  | .cvti d a fs t sat => Sys2Proof.Machine.execCvti d a fs t sat s
  | .fexp2 d a => Sys2Proof.Machine.execFexp2 d a s
  | .flog2 d a => Sys2Proof.Machine.execFlog2 d a s
  | .frsqrt d a => Sys2Proof.Machine.execFrsqrt d a s
  | .fsin d a => Sys2Proof.Machine.execFsin d a s
  | .fcos d a => Sys2Proof.Machine.execFcos d a s
  | .nadd d a b e sat => Sys2Proof.Machine.execNadd d a b e sat s
  | .nsub d a b e sat => Sys2Proof.Machine.execNsub d a b e sat s
  | .nmul d a b e sat => Sys2Proof.Machine.execNmul d a b e sat s
  | .nfma d a b e sat => Sys2Proof.Machine.execNfma d a b e sat s
  | .nmin d a b e sat => Sys2Proof.Machine.execNmin d a b e sat s
  | .nmax d a b e sat => Sys2Proof.Machine.execNmax d a b e sat s
  | .ndot d a b e sat => Sys2Proof.Machine.execNdot d a b e sat s
  | .pfx fa fb sel => Sys2Proof.Machine.execPfx fa fb sel s
  | .ld d a off sz acq => Sys2Proof.Machine.execLd d a off sz acq s
  | .ldu d a off sz acq => Sys2Proof.Machine.execLdu d a off sz acq s
  | .st d a off sz rel => Sys2Proof.Machine.execSt d a off sz rel s
  | .ldf d a off sz acq => Sys2Proof.Machine.execLdf d a off sz acq s
  | .stf d a off sz rel => Sys2Proof.Machine.execStf d a off sz rel s
  | .pref h a off sz => Sys2Proof.Machine.execPref h a off sz s
  | .ldIndexed d a b sz ord scope => Sys2Proof.Machine.execLdIndexed d a b sz ord scope s
  | .lduIndexed d a b sz ord scope => Sys2Proof.Machine.execLduIndexed d a b sz ord scope s
  | .stIndexed d a b sz ord scope => Sys2Proof.Machine.execStIndexed d a b sz ord scope s
  | .ldfIndexed d a b sz ord scope => Sys2Proof.Machine.execLdfIndexed d a b sz ord scope s
  | .stfIndexed d a b sz ord scope => Sys2Proof.Machine.execStfIndexed d a b sz ord scope s
  | .aadd d a b z ord scope => Sys2Proof.Machine.execAadd d a b z ord scope s
  | .aand d a b z ord scope => Sys2Proof.Machine.execAand d a b z ord scope s
  | .aor d a b z ord scope => Sys2Proof.Machine.execAor d a b z ord scope s
  | .axor d a b z ord scope => Sys2Proof.Machine.execAxor d a b z ord scope s
  | .amin d a b z ord scope => Sys2Proof.Machine.execAmin d a b z ord scope s
  | .amax d a b z ord scope => Sys2Proof.Machine.execAmax d a b z ord scope s
  | .aminu d a b z ord scope => Sys2Proof.Machine.execAminu d a b z ord scope s
  | .amaxu d a b z ord scope => Sys2Proof.Machine.execAmaxu d a b z ord scope s
  | .aswap d a b z ord scope => Sys2Proof.Machine.execAswap d a b z ord scope s
  | .acas d a b z ord scope => Sys2Proof.Machine.execAcas d a b z ord scope s
  | .afaddF32 d a b ord scope => Sys2Proof.Machine.execAfaddF32 d a b ord scope s
  | .afaddBf16 d a b ord scope => Sys2Proof.Machine.execAfaddBf16 d a b ord scope s
  | .fence pairs scope => Sys2Proof.Machine.execFence pairs scope s
  | .ifence => Sys2Proof.Machine.execIfence s
  | .cflush a => Sys2Proof.Machine.execCflush a s
  | .cclean a => Sys2Proof.Machine.execCclean a s
  | .cinval a => Sys2Proof.Machine.execCinval a s
  | .czero a => Sys2Proof.Machine.execCzero a s
  | .shfl d a b => Sys2Proof.Machine.execShfl d a b s
  | .shflup d a b => Sys2Proof.Machine.execShflup d a b s
  | .shfldn d a b => Sys2Proof.Machine.execShfldn d a b s
  | .shflx d a b => Sys2Proof.Machine.execShflx d a b s
  | .fshfl d a b => Sys2Proof.Machine.execFshfl d a b s
  | .fshflup d a b => Sys2Proof.Machine.execFshflup d a b s
  | .fshfldn d a b => Sys2Proof.Machine.execFshfldn d a b s
  | .fshflx d a b => Sys2Proof.Machine.execFshflx d a b s
  | .vall d a => Sys2Proof.Machine.execVall d a s
  | .vany d a => Sys2Proof.Machine.execVany d a s
  | .vbal d a => Sys2Proof.Machine.execVbal d a s
  | .lmask d => Sys2Proof.Machine.execLmask d s
  | .qpush a b => Sys2Proof.Machine.execQpush a b s
  | .qpop d a => Sys2Proof.Machine.execQpop d a s
  | .qtry d a => Sys2Proof.Machine.execQtry d a s
  | .qlen d a => Sys2Proof.Machine.execQlen d a s
  | .wlpush a b => Sys2Proof.Machine.execWlpush a b s
  | .wlpop d => Sys2Proof.Machine.execWlpop d s
  | .rqpush a b => Sys2Proof.Machine.execRqpush a b s
  | .rqpop d => Sys2Proof.Machine.execRqpop d s
  | .msend a b => Sys2Proof.Machine.execMsend a b s
  | .mrecv d => Sys2Proof.Machine.execMrecv d s
  | .spawn d a b => Sys2Proof.Machine.execSpawn d a b s
  | .join a => Sys2Proof.Machine.execJoin a s
  | .exit => Sys2Proof.Machine.execExit s
  | .sleep => Sys2Proof.Machine.execSleep s
  | .wake a => Sys2Proof.Machine.execWake a s
  | .yield => Sys2Proof.Machine.execYield s
  | .migrate a => Sys2Proof.Machine.execMigrate a s
  | .launch d a => Sys2Proof.Machine.execLaunch d a s
  | .gcall off => Sys2Proof.Machine.execGcall off s
  | .gret => Sys2Proof.Machine.execGret s
  | .bsync g => Sys2Proof.Machine.execBsync g s
  | .barv g => Sys2Proof.Machine.execBarv g s
  | .bwait g => Sys2Proof.Machine.execBwait g s
  | .bquery d g => Sys2Proof.Machine.execBquery d g s
  | .wait ld st cp tl => Sys2Proof.Machine.execWait ld st cp tl s
  | .pwait a => Sys2Proof.Machine.execPwait a s
  | .mcfg a c ix => Sys2Proof.Machine.execMcfg a c ix s
  | .msel a c => Sys2Proof.Machine.execMsel a c s
  | .mlds a b c => Sys2Proof.Machine.execMlds a b c s
  | .mswp c => Sys2Proof.Machine.execMswp c s
  | .mma a b c => Sys2Proof.Machine.execMma a b c s
  | .mmas a b c => Sys2Proof.Machine.execMmas a b c s
  | .mzero b c => Sys2Proof.Machine.execMzero b c s
  | .mdrn a b c => Sys2Proof.Machine.execMdrn a b c s
  | .mdrna a b c => Sys2Proof.Machine.execMdrna a b c s
  | .mdrno a b c => Sys2Proof.Machine.execMdrno a b c s
  | .mrdr a b c => Sys2Proof.Machine.execMrdr a b c s
  | .mwrr a b c => Sys2Proof.Machine.execMwrr a b c s
  | .mstat a c ix => Sys2Proof.Machine.execMstat a c ix s
  | .ccopy a b => Sys2Proof.Machine.execCcopy a b s
  | .cgath a b => Sys2Proof.Machine.execCgath a b s
  | .cscat a b => Sys2Proof.Machine.execCscat a b s
  | .cstat a ix => Sys2Proof.Machine.execCstat a ix s
  | .pquery a b ix => Sys2Proof.Machine.execPquery a b ix s
  | .lquery a b => Sys2Proof.Machine.execLquery a b s
  | .ncfg a c ix => Sys2Proof.Machine.execNcfg a c ix s
  | .nld a b c => Sys2Proof.Machine.execNld a b c s
  | .ninj a b => Sys2Proof.Machine.execNinj a b s
  | .ntick a c => Sys2Proof.Machine.execNtick a c s
  | .nrd a b c ix => Sys2Proof.Machine.execNrd a b c ix s
  | .nspk a b c => Sys2Proof.Machine.execNspk a b c s
  | .tcfg a c ix => Sys2Proof.Machine.execTcfg a c ix s
  | .tdesc a b c => Sys2Proof.Machine.execTdesc a b c s
  | .texp a b c => Sys2Proof.Machine.execTexp a b c s
  | .tback a b c => Sys2Proof.Machine.execTback a b c s
  | .troot a c => Sys2Proof.Machine.execTroot a c s
  | .trdn a b c ix => Sys2Proof.Machine.execTrdn a b c ix s
  | .tvl a b c => Sys2Proof.Machine.execTvl a b c s
  | .scfg a b n => Sys2Proof.Machine.execScfg a b n s
  | .son n => Sys2Proof.Machine.execSon n s
  | .soff n => Sys2Proof.Machine.execSoff n s
  | .hplace a b => Sys2Proof.Machine.execHplace a b s
  | .sysrd d r => Sys2Proof.Machine.execSysrd d r s
  | .syswr a r => Sys2Proof.Machine.execSyswr a r s
  | .sysset d a r => Sys2Proof.Machine.execSysset d a r s
  | .sysclr d a r => Sys2Proof.Machine.execSysclr d a r s
  | .feat d a => Sys2Proof.Machine.execFeat d a s
  | .timer a => Sys2Proof.Machine.execTimer a s
  | .svc => Sys2Proof.Machine.execSvc s
  | .brk => Sys2Proof.Machine.execBrk s
  | .rft => Sys2Proof.Machine.execRft s
  | .wfi => Sys2Proof.Machine.execWfi s
  | .msvw d a b => Sys2Proof.Machine.execMsvw d a b s
  | .mrsw d a b => Sys2Proof.Machine.execMrsw d a b s
  | .msvf d a b => Sys2Proof.Machine.execMsvf d a b s
  | .mrsf d a b => Sys2Proof.Machine.execMrsf d a b s
  | .eloop ix n fs p off => Sys2Proof.Machine.execEloop ix n fs p off s
  | .subnormalAssistComplete k => Sys2Proof.Machine.execSubnormalAssistComplete k s
  | .loadPerformed k ix => Sys2Proof.Machine.execLoadPerformed k ix s
  | .storePerformed k ix => Sys2Proof.Machine.execStorePerformed k ix s
  | .atomicPerformed k ix => Sys2Proof.Machine.execAtomicPerformed k ix s
  | .csmctlWrite k ix => Sys2Proof.Machine.execCsmctlWrite k ix s
  | .fbfcmdRetry k ix => Sys2Proof.Machine.execFbfcmdRetry k ix s
  | .fbfcmdAbort k ix => Sys2Proof.Machine.execFbfcmdAbort k ix s
  | .controlWordWrite k ix => Sys2Proof.Machine.execControlWordWrite k ix s
  | .gangStop part => Sys2Proof.Machine.execGangStop part s
  | .timerExpiry cl core => Sys2Proof.Machine.execTimerExpiry cl core s
  | .timerTrapTaken k => Sys2Proof.Machine.execTimerTrapTaken k s
  | .messageInterruptTrap k => Sys2Proof.Machine.execMessageInterruptTrap k s
  | .messagePlaced ix => Sys2Proof.Machine.execMessagePlaced ix s
  | .mrecvComplete k ix => Sys2Proof.Machine.execMrecvComplete k ix s
  | .wakePlaced ix => Sys2Proof.Machine.execWakePlaced ix s
  | .stallLimitExpiry k => Sys2Proof.Machine.execStallLimitExpiry k s
  | .queuePushPlace ix => Sys2Proof.Machine.execQueuePushPlace ix s
  | .queuePopServe ix => Sys2Proof.Machine.execQueuePopServe ix s
  | .queuePopComplete k ix => Sys2Proof.Machine.execQueuePopComplete k ix s
  | .wlpopComplete k ix => Sys2Proof.Machine.execWlpopComplete k ix s
  | .rotationBoundary cl core => Sys2Proof.Machine.execRotationBoundary cl core s
  | .slotFill cl core slot => Sys2Proof.Machine.execSlotFill cl core slot s
  | .loadLevelInterval => Sys2Proof.Machine.execLoadLevelInterval s
  | .worklistEntryArrives ix => Sys2Proof.Machine.execWorklistEntryArrives ix s
  | .launchQueueWake part q => Sys2Proof.Machine.execLaunchQueueWake part q s
  | .launchAccept ix => Sys2Proof.Machine.execLaunchAccept ix s
  | .launchDepctrRead part serial => Sys2Proof.Machine.execLaunchDepctrRead part serial s
  | .launchPlace part serial => Sys2Proof.Machine.execLaunchPlace part serial s
  | .launchComplete part serial => Sys2Proof.Machine.execLaunchComplete part serial s
  | .launchedGangStart cl core => Sys2Proof.Machine.execLaunchedGangStart cl core s
  | .grantArrival ix => Sys2Proof.Machine.execGrantArrival ix s
  | .grantKeyDeadline cl key => Sys2Proof.Machine.execGrantKeyDeadline cl key s
  | .grantPack cl => Sys2Proof.Machine.execGrantPack cl s
  | .gangStart cl => Sys2Proof.Machine.execGangStart cl s
  | .callerResume ix => Sys2Proof.Machine.execCallerResume ix s
  | .migrationArrival ix => Sys2Proof.Machine.execMigrationArrival ix s
  | .cellarMove cl core => Sys2Proof.Machine.execCellarMove cl core s
  | .exitNotice ix => Sys2Proof.Machine.execExitNotice ix s
  | .barrierArrival k g => Sys2Proof.Machine.execBarrierArrival k g s
  | .csmBankSwitchComplete cl bank => Sys2Proof.Machine.execCsmBankSwitchComplete cl bank s
  | .syswrAsid k => Sys2Proof.Machine.execSyswrAsid k s
  | .syswrAstb k => Sys2Proof.Machine.execSyswrAstb k s
  | .lqcfgWrite k => Sys2Proof.Machine.execLqcfgWrite k s
  | .faultRoutingWrite k => Sys2Proof.Machine.execFaultRoutingWrite k s
  | .fbfRetryOnInvalidation cl ix => Sys2Proof.Machine.execFbfRetryOnInvalidation cl ix s
  | .fbfEntryFreed cl => Sys2Proof.Machine.execFbfEntryFreed cl s
  | .recordDelivery row => Sys2Proof.Machine.execRecordDelivery row s
  | .mxeGrant cl cls => Sys2Proof.Machine.execMxeGrant cl cls s
  | .mxePassComplete cl ix => Sys2Proof.Machine.execMxePassComplete cl ix s
  | .mxePlaneLoadComplete cl ix => Sys2Proof.Machine.execMxePlaneLoadComplete cl ix s
  | .mxeTileOpComplete cl ix => Sys2Proof.Machine.execMxeTileOpComplete cl ix s
  | .mxeDrainComplete cl ix => Sys2Proof.Machine.execMxeDrainComplete cl ix s
  | .mdrnoContributionArrival cl ix => Sys2Proof.Machine.execMdrnoContributionArrival cl ix s
  | .mxeCommandFail cl ix => Sys2Proof.Machine.execMxeCommandFail cl ix s
  | .cpeGrant cl => Sys2Proof.Machine.execCpeGrant cl s
  | .cpeLineWritten cl ix => Sys2Proof.Machine.execCpeLineWritten cl ix s
  | .cpeCommandComplete cl ix => Sys2Proof.Machine.execCpeCommandComplete cl ix s
  | .cpeCommandFail cl ix => Sys2Proof.Machine.execCpeCommandFail cl ix s
  | .streamElementRead k n => Sys2Proof.Machine.execStreamElementRead k n s
  | .neuronModeSwitch cl ix => Sys2Proof.Machine.execNeuronModeSwitch cl ix s
  | .enbCommandExecute cl => Sys2Proof.Machine.execEnbCommandExecute cl s
  | .neuronEventArrival ix => Sys2Proof.Machine.execNeuronEventArrival ix s
  | .ntickArrival k => Sys2Proof.Machine.execNtickArrival k s
  | .tickRecvGather part g => Sys2Proof.Machine.execTickRecvGather part g s
  | .tickStep cl => Sys2Proof.Machine.execTickStep cl s
  | .steCommandBegin cl ix => Sys2Proof.Machine.execSteCommandBegin cl ix s
  | .steCommandComplete cl ix => Sys2Proof.Machine.execSteCommandComplete cl ix s
  | .steCommandFail cl ix => Sys2Proof.Machine.execSteCommandFail cl ix s
  | .rackPage page dst => Sys2Proof.Machine.execRackPage page dst s
  | .rackBlockEnd pte => Sys2Proof.Machine.execRackBlockEnd pte s
  | .switchOutAtT part => Sys2Proof.Machine.execSwitchOutAtT part s
  | .saveComplete part => Sys2Proof.Machine.execSaveComplete part s
  | .switchInRestart part => Sys2Proof.Machine.execSwitchInRestart part s
  | .gangOffCore cl core slot => Sys2Proof.Machine.execGangOffCore cl core slot s
  | .hostReplyRead k => Sys2Proof.Machine.execHostReplyRead k s
  | .gangReturn cl ix => Sys2Proof.Machine.execGangReturn cl ix s
  | .smcCreatePartition halfDies granules keys auth => Sys2Proof.Machine.execSmcCreatePartition halfDies granules keys auth s
  | .smcDestroyPartition part auth => Sys2Proof.Machine.execSmcDestroyPartition part auth s
  | .smcLoadImage req => Sys2Proof.Machine.execSmcLoadImage req s
  | .smcRaiseSecver v auth => Sys2Proof.Machine.execSmcRaiseSecver v auth s
  | .smcStop part => Sys2Proof.Machine.execSmcStop part s
  | .smcResume part tr => Sys2Proof.Machine.execSmcResume part tr s
  | .smcRelease part => Sys2Proof.Machine.execSmcRelease part s
  | .smcSwitchOut part prio t => Sys2Proof.Machine.execSmcSwitchOut part prio t s
  | .smcSwitchIn part tr => Sys2Proof.Machine.execSmcSwitchIn part tr s
  | .smcCheckpoint auth => Sys2Proof.Machine.execSmcCheckpoint auth s
  | .smcRestore ix auth => Sys2Proof.Machine.execSmcRestore ix auth s
  | .smcQuote nonce => Sys2Proof.Machine.execSmcQuote nonce s
  | .smcReadLog => Sys2Proof.Machine.execSmcReadLog s
  | .smcGrantPfx granule dev part write auth => Sys2Proof.Machine.execSmcGrantPfx granule dev part write auth s
  | .smcWithdrawPfx granule dev part auth => Sys2Proof.Machine.execSmcWithdrawPfx granule dev part auth s
  | .smcSetBudget cl ref cap auth => Sys2Proof.Machine.execSmcSetBudget cl ref cap auth s
  | .smcHostWindowBase granule base auth => Sys2Proof.Machine.execSmcHostWindowBase granule base auth s
  | .smcInvalidCommand code => Sys2Proof.Machine.execSmcInvalidCommand code s
  | .powerOn => Sys2Proof.Machine.execPowerOn s
  | .firmwareImageReceived verifies => Sys2Proof.Machine.execFirmwareImageReceived verifies s
  | .dieRelease die => Sys2Proof.Machine.execDieRelease die s
  | .fullServiceStep ddrGib => Sys2Proof.Machine.execFullServiceStep ddrGib s
  | .coreRailOvercurrent ref => Sys2Proof.Machine.execCoreRailOvercurrent ref s
  | .linkFlitReceive port flit => Sys2Proof.Machine.execLinkFlitReceive port flit s
  | .linkReplayRequest port seq => Sys2Proof.Machine.execLinkReplayRequest port seq s
  | .linkDown port => Sys2Proof.Machine.execLinkDown port s
  | .hostAccess acc => Sys2Proof.Machine.execHostAccess acc s
  | .hostSnoopTimeout => Sys2Proof.Machine.execHostSnoopTimeout s
  | .pfxRemoteAccess dev part acc => Sys2Proof.Machine.execPfxRemoteAccess dev part acc s
  | .uncorrectableError storage addr k scrub => Sys2Proof.Machine.execUncorrectableError storage addr k scrub s
  | .correctableError => Sys2Proof.Machine.execCorrectableError s
  | .illegalInstruction => Sys2Proof.Machine.execIllegalInstruction s
  | .resumeRestart part => Sys2Proof.Machine.execResumeRestart part s

end Sys2Proof.Machine
end

