-- ==== Sys2Proof/Machine/Step.lean ====
section
/-! DEFINITION. One step of the device: time passes, and what the turn comes to runs. -/

namespace Sys2Proof.Machine

open Host

/-- One step. A prefix and the instruction it prefixes run in one step (R55). An ill-formed event of the model's own agenda
names a place no device has. -/
def step (s : State) : Host.Outcome State Fault Refusal :=
  match plan s with
  | .settled t => .next t
  | .run i t => if WellFormed i then exec i t else .fault .badAgenda
  | .pair p i t =>
    match exec p t with
    | .next u => exec i u
    | o => o

/-- The state with an instruction placed where `step` fetches next; see the assumption log on how a program comes to run.
(DESIGN CHOICE, log 1: safe.) -/
def State.withFetchWord (s : State) (nbits w : Nat) : State := placeWord s (BitVec.ofNat 32 (w % 2 ^ nbits))

end Sys2Proof.Machine
end

