-- ==== Sys2Proof/Safety.lean ====
section
/-! DEFINITION. What counts as a safe state, and the vocabulary of the statements: an issuing set ready to run, the effect of
an instruction on each of its lanes, and an effect on one lane alone. -/

namespace Sys2Proof.Safety

open Machine

/-- Device memory and accumulator memory are in canonical form, and so are those of every checkpoint in the safe store. -/
def MemOk (s : State) : Prop :=
  memWf s.mem = true ∧ memWf s.am = true ∧ ∀ c ∈ s.checkpoints, memWf c.mem = true ∧ memWf c.am = true

/-- An issuing set about to run one instruction: its lanes are distinct positions, no prefix is in force, and no lane
single-steps (R136, R53, R439). -/
def Ready (s : State) : Prop :=
  s.curKeys.Nodup ∧ s.cur.pfx = none ∧ ∀ k ∈ s.curKeys, ∀ t, s.thread k = some t → xsSS t.xstat = false

/-- The same with or without a prefix: a prefixed pair is eight bytes wide (R55). -/
def ReadyPair (s : State) : Prop :=
  s.curKeys.Nodup ∧ ∀ k ∈ s.curKeys, ∀ t, s.thread k = some t → xsSS t.xstat = false

/-- `u` is `s` with each lane of the issuing set changed by `g`, and nothing else. -/
def LanesTo (s u : State) (g : Nat → Thread → Thread) : Prop :=
  { u with threads := s.threads } = s ∧ (∀ k, k ∉ s.curKeys → u.thread k = s.thread k) ∧
    ∀ k ∈ s.curKeys, u.thread k = (s.thread k).map (g k)

/-- The instruction completes, changes each lane of the issuing set by `g`, and changes nothing else. -/
def LaneEffect (i : Instr) (s : State) (g : Nat → Thread → Thread) : Prop := ∃ u, exec i s = .next u ∧ LanesTo s u g

/-- The instruction completes in each lane with w[d] := f t and the PC at the next instruction. -/
def LaneW (i : Instr) (s : State) (d : Reg) (f : Thread → Word) : Prop :=
  LaneEffect i s fun _ t => retired (setW t d (f t)) (t.pc + 4)

/-- The same for p[d]. -/
def LaneP (i : Instr) (s : State) (d : PReg) (f : Thread → Bool) : Prop :=
  LaneEffect i s fun _ t => retired (setP t d (f t)) (t.pc + 4)

/-- The issuing set is the one lane at `k`, whose thread is `t`, with no prefix in force and not single-stepping: every SC
instruction issues so (R136). -/
def Lone (s : State) (k : Nat) (t : Thread) : Prop :=
  s.curKeys = [k] ∧ s.thread k = some t ∧ s.cur.pfx = none ∧ xsSS t.xstat = false

/-- None of the f registers is bound to a stream in the lane (R48). -/
def Unbound (t : Thread) : Prop := anyBound t = false

/-- Every lane of the issuing set has no stream bound. -/
def AllUnbound (s : State) : Prop := ∀ k ∈ s.curKeys, ∀ t, s.thread k = some t → Unbound t

/-- Every lane of the issuing set reads subnormals as zero, or holds none in the registers named (R124 to R126). -/
def NoAssist (s : State) (subs : Thread → Bool) : Prop :=
  ∀ k ∈ s.curKeys, ∀ t, s.thread k = some t → xsSM t.xstat = true ∨ subs t = false

/-- `i` is a scalar operation of R148 on f[d], f[a] and f[b] that reads a subnormal, and `r` the one rounding of its exact result. -/
def AssistedScalar (t : Thread) (i : Instr) (d a b : Reg) (r : Rounded) : Prop :=
  ∃ (p : BitVec 1) (F : Fmt) (e : Exact) (x y z : Val) (sub : Reg → Bool), F = (if p = 0 then .f32 else .f64) ∧
    x = operandV F t a ∧ y = operandV F t b ∧ z = operandV F t d ∧ sub = (fun q => isSubnormal F (opnd F t q)) ∧
    r = roundExact false F (rmOf t) false e ∧
    (sub a = true ∧ i = .fsqrt d a p ∧ e = sqrtV x ∨
      (sub a || sub b) = true ∧ (i = .fadd d a b p ∧ e = addV (rmOf t) x y ∨ i = .fsub d a b p ∧ e = addV (rmOf t) x (negate y) ∨
        i = .fmul d a b p ∧ e = mulV x y ∨ i = .fdiv d a b p ∧ e = divV x y) ∨
      (sub a || sub b || sub d) = true ∧ (i = .fmadd d a b p ∧ e = fmaV (rmOf t) x y z ∨
        i = .fmsub d a b p ∧ e = fmaV (rmOf t) x y (negate z) ∨ i = .fnmadd d a b p ∧ e = fmaV (rmOf t) (negate x) y z ∨
        i = .fnmsub d a b p ∧ e = fmaV (rmOf t) (negate x) y (negate z)))

/-- `i` is a special function of R153 on f[d] and f[a] that reads a subnormal, and `r` the one rounding of its value. -/
def AssistedSpecial (t : Thread) (i : Instr) (d a : Reg) (r : Rounded) : Prop :=
  isSubnormal .f32 (opnd .f32 t a) = true ∧ ∃ f : Val → Exact, r = roundExact false .f32 (rmOf t) false (f (operandV .f32 t a)) ∧
    (i = .fexp2 d a ∧ f = exp2V ∨ i = .flog2 d a ∧ f = log2V ∨ i = .frsqrt d a ∧ f = rsqrtV ∨ i = .fsin d a ∧ f = sinV ∨ i = .fcos d a ∧ f = cosV)

/-- `i` is a packed operation of R158 or R159 on f[d], f[a] and f[b] that reads a subnormal element, and `r` its elements, each rounded once. -/
def AssistedPacked (t : Thread) (pfx : Option (BitVec 4 × BitVec 4 × BitVec 6)) (i : Instr) (d a b : Reg) (r : Rounded) : Prop :=
  ∃ (e : BitVec 4) (sat : BitVec 1) (F : Fmt) (x y z : Nat → Val) (R : (Nat → Exact) → Rounded), (∀ j, x j = elemV F t j a) ∧
    (∀ j, y j = elemV F t j b) ∧ (∀ j, z j = elemV F t j d) ∧
    (∀ f, R f = packElems F fun j => roundExact false F (rmOf t) (sat == 1) (f j)) ∧
    (narrowFmt e false pfx = some F ∧ (elemSub F t a || elemSub F t b) = true ∧
        (i = .nadd d a b e sat ∧ r = R (fun j => addV (rmOf t) (x j) (y j)) ∨ i = .nsub d a b e sat ∧ r = R (fun j => addV (rmOf t) (x j) (negate (y j))) ∨
          i = .nmul d a b e sat ∧ r = R (fun j => mulV (x j) (y j)) ∨
          ∃ isMax : Bool, i = (if isMax then .nmax d a b e sat else .nmin d a b e sat) ∧
            r = packElems F fun j => minMaxBits F false isMax (elemBits F j (readF t a)) (elemBits F j (readF t b))) ∨
      narrowFmt e false pfx = some F ∧ (elemSub F t a || elemSub F t b || elemSub F t d) = true ∧ i = .nfma d a b e sat ∧
        r = R (fun j => fmaV (rmOf t) (x j) (y j) (z j)) ∨
      narrowFmt e true pfx = some F ∧ (elemSub F t a || elemSub F t b || (F = .bf16 && isSubnormal .f32 (opnd .f32 t d))) = true ∧
        i = .ndot d a b e sat ∧ r = roundExact false .f32 (rmOf t) (sat == 1) (dotExact (rmOf t) ((List.range (fmtElems F)).map x)
          ((List.range (fmtElems F)).map y) (flushIn false .f32 (opnd .f32 t d))))

/-- Under SM = 0 instruction `i` of R124, with prefix `pfx` in force, reads a subnormal in the lane and writes f[d]; `r` is the result that
handling subnormals in hardware would give (R125). -/
def Assisted (t : Thread) (pfx : Option (BitVec 4 × BitVec 4 × BitVec 6)) (i : Instr) (d : Reg) (r : Rounded) : Prop :=
  xsSM t.xstat = false ∧ ∃ a b : Reg, pfx = none ∧ (AssistedScalar t i d a b r ∨ AssistedSpecial t i d a r) ∨ AssistedPacked t pfx i d a b r

/-- The instruction completes in each lane with f[d] := the result's bits, its flags raised in FFLAGS (R127), and the PC past
the instruction or the prefixed pair. -/
def LaneF (i : Instr) (s : State) (d : Reg) (r : Thread → Rounded) : Prop :=
  LaneEffect i s fun _ t => retired (setF (raise t (r t).flags) d (word (r t).bits)) (t.pc + s.width)

/-- `v` is what lane `src` of the issuing set reads, or `own` where that lane is not in the set (R146). -/
def FromLane (s : State) (src : Int) (read : Thread → Word) (own v : Word) : Prop :=
  (∀ k ∈ s.curKeys, ∀ t, s.thread k = some t → (laneOf (keyCore k) (keyThr k) : Int) = src → v = read t) ∧
    ((∀ k ∈ s.curKeys, ∀ t, s.thread k = some t → (laneOf (keyCore k) (keyThr k) : Int) ≠ src) → v = own)

/-- The lanes of the issuing set have distinct lane numbers. -/
def DistinctLanes (s : State) : Prop := (s.curKeys.map fun k => laneOf (keyCore k) (keyThr k)).Nodup

/-- A lane's access of `n` bytes at `va` passes every check: the keys of its bytes, and the page-table lines it read (R234), on none of
which a write already issued, or a granted drain's, is still to be performed (R211). -/
def Reaches (s : State) (k : Nat) (t : Thread) (acc : Access) (va : Word) (n : Nat) (addrs lines : List Nat) : Prop :=
  (∃ p x, s.partOf (keyCl k) = some (p, x) ∧
    checkAccess s false (keyCl k) p x t.asid (xsSUP t.xstat) acc va n = .ok addrs lines) ∧
  tableDirty s lines = false

/-- The state once the lanes' walks have asked host memory for the page-table lines that lie there (R450). -/
def walked (s : State) (L : Nat → List Nat) : State := s.curThreads.foldl (fun u x => u.walkReads (keyCl x.1) (L x.1)) s

/-- The instruction completes, changes each lane of the issuing set by `g`, its walks ask host memory, and nothing else changes. -/
def WalkEffect (i : Instr) (s : State) (L : Nat → List Nat) (g : Nat → Thread → Thread) : Prop :=
  ∃ u, exec i s = .next u ∧ LanesTo (walked s L) u g

/-- A lane's access to the counter or record an instruction names passes the checks of R340. -/
def Counts (s : State) (k : Nat) (t : Thread) (acc : Access) (va : Word) (n : Nat) (addrs lines : List Nat) : Prop :=
  ∃ p x, s.partOf (keyCl k) = some (p, x) ∧ checkCounter s p x t.asid (xsSUP t.xstat) acc va n = .ok addrs lines

/-- An atomic operation of an instruction may be made at these bytes now: the agent's link is up, the host holds no line of them that it could
not give up, and no access is still to be performed by a page-table line among them (R211, R240, R440, R452). -/
def Writable (s : State) (k op : Nat) (addrs : List Nat) : Prop :=
  atomicBarred s k op addrs = false ∧ tableHeld s addrs = false ∧ linkHeld s true addrs = none

/-- A lane's access at `va` does not migrate its thread (R232, R235). -/
def Stays (s : State) (k : Nat) (t : Thread) (va : Word) : Prop :=
  ((s.partOf (keyCl k)).bind fun p => migrates p.2 k t va) = none

/-- Every lane of the issuing set makes an access of `n` bytes at `va` of it that passes its checks, and stays. -/
def LanesReach (s : State) (acc : Access) (va : Thread → Word) (n : Nat) (A L : Nat → List Nat) : Prop :=
  ∀ k ∈ s.curKeys, ∀ t, s.thread k = some t → Stays s k t (va t) ∧ Reaches s k t acc (va t) n (A k) (L k)

/-- An outstanding operation a lane sends as it stands. -/
def opOf (s : State) (t : Thread) (kind : OutKind) (va : Word) (addrs lines : List Nat) (data : List Byte) (order : BitVec 2)
    (scope : BitVec 3) (serial : Nat) : OutOp :=
  { kind := kind, addrs := addrs, data := data, order := order, scope := scope, pc := t.pc, serial := serial, inst := s.free,
    lines := lines, va := va }

/-- The write-issue number of a core's next write (R230). -/
def nextSerial (s : State) (k : Nat) : Nat := (s.core (keyCl k) (keyCore k)).wIssue + 1

/-- The state with that number issued. -/
def issueWrite (s : State) (k : Nat) : State :=
  s.modCore (keyCl k) (keyCore k) fun c => { c with wIssue := nextSerial s k }

/-- The state once the messages of a thread's access have left: none where every byte lies in the device (R450, R454). -/
def asking (s : State) (k kind : Nat) (keys : List Nat) (data : List Byte) : State := s.farRequest (s.partNo (keyCl k)) kind keys data

/-- A lone thread sends a store of `data` at `va` and retires (R236, R237). -/
def StoreSent (i : Instr) (s : State) (k : Nat) (t : Thread) (va : Word) (data : List Byte) (order : BitVec 2)
    (scope : BitVec 3) : Prop :=
  ∀ addrs lines, Reaches s k t .write va data.length addrs lines → ctlRefuses addrs data = false →
    calendarRefuses s addrs data = false → t.st < 63 →
    exec i s = .next (((issueWrite s k).putThread k
      (retired { t with st := t.st + 1, out := t.out ++ [opOf s t .store va addrs lines data order scope (nextSerial s k)] } (t.pc + 4))).walkReads
        (keyCl k) lines)

/-- The thread at `k` may have its operation `i` performed now: it is outstanding, the cluster's accesses are performed, and
no link on its way is down (R213, R427, R440, R452). -/
def Performs (s : State) (k i : Nat) (t : Thread) (o : OutOp) : Prop :=
  s.thread k = some t ∧ clusterDrains s (keyCl k) = true ∧ t.out[i]? = some o ∧ linkHeld s (outWrites o) o.addrs = none

/-- `h` is the handle of queue `q` of a FIFO bank of cluster `cl`, in the partition of the thread at `k`, and the bank is not
switching (R207, R261). -/
def FifoHandle (s : State) (k : Nat) (h : Word) (cl q : Nat) : Prop :=
  queueOf h = some (cl, q) ∧ ((s.partOf (keyCl k)).any fun p => p.2.halfDies.getLsbD (halfDieOf cl)) = true ∧
    bankBusy (s.cluster cl) (q / 16) = false ∧ bankMode (s.cluster cl) (q / 16) = 2

/-- `h` names the thread position `dst` of the partition of the thread at `k` (R269). -/
def NamesThread (s : State) (k : Nat) (h : Word) (dst : Nat) : Prop :=
  nameKey h = some dst ∧ ((s.partOf (keyCl k)).any fun p => p.2.halfDies.getLsbD (halfDieOf (keyCl dst))) = true

/-- The issuing core is an SC (R103). -/
def OnSC (s : State) : Prop := isSC s.cur.core = true

/-- Every earlier access of the thread is performed (R216). -/
def Released (t : Thread) : Prop := ∀ o ∈ t.out, outReads o = false ∧ outWrites o = false ∧ outAcquires o = false

/-- An outstanding operation with no bytes of memory. -/
def tokenOf (s : State) (t : Thread) (kind : OutKind) : OutOp := opOf s t kind 0 [] [] [] 0 0 0

/-- A core's state after an event changed it. -/
def withCore (s : State) (k : Nat) (c : Core) : State := s.modCore (keyCl k) (keyCore k) fun _ => c

/-- A thread has no access, copy or engine command outstanding. -/
def Idle (t : Thread) : Prop := t.out = [] ∧ t.ld = 0 ∧ t.st = 0 ∧ t.cp = 0 ∧ t.tl = 0

/-- Everything but the flights with their counts, and the thread at `k`, is as before. -/
def OnlyThreadAndFlights (s u : State) (k : Nat) : Prop :=
  { u with threads := s.threads, flights := s.flights, packets := s.packets } = s ∧ ∀ j, j ≠ k → u.thread j = s.thread j

/-- Entry g of the group table, held by the thread's launch, with the thread's core a member (R328). -/
def MayUseGroup (s : State) (k : Nat) (t : Thread) (g p : Nat) (e : Group) : Prop :=
  (∃ x, s.partOf (keyCl k) = some (p, x) ∧ mget x.groups g = some e) ∧ t.launch = some (p, e.serial) ∧
    isMember e (keyCl k) (keyCore k) = true

/-- A thread of launch `l` has left: in the launch's partition every phase ends for which something has arrived and for which every
thread still live has; no other phase ends, and nothing else of any partition changes (R306). -/
def PhasesSettle (l : Option (Nat × Nat)) (s u : State) : Prop :=
  match l with
  | none => u.parts = s.parts
  | some (p, _) => (∀ q, q ≠ p → u.part q = s.part q) ∧ ∀ x, s.part p = some x → ∃ y, u.part p = some y ∧ { y with groups := x.groups } = x ∧
      ∀ g, mget y.groups g = (mget x.groups g).map fun (e : Group) =>
        if e.arrived ≠ [] ∧ ∀ n ∈ liveThreads u p e, n ∈ e.arrived then { e with phase := e.phase + 1, arrived := [] } else e

/-- The thread parks at its instruction, in a wait that begins now. -/
def waits (s : State) (t : Thread) (why : ParkWhy) : Thread := { t with park := some { why := why, since := s.cyc } }

/-- The state with `f` sent on its channel by a core, which counts it (R424). -/
def sends (s : State) (core : Nat) (f : Flight) : State :=
  { s with flights := s.flights ++ [f], packets := countPacket s.packets core (packetTo f) }

/-- The flight at position `i` has arrived. -/
def arrived (s : State) (i : Nat) : State := { s with flights := s.flights.take i ++ s.flights.drop (i + 1) }

/-- The instruction completes as `s'` with each lane of the issuing set changed by `g`. -/
def ThenLanes (i : Instr) (s s' : State) (g : Nat → Thread → Thread) : Prop := ∃ u, exec i s = .next u ∧ LanesTo s' u g

/-- The table of an engine has room for a command of the issuing set, and every lane's tl for one more (R173, R356, R364). -/
def TableReady (s : State) (engine : Nat) : Prop :=
  tableRoom (s.cluster s.cur.cl) engine = true ∧ ∀ k ∈ s.curKeys, ∀ t, s.thread k = some t → t.tl < 63

/-- The state with a command at the end of its engine's table. -/
def withCommand (s : State) (engine : Nat) (cmd : Cmd) : State :=
  { s with nextSeq := s.nextSeq + 1 }.modCluster s.cur.cl fun c => tablePut c engine cmd

/-- The instruction posts one command for the issuing set: it is at the end of its engine's table, every lane retires with tl
raised by one and `busy` still to be written, and nothing else changes (R173). -/
def Posts (i : Instr) (s : State) (engine : Nat) (cmd : Cmd) (busy : Nat → List RegRef) : Prop :=
  ThenLanes i s (withCommand s engine cmd) fun k t => retired (addBusy { t with tl := t.tl + 1 } (busy k)) (t.pc + s.width)

/-- The lowest lane of the issuing set, whose operands an engine's command takes (R187). -/
def Lowest (s : State) (k : Nat) (t : Thread) : Prop := s.curKeys.head? = some k ∧ s.thread k = some t

/-- An issuing set or a lone thread: every position of the set holds a thread. -/
def Filled (s : State) : Prop := ∀ k ∈ s.curKeys, (s.thread k).isSome = true

/-- The store at position `i` of the thread at `k` is to control word `w` of cluster `cl` and may be performed now. -/
def CtlStore (s : State) (k i : Nat) (t : Thread) (o : OutOp) (cl w : Nat) (v : Word) : Prop :=
  s.thread k = some t ∧ clusterDrains s (keyCl k) = true ∧ t.out[i]? = some o ∧ writeReady (t.out.take i) o = true ∧
    lanesBefore s k o = true ∧ o.kind = .store ∧ ctlOf o = some (cl, w) ∧ v = word (leNat o.data)

/-- The thread with that store performed. -/
def storeDone (t : Thread) (i : Nat) : Thread := { t with st := t.st - 1, out := t.out.take i ++ t.out.drop (i + 1) }

/-- An access from outside touches memory that partitions own, waits for nothing, and no link on its way refuses it (R379, R450, R455). -/
def OuterReady (s : State) (acc : HostReq) (p : Nat) : Prop :=
  let keys := (outerKeys acc).map (homeKey s)
  outerKeys acc ≠ [] ∧ outerOwned s (outerKeys acc) = true ∧ outerWaits s acc keys = false ∧
    (granuleOwner s (acc.addr / 2 ^ 30)).map (·.1) = some p ∧ linkHeld s (acc.write || acc.atomic.isSome) keys = none ∧
    outerBarred s acc keys = false

/-- A partition and the launch of a serial in it. -/
def HasLaunch (s : State) (p serial : Nat) (x : Partition) (l : Launch) : Prop :=
  s.part p = some x ∧ mget x.launches serial = some l ∧ clusterRuns s l.cl = true

/-- A trap would be delivered to the vector of the thread's partition (R413). -/
def Vectored (s : State) (k : Nat) (t : Thread) (p : Nat) (x : Partition) : Prop :=
  s.partOf (keyCl k) = some (p, x) ∧ x.svcbase ≠ 0 ∧ tcV t.tcause = false

/-- The thread at its handler for `cause`, nothing else of it changed but what R413 names. -/
def trapped (t : Thread) (x : Partition) (cause : Nat) (value : Word) : Thread :=
  trapThread t x.svcbase t.pc (xsRead t.xstat) cause 0 false value 0

/-- A command of the lanes `keys` leaves its engine: tl falls by one in each of them, and no other thread changes (R173). -/
def TlFalls (s u : State) (keys : List Nat) : Prop :=
  (∀ k, k ∉ keys → u.thread k = s.thread k) ∧
    (keys.Nodup → ∀ k ∈ keys, u.thread k = (s.thread k).map fun t => { t with tl := t.tl - 1 })

/-- The SMC's firmware runs, and answers a command with a status and bytes. -/
def answered (u : State) (status : Nat) (bytes : List Byte) : Prop := u.smcStatus = status ∧ u.smcAnswer = bytes

end Sys2Proof.Safety
end

