-- ==== Sys2Proof/Certificates/Slice0/Obligations.lean ====
section
/-! DEFINITION. The statements put to the provers. Each instruction that completes has one whose conclusion is the next state `exec`
answers; the words it is said in are those of `Sys2Proof.Safety`. -/

open Sys2Proof Sys2Proof.Machine Sys2Proof.Safety

/-! ### Registers and the integer families (R39 to R42, R76 to R78, R136 to R147, R317) -/

/-- w0 reads zero and p0 reads true, and a write to either is discarded; every other write is read back and no other register
changes (R39, R42). -/
def Obligations.RegistersReadBackWhatIsWritten : Prop :=
  (∀ (t : Thread) (d a : Reg) (v : Word), readW t 0 = 0 ∧ setW t 0 v = t ∧
    readW (setW t d v) a = if a = 0 then 0 else if a = d then v else readW t a) ∧
  (∀ (t : Thread) (d a : PReg) (v : Bool), readP t 0 = true ∧ setP t 0 v = t ∧
    readP (setP t d v) a = if a = 0 then true else if a = d then v else readP t a)

/-- Table 5.1, R141 and R142: what each integer instruction writes to w[d] in every lane of its issuing set, that no divisor traps,
and that it changes nothing else: no flag, no other register, no byte of memory; and what the counts, the reversals and the bit
fields mean, bit by bit, with the overflow corner of R141. -/
def Obligations.IntegerInstructionsComplete : Prop :=
  (∀ s, Ready s → ∀ d a b : Reg,
    LaneW (.add d a b) s d (fun t => readW t a + readW t b) ∧
    LaneW (.sub d a b) s d (fun t => readW t a - readW t b) ∧
    LaneW (.mul d a b) s d (fun t => readW t a * readW t b) ∧
    LaneW (.mulh d a b) s d (fun t => ((readW t a).signExtend 128 * (readW t b).signExtend 128).extractLsb' 64 64) ∧
    LaneW (.mulhu d a b) s d (fun t => ((readW t a).setWidth 128 * (readW t b).setWidth 128).extractLsb' 64 64) ∧
    LaneW (.and d a b) s d (fun t => readW t a &&& readW t b) ∧
    LaneW (.or d a b) s d (fun t => readW t a ||| readW t b) ∧
    LaneW (.xor d a b) s d (fun t => readW t a ^^^ readW t b) ∧
    LaneW (.andn d a b) s d (fun t => readW t a &&& ~~~ readW t b) ∧
    LaneW (.sll d a b) s d (fun t => readW t a <<< ((readW t b).toNat % 64)) ∧
    LaneW (.srl d a b) s d (fun t => readW t a >>> ((readW t b).toNat % 64)) ∧
    LaneW (.sra d a b) s d (fun t => (readW t a).sshiftRight ((readW t b).toNat % 64)) ∧
    LaneW (.ror d a b) s d (fun t => (readW t a).rotateRight ((readW t b).toNat % 64)) ∧
    LaneW (.clz d a) s d (fun t => leadingZeros (readW t a)) ∧
    LaneW (.ctz d a) s d (fun t => trailingZeros (readW t a)) ∧
    LaneW (.popc d a) s d (fun t => popCount (readW t a)) ∧
    LaneW (.brev d a) s d (fun t => bitReverse (readW t a)) ∧
    LaneW (.bswap d a) s d (fun t => byteSwap (readW t a)) ∧
    LaneW (.min d a b) s d (fun t => if (readW t a).toInt < (readW t b).toInt then readW t a else readW t b) ∧
    LaneW (.max d a b) s d (fun t => if (readW t a).toInt < (readW t b).toInt then readW t b else readW t a) ∧
    LaneW (.minu d a b) s d (fun t => if (readW t a).toNat < (readW t b).toNat then readW t a else readW t b) ∧
    LaneW (.maxu d a b) s d (fun t => if (readW t a).toNat < (readW t b).toNat then readW t b else readW t a) ∧
    LaneW (.slt d a b) s d (fun t => if (readW t a).toInt < (readW t b).toInt then 1 else 0) ∧
    LaneW (.sltu d a b) s d (fun t => if (readW t a).toNat < (readW t b).toNat then 1 else 0) ∧
    (∀ n : BitVec 3, LaneW (.sel n d a b) s d (fun t => if n = 0 ∨ readP t n then readW t a else readW t b)) ∧
    LaneW (.bfxu d a b) s d (fun t => fieldGet (readW t a) (readW t b)) ∧
    LaneW (.bfxs d a b) s d (fun t => fieldGetS (readW t a) (readW t b)) ∧
    LaneW (.bfi d a b) s d (fun t => fieldPut (readW t d) (readW t a) (readW t b)) ∧
    LaneW (.div d a b) s d (fun t => if readW t b = 0 then -1
      else BitVec.ofInt 64 ((readW t a).toInt.tdiv (readW t b).toInt)) ∧
    LaneW (.rem d a b) s d (fun t => if readW t b = 0 then readW t a
      else readW t a - BitVec.ofInt 64 ((readW t a).toInt.tdiv (readW t b).toInt) * readW t b) ∧
    LaneW (.divu d a b) s d (fun t => if readW t b = 0 then -1 else readW t a / readW t b) ∧
    LaneW (.remu d a b) s d (fun t => if readW t b = 0 then readW t a
      else readW t a - readW t a / readW t b * readW t b)) ∧
  (divS 0x8000000000000000#64 (-1) = 0x8000000000000000#64 ∧ remS 0x8000000000000000#64 (-1) = 0) ∧
  (∀ x y : Word,
    (∀ i, i < (leadingZeros x).toNat → x.getLsbD (63 - i) = false) ∧
    (x ≠ 0 → (leadingZeros x).toNat < 64 ∧ x.getLsbD (63 - (leadingZeros x).toNat) = true) ∧
    (x = 0 → leadingZeros x = 64 ∧ trailingZeros x = 64) ∧
    (∀ i, i < (trailingZeros x).toNat → x.getLsbD i = false) ∧
    (x ≠ 0 → (trailingZeros x).toNat < 64 ∧ x.getLsbD (trailingZeros x).toNat = true) ∧
    (popCount x).toNat = ((List.range 64).filter fun i => x.getLsbD i).length ∧
    (∀ i, i < 64 → (bitReverse x).getLsbD (63 - i) = x.getLsbD i) ∧
    (∀ j, j < 8 → (byteSwap x).extractLsb' (8 * (7 - j)) 8 = x.extractLsb' (8 * j) 8) ∧
    (∀ i, (fieldGet x y).getLsbD i = (decide (i < fieldLen y) && x.getLsbD (y.toNat % 64 + i))) ∧
    (∀ i, i < 64 → (fieldGetS x y).getLsbD i =
      (decide (0 < fieldLen y) && x.getLsbD (y.toNat % 64 + min i (fieldLen y - 1)))) ∧
    (∀ z i, i < 64 → (fieldPut z x y).getLsbD i =
      if y.toNat % 64 ≤ i ∧ i < y.toNat % 64 + fieldLen y then x.getLsbD (i - y.toNat % 64) else z.getLsbD i) ∧
    fieldLen y = min (y.toNat / 256 % 64) (64 - y.toNat % 64))

/-- R143 to R145: the immediate instructions, the constant window K[n] as the thread's own earlier stores leave it, the compares,
the predicate logic with its negate bits, and the two moves; each writes its destination and nothing else. -/
def Obligations.ImmediateConstantAndPredicateComplete : Prop :=
  (∀ s, Ready s → ∀ (d a : Reg) (imm : BitVec 15) (n : BitVec 6) (m : BitVec 5) (j : BitVec 20),
    LaneW (.addi d a imm) s d (fun t => readW t a + imm.signExtend 64) ∧
    LaneW (.andi d a imm) s d (fun t => readW t a &&& imm.signExtend 64) ∧
    LaneW (.ori d a imm) s d (fun t => readW t a ||| imm.setWidth 64) ∧
    LaneW (.xori d a imm) s d (fun t => readW t a ^^^ imm.setWidth 64) ∧
    LaneW (.slti d a imm) s d (fun t => if (readW t a).toInt < imm.toInt then 1 else 0) ∧
    LaneW (.slli d a n) s d (fun t => readW t a <<< n.toNat) ∧
    LaneW (.srli d a n) s d (fun t => readW t a >>> n.toNat) ∧
    LaneW (.srai d a n) s d (fun t => (readW t a).sshiftRight n.toNat) ∧
    LaneW (.rori d a n) s d (fun t => (readW t a).rotateRight n.toNat) ∧
    LaneW (.slliw d a m) s d (fun t => ((readW t a).setWidth 32 <<< m.toNat).signExtend 64) ∧
    LaneW (.srliw d a m) s d (fun t => ((readW t a).setWidth 32 >>> m.toNat).signExtend 64) ∧
    LaneW (.sraiw d a m) s d (fun t => (((readW t a).setWidth 32).signExtend 64).sshiftRight m.toNat) ∧
    LaneW (.roriw d a m) s d (fun t => (((readW t a).setWidth 32).rotateRight m.toNat).signExtend 64) ∧
    LaneW (.lui d j) s d (fun _ => BitVec.ofInt 64 (j.toInt * 2 ^ 15))) ∧
  (∀ s, Ready s → ∀ (d a : Reg) (n : BitVec 8) (K : Nat → Thread → Word),
    (∀ k t, K k t = word (leNat ((List.range 8).map fun i => s.seen t.out (lmAddr (keyCl k) (keyCore k) (8 * n.toNat + i))))) →
    LaneEffect (.ldk d n) s (fun k t => retired (setW t d (K k t)) (t.pc + 4)) ∧
    LaneEffect (.addk d a n) s (fun k t => retired (setW t d (readW t a + K k t)) (t.pc + 4)) ∧
    LaneEffect (.subk d a n) s (fun k t => retired (setW t d (readW t a - K k t)) (t.pc + 4)) ∧
    LaneEffect (.andk d a n) s (fun k t => retired (setW t d (readW t a &&& K k t)) (t.pc + 4)) ∧
    ((∀ k ∈ s.curKeys, ∀ t, s.thread k = some t → Unbound t) →
      LaneEffect (.ldkf d n) s fun k t => retired (setF t d (K k t)) (t.pc + 4))) ∧
  (∀ s, Ready s → ∀ (d : PReg) (w a b : Reg) (x y : PSrc),
    LaneP (.cpeq d a b) s d (fun t => decide (readW t a = readW t b)) ∧
    LaneP (.cpne d a b) s d (fun t => decide (readW t a ≠ readW t b)) ∧
    LaneP (.cplt d a b) s d (fun t => decide ((readW t a).toInt < (readW t b).toInt)) ∧
    LaneP (.cpltu d a b) s d (fun t => decide ((readW t a).toNat < (readW t b).toNat)) ∧
    LaneP (.cpge d a b) s d (fun t => decide ((readW t b).toInt ≤ (readW t a).toInt)) ∧
    LaneP (.cpgeu d a b) s d (fun t => decide ((readW t b).toNat ≤ (readW t a).toNat)) ∧
    LaneP (.pand d x y) s d (fun t => (readP t (x.extractLsb' 0 3) != x.getLsbD 3) && (readP t (y.extractLsb' 0 3) != y.getLsbD 3)) ∧
    LaneP (.por d x y) s d (fun t => (readP t (x.extractLsb' 0 3) != x.getLsbD 3) || (readP t (y.extractLsb' 0 3) != y.getLsbD 3)) ∧
    LaneP (.pxor d x y) s d (fun t => (readP t (x.extractLsb' 0 3) != x.getLsbD 3) != (readP t (y.extractLsb' 0 3) != y.getLsbD 3)) ∧
    LaneP (.pmovw d a) s d (fun t => decide (readW t a ≠ 0)) ∧
    LaneW (.wmovp w x) s w (fun t => if readP t (x.extractLsb' 0 3) != x.getLsbD 3 then 1 else 0))

/-- R317 and R77: where a branch, a jump and the Elpol loop pseudo-form go, and what they write; R53 and R57: a prefix is in force
for the instruction after it and changes no register, and a format field of 12 to 15 is illegal. -/
def Obligations.ControlFlowAndPrefixComplete : Prop :=
  (∀ s, Ready s → ∀ (p : PReg) (neg : BitVec 1) (off : BitVec 21) (off20 : BitVec 20) (d a : Reg),
    LaneEffect (.br p neg off) s (fun _ t =>
      retired t (if ((p = 0 ∨ readP t p = true) ↔ neg = 0) then t.pc + off.signExtend 64 * 4 else t.pc + 4)) ∧
    LaneEffect (.jal d off20) s (fun _ t => retired (setW t d (t.pc + 4)) (t.pc + off20.signExtend 64 * 4)) ∧
    LaneEffect (.jalr d a) s (fun _ t => retired (setW t d (t.pc + 4)) (readW t a &&& 0xFFFFFFFFFFFFFFFC#64)) ∧
    ∀ (i n : Reg) (st : BitVec 2) (pd : PReg) (off10 : BitVec 10), st ≠ 3 → i ≠ 0 → pd ≠ 0 →
      ∀ step : Nat, (st = 0 → step = 32) → (st = 1 → step = 128) → (st = 2 → step = 64) →
      LaneEffect (.eloop i n st pd off10) s fun k t =>
        let ix : Nat := if st = 0 then laneOf (keyCore k) (keyThr k) else step - 1
        let t1 := setW t i (readW t i + word step)
        if (readW t1 i).toInt < (readW t1 n).toInt then
          retired (setP t1 pd (decide ((readW t1 i).toInt + ix < (readW t1 n).toInt))) (t.pc + off10.signExtend 64 * 4)
        else retired (setP t1 pd false) (t.pc + 4)) ∧
  (∀ s (fa fb : BitVec 4) (sel : BitVec 6),
    (fa.toNat ≤ 11 → fb.toNat ≤ 11 → exec (.pfx fa fb sel) s = .next { s with cur := { s.cur with pfx := some (fa, fb, sel) } }) ∧
    ((12 ≤ fa.toNat ∨ 12 ≤ fb.toNat) → exec (.pfx fa fb sel) s = .next (s.trapAll 1)))

/-- R146: a shuffle takes the value of the lane it names when that lane is in the issuing set, else its own; every source is
the value before the instruction. -/
def Obligations.ShufflesCompleteAcrossTheIssuingSet : Prop :=
  ∀ s, Ready s → DistinctLanes s → ∀ d a b : Reg,
    (∃ v : Nat → Word, LaneEffect (.shfl d a b) s (fun k t => retired (setW t d (v k)) (t.pc + 4)) ∧
      ∀ k ∈ s.curKeys, ∀ t, s.thread k = some t →
        FromLane s ((readW t b).toNat % 32 : Nat) (readW · a) (readW t a) (v k)) ∧
    (∃ v : Nat → Word, LaneEffect (.shflup d a b) s (fun k t => retired (setW t d (v k)) (t.pc + 4)) ∧
      ∀ k ∈ s.curKeys, ∀ t, s.thread k = some t →
        FromLane s ((laneOf (keyCore k) (keyThr k) : Int) - ((readW t b).toNat % 32 : Nat)) (readW · a) (readW t a) (v k)) ∧
    (∃ v : Nat → Word, LaneEffect (.shfldn d a b) s (fun k t => retired (setW t d (v k)) (t.pc + 4)) ∧
      ∀ k ∈ s.curKeys, ∀ t, s.thread k = some t →
        FromLane s ((laneOf (keyCore k) (keyThr k) : Int) + ((readW t b).toNat % 32 : Nat)) (readW · a) (readW t a) (v k)) ∧
    (∃ v : Nat → Word, LaneEffect (.shflx d a b) s (fun k t => retired (setW t d (v k)) (t.pc + 4)) ∧
      ∀ k ∈ s.curKeys, ∀ t, s.thread k = some t →
        FromLane s ((laneOf (keyCore k) (keyThr k) ^^^ ((readW t b).toNat % 32) : Nat) : Int) (readW · a) (readW t a) (v k)) ∧
    (AllUnbound s →
      (∃ v : Nat → Word, LaneEffect (.fshfl d a b) s (fun k t => retired (setF t d (v k)) (t.pc + 4)) ∧
        ∀ k ∈ s.curKeys, ∀ t, s.thread k = some t →
          FromLane s ((readW t b).toNat % 32 : Nat) (readF · a) (readF t a) (v k)) ∧
      (∃ v : Nat → Word, LaneEffect (.fshflup d a b) s (fun k t => retired (setF t d (v k)) (t.pc + 4)) ∧
        ∀ k ∈ s.curKeys, ∀ t, s.thread k = some t →
          FromLane s ((laneOf (keyCore k) (keyThr k) : Int) - ((readW t b).toNat % 32 : Nat)) (readF · a) (readF t a) (v k)) ∧
      (∃ v : Nat → Word, LaneEffect (.fshfldn d a b) s (fun k t => retired (setF t d (v k)) (t.pc + 4)) ∧
        ∀ k ∈ s.curKeys, ∀ t, s.thread k = some t →
          FromLane s ((laneOf (keyCore k) (keyThr k) : Int) + ((readW t b).toNat % 32 : Nat)) (readF · a) (readF t a) (v k)) ∧
      (∃ v : Nat → Word, LaneEffect (.fshflx d a b) s (fun k t => retired (setF t d (v k)) (t.pc + 4)) ∧
        ∀ k ∈ s.curKeys, ∀ t, s.thread k = some t →
          FromLane s ((laneOf (keyCore k) (keyThr k) ^^^ ((readW t b).toNat % 32) : Nat) : Int) (readF · a) (readF t a) (v k)))

/-- R147: votes, the ballot and the lane mask of the issuing set S. -/
def Obligations.VotesAndMasksComplete : Prop :=
  ∀ s, Ready s → DistinctLanes s → (∀ k ∈ s.curKeys, (s.thread k).isSome) →
    ∀ (d : PReg) (w : Reg) (a : PSrc) (holds : Thread → Bool),
    (∀ t, holds t = (readP t (a.extractLsb' 0 3) != a.getLsbD 3)) →
    (∃ b, LaneEffect (.vall d a) s (fun _ t => retired (setP t d b) (t.pc + 4)) ∧
      (b = true ↔ ∀ k ∈ s.curKeys, ∀ t, s.thread k = some t → holds t = true)) ∧
    (∃ b, LaneEffect (.vany d a) s (fun _ t => retired (setP t d b) (t.pc + 4)) ∧
      (b = true ↔ ∃ k ∈ s.curKeys, ∃ t, s.thread k = some t ∧ holds t = true)) ∧
    (∃ v : Word, LaneEffect (.vbal w a) s (fun _ t => retired (setW t w v) (t.pc + 4)) ∧
      ∀ n, n < 64 → (v.getLsbD n = true ↔
        ∃ k ∈ s.curKeys, ∃ t, s.thread k = some t ∧ laneOf (keyCore k) (keyThr k) = n ∧ holds t = true)) ∧
    (∃ v : Word, LaneEffect (.lmask w) s (fun _ t => retired (setW t w v) (t.pc + 4)) ∧
      ∀ n, n < 64 → (v.getLsbD n = true ↔ ∃ k ∈ s.curKeys, laneOf (keyCore k) (keyThr k) = n))

/-! ### Floating point and streams (R48 to R51, R88 to R92, R107 to R135, R148 to R160, R335, R336) -/

/-- R148: f[d] := Round(e, F, false), one rounding of the exact result e, with the flags of the operation and of the rounding
raised; the operands are those of R126 under SM = 1. -/
def Obligations.FloatArithmeticCompletes : Prop :=
  ∀ s, Ready s → AllUnbound s → ∀ (d a b : Reg) (p : BitVec 1) (F : Fmt), F = (if p = 0 then .f32 else .f64) →
    ∀ (round : Thread → Exact → Rounded) (x y z : Thread → Val),
    (∀ t e, round t e = roundExact (xsSM t.xstat) F (rm0 (xsRM t.xstat)) false e) →
    (∀ t, x t = operandV F t a) → (∀ t, y t = operandV F t b) → (∀ t, z t = operandV F t d) →
    (NoAssist s (fun t => isSubnormal F (opnd F t a)) →
      LaneF (.fsqrt d a p) s d (fun t => round t (sqrtV (x t)))) ∧
    (NoAssist s (fun t => isSubnormal F (opnd F t a) || isSubnormal F (opnd F t b)) →
      LaneF (.fadd d a b p) s d (fun t => round t (addV (rmOf t) (x t) (y t))) ∧
      LaneF (.fsub d a b p) s d (fun t => round t (addV (rmOf t) (x t) (negate (y t)))) ∧
      LaneF (.fmul d a b p) s d (fun t => round t (mulV (x t) (y t))) ∧
      LaneF (.fdiv d a b p) s d (fun t => round t (divV (x t) (y t)))) ∧
    (NoAssist s (fun t => isSubnormal F (opnd F t a) || isSubnormal F (opnd F t b) || isSubnormal F (opnd F t d)) →
      LaneF (.fmadd d a b p) s d (fun t => round t (fmaV (rmOf t) (x t) (y t) (z t))) ∧
      LaneF (.fmsub d a b p) s d (fun t => round t (fmaV (rmOf t) (x t) (y t) (negate (z t)))) ∧
      LaneF (.fnmadd d a b p) s d (fun t => round t (fmaV (rmOf t) (negate (x t)) (y t) (z t))) ∧
      LaneF (.fnmsub d a b p) s d (fun t => round t (fmaV (rmOf t) (negate (x t)) (y t) (negate (z t)))))

/-- R149 to R152: minimum and maximum, the sign operations, the moves, the compares, the class and the integral value take no
assist: they complete on every operand; and no NaN is below, above or equal to anything. -/
def Obligations.FloatMovesComparesAndClassComplete : Prop :=
  (∀ s, Ready s → AllUnbound s → ∀ (d a b : Reg) (pd : PReg) (p : BitVec 1) (F : Fmt) (n : Nat),
    (p = 0 → F = .f32 ∧ n = 31) → (p = 1 → F = .f64 ∧ n = 63) →
    LaneF (.fmin d a b p) s d (fun t => minMaxBits F (xsSM t.xstat) false (opnd F t a) (opnd F t b)) ∧
    LaneF (.fmax d a b p) s d (fun t => minMaxBits F (xsSM t.xstat) true (opnd F t a) (opnd F t b)) ∧
    LaneEffect (.fsgnj d a b p) s (fun _ t => retired (setF t d
      (word (opnd F t a % 2 ^ n + bit01 ((readF t b).getLsbD n) * 2 ^ n))) (t.pc + 4)) ∧
    LaneEffect (.fsgnjn d a b p) s (fun _ t => retired (setF t d
      (word (opnd F t a % 2 ^ n + bit01 (!(readF t b).getLsbD n) * 2 ^ n))) (t.pc + 4)) ∧
    LaneEffect (.fsgnjx d a b p) s (fun _ t => retired (setF t d
      (word (opnd F t a % 2 ^ n + bit01 ((readF t a).getLsbD n != (readF t b).getLsbD n) * 2 ^ n))) (t.pc + 4)) ∧
    LaneEffect (.fmov d a) s (fun _ t => retired (setF t d (readF t a)) (t.pc + 4)) ∧
    LaneEffect (.fmvwf d a) s (fun _ t => retired (setW t d (readF t a)) (t.pc + 4)) ∧
    LaneEffect (.fmvfw d a) s (fun _ t => retired (setF t d (readW t a)) (t.pc + 4)) ∧
    LaneEffect (.fceq pd a b p) s (fun _ t =>
      retired (setP (raise t { nv := isSig (operandV F t a) || isSig (operandV F t b) }) pd
        (eqV (operandV F t a) (operandV F t b))) (t.pc + 4)) ∧
    LaneEffect (.fclt pd a b p) s (fun _ t =>
      retired (setP (raise t { nv := isNan (operandV F t a) || isNan (operandV F t b) }) pd
        (ltV (operandV F t a) (operandV F t b))) (t.pc + 4)) ∧
    LaneEffect (.fcle pd a b p) s (fun _ t =>
      retired (setP (raise t { nv := isNan (operandV F t a) || isNan (operandV F t b) }) pd
        (ltV (operandV F t a) (operandV F t b) || eqV (operandV F t a) (operandV F t b))) (t.pc + 4)) ∧
    LaneEffect (.fcun pd a b p) s (fun _ t =>
      retired (setP (raise t { nv := isSig (operandV F t a) || isSig (operandV F t b) }) pd
        (isNan (operandV F t a) || isNan (operandV F t b))) (t.pc + 4)) ∧
    LaneEffect (.fclass d a p) s (fun _ t => retired (setW t d (word (2 ^ classBit F (opnd F t a)))) (t.pc + 4)) ∧
    LaneF (.frint d a p) s d (fun t => rintBits F (rmOf t) (operandV F t a))) ∧
  (∀ x y : Val, isNan x = true ∨ isNan y = true → ltV x y = false ∧ eqV x y = false)

/-- The special functions write the single rounding of their value (R153), and R125: a lane in which an instruction of R124, of any
operation and format, reads a subnormal operand under SM = 0 parks for firmware's assist, whose end writes the result that handling
subnormals gives, raises its flags and goes on at the next instruction.
The exact value a special function rounds is the model's (DEDUCED, log 24), and so is the assist as a park (DEDUCED, log 22). -/
def Obligations.SpecialFunctionsAndAssistComplete : Prop :=
  (∀ s, Ready s → AllUnbound s → ∀ d a : Reg, NoAssist s (fun t => isSubnormal .f32 (opnd .f32 t a)) →
    ∀ r : (Val → Exact) → Thread → Rounded, (∀ f t, r f t = roundExact (xsSM t.xstat) .f32 (rmOf t) false (f (operandV .f32 t a))) →
    LaneF (.fexp2 d a) s d (r exp2V) ∧ LaneF (.flog2 d a) s d (r log2V) ∧ LaneF (.frsqrt d a) s d (r rsqrtV) ∧
      LaneF (.fsin d a) s d (r sinV) ∧ LaneF (.fcos d a) s d (r cosV)) ∧
  (∀ s k t i d r, s.curKeys = [k] → s.thread k = some t → xsSS t.xstat = false → Unbound t → t.park = none → Assisted t s.cur.pfx i d r →
    exec i s = .next (s.putThread k { t with park := some { why := .assist i s.cur.pfx, since := s.cyc } })) ∧
  (∀ s k t since i pfx d r, s.thread k = some t → clusterRuns s (keyCl k) = true → Unbound t → xsSS t.xstat = false →
    t.park = some { why := .assist i pfx, since := since } → Assisted t pfx i d r →
    ∃ u, exec (.subnormalAssistComplete k) s = .next u ∧ { u with cur := s.cur } =
      s.putThread k (retired (setF (raise t r.flags) d (word r.bits)) (t.pc + (if pfx.isSome then 8 else 4))))

/-- R154 to R156: a conversion of a pair it supports, with or without a prefix, converts each element with one rounding, and
one it does not support takes the illegal-instruction trap. -/
def Obligations.ConversionsComplete : Prop :=
  ∀ s, ReadyPair s → AllUnbound s → ∀ (d a b : Reg) (fs ft : BitVec 4) (sat : BitVec 1),
    (∀ c, cvtShape b fs ft s.cur.pfx = some c →
      LaneEffect (.cvt d a b fs ft sat) s fun _ t =>
        let r := convertElems c (sat == 1) ((readF t b).toNat % 256) (readF t a) t
          (if c.merge ∧ cvtCount c < fmtElems c.dst then readF t d else 0)
        retired (setF r.1 d r.2) (t.pc + s.width)) ∧
    (cvtShape b fs ft s.cur.pfx = none → exec (.cvt d a b fs ft sat) s = .next (s.trapAll 1)) ∧
    (∀ f, cvtiPair fs ft s.cur.pfx = some (.i32, f) →
      LaneEffect (.cvti d a fs ft sat) s fun _ t =>
        let r := convertOne t .i32 f 0 (sat == 1) ((readW t a).toNat % 2 ^ 32)
        retired (setF r.1 d (word r.2)) (t.pc + s.width)) ∧
    (∀ f, f ≠ .i32 → cvtiPair fs ft s.cur.pfx = some (f, .i32) →
      LaneEffect (.cvti d a fs ft sat) s fun _ t =>
        let r := convertOne t f .i32 0 (sat == 1) (opnd f t a)
        retired (setW r.1 d (signExt 32 (word r.2))) (t.pc + s.width)) ∧
    (cvtiPair fs ft s.cur.pfx = none → exec (.cvti d a fs ft sat) s = .next (s.trapAll 1))

/-- R158 to R160: each packed instruction of a format it supports works element by element with one rounding each, and one it
does not support takes the illegal-instruction trap. -/
def Obligations.PackedNarrowCompletes : Prop :=
  ∀ s, ReadyPair s → AllUnbound s → ∀ (d a b : Reg) (e : BitVec 4) (sat : BitVec 1),
    (∀ F, narrowFmt e false s.cur.pfx = some F →
      ∀ (x y z : Nat → Thread → Val), (∀ i t, x i t = elemV F t i a) → (∀ i t, y i t = elemV F t i b) →
      (∀ i t, z i t = elemV F t i d) → ∀ R : (Thread → Nat → Exact) → Thread → Rounded,
      (∀ f t, R f t = packElems F fun i => roundExact (narrowSM F t) F (rmOf t) (sat == 1) (f t i)) →
      (NoAssist s (fun t => elemSub F t a || elemSub F t b) →
        LaneF (.nadd d a b e sat) s d (R fun t i => addV (rmOf t) (x i t) (y i t)) ∧
        LaneF (.nsub d a b e sat) s d (R fun t i => addV (rmOf t) (x i t) (negate (y i t))) ∧
        LaneF (.nmul d a b e sat) s d (R fun t i => mulV (x i t) (y i t)) ∧
        LaneF (.nmin d a b e sat) s d (fun t => packElems F fun i =>
          minMaxBits F (narrowSM F t) false (elemBits F i (readF t a)) (elemBits F i (readF t b))) ∧
        LaneF (.nmax d a b e sat) s d (fun t => packElems F fun i =>
          minMaxBits F (narrowSM F t) true (elemBits F i (readF t a)) (elemBits F i (readF t b)))) ∧
      (NoAssist s (fun t => elemSub F t a || elemSub F t b || elemSub F t d) →
        LaneF (.nfma d a b e sat) s d (R fun t i => fmaV (rmOf t) (x i t) (y i t) (z i t)))) ∧
    (∀ F, narrowFmt e true s.cur.pfx = some F →
      NoAssist s (fun t => elemSub F t a || elemSub F t b || (F = .bf16 && isSubnormal .f32 (opnd .f32 t d))) →
      LaneF (.ndot d a b e sat) s d fun t => roundExact (narrowSM F t) .f32 (rmOf t) (sat == 1)
        (dotExact (rmOf t) ((List.range (fmtElems F)).map fun i => elemV F t i a)
          ((List.range (fmtElems F)).map fun i => elemV F t i b) (flushIn (narrowSM F t) .f32 (opnd .f32 t d)))) ∧
    (narrowFmt e false s.cur.pfx = none → ∀ i ∈ [Instr.nadd d a b e sat, .nsub d a b e sat, .nmul d a b e sat, .nfma d a b e sat,
      .nmin d a b e sat, .nmax d a b e sat], exec i s = .next (s.trapAll 1)) ∧
    (narrowFmt e true s.cur.pfx = none → exec (.ndot d a b e sat) s = .next (s.trapAll 1))

/-- R118, R123, R366 and R369 on fixed values: −0 is below +0 for `fmin`, opposite zeros add to +0 in mode 0 and to −0 in mode 2, a
product of zero and infinity is invalid, 2^25 − 1 rounds to 2^25 in FP32; backed-up values saturate, and a NaN score is worst. -/
def Obligations.ArithmeticCornersHaveTheirValues : Prop :=
  ((minMaxBits .f32 false false 0 0x80000000).bits = 0x80000000 ∧
  (roundExact false .f32 0 false (addV 0 (valueOf .f32 0 0) (valueOf .f32 0 0x80000000))).bits = 0 ∧
  (roundExact false .f32 2 false (addV 2 (valueOf .f32 0 0) (valueOf .f32 0 0x80000000))).bits = 0x80000000 ∧
  (mulV (valueOf .f32 0 0) (valueOf .f32 0 0x7F800000)).flags.nv = true ∧
  (roundTo .f32 0 0 false 0 (.fin false 0x1FFFFFF 0)).bits = 0x4C000000) ∧
  (backupValue 0x3F800000 = some (2 ^ 30) ∧ backupValue 0xBF800000 = some (-(2 ^ 30)) ∧ backupValue 0x7F800000 = some (2 ^ 63 - 1) ∧
    backupValue 0xFF800000 = some (-(2 ^ 63)) ∧ backupValue 0x7FC00000 = none ∧
    (∀ x y : Nat, isNan (f32Val x) = true → steBetter x y = false) ∧
    (∀ x y : Nat, isNan (f32Val x) = false → isNan (f32Val y) = true → steBetter x y = true))

/-- R48 to R51, R335 and R336, shown on `fmov`: a read-bound source gives the next element and advances, waits for one that has not
arrived, and takes the deferred fault of a failed one; a write-bound destination sends an append with st raised; a write to a
read-bound register traps. -/
def Obligations.StreamOperandsReadAndAppend : Prop :=
  ∀ s k t, Lone s k t → ∀ (n : Nat) (d a : Reg) (x : Stream), n < 4 → x = streamOf t n →
    (a.toNat = 28 + n → d.toNat < 28 → x.state = .readBound →
      (∀ v rest, x.ahead = .value v :: rest → exec (.fmov d a) s = .next (s.putThread k (retired (setF (putStream (setF t a v) n
        { x with pos := x.pos + 1, ahead := rest, state := if streamCount x ≤ x.pos.toNat + 1 then .unbound else .readBound }) d v) (t.pc + 4)))) ∧
      (x.ahead = [] → t.park = none → exec (.fmov d a) s = .next (s.putThread k (waits s t (.stream n)))) ∧
      (∀ e rest p y, x.ahead = .failed e :: rest → Vectored s k t p y → exec (.fmov d a) s =
        .next (s.putThread k (trapThread t y.svcbase t.pc (xsRead t.xstat) 0x0F e false (elemAddr x x.pos) t.pc)))) ∧
    (∀ p y, d.toNat = 28 + n → a.toNat < 28 → x.state = .readBound → Vectored s k t p y →
      exec (.fmov d a) s = .next (s.putThread k (trapped t y 0x12 0))) ∧
    (d.toNat = 28 + n → a.toNat < 28 → x.state = .writeBound → x.pos.toNat < streamCount x → t.st < 63 → x.dead = false →
      ∃ u v o, exec (.fmov d a) s = .next u ∧ u.thread k = some v ∧ u.mem = s.mem ∧ v.pc = t.pc + 4 ∧ v.st = t.st + 1 ∧ v.out = t.out ++ [o] ∧
        o.kind = .append n x.bind (elemAddr x x.pos) ∧ o.data = leBytes 8 (readF t a).toNat ∧ readF v d = readF t a ∧
        (streamOf v n).pos = x.pos + 1 ∧ v.w = t.w ∧ v.p = t.p ∧ v.fflags = t.fflags)

/-! ### Memory (R93 to R97, R213 to R247, R446, R447) -/

/-- R237, R238, R446 and R447: a load or a restore whose address passes the checks of R234 retires with ld raised by one and its
destinations still to be written; no byte of memory and no other register changes. Both address forms; `ldu` has no 8-byte form.
That an access is checked and translated at its issue is log 17 (DEDUCED). -/
def Obligations.LoadsAndRestoresRetireWithTheirReadOutstanding : Prop :=
  (∀ s, Ready s → (∀ k ∈ s.curKeys, ∀ t, s.thread k = some t → t.ld < 63) →
    ∀ (d a b : Reg) (off : BitVec 11) (sz ord : BitVec 2) (acq : BitVec 1) (scope : BitVec 3) (A L : Nat → List Nat),
    ∀ ea ia : Thread → Word, (∀ t, ea t = readW t a + off.signExtend 64 * word (2 ^ sz.toNat)) →
    (∀ t, ia t = readW t a + readW t b * word (2 ^ sz.toNat)) →
    ∀ sent : RegRef → Bool → BitVec 2 → BitVec 3 → (Thread → Word) → Nat → Thread → Thread,
    (∀ dst signed o c va k t, sent dst signed o c va k t = retired (addBusy { t with
      ld := t.ld + 1, out := t.out ++ [opOf s t (.load dst signed) (va t) (A k) (L k) [] o c 0] } [dst]) (t.pc + 4)) →
    (LanesReach s .read ea (2 ^ sz.toNat) A L →
      WalkEffect (.ld d a off sz acq) s L (sent (.w d) true (acq.setWidth 2) 3 ea) ∧
      (sz ≠ 3 → WalkEffect (.ldu d a off sz acq) s L (sent (.w d) false (acq.setWidth 2) 3 ea)) ∧
      (AllUnbound s → WalkEffect (.ldf d a off sz acq) s L (sent (.f d) false (acq.setWidth 2) 3 ea))) ∧
    (LanesReach s .read ia (2 ^ sz.toNat) A L →
      WalkEffect (.ldIndexed d a b sz ord scope) s L (sent (.w d) true ord scope ia) ∧
      (sz ≠ 3 → WalkEffect (.lduIndexed d a b sz ord scope) s L (sent (.w d) false ord scope ia)) ∧
      (AllUnbound s → WalkEffect (.ldfIndexed d a b sz ord scope) s L (sent (.f d) false ord scope ia)))) ∧
  (∀ s, Ready s → (∀ k ∈ s.curKeys, ∀ t, s.thread k = some t → t.ld < 63) →
    ∀ (d a b : Reg) (A L : Nat → List Nat), d.toNat ≤ b.toNat →
    ((∀ k ∈ s.curKeys, ∀ t, s.thread k = some t → Reaches s k t .read (readW t a) (8 * (b.toNat + 1 - d.toNat)) (A k) (L k)) →
      WalkEffect (.mrsw d a b) s L fun k t => retired (addBusy { t with
        ld := t.ld + 1, out := t.out ++ [opOf s t (.restoreW d b) (readW t a) (A k) (L k) [] 0 0 0] } ((regRange d b).map .w)) (t.pc + 4)) ∧
    ∀ R : Nat → Thread → List (Nat × Stream),
      (∀ k ∈ s.curKeys, ∀ t, s.thread k = some t →
        Reaches s k t .read (readW t a) (8 * (b.toNat + 1 - d.toNat) + 32 * (rangeStreams d b).length) (A k) (L k) ∧
        badAmong s (A k) = none ∧ readReady t.out (opOf s t (.restoreW d b) (readW t a) (A k) (L k) [] 0 0 0) = true ∧
        restoredStreams d b ((A k).map (s.seen t.out)) = (R k t).map fun e => (e.1, some e.2)) →
      WalkEffect (.mrsf d a b) s L fun k t => retired (addBusy { t with
        ld := t.ld + 1, out := t.out ++ [opOf s t (.restoreF d b (R k t)) (readW t a) (A k) (L k) [] 0 0 0] } ((regRange d b).map .f)) (t.pc + 4))

/-- R237, R238, R245, R446 and R447: a store whose address passes the checks retires with st raised and its bytes still to
be written: the low 2^sz bytes of the register, a line of zeros, or the registers (and stream records) of a range. The address
is the one the instruction computes; no byte of memory changes yet.
That an access is checked and translated at its issue is log 17 (DEDUCED). -/
def Obligations.StoresRetireWithTheirWriteOutstanding : Prop :=
  ∀ s k t, Lone s k t → ∀ (d a b : Reg) (off : BitVec 11) (sz ord : BitVec 2) (rel : BitVec 1) (scope : BitVec 3) (ea ia : Word),
    ea = readW t a + off.signExtend 64 * word (2 ^ sz.toNat) → ia = readW t a + readW t b * word (2 ^ sz.toNat) →
    (Stays s k t ea →
      StoreSent (.st d a off sz rel) s k t ea (leBytes (2 ^ sz.toNat) (readW t d).toNat) (2 * rel.setWidth 2) 3 ∧
      (Unbound t → StoreSent (.stf d a off sz rel) s k t ea (leBytes (2 ^ sz.toNat) (readF t d).toNat) (2 * rel.setWidth 2) 3)) ∧
    (Stays s k t ia →
      StoreSent (.stIndexed d a b sz ord scope) s k t ia (leBytes (2 ^ sz.toNat) (readW t d).toNat) ord scope ∧
      (Unbound t → StoreSent (.stfIndexed d a b sz ord scope) s k t ia (leBytes (2 ^ sz.toNat) (readF t d).toNat) ord scope)) ∧
    StoreSent (.czero a) s k t (readW t a &&& 0xFFFFFFFFFFFFFFC0#64) (List.replicate 64 0) 0 0 ∧
    (d.toNat ≤ b.toNat →
      StoreSent (.msvw d a b) s k t (readW t a) (((regRange d b).map (readW t)).flatMap fun w => leBytes 8 w.toNat) 0 0 ∧
      StoreSent (.msvf d a b) s k t (readW t a) (((regRange d b).map (readF t) ++
        (rangeStreams d b).flatMap fun n => streamWords (streamOf t n)).flatMap fun w => leBytes 8 w.toNat) 0 0)

/-- R136 and R239: a memory operation, an operation on a queue, a message, a wait, a barrier, a register, a tree's command, a return or
a call of a gang's set is made lane by lane in ascending order, so that what the statements about one lane say holds of each in turn.
That the lanes run in ascending order within one step is the model's choice (DESIGN CHOICE, log 9). -/
def Obligations.InstructionsOfAGangRunLaneByLane : Prop :=
  ∀ s l ls, s.cur.lanes = l :: ls → ∀ (d a b : Reg) (h : BitVec 4) (c : Ctx) (i2 : BitVec 2) (r : BitVec 12) (off : BitVec 11) (sz ord : BitVec 2) (z rel : BitVec 1) (scope : BitVec 3),
    ∀ i, i ∈ [Instr.st d a off sz rel, .stf d a off sz rel, .stIndexed d a b sz ord scope, .stfIndexed d a b sz ord scope, .czero a,
      .msvw d a b, .msvf d a b, .aadd d a b z ord scope, .aand d a b z ord scope, .aor d a b z ord scope, .axor d a b z ord scope,
      .amin d a b z ord scope, .amax d a b z ord scope, .aminu d a b z ord scope, .amaxu d a b z ord scope,
      .aswap d a b z ord scope, .acas d a b z ord scope, .afaddF32 d a b ord scope, .afaddBf16 d a b ord scope,
      .qpush a b, .qpop d a, .qtry d a, .qlen d a, .msend a b, .mrecv d, .exit, .sleep, .wake a, .join a, .bsync (r.setWidth 8), .barv (r.setWidth 8),
      .bwait (r.setWidth 8), .wait h h h h, .pwait a, .ccopy a h, .cgath a h, .cscat a h, .texp a b c, .sysrd d r, .syswr a r,
      .sysset d a r, .sysclr d a r, .feat d a, .launch d a, .soff i2,
      .gret, .bquery d (r.setWidth 8), .tdesc a b c, .trdn a b c i2, .troot a c, .tvl a b c, .tback a b c] ∨
      ((i = .wfi ∨ i = .rft) ∧ s.curKeys.Nodup ∧ ∀ k ∈ s.curKeys, ∀ t, s.thread k = some t → xsSUP t.xstat = true) ∨
      (i = .svc ∧ isSC s.cur.core = false ∧ s.curKeys.Nodup ∧ ∀ k ∈ s.curKeys, ∀ t, s.thread k = some t → t.call.isSome = true) →
    ∃ u v, exec i { s with cur := { s.cur with lanes := [l] } } = .next u ∧
      exec i { u with cur := { s.cur with lanes := ls } } = .next v ∧ exec i s = .next { v with cur := s.cur }

/-- R236 and R237: an outstanding load that may be performed reads its bytes, with the thread's own earlier stores in place,
writes its destination and lowers ld; an outstanding `qlen` writes the number of entries its queue holds (R264). Nothing else changes but the
count of its request (R424) and the requests sent where its bytes lie off the device.
The 0 of a `qlen` at a bank that is no longer a FIFO, and which core a request counts for, are the model's (DESIGN CHOICE, logs 91, 59). -/
def Obligations.LoadPerformedWritesItsDestination : Prop :=
  ∀ s k i t o, Performs s k i t o → badAmong s o.addrs = none → readReady (t.out.take i) o = true → ∀ bytes : List Byte,
    bytes = o.addrs.map (s.seen (t.out.take i)) → ∀ u : State, u = (asking s k 0 o.addrs []).countAccess k o →
    ((∀ a ∈ o.addrs, portOf a = none) → u = { s with packets := u.packets }) ∧
    ∀ landed : Thread, landed = { t with ld := t.ld - 1, out := t.out.take i ++ t.out.drop (i + 1) } →
    (∀ d signed, o.kind = .load (.w d) signed → exec (.loadPerformed k i) s = .next (u.putThread k
      (setW (unBusy landed [.w d]) d
        (if signed then ((word (leNat bytes)).setWidth (8 * bytes.length)).signExtend 64 else word (leNat bytes))))) ∧
    (∀ d signed, Unbound t → o.kind = .load (.f d) signed → signed = false → exec (.loadPerformed k i) s = .next (u.putThread k
      (setF (unBusy landed [.f d]) d (word (leNat bytes))))) ∧
    (∀ d b, o.kind = .restoreW d b → ∃ v, exec (.loadPerformed k i) s = .next (u.putThread k v) ∧ v.ld = t.ld - 1 ∧ v.pc = t.pc ∧
      v.f = t.f ∧ v.p = t.p ∧ ∀ r : Reg, readW v r = if r ≠ 0 ∧ d.toNat ≤ r.toNat ∧ r.toNat ≤ b.toNat
        then word (leNat ((bytes.drop (8 * (r.toNat - d.toNat))).take 8)) else readW t r) ∧
    (∀ d b streams, o.kind = .restoreF d b streams → (streams.map (·.1)).Nodup → (∀ e ∈ streams, e.1 < 4) →
      ∃ v w, exec (.loadPerformed k i) s = .next v ∧ v.thread k = some w ∧ v.mem = s.mem ∧ (∀ j, j ≠ k → v.thread j = s.thread j) ∧
        w.ld = t.ld - 1 ∧ w.pc = t.pc ∧ w.w = t.w ∧ w.p = t.p ∧ w.out = landed.out ∧
        (∀ r : Reg, readF w r = if d.toNat ≤ r.toNat ∧ r.toNat ≤ b.toNat
          then word (leNat ((bytes.drop (8 * (r.toNat - d.toNat))).take 8)) else readF t r) ∧
        (∀ e ∈ streams, { streamOf w e.1 with bind := e.2.bind } = e.2) ∧
        ∀ n, n < 4 → n ∉ streams.map (·.1) → streamOf w n = streamOf t n) ∧
    (∀ d cl q, o.kind = .queueLen d cl q → exec (.loadPerformed k i) s = .next (u.putThread k
      (setW (unBusy landed [.w d]) d (word (((mget (s.cluster cl).fifos q).map fun f => f.entries.length).getD 0)))))

/-- R7, R201 and R227: an outstanding store that may be performed writes its bytes at its addresses and lowers st; every byte
outside those addresses reads as before. -/
def Obligations.StorePerformedWritesItsBytesAndNoOther : Prop :=
  ∀ s k i t o, Performs s k i t o → o.kind = .store → ctlOf o = none → writeReady (t.out.take i) o = true →
    translationsDone s k i o.addrs = true → lanesBefore s k o = true → ∀ p, p = s.partNo (keyCl k) →
    farRefused s p (o.addrs.headD 0) true = false → farRefused s p (o.addrs.getLastD 0) true = false →
    ∃ u, exec (.storePerformed k i) s = .next u ∧
      u.thread k = some { t with st := t.st - 1, out := t.out.take i ++ t.out.drop (i + 1) } ∧
      (∀ j, j ≠ k → u.thread j = s.thread j) ∧ u.am = s.am ∧ u.parts = s.parts ∧ u.mail = s.mail ∧
      (∀ a, a ∉ o.addrs → memRead u.mem a = memRead s.mem a) ∧
      (o.addrs.Nodup → o.addrs.length = o.data.length → ∀ j, j < o.addrs.length →
        o.addrs.getD j 0 < remoteBase → memRead u.mem (o.addrs.getD j 0) = o.data.getD j 0) ∧
      (memWf s.mem = true → memWf u.mem = true)

/-- R245 to R247, R96, R97, R243, R244: a prefetch only retires; a cache operation retires with st raised and its line's
write-back or discard outstanding; a fence whose earlier accesses are performed only retires.
The model's are the loads that pairs bit 1 waits for (log 83), the cache operations at their issue and their lines (logs 17, 75):
each DEDUCED. -/
def Obligations.PrefetchFencesAndCacheOperationsComplete : Prop :=
  ∀ s, Ready s → ∀ (a : Reg) (h : BitVec 2) (off : BitVec 11) (sz : BitVec 2) (pairs : BitVec 4) (scope : BitVec 3),
    LaneEffect (.pref h a off sz) s (fun _ t => retired t (t.pc + 4)) ∧
    ((∀ k ∈ s.curKeys, ∀ t, s.thread k = some t → ∀ o ∈ t.out,
        ((pairs.getLsbD 3 || pairs.getLsbD 2 || pairs.getLsbD 1) = true → outReads o = false) ∧
        ((pairs.getLsbD 1 || pairs.getLsbD 0) = true → outWrites o = false)) →
      LaneEffect (.fence pairs scope) s (fun _ t => retired t (t.pc + 4))) ∧
    ((∀ k ∈ s.curKeys, ∀ t, s.thread k = some t → ∀ o ∈ t.out, outWrites o = false) →
      ∃ u, exec .ifence s = .next u ∧ LanesTo { s with oldText := u.oldText } u (fun _ t => retired t (t.pc + 4)) ∧
        (∀ x ∈ u.oldText, (∃ y ∈ s.oldText, x = { y with readers := x.readers } ∧ ∀ n ∈ x.readers, n ∈ y.readers) ∧
          ∀ k ∈ s.curKeys, ∀ t, s.thread k = some t → t.uid ∉ x.readers) ∧
        ∀ y ∈ s.oldText, ∀ n ∈ y.readers, (∀ k ∈ s.curKeys, ∀ t, s.thread k = some t → t.uid ≠ n) →
          ∃ x ∈ u.oldText, x = { y with readers := x.readers } ∧ n ∈ x.readers) ∧
    ∀ A L : Nat → List Nat, (∀ k ∈ s.curKeys, ∀ t, s.thread k = some t → t.st < 63) →
      ∀ line : Thread → Word, (∀ t, line t = readW t a &&& 0xFFFFFFFFFFFFFFC0#64) →
      ∀ sent : Nat → Nat → Thread → Thread, (∀ fn k t, sent fn k t =
        retired { t with st := t.st + 1, out := t.out ++ [opOf s t (.cache fn) (line t) (A k) (L k) [] 0 0 0] } (t.pc + 4)) →
      ((∀ k ∈ s.curKeys, ∀ t, s.thread k = some t → Reaches s k t .read (line t) 64 (A k) (L k)) →
        WalkEffect (.cflush a) s L (sent 0) ∧ WalkEffect (.cclean a) s L (sent 1)) ∧
      ((∀ k ∈ s.curKeys, ∀ t, s.thread k = some t → xsSUP t.xstat = true ∧ Reaches s k t .write (line t) 64 (A k) (L k)) →
        WalkEffect (.cinval a) s L (sent 2))

/-- R240 and R242: an aligned atomic whose address passes the checks retires with ld raised, w[d] (and p1 for `acas`) still to
be written; the operation code tells the twelve apart.
That an operation is checked and translated at its issue is log 17 (DEDUCED). -/
def Obligations.AtomicsRetireWithTheirOperationOutstanding : Prop :=
  ∀ s k t, Lone s k t → t.ld < 63 → ∀ (d a b : Reg) (z : BitVec 1) (ord : BitVec 2) (scope : BitVec 3), Stays s k t (readW t a) →
    ∀ addrs lines,
    ∀ sent : Nat → RegRef → Word → Word → List RegRef → State,
    (∀ op dst x e busy, sent op dst x e busy = ((issueWrite s k).putThread k (retired (addBusy { t with
      ld := t.ld + 1, out := t.out ++ [opOf s t (.atomic op dst x e) (readW t a) addrs lines [] ord scope (nextSerial s k)] } busy)
        (t.pc + 4))).walkReads (keyCl k) lines) →
    ((readW t a).toNat % (if z = 1 then 8 else 4) = 0 → Reaches s k t .write (readW t a) (if z = 1 then 8 else 4) addrs lines →
      (∀ op, op < 20 → atomicBarred s k op addrs = false) →
      ∀ f : Nat → Out, (∀ n, f n = .next (sent (2 * n + z.toNat) (.w d) (readW t b) (readW t d) [.w d])) →
      exec (.aadd d a b z ord scope) s = f 0 ∧ exec (.aand d a b z ord scope) s = f 1 ∧ exec (.aor d a b z ord scope) s = f 2 ∧
      exec (.axor d a b z ord scope) s = f 3 ∧ exec (.amin d a b z ord scope) s = f 4 ∧ exec (.amax d a b z ord scope) s = f 5 ∧
      exec (.aminu d a b z ord scope) s = f 6 ∧ exec (.amaxu d a b z ord scope) s = f 7 ∧ exec (.aswap d a b z ord scope) s = f 8 ∧
      exec (.acas d a b z ord scope) s = .next (sent (18 + z.toNat) (.w d) (readW t b) (readW t d) [.w d, .p 1])) ∧
    (Unbound t → (readW t a).toNat % 4 = 0 → Reaches s k t .write (readW t a) 4 addrs lines → atomicBarred s k 20 addrs = false →
      exec (.afaddF32 d a b ord scope) s = .next (sent 20 (.f d) (readF t b) 0 [.f d])) ∧
    (Unbound t → (readW t a).toNat % 2 = 0 → Reaches s k t .write (readW t a) 2 addrs lines → atomicBarred s k 21 addrs = false →
      exec (.afaddBf16 d a b ord scope) s = .next (sent 21 (.f d) (readF t b) 0 [.f d]))

/-- R224, R225 and R240: an atomic is performed in one step: the destination gets the old value (sign-extended in w, zero-extended in
f), an `acas` tells by p1 whether it stored, the location gets the new value, and every other byte is as before. Of two lanes of one
instruction on one location the lower comes first, and the other finds its value there. `afadd` adds with one rounding to nearest even (R241). The last part is
Table 3.13 on eight bytes and on the shorter rows.
That both lanes are performed in one step is the model's choice (DESIGN CHOICE, log 18). -/
def Obligations.AtomicPerformedReadsAndWritesInOneStep : Prop :=
  (∀ s k i t o, Performs s k i t o → badAmong s o.addrs = none →
    readReady (t.out.take i) o = true → writeReady (t.out.take i) o = true → translationsDone s k i o.addrs = true →
    ∀ old landed, old = word (s.numAt o.addrs) → landed = { t with ld := t.ld - 1, out := t.out.take i ++ t.out.drop (i + 1) } →
    (atomicGroup s k o = [(k, i)] → ∀ op dst x e, o.kind = .atomic op dst x e → ∀ v,
      ((∃ d, dst = .w d ∧ op < 18 ∧ v = setW (unBusy landed [.w d]) d (signExt (8 * o.addrs.length) old)) ∨
        (∃ d, dst = .w d ∧ (op = 18 ∨ op = 19) ∧ v = setP (setW (unBusy landed [.w d, .p 1]) d (signExt (8 * o.addrs.length) old)) 1
          (old.toNat == e.toNat % 2 ^ (8 * o.addrs.length))) ∨
        (∃ d, dst = .f d ∧ (op = 20 ∨ op = 21) ∧ Unbound t ∧ v = setF (unBusy landed [.f d]) d old)) →
      ∃ u, exec (.atomicPerformed k i) s = .next u ∧ u.thread k = some v ∧ (∀ j, j ≠ k → u.thread j = s.thread j) ∧
        u.mem = memWriteAll s.mem ((o.addrs.zip (leBytes o.addrs.length (atomicNew op o.addrs.length old x e))).filter fun c =>
          c.1 < remoteBase) ∧
        ∀ a, a ∉ o.addrs → memRead u.mem a = memRead s.mem a) ∧
    (∀ j m r q, atomicGroup s k o = [(k, i), (j, m)] → j ≠ k → s.thread j = some r → r.out[m]? = some q → q.addrs = o.addrs →
      readReady (r.out.take m) q = true → writeReady (r.out.take m) q = true → translationsDone s j m q.addrs = true →
      o.addrs.Nodup → o.addrs.length ≤ 8 → (∀ a ∈ o.addrs, a < remoteBase ∧ spotOf a = none) →
      ∀ op d x e b y e', op < 18 → o.kind = .atomic op (.w d) x e → q.kind = .atomic op (.w b) y e' →
      ∀ mid, mid = word (atomicNew op o.addrs.length old x e) →
      ∃ u, exec (.atomicPerformed k i) s = .next u ∧
        u.thread k = some (setW (unBusy landed [.w d]) d (signExt (8 * o.addrs.length) old)) ∧
        u.thread j = some (setW (unBusy { r with ld := r.ld - 1, out := r.out.take m ++ r.out.drop (m + 1) } [.w b]) b
          (signExt (8 * o.addrs.length) mid)) ∧
        (∀ z, z ≠ k → z ≠ j → u.thread z = s.thread z) ∧
        (∀ z, z < o.addrs.length → memRead u.mem (o.addrs.getD z 0) =
          (leBytes o.addrs.length (atomicNew op o.addrs.length mid y e')).getD z 0) ∧
        ∀ a, a ∉ o.addrs → memRead u.mem a = memRead s.mem a)) ∧
  (∀ old x e : Word,
    atomicNew 1 8 old x e = (old + x).toNat ∧ atomicNew 3 8 old x e = (old &&& x).toNat ∧
    atomicNew 5 8 old x e = (old ||| x).toNat ∧ atomicNew 7 8 old x e = (old ^^^ x).toNat ∧
    atomicNew 9 8 old x e = (if x.toInt < old.toInt then x else old).toNat ∧
    atomicNew 11 8 old x e = (if old.toInt < x.toInt then x else old).toNat ∧
    atomicNew 13 8 old x e = min old.toNat x.toNat ∧ atomicNew 15 8 old x e = max old.toNat x.toNat ∧
    atomicNew 17 8 old x e = x.toNat ∧ atomicNew 19 8 old x e = (if old = e then x else old).toNat ∧
    ∀ o y g : BitVec 32, o = old.setWidth 32 → y = x.setWidth 32 → g = e.setWidth 32 →
      atomicNew 0 4 old x e = (o + y).toNat ∧ atomicNew 2 4 old x e = (o &&& y).toNat ∧ atomicNew 4 4 old x e = (o ||| y).toNat ∧
      atomicNew 6 4 old x e = (o ^^^ y).toNat ∧ atomicNew 8 4 old x e = (if y.toInt < o.toInt then y else o).toNat ∧
      atomicNew 10 4 old x e = (if o.toInt < y.toInt then y else o).toNat ∧ atomicNew 12 4 old x e = min o.toNat y.toNat ∧
      atomicNew 14 4 old x e = max o.toNat y.toNat ∧ atomicNew 16 4 old x e = y.toNat ∧
      atomicNew 18 4 old x e = (if o = g then y else o).toNat ∧
      atomicNew 20 4 old x e = (roundTo .f32 0 0 false 0 (addV 0 (valueOf .f32 0 o.toNat) (valueOf .f32 0 y.toNat)).val).bits ∧
      atomicNew 21 2 old x e = (roundTo .bf16 0 0 false 0
        (addV 0 (valueOf .bf16 0 (old.toNat % 2 ^ 16)) (valueOf .bf16 0 (x.toNat % 2 ^ 16))).val).bits)

/-- R103, R207, R242, R246 and R328: the forms an instruction refuses trap at their own address with no other effect: a privileged
`cinval` without SUP, a misaligned atomic, a bad queue handle, an SC instruction on a GC, and a barrier on a foreign group. -/
def Obligations.RefusedFormsTrapWithNoOtherEffect : Prop :=
  (∀ s k t p x, Lone s k t → xsSUP t.xstat = false → s.partOf (keyCl k) = some (p, x) → x.svcbase ≠ 0 → tcV t.tcause = false →
    ∀ a : Reg, exec (.cinval a) s = .next (s.putThread k (trapThread t x.svcbase t.pc (xsRead t.xstat) 4 0 false 0 0))) ∧
  (∀ s k t p x, Lone s k t → s.partOf (keyCl k) = some (p, x) → x.svcbase ≠ 0 → tcV t.tcause = false →
    ∀ (d a b : Reg) (z : BitVec 1) (ord : BitVec 2) (scope : BitVec 3), Stays s k t (readW t a) →
    ∀ trapped : Out, trapped = .next (s.putThread k (trapThread t x.svcbase t.pc (xsRead t.xstat) 2 0 false (readW t a) 0)) →
    ((readW t a).toNat % (if z = 1 then 8 else 4) ≠ 0 →
      ∀ i ∈ [Instr.aadd d a b z ord scope, .aand d a b z ord scope, .aor d a b z ord scope, .axor d a b z ord scope,
        .amin d a b z ord scope, .amax d a b z ord scope, .aminu d a b z ord scope, .amaxu d a b z ord scope,
        .aswap d a b z ord scope, .acas d a b z ord scope], exec i s = trapped) ∧
    (Unbound t → (readW t a).toNat % 4 ≠ 0 → exec (.afaddF32 d a b ord scope) s = trapped) ∧
    (Unbound t → (readW t a).toNat % 2 ≠ 0 → exec (.afaddBf16 d a b ord scope) s = trapped)) ∧
  (∀ s k t p x, Lone s k t → s.partOf (keyCl k) = some (p, x) → x.svcbase ≠ 0 → tcV t.tcause = false → ∀ d a b : Reg,
    queueOf (readW t a) = none → ∀ i ∈ [Instr.qpush a b, .qpop d a, .qtry d a, .qlen d a],
      exec i s = .next (s.putThread k (trapThread t x.svcbase t.pc (xsRead t.xstat) 0x14 0 false 0 0))) ∧
  (∀ s k t p x, Lone s k t → isSC s.cur.core = false → s.partOf (keyCl k) = some (p, x) → x.svcbase ≠ 0 → tcV t.tcause = false →
    ∀ (d a b : Reg) (e : BitVec 4) (off : BitVec 20),
    ∀ i ∈ [Instr.spawn d a b, .migrate a, .gcall off, .wlpush a b, .wlpop e, .rqpush a b, .rqpop d, .timer a],
      exec i s = .next (s.putThread k (trapThread t x.svcbase t.pc (xsRead t.xstat) 0x12 0 false 0 0))) ∧
  (∀ s k t p x, Lone s k t → s.partOf (keyCl k) = some (p, x) → x.svcbase ≠ 0 → tcV t.tcause = false → ∀ (g : BitVec 8) (d : Reg),
    s.groupFor k t g.toNat = none → ∀ i ∈ [Instr.bsync g, .barv g, .bwait g, .bquery d g],
      exec i s = .next (s.putThread k (trapThread t x.svcbase t.pc (xsRead t.xstat) 0x12 0 false 0 0)))

/-! ### Queues, work lists, messages and threads (R99, R100, R261 to R271, R291 to R306, R319 to R332) -/

/-- R262 to R264: a `qpush` with room retires with st raised and its entry on the way; a `qpop` sends its request and waits; a
`qtry` retires with its request on the way; a `qlen` retires with its read outstanding. No byte of memory changes. -/
def Obligations.QueueInstructionsComplete : Prop :=
  ∀ s k t, Lone s k t → ∀ (d a b : Reg) (cl q : Nat), FifoHandle s k (readW t a) cl q →
    (t.st < 63 → (s.fifo cl q).pushes = [] → (s.fifo cl q).entries.length + (pushesTo s cl q).length < 1024 →
      exec (.qpush a b) s = .next { sends s (k / 256) (.push k t.uid cl q (readW t b) (k / 256) (s.core (keyCl k) (keyCore k)).wIssue) with
        threads := mset s.threads k (retired { t with st := t.st + 1 } (t.pc + 4)) }) ∧
    (t.ld < 63 → t.park = none →
      exec (.qpop d a) s = .next { sends s (k / 256) (.pop k cl q d false) with
        threads := mset s.threads k { t with park := some { why := .queuePop, since := s.cyc } } }) ∧
    (t.ld < 63 →
      exec (.qtry d a) s = .next { sends s (k / 256) (.pop k cl q d true) with
        threads := mset s.threads k (retired (addBusy { t with
          ld := t.ld + 1, out := t.out ++ [tokenOf s t (.popWait d)] } [.w d, .p 1]) (t.pc + 4)) }) ∧
    (t.ld < 63 →
      exec (.qlen d a) s = .next { s with threads := mset s.threads k (retired (addBusy { t with
        ld := t.ld + 1, out := t.out ++ [tokenOf s t (.queueLen d cl q)] } [.w d]) (t.pc + 4)) })

/-- R262 and R263 at the bank: an entry is placed at the tail and its sender's st falls, or it goes to the pop that has waited longest; the
head entry goes to the request, which retires a `qpop` or answers a `qtry` with 1, and an empty queue keeps a `qpop` waiting and answers a
`qtry` with 0; the value is written once the producer's earlier writes have drained. No other thread and no byte of memory changes.
What room a bank counts for entries on their way is log 27 (DEDUCED). -/
def Obligations.QueueEventsComplete : Prop :=
  (∀ s i cl q, bankBusy (s.cluster cl) (q / 16) = false → bankMode (s.cluster cl) (q / 16) = 2 → arrives s cl i = true →
    (∀ k v core stamp t, s.flights[i]? = some (.push k t.uid cl q v core stamp) → s.thread k = some t →
      (∀ x ∈ s.flights.take i, ∀ y w c n, x ≠ .push k y cl q w c n) → (s.fifo cl q).pushes = [] →
      ((s.fifo cl q).pops = [] →
        ∃ u, exec (.queuePushPlace i) s = .next u ∧ u.flights = s.flights.take i ++ s.flights.drop (i + 1) ∧
          u.thread k = some { t with st := t.st - 1 } ∧ (∀ j, j ≠ k → u.thread j = s.thread j) ∧
          u.fifo cl q = { s.fifo cl q with entries := (s.fifo cl q).entries ++ [(v, core, stamp)] } ∧ u.mem = s.mem) ∧
      (∀ j d w, (s.fifo cl q).pops = [(j, d)] → (s.fifo cl q).entries = [] → j ≠ k → s.thread j = some w → xsSS w.xstat = false →
        ∃ u, exec (.queuePushPlace i) s = .next u ∧ u.flights = s.flights.take i ++ s.flights.drop (i + 1) ∧
          u.thread k = some { t with st := t.st - 1 } ∧
          u.thread j = some (retired (addBusy { w with
            ld := w.ld + 1, out := w.out ++ [tokenOf s w (.pop d v core stamp)] } [.w d]) (w.pc + 4)) ∧
          (∀ n, n ≠ k → n ≠ j → u.thread n = s.thread n) ∧ (u.fifo cl q).pops = [] ∧ (u.fifo cl q).entries = [] ∧ u.mem = s.mem)) ∧
    (∀ k d t e rest, s.flights[i]? = some (.pop k cl q d false) → s.thread k = some t → xsSS t.xstat = false →
      (s.fifo cl q).pops = [] → (s.fifo cl q).entries = e :: rest → (s.fifo cl q).pushes = [] →
      ∃ u, exec (.queuePopServe i) s = .next u ∧ u.flights = s.flights.take i ++ s.flights.drop (i + 1) ∧
        u.thread k = some (retired (addBusy { t with
          ld := t.ld + 1, out := t.out ++ [tokenOf s t (.pop d e.1 e.2.1 e.2.2)] } [.w d]) (t.pc + 4)) ∧
        (∀ j, j ≠ k → u.thread j = s.thread j) ∧ (u.fifo cl q).entries = rest ∧ u.mem = s.mem) ∧
    (∀ k d, s.flights[i]? = some (.pop k cl q d false) → (s.fifo cl q).entries = [] →
      ∃ u, exec (.queuePopServe i) s = .next u ∧ u.flights = s.flights.take i ++ s.flights.drop (i + 1) ∧
        (u.fifo cl q).pops = (s.fifo cl q).pops ++ [(k, d)] ∧ u.threads = s.threads ∧ u.mem = s.mem) ∧
    (∀ k d t j o, s.flights[i]? = some (.pop k cl q d true) → s.thread k = some t → t.out[j]? = some o → o.kind = .popWait d →
      (∀ x ∈ t.out.take j, x.kind ≠ .popWait d) →
      ∃ u, exec (.queuePopServe i) s = .next u ∧ u.flights = s.flights.take i ++ s.flights.drop (i + 1) ∧
        (∀ m, m ≠ k → u.thread m = s.thread m) ∧ u.mem = s.mem ∧
        (∀ e rest, (s.fifo cl q).pops = [] → (s.fifo cl q).entries = e :: rest → (s.fifo cl q).pushes = [] →
          (u.fifo cl q).entries = rest ∧ u.thread k = some { setP (unBusy t [.p 1]) 1 true with
            out := t.out.take j ++ { o with kind := .pop d e.1 e.2.1 e.2.2 } :: t.out.drop (j + 1) }) ∧
        ((s.fifo cl q).entries = [] → u.fifo cl q = s.fifo cl q ∧ u.thread k = some (setP (setW (unBusy { t with
          ld := t.ld - 1, out := t.out.take j ++ t.out.drop (j + 1) } [.w d, .p 1]) d 0) 1 false)))) ∧
  (∀ s k j d v core stamp t o, s.thread k = some t → clusterDrains s (keyCl k) = true → t.out[j]? = some o →
    o.kind = .pop d v core stamp → s.drained core stamp = true →
    exec (.queuePopComplete k j) s = .next (s.putThread k (setW (unBusy { t with
      ld := t.ld - 1, out := t.out.take j ++ t.out.drop (j + 1) } [.w d]) d v)))

/-- R266 and R267: an SC's work list is last in first out and takes 256 entries, its ready queues serve the highest priority
first and take 16 each; a list or queue with nothing clears p1, and a full work list too. R269, R270, R322 and R323: a message and a wake leave for the position they name with st raised; a receive takes the oldest
message; a wake already held lets a `sleep` retire at once, and without one it waits. -/
def Obligations.WorkListsMessagesAndWakesComplete : Prop :=
  (∀ s k t, Lone s k t → OnSC s → ∀ (d a b : Reg) (e : BitVec 4) (c : Core), c = s.core (keyCl k) (keyCore k) →
    (c.work.length < 256 → exec (.wlpush a b) s =
      .next ((withCore s k { c with work := (readW t a, readW t b, k / 256, c.wIssue) :: c.work }).putThread k
        (retired (setP t 1 true) (t.pc + 4)))) ∧
    (256 ≤ c.work.length → exec (.wlpush a b) s = .next (s.putThread k (retired (setP t 1 false) (t.pc + 4)))) ∧
    (c.work = [] → exec (.wlpop e) s = .next (s.putThread k (retired (setP t 1 false) (t.pc + 4)))) ∧
    (∀ v0 v1 core stamp rest r, c.work = (v0, v1, core, stamp) :: rest → r = e ++ 0#1 → exec (.wlpop e) s =
      .next ((withCore s k { c with work := rest }).putThread k (retired (setP (addBusy { t with
        out := t.out ++ [tokenOf s t (.work r v0 v1 core stamp)] } [.w r, .w (r + 1)]) 1 true) (t.pc + 4)))) ∧
    (∀ n : Fin 4, n.val = (readW t a).toNat % 4 → (c.ready[n]).length < 16 → exec (.rqpush a b) s =
      .next ((withCore s k { c with ready := c.ready.set n (c.ready[n] ++ [readW t b]) }).putThread k (retired t (t.pc + 4)))) ∧
    ((∀ n : Fin 4, c.ready[n] = []) → exec (.rqpop d) s =
      .next (s.putThread k (retired (setP (setW t d 0) 1 false) (t.pc + 4)))) ∧
    (∀ (n : Fin 4) v rest, c.ready[n] = v :: rest → (∀ m : Fin 4, n < m → c.ready[m] = []) → exec (.rqpop d) s =
      .next ((withCore s k { c with ready := c.ready.set n rest }).putThread k
        (retired (setP (setW t d v) 1 true) (t.pc + 4))))) ∧
  (∀ s k t, Lone s k t → ∀ (d a b : Reg) (dst : Nat),
    (NamesThread s k (readW t a) dst → t.st < 63 → exec (.msend a b) s = .next { sends s (k / 256) (.message k t.uid dst (readW t b) (k / 256) (s.core (keyCl k) (keyCore k)).wIssue) with
      threads := mset s.threads k (retired { t with st := t.st + 1 } (t.pc + 4)) }) ∧
    (NamesThread s k (readW t a) dst → t.st < 63 → Released t → exec (.wake a) s = .next { sends s (k / 256) (.wake (some (k, t.uid)) dst) with
      threads := mset s.threads k (retired { t with st := t.st + 1 } (t.pc + 4)) }) ∧
    (∀ v core stamp rest, s.mailbox k = (v, core, stamp) :: rest → t.ld < 63 → exec (.mrecv d) s = .next { s with
      mail := mset s.mail k rest
      threads := mset s.threads k (retired (addBusy { t with
        ld := t.ld + 1, out := t.out ++ [tokenOf s t (.message d v core stamp)] } [.w d]) (t.pc + 4)) }) ∧
    (k ∈ s.wakes → exec .sleep s = .next { s with
      wakes := s.wakes.erase k, threads := mset s.threads k (retired t (t.pc + 4)) }) ∧
    (k ∉ s.wakes → t.park = none → exec .sleep s =
      .next (s.putThread k { t with park := some { why := .sleep, since := s.cyc } })))

/-- R266, R269 to R271, R322 and R323 at the receiving end: a message joins a mailbox that holds fewer than eight and ends a sleep
there; a wake ends the sleep of the thread it names or sets its wake bit, and is lost before that thread's first instruction; the
taken values are written once their producers' writes have drained. -/
def Obligations.MessageAndWakeEventsComplete : Prop :=
  ∀ s i,
    (∀ src dst v core stamp t, s.flights[i]? = some (.message src t.uid dst v core stamp) → arrives s (keyCl dst) i = true →
      (∀ x ∈ s.flights.take i, ∀ y w c n, x ≠ .message src y dst w c n) → (s.mailbox dst).length < 8 → s.thread src = some t →
      src ≠ dst →
      ∃ u, exec (.messagePlaced i) s = .next u ∧ u.flights = s.flights.take i ++ s.flights.drop (i + 1) ∧
        u.mailbox dst = s.mailbox dst ++ [(v, core, stamp)] ∧ u.thread src = some { t with st := t.st - 1 } ∧
        (∀ w, s.thread dst = some w → xsSS w.xstat = false →
          u.thread dst = some (if (w.park.map (·.why)) = some .sleep then retired w (w.pc + 4) else w)) ∧
        (∀ j, j ≠ src → j ≠ dst → u.thread j = s.thread j) ∧ u.mem = s.mem) ∧
    (∀ k dst t w, s.flights[i]? = some (.wake (some (k, t.uid)) dst) → arrives s (keyCl dst) i = true → s.thread k = some t →
      s.thread dst = some w → k ≠ dst → xsSS w.xstat = false →
      ∃ u, exec (.wakePlaced i) s = .next u ∧ u.flights = s.flights.take i ++ s.flights.drop (i + 1) ∧ u.mem = s.mem ∧
        u.thread k = some { t with st := t.st - 1 } ∧ (∀ j, j ≠ k → j ≠ dst → u.thread j = s.thread j) ∧
        (w.begun = false → u.wakes = s.wakes ∧ u.thread dst = some w) ∧
        (w.begun = true → (w.park.map (·.why)) = some .sleep → u.wakes = s.wakes ∧ u.thread dst = some (retired w (w.pc + 4))) ∧
        (w.begun = true → (w.park.map (·.why)) ≠ some .sleep → dst ∈ u.wakes ∧ u.thread dst = some w)) ∧
    (∀ k j d v core stamp t o, s.thread k = some t → clusterDrains s (keyCl k) = true →
      t.out[j]? = some o → o.kind = .message d v core stamp → s.drained core stamp = true →
      exec (.mrecvComplete k j) s = .next (s.putThread k (setW (unBusy { t with
        ld := t.ld - 1, out := t.out.take j ++ t.out.drop (j + 1) } [.w d]) d v))) ∧
    (∀ k j d v0 v1 core stamp t o, s.thread k = some t → clusterDrains s (keyCl k) = true →
      t.out[j]? = some o → o.kind = .work d v0 v1 core stamp → s.drained core stamp = true →
      exec (.wlpopComplete k j) s = .next (s.putThread k (setW (setW (unBusy { t with
        out := t.out.take j ++ t.out.drop (j + 1) } [.w d, .w (d + 1)]) d v0) (d + 1) v1)))

/-- R46, R319, R320, R324 and R325: `spawn` makes a child with the issuer's arguments, ASID and XSTAT, PP, PF, AP and SS zero, and counts it at its
join counter, gives its number of children and sets p1, or with 64 children writes 0 and clears p1; a `join` whose counter reads zero retires; a
`yield` retires and is held until the other ready slots have issued, and on a GC makes its gang's age zero; a `migrate` to an address its own core owns only retires, and
one to another SC sends the thread's context there, its XSTAT with PP, PF and AP zero, when the phases of its launch's groups that now can end end.
What a `migrate` carries, and when it leaves, is log 23 (DEDUCED), and one to another cluster's control word log 79 (DESIGN CHOICE). -/
def Obligations.ThreadInstructionsComplete : Prop :=
  (∀ s, Ready s → isSC s.cur.core = false →
    ∃ v ws, LanesTo (s.modCore s.cur.cl s.cur.core fun c => { c with gangs := match mget c.gangs s.cur.slot with
        | some g => mset c.gangs s.cur.slot { g with since := s.cyc }
        | none => c.gangs }) v (fun _ t => retired t (t.pc + 4)) ∧
      ws = (List.range 8).filter (fun n => n != s.cur.slot && slotReady v s.cur.cl s.cur.core n) ∧
      exec .yield s = .next (v.modCore s.cur.cl s.cur.core fun c => { c with
        yields := c.yields ++ [{ slot := s.cur.slot, lanes := s.cur.lanes, since := s.cyc, waits := ws }] })) ∧
  ∀ s k t, Lone s k t → OnSC s → isSC (keyCore k) = true → ∀ (d a b : Reg) (c : Core), c = s.core (keyCl k) (keyCore k) →
    (64 ≤ c.children.length → (∀ r ∈ argRegs, r ∉ t.busy) → .w 3 ∉ t.busy →
      exec (.spawn d a b) s = .next (s.putThread k (retired (setP (setW t d 0) 1 false) (t.pc + 4)))) ∧
    (c.children.length < 64 → (∀ r ∈ argRegs, r ∉ t.busy) → .w 3 ∉ t.busy → Released t → readW t b = 0 →
      ∃ u e child, exec (.spawn d a b) s = .next u ∧ mget c.children e = none ∧ e < 64 ∧
        u = (withCore { s with nextUid := s.nextUid + 1 } k
          { c with children := mset c.children e { jc := 0, asid := t.asid }, waiting := c.waiting ++ [child] }).putThread k
            (retired (setP (setW t d (word (c.children.length + 1))) 1 true) (t.pc + 4)) ∧
        child.pc = readW t a &&& 0xFFFFFFFFFFFFFFFC#64 ∧ child.asid = t.asid ∧ child.fflags = 0 ∧ child.launch = t.launch ∧
        child.xstat = t.xstat &&& 0xFFFFFFFFFFFFE07D#64 ∧
        child.child = some { cl := keyCl k, core := keyCore k, entry := e } ∧
        (∀ n, 10 ≤ n → n < 18 → readW child (BitVec.ofNat 5 n) = readW t (BitVec.ofNat 5 n)) ∧
        (∀ n, 10 ≤ n → n < 14 → readF child (BitVec.ofNat 5 n) = readF t (BitVec.ofNat 5 n)) ∧ readW child 3 = readW t 3 ∧
        readW child 1 = 0) ∧
    (∀ A L, c.children.length < 64 → (∀ r ∈ argRegs, r ∉ t.busy) → .w 3 ∉ t.busy → Released t → readW t b ≠ 0 → (readW t b).toNat % 8 = 0 →
      Counts s k t .write (readW t b) 8 A L → Writable s k 1 A → t.ld < 63 →
      ∃ u child, exec (.spawn d a b) s = .next u ∧ (u.core (keyCl k) (keyCore k)).waiting = c.waiting ++ [child] ∧
        child.pc = readW t a &&& 0xFFFFFFFFFFFFFFFC#64 ∧ child.xstat = t.xstat &&& 0xFFFFFFFFFFFFE07D#64 ∧ u.mem = (s.writeNum A (s.numAt A + 1)).mem ∧
        u.thread k = some (retired (setP (setW t d (word (c.children.length + 1))) 1 true) (t.pc + 4)) ∧
        ∀ j, j ≠ k → u.thread j = s.thread j) ∧
    (∀ A L, (readW t a).toNat % 8 = 0 → Counts s k t .read (readW t a) 8 A L → (∀ o ∈ t.out, outAcquires o = false ∧ ∀ x ∈ o.addrs, x ∉ A) →
      badAmong s A = none → leNat (A.map (s.seen t.out)) = 0 → exec (.join a) s =
        .next ((asking (s.putThread k (retired t (t.pc + 4))) k 0 A []).walkReads (keyCl k) L)) ∧
    (∀ v ws, v = s.putThread k (retired t (t.pc + 4)) →
      ws = (List.range 16).filter (fun n => n != s.cur.slot && slotReady v s.cur.cl s.cur.core n) →
      exec .yield s = .next (v.modCore s.cur.cl s.cur.core fun c => { c with
        yields := c.yields ++ [{ slot := s.cur.slot, lanes := s.cur.lanes, since := s.cyc, waits := ws }] })) ∧
    (windowRefused s k (readW t a) = false → Stays s k t (readW t a) →
      exec (.migrate a) s = .next (s.putThread k (retired t (t.pc + 4)))) ∧
    (∀ p x target, windowRefused s k (readW t a) = false → s.partOf (keyCl k) = some (p, x) →
      migrates x k t (readW t a) = some target → Unbound t → Idle t →
      ∃ u m, exec (.migrate a) s = .next u ∧ u.thread k = none ∧ (∀ j, j ≠ k → u.thread j = s.thread j) ∧ u.mem = s.mem ∧
        u.flights = s.flights ++ [.migration m target.1 target.2] ∧ m.pc = t.pc + 4 ∧ m.asid = t.asid ∧ m.fflags = t.fflags ∧ m.xstat = t.xstat &&& 0xFFFFFFFFFFFFF07D#64 ∧
        m.launch = t.launch ∧ PhasesSettle t.launch s u ∧
        ∀ i : Fin 8, m.regs[i] = readW t (BitVec.ofNat 5 (8 + i.val)))

/-- R321: a thread with nothing outstanding ends at `exit`: its slot is empty, its wake bit is clear, a child's notice is on its way
to the core that spawned it, and the phases of its launch's groups that now can end end; it does not end while an access is
outstanding. -/
def Obligations.ExitEndsTheThread : Prop :=
  ∀ s k t, Lone s k t → s.inPack k = false → s.wakes.Nodup →
    (Idle t → t.deferred = [] → ∃ u, exec .exit s = .next u ∧ u.thread k = none ∧ (∀ j, j ≠ k → u.thread j = s.thread j) ∧ k ∉ u.wakes ∧
      u.mem = s.mem ∧ u.flights = s.flights ++ (t.child.toList.map fun c => .exitNotice c.cl c.core c.entry (xsSUP t.xstat)) ∧
      PhasesSettle t.launch s u) ∧
    ((t.ld ≠ 0 ∨ t.st ≠ 0 ∨ t.cp ≠ 0 ∨ t.tl ≠ 0) → t.park = none →
      exec .exit s = .next (s.putThread k (waits s t (.drain true))))

/-- R326, R327 and R332: a `gcall` leaves for the grant with its target and waits; a `gret` ends its lane, sends w10, w11, f10 and
f11 to its caller, and the phases of its launch's groups that now can end end; a `launch` of an aligned, readable record sends it to
the launch unit and waits. -/
def Obligations.GangCallAndLaunchLeaveForTheirUnits : Prop :=
  ∀ s k t, Lone s k t → Released t → ∀ (off : BitVec 20) (d a : Reg),
    (OnSC s → (∀ r ∈ argRegs, r ∉ t.busy) → t.park = none →
      exec (.gcall off) s = .next (sends (s.putThread k (waits s t .grantRoom)) (k / 256)
        (.gcall k ((t.pc + off.signExtend 64 * 4) &&& 0x00FFFFFFFFFFFFFF#64)))) ∧
    (∀ c, s.inPack k = true → t.cp = 0 → t.tl = 0 → (∀ r ∈ [RegRef.w 10, .w 11, .f 10, .f 11], r ∉ t.busy) → t.deferred = [] →
      t.caller = some c →
      ∃ u, exec .gret s = .next u ∧ u.thread k = none ∧ (∀ j, j ≠ k → u.thread j = s.thread j) ∧ u.mem = s.mem ∧
        u.flights = s.flights ++ [.results c (readW t 10) (readW t 11) (readF t 10) (readF t 11)] ∧ PhasesSettle t.launch s u) ∧
    (s.inPack k = false → ∀ p x, s.partOf (keyCl k) = some (p, x) → x.svcbase ≠ 0 → tcV t.tcause = false →
      exec .gret s = .next (s.putThread k (trapThread t x.svcbase t.pc (xsRead t.xstat) 0x12 0 false 0 0))) ∧
    (∀ A L, (readW t a).toNat % 128 = 0 → Counts s k t .read (readW t a) 128 A L → badAmong s A = none → t.park = none →
      exec (.launch d a) s = .next ((sends (s.putThread k (waits s t .launch)) (k / 256)
        (.launch (s.partNo (keyCl k)) (keyCl k) none t.asid (xsSUP t.xstat) (readW t a) (some (k, d)))).walkReads (keyCl k) L))

/-- R328 to R331: `barv` arrives and retires; `bsync` arrives and waits with AP set, and retires once the phase it arrived for
has ended; `bwait` retires when the thread has not arrived for the phase; `bquery` gives the live threads, arrivals and phase;
`wait` retires within its bounds; `pwait` retires on a present line. -/
def Obligations.BarriersAndWaitsComplete : Prop :=
  ∀ s k t, Lone s k t → ∀ (g : BitVec 8) (p : Nat) (e : Group) (d a : Reg) (ld st cp tl : BitVec 4),
    (MayUseGroup s k t g.toNat p e →
      (mget t.last g.toNat ≠ some e.phase → Released t → exec (.barv g) s =
        .next (sends (s.putThread k (retired { t with last := mset t.last g.toNat e.phase } (t.pc + 4))) (s.cur.cl * 20 + s.cur.core) (.arrival t.uid p g.toNat e.phase))) ∧
      (xsAP t.xstat = false → mget t.last g.toNat ≠ some e.phase → Released t → t.park = none → exec (.bsync g) s =
        .next (sends (s.putThread k (waits s { t with
          last := mset t.last g.toNat e.phase, xstat := xsSetAP t.xstat true } (.barrier g.toNat e.phase))) (s.cur.cl * 20 + s.cur.core) (.arrival t.uid p g.toNat e.phase))) ∧
      (xsAP t.xstat = true → mget t.last g.toNat ≠ some e.phase → exec (.bsync g) s = .next (s.putThread k (retired t (t.pc + 4)))) ∧
      (mget t.last g.toNat ≠ some e.phase → exec (.bwait g) s = .next (s.putThread k (retired t (t.pc + 4)))) ∧
      (mget t.last g.toNat = some e.phase → t.park = none →
        exec (.bwait g) s = .next (s.putThread k (waits s t (.barrier g.toNat e.phase)))) ∧
      (∃ arr : List Nat, arr.Nodup ∧ (∀ n, n ∈ arr ↔ n ∈ e.arrived ∨ .arrival n p g.toNat e.phase ∈ s.flights) ∧
        exec (.bquery d g) s = .next (s.putThread k (retired (setW t d
          (word (min (liveThreads s p e).length 65535 * 2 ^ 48 + min arr.length 65535 * 2 ^ 32 + e.phase % 2 ^ 32))) (t.pc + 4))))) ∧
    (t.deferred = [] → (ld = 15 ∨ t.ld ≤ ld.toNat) → (st = 15 ∨ t.st ≤ st.toNat) → (cp = 15 ∨ t.cp ≤ cp.toNat) →
      (tl = 15 ∨ t.tl ≤ tl.toNat) → exec (.wait ld st cp tl) s = .next (s.putThread k (retired t (t.pc + 4)))) ∧
    (∀ p x A L cl off, s.partOf (keyCl k) = some (p, x) →
      checkAccess s true (keyCl k) p x t.asid (xsSUP t.xstat) .read (readW t a) 1 = .ok A L → spotOf (A.headD 0) = some (.scratch cl off) →
      exec (.pwait a) s = .next ((s.putThread k (retired t (t.pc + 4))).walkReads (keyCl k) L))

/-- R301 to R303, R306, R310, R311, R321 and R325: an arrival at a barrier is recorded once and the last of a phase ends it; a
budgeted wait that lasts its limit traps with no request sent for it; a context that arrives joins the first place with room; an
exit notice frees its entry, counting its join counter down.
What a notice checks is log 29, and which contexts count as live threads at a barrier log 26 (DEDUCED). -/
def Obligations.ThreadEventsComplete : Prop :=
  (∀ s i uid p g phase x e, s.flights[i]? = some (.arrival uid p g phase) → s.part p = some x → mget x.groups g = some e →
    arrives s ((leastBy id (e.members.map (·.1))).getD 0) i = true →
    (phase ≠ e.phase → exec (.barrierArrival i g) s = .next (arrived s i)) ∧
    (phase = e.phase → uid ∉ e.arrived →
      ∃ u y f, exec (.barrierArrival i g) s = .next u ∧ u.part p = some y ∧ mget y.groups g = some f ∧ u.threads = s.threads ∧
        u.mem = s.mem ∧
        (if ∀ n ∈ liveThreads u p e, n = uid ∨ n ∈ e.arrived then f = { e with phase := e.phase + 1, arrived := [] }
          else f = { e with arrived := e.arrived ++ [uid] }))) ∧
  (∀ s k t q n p x, s.thread k = some t → t.park = some q → stallLimit t.xstat = some n → clusterRuns s (keyCl k) = true →
    budgeted q.why = true → q.since + n ≤ s.cyc → parkOver s k t q.why = false → aboutToPack s k = false →
    prefixAt (s.withdraw k) k t = none → prefixAt ((s.withdraw k).withdrawArrival k t) k (unarrived t) = none →
    s.partOf (keyCl k) = some (p, x) → x.svcbase ≠ 0 → tcV t.tcause = false → (s.cluster (keyCl k)).grantWait = [] →
    ∃ u v, exec (.stallLimitExpiry k) s = .next u ∧ u.thread k = some (trapThread v x.svcbase t.pc (xsRead v.xstat) 8 0 false 0 0) ∧
      (arrivalDue s k t = false → v = t ∧ ∀ f ∈ u.flights, f ∈ s.flights) ∧
      (∀ g phase, arrivalDue s k t = true → q.why = .barrier g phase → v = { t with xstat := xsSetAP t.xstat false, last := mdel t.last g } ∧
        ∀ uid p, .arrival uid p g phase ∈ u.flights → uid ≠ t.uid) ∧
      (∀ j, j ≠ k → u.thread j = s.thread j) ∧ u.mem = s.mem) ∧
  (∀ s cl core c, c = s.core cl core →
    (∀ i m, s.flights[i]? = some (.migration m cl core) → arrives s cl i = true → c.arrivals.length < 32 → c.heap = [] → c.overflow = [] →
      exec (.migrationArrival i) s = .next ((arrived s i).modCore cl core fun _ => { c with arrivals := c.arrivals ++ [m] })) ∧
    (∀ i m, s.flights[i]? = some (.migration m cl core) → arrives s cl i = true → 32 ≤ c.arrivals.length → c.heap.length < 4096 → c.overflow = [] →
      exec (.migrationArrival i) s = .next ((arrived s i).modCore cl core fun _ => { c with heap := c.heap ++ [m] })) ∧
    (∀ m rest, clusterRuns s cl = true → c.heap = m :: rest → c.arrivals.length < 32 → c.overflow = [] →
      exec (.cellarMove cl core) s = .next (s.modCore cl core fun _ => { c with arrivals := c.arrivals ++ [m], heap := rest }))) ∧
  (∀ s i cl core entry sup c, s.flights[i]? = some (.exitNotice cl core entry sup) → arrives s cl i = true →
    fbfHolds (s.cluster cl) (7, (cl * 64 + entry) * 20 + core) = false → mget (s.core cl core).children entry = some c →
    (c.jc = 0 → exec (.exitNotice i) s = .next ((arrived s i).modCore cl core fun x => { x with children := mdel x.children entry })) ∧
    (∀ p x A L, c.jc ≠ 0 → s.partOf cl = some (p, x) → checkCounter s p x c.asid sup .write c.jc 8 = .ok A L →
      Writable s (keyOf cl core 0) 1 A → badAmong s A = none →
      ∃ u, exec (.exitNotice i) s = .next u ∧ mget (u.core cl core).children entry = none ∧ u.threads = s.threads ∧
        u.mem = memWriteAll s.mem ((A.zip (leBytes A.length (s.numAt A + (2 ^ 64 - 1)))).filter fun b => b.1 < remoteBase)))

/-- R291 to R296 and R326: a caller that reaches a grant with no key for its target opens one, whose deadline is its limit
after GTIME; the deadline makes the key due; a due key packs into the grant's launch queue; and the caller resumes after its
`gcall` with the results of its lane. -/
def Obligations.GrantEventsComplete : Prop :=
  ∀ s cl, clusterRuns s cl = true →
    (∀ i k t target n, s.flights[i]? = some (.gcall k target) → arrives s cl i = true → keyCl k = cl → s.thread k = some t →
      (s.cluster cl).grantWait = [] →
      (∀ e ∈ (s.cluster cl).grant, e.2.asid ≠ t.asid ∨ e.2.target ≠ target) → lowestFree 64 (mkeys (s.cluster cl).grant) = some n →
      ∃ u e, exec (.grantArrival i) s = .next u ∧ mget (u.cluster cl).grant n = some e ∧ e.target = target ∧ e.asid = t.asid ∧
        e.callers = [k] ∧ e.deadline = s.gtime + keyLimit s t ∧
        u.thread k = some { t with park := some (callerPark t .grantKey s.cyc) } ∧
        (∀ j, j ≠ k → u.thread j = s.thread j) ∧ u.mem = s.mem) ∧
    (∀ key e, mget (s.cluster cl).grant key = some e → e.deadline ≤ s.gtime →
      exec (.grantKeyDeadline cl key) s = .next (s.modCluster cl fun c => { c with grant := mset c.grant key { e with due := true } })) ∧
    (∀ n e, (s.cluster cl).grant = [(n, e)] → e.due = true → (s.cluster cl).gangQueue = [] → (s.cluster cl).grantWait = [] →
      ∃ u q, exec (.grantPack cl) s = .next u ∧ (u.cluster cl).grant = [] ∧ (u.cluster cl).gangQueue = [q] ∧ q.target = e.target ∧
        q.asid = e.asid ∧ q.callers = e.callers.filterMap (callerArgs s) ∧ u.mem = s.mem ∧
        ∀ j, u.thread j = if j ∈ e.callers
          then (s.thread j).map fun t => { t with park := some (callerPark t .grantPacked s.cyc) }
          else s.thread j) ∧
    (∀ i k t w10 w11 f10 f11, s.flights[i]? = some (.results k w10 w11 f10 f11) → keyCl k = cl → s.thread k = some t →
      xsSS t.xstat = false →
      ∃ u v, exec (.callerResume i) s = .next u ∧ u.thread k = some v ∧ v.pc = t.pc + 4 ∧ v.park = none ∧ readW v 10 = w10 ∧
        readW v 11 = w11 ∧ readF v 10 = f10 ∧ readF v 11 = f11 ∧ (∀ r : Reg, r.toNat < 10 ∨ 18 ≤ r.toNat → readW v r = readW t r) ∧
        (∀ r : Reg, r.toNat < 10 ∨ 14 ≤ r.toNat → readF v r = readF t r) ∧ v.p = t.p ∧ v.fflags = t.fflags ∧ v.xstat = xsSetAP t.xstat false ∧
        (∀ j, j ≠ k → u.thread j = s.thread j) ∧ u.mem = s.mem) ∧
    (∀ core slot q rest p serial, (s.cluster cl).gangQueue = q :: rest → q.launch = some (p, serial) →
      chooseGC s cl q.launch = some core → (freeGangSlots s cl core).head? = some slot →
      (s.core cl core).image = some (p, serial) → q.callers.length ≤ 32 →
      ∃ u g, exec (.gangStart cl) s = .next u ∧ (u.cluster cl).gangQueue = rest ∧ mget (u.core cl core).gangs slot = some g ∧
        g.packed = true ∧ g.mask.toNat = 2 ^ q.callers.length - 1 ∧ u.mem = s.mem ∧
        (∀ n a, q.callers[n]? = some a → ∃ v, u.thread (keyOf cl core (thrOf core slot n)) = some v ∧ v.pc = q.target ∧ v.asid = q.asid ∧
          v.caller = some a.key ∧ (∀ m : Fin 8, readW v (BitVec.ofNat 5 (10 + m.val)) = a.w[m]) ∧
          (∀ m : Fin 4, readF v (BitVec.ofNat 5 (10 + m.val)) = a.f[m]) ∧ (∀ r : Reg, r.toNat < 10 ∨ 18 ≤ r.toNat → readW v r = 0) ∧
          ∀ r : Reg, r.toNat < 10 ∨ 14 ≤ r.toNat → readF v r = 0) ∧
        ∀ j, (∀ n, n < q.callers.length → j ≠ keyOf cl core (thrOf core slot n)) → u.thread j = s.thread j)

/-- R276 to R279, R282 and R332: a queue's record taken up, a record accepted with the next serial, a launch whose dependence
counter reads zero, its next thread placed, its completion with the signal it asked for, and a launched gang's start.
That a queue's registration reads HEAD from its descriptor is log 53 (DEDUCED); the order of a launch's reads and the rights of the unit are
log 103 (DESIGN CHOICE). -/
def Obligations.LaunchEventsComplete : Prop :=
  (∀ s p q x e addrs base log2n head tail have_ n, s.part p = some x → mget x.queues q = some e → natBit 31 e.cfg.toNat = true → e.halted = false → e.due = false →
    clusterRuns s (bitsOf 16 9 e.cfg) = true →
    s.agent (bitsOf 16 9 e.cfg) (queueAgent p q) (e.cfg.setWidth 16) (natBit 30 e.cfg.toNat) .read e.addr 128 = .ok addrs →
    base = word (s.numAt (addrs.take 8)) → log2n = s.numAt ((addrs.drop 8).take 8) → head = e.head.getD (s.numAt ((addrs.drop 16).take 8)) →
    tail = s.numAt ((addrs.drop 64).take 8) →
    1 ≤ log2n → log2n ≤ 16 → base.toNat % 128 = 0 → n = (tail + 2 ^ 64 - head) % 2 ^ 64 → n ≤ 2 ^ log2n → have_ = queueOnWay s p q →
    ∀ new : List Flight, new = ((List.range (n - have_)).map fun j => .launch p (bitsOf 16 9 e.cfg) (some q) (e.cfg.setWidth 16)
      (natBit 30 e.cfg.toNat) (base + word ((head + have_ + j) % 2 ^ log2n * 128)) none) →
    exec (.launchQueueWake p q) s = .next { ((s.agentReads (bitsOf 16 9 e.cfg) addrs).agentWalks
      (bitsOf 16 9 e.cfg) (e.cfg.setWidth 16) (natBit 30 e.cfg.toNat) .read [(e.addr, 128)]).modPart p fun x => { x with queues := mset x.queues q { e with head := some head } } with
      flights := s.flights ++ new }) ∧
  (∀ s p q x e addrs, s.part p = some x → mget x.queues q = some e → e.due = true → clusterRuns s (bitsOf 16 9 e.cfg) = true →
    s.agent (bitsOf 16 9 e.cfg) (queueAgent p q) (e.cfg.setWidth 16) (natBit 30 e.cfg.toNat) .write (e.addr + 0x10) 8 = .ok addrs →
    ∃ u y, exec (.launchQueueWake p q) s = .next u ∧ u.mem = (s.writeCells (addrs.zip (leBytes 8 (e.head.getD 0)))).mem ∧
      u.part p = some y ∧ mget y.queues q = some { e with due := false } ∧ u.threads = s.threads) ∧
  (∀ s i p cl asid sup va k d x t addrs r, s.flights[i]? = some (.launch p cl none asid sup va (some (k, d))) →
    (∀ f ∈ s.flights.take i, ∀ a b v o, f ≠ .launch p cl none a b v o) → s.part p = some x → clusterRuns s cl = true →
    s.thread k = some t → xsSS t.xstat = false → s.agent cl (issuerAgent k) asid sup .read va 128 = .ok addrs →
    r = recordOf (addrs.map s.byteAt) → r.place = 0 →
    ∃ u y l v, exec (.launchAccept i) s = .next u ∧ u.part p = some y ∧ y.serial = x.serial + 1 ∧ mget y.launches x.serial = some l ∧
      l.r = r ∧ l.asid = asid ∧ l.sup = sup ∧ u.thread k = some v ∧ v = retired (setW t d (word x.serial)) (t.pc + 4) ∧
      readW v d = (if d = 0 then 0 else word x.serial) ∧ (∀ j, j ≠ k → u.thread j = s.thread j) ∧ u.mem = s.mem) ∧
  (∀ s p serial x l, HasLaunch s p serial x l →
    (l.stage = .waiting → (l.r.place = 0 ∨ l.clusters ≠ []) → (mget x.images l.r.image).any (·.revoked) = false → l.r.csz = 0 → l.r.groups = 0 →
      (l.r.depctr = 0 ∨ l.reads ≠ 0 ∨ ∃ addrs, s.agent l.cl (launchAgent p serial) l.asid l.sup .read l.r.depctr 8 = .ok addrs ∧ s.numAt addrs = 0) →
      ∃ u y, exec (.launchDepctrRead p serial) s = .next u ∧ u.part p = some y ∧ mget y.launches serial = some
        { l with
          stage := if l.r.nthr + l.r.ngang = 0 then .placed else .placing
          const := if l.reads = 2 then l.const else []
          reads := 2 } ∧ u.threads = s.threads ∧ u.mem = s.mem) ∧
    (∀ cl core, l.stage = .placing → outranked s p serial x l = false →
      placeCore s p serial l (nextGang l) = some (cl, core) →
      ∃ u y m, exec (.launchPlace p serial) s = .next u ∧ u.part p = some y ∧ mget y.launches serial = some m ∧ u.threads = s.threads ∧
        (u.core cl core).pending = (s.core cl core).pending ++ [{ part := p, serial := serial, index := if nextGang l then l.placedGang else l.placedThr, tq := l.r.tq }] ∧
        (u.core cl core).image = some (p, serial) ∧
        (∀ a, a ∉ span (lmAddr cl core 0) 2048 → memRead u.mem a = memRead s.mem a) ∧
        m.placedThr = (if nextGang l then l.placedThr else l.placedThr + 1) ∧ m.r = l.r) ∧
    (l.stage = .placed → launchAlive s p serial = false →
      (l.r.signal = 0 → ∃ u y, exec (.launchComplete p serial) s = .next u ∧ u.part p = some y ∧
        mget y.launches serial = some { l with stage := .done l.status } ∧ y.groups = x.groups.filter (fun g => g.2.serial != serial) ∧
        u.threads = s.threads ∧ u.mem = s.mem) ∧
      (∀ addrs, l.r.signal.toNat % 16 = 0 → l.r.signal ≠ 0 → l.status = 0 → l.r.sigop = 0 → l.signals = 0 →
        s.agent l.cl (launchAgent p serial) l.asid l.sup .write l.r.signal 8 = .ok addrs →
        ∃ u y, exec (.launchComplete p serial) s = .next u ∧ u.part p = some y ∧
          mget y.launches serial = some { l with stage := .done 0 } ∧ u.threads = s.threads ∧ u.mem = (s.writeCells (addrs.zip (leBytes 8 l.r.sigval.toNat))).mem))) ∧
  (∀ s cl core pend rest slot, isSC core = false → core < 20 → clusterRuns s cl = true → (s.core cl core).pending = pend :: rest →
    (freeGangSlots s cl core).head? = some slot → ∃ u g, exec (.launchedGangStart cl core) s = .next u ∧ (u.core cl core).pending = rest ∧
      mget (u.core cl core).gangs slot = some g ∧ g.mask = -1 ∧ g.packed = false ∧ g.launch = some (pend.part, pend.serial) ∧ u.mem = s.mem ∧
      (∀ l t, l < 32 → pendingThread s pend (s.nextUid + l) l true = some t → u.thread (keyOf cl core (thrOf core slot l)) = some t) ∧
      ∀ j, (∀ l, l < 32 → j ≠ keyOf cl core (thrOf core slot l)) → u.thread j = s.thread j)

/-- R174, R285, R286, R301 and R304: a free slot takes the oldest child, else the oldest context, else the oldest pending thread of the
queue that owns it, else that of the queue the arbiter serves, and at a boundary, for every free slot in turn, that of the arbiter alone;
which queue that is, ties to the lowest; each list loses its oldest entries to its shortest neighbour, at most 16 and half of the
difference and what there is room for, and there they are inserted below the others.
That the arbiter serves a slot whose owner has weight 0 is log 77 (DEDUCED); entries on their way are R304's promised room. -/
def Obligations.SlotAndListEventsComplete : Prop :=
  (∀ s cl core slot, isSC core = true → clusterRuns s cl = true → (freeSlots s cl core).head? = some slot →
    (∀ t rest, (s.core cl core).waiting = t :: rest → ∃ u, exec (.slotFill cl core slot) s = .next u ∧ u.thread (keyOf cl core slot) = some t ∧
      (u.core cl core).waiting = rest ∧ (u.core cl core).owner.toList.getD slot 0 = t.tq ∧ u.mem = s.mem ∧
      ∀ j, j ≠ keyOf cl core slot → u.thread j = s.thread j) ∧
    (∀ m rest, (s.core cl core).waiting = [] → (s.core cl core).arrivals = m :: rest → m.stepped = false →
      ∃ u v, exec (.slotFill cl core slot) s = .next u ∧ u.thread (keyOf cl core slot) = some v ∧ (u.core cl core).arrivals = rest ∧
        v.pc = m.pc ∧ v.xstat = m.xstat ∧ v.fflags = m.fflags ∧ v.asid = m.asid ∧ v.launch = m.launch ∧ u.mem = s.mem ∧
        (∀ j, j ≠ keyOf cl core slot → u.thread j = s.thread j) ∧ ∀ i : Fin 8, readW v (BitVec.ofNat 5 (8 + i.val)) = m.regs[i]) ∧
    (∀ own q pend t, (s.core cl core).waiting = [] → (s.core cl core).arrivals = [] → own = (s.core cl core).owner.toList.getD slot 0 →
      (own ∈ pendingQueues s cl core → q = own) → (own ∉ pendingQueues s cl core → arbiterQueue s cl core = some q) →
      ((s.core cl core).pending.find? fun x => x.tq == q) = some pend → pendingThread s pend s.nextUid 0 false = some t →
      ∃ u, exec (.slotFill cl core slot) s = .next u ∧ u.thread (keyOf cl core slot) = some t ∧ u.mem = s.mem ∧
        (u.core cl core).owner.toList.getD slot 0 = q ∧ (u.core cl core).pending = (s.core cl core).pending.erase pend ∧
        ∀ j, j ≠ keyOf cl core slot → u.thread j = s.thread j) ∧
    ((s.core cl core).waiting = [] → (s.core cl core).arrivals = [] → pendingQueues s cl core = [] →
      exec (.slotFill cl core slot) s = .next s)) ∧
  (∀ s cl core q (w : Nat → Nat), (∀ r, w r = bitsOf (4 * r) 4 (s.cluster cl).tqwgt) → arbiterQueue s cl core = some q → q ∈ pendingQueues s cl core ∧
    (ownedBy s cl core q = 0 → ∀ r ∈ pendingQueues s cl core, ownedBy s cl core r = 0 → w r ≤ w q ∧ (r < q → w r < w q)) ∧
    (ownedBy s cl core q ≠ 0 → ∀ r ∈ pendingQueues s cl core, ownedBy s cl core r ≠ 0 ∧
      ownedBy s cl core q * w r ≤ ownedBy s cl core r * w q ∧ (r < q → ownedBy s cl core q * w r < ownedBy s cl core r * w q))) ∧
  (∀ s cl core, isSC core = true → clusterRuns s cl = true → s.gtime % 1024 = 0 →
    ∃ u v, exec (.rotationBoundary cl core) s = .next u ∧ u.mem = s.mem ∧ (u.cluster cl).mxe.qchg = Vector.replicate 16 0 ∧
      v = (s.modCluster cl fun c => { c with mxe := { c.mxe with qchg := Vector.replicate 16 0 } }) ∧
      u = (freeSlots s cl core).foldl (fun z slot => z.fillSlot cl core slot true) v ∧
      (∀ k t, s.thread k = some t → u.thread k = some t) ∧
      ((s.core cl core).waiting = [] → (s.core cl core).arrivals = [] → pendingQueues s cl core = [] → u.threads = s.threads)) ∧
  (∀ s cl core slot q pend t, isSC core = true → slot < 16 → s.thread (keyOf cl core slot) = none → (s.core cl core).waiting = [] →
    (s.core cl core).arrivals = [] → arbiterQueue s cl core = some q → ((s.core cl core).pending.find? fun x => x.tq == q) = some pend →
    pendingThread s pend s.nextUid 0 false = some t →
    ∃ u, u = s.fillSlot cl core slot true ∧ u.thread (keyOf cl core slot) = some t ∧ (u.core cl core).owner.toList.getD slot 0 = q ∧
      (u.core cl core).pending = (s.core cl core).pending.erase pend ∧ ∀ j, j ≠ keyOf cl core slot → u.thread j = s.thread j) ∧
  (∀ s, s.gtime % 4096 = 0 → ∃ u, ∃ cores : List (Nat × Nat), exec .loadLevelInterval s = .next u ∧ u = cores.foldl (fun z (c : Nat × Nat) => levelCore s z c.1 c.2) s ∧
    (∀ cl core, isSC core = true → clusterRuns s cl = true → (s.core cl core).work ≠ [] → (cl, core) ∈ cores) ∧
    (∀ c ∈ cores, isSC c.2 = true ∧ clusterRuns s c.1 = true) ∧ u.threads = s.threads ∧ u.mem = s.mem) ∧
  (∀ s0 s cl core p x pre m post n, s0.partOf cl = some (p, x) → neighbours s0 x cl core = pre ++ m :: post →
    (∀ o ∈ pre, workLen s0 m.1 m.2 < workLen s0 o.1 o.2) → (∀ o ∈ post, workLen s0 m.1 m.2 ≤ workLen s0 o.1 o.2) →
    n = min 16 (min ((workLen s0 cl core - workLen s0 m.1 m.2) / 2) (256 - workLen s0 m.1 m.2 - workOnWay s m.1 m.2)) →
    n ≤ workLen s cl core →
    ∃ u kept oldest, u = levelCore s0 s cl core ∧ (s.core cl core).work = kept ++ oldest ∧ oldest.length = n ∧
      u.flights = s.flights ++ oldest.map (fun e => .work m.1 m.2 e.1 e.2.1 e.2.2.1 e.2.2.2) ∧
      (u.core cl core).work = kept ∧ (∀ c i, (c, i) ≠ (cl, core) → u.core c i = s.core c i) ∧ u.threads = s.threads ∧ u.mem = s.mem) ∧
  (∀ s i cl core a b pc st, s.flights[i]? = some (.work cl core a b pc st) → clusterRuns s cl = true →
    (∀ f ∈ s.flights.take i, ∀ w x y z, f ≠ .work cl core w x y z) →
    exec (.worklistEntryArrives i) s = .next ((arrived s i).modCore cl core fun c => { c with work := c.work ++ [(a, b, pc, st)] }))

/-! ### The engines of a cluster (R101, R163 to R199, R248 to R260, R333 to R373) -/

/-- R189 to R194: what each matrix-engine instruction leaves. A context write and `mstat` act at retirement on the lowest lane's
operand; every other one posts its command, with the context it latched, and completes later. -/
def Obligations.MatrixInstructionsComplete : Prop :=
  ∀ s k t, ReadyPair s → Filled s → Lowest s k t → ∀ (a b : Reg) (c : Ctx) (v w F : Word), v = readW t a → w = readW t b →
    F = latched (mxCtx s c).cfg s.cur.pfx →
    ∀ put : (MxCtx → MxCtx) → State, (∀ f, put f = s.putMxCtx s.cur.cl c.toNat f) →
    ∀ cmd : Nat → Word → Word → List (Nat × Word × Word) → List (List Byte) → Reg → Cmd,
    (∀ fn x y ops sc d, cmd fn x y ops sc d = engineCmd s fn c [F, (mxCtx s c).base, x, y] ops sc d t) →
    (s.cur.pfx = none →
      (cfgOk v = true → ThenLanes (.mcfg a c 0) s (put fun x => { x with cfg := v }) fun _ t => retired t (t.pc + 4)) ∧
      (baseOk v = true → ThenLanes (.mcfg a c 1) s (put fun x => { x with base := v }) fun _ t => retired t (t.pc + 4)) ∧
      (v &&& ~~~ (0x37 : Word) = 0 →
        ThenLanes (.mcfg a c 2) s (put fun x => { x with sts := x.sts &&& ~~~ v }) fun _ t => retired t (t.pc + 4)) ∧
      LaneEffect (.mcfg a c 3) s (fun _ t => retired t (t.pc + 4)) ∧
      (cfgOk v = false → exec (.mcfg a c 0) s = .next (s.trapAll 1)) ∧
      (bitsOf 6 58 v = 0 → ThenLanes (.msel a c) s
        (put fun x => { x with base := putBits x.base 16 6 v.toNat, sts := 0, cnt := 0 }) fun _ t => retired t (t.pc + 4)) ∧
      LaneW (.mstat a c 0) s a (fun _ => (mxCtx s c).cfg) ∧ LaneW (.mstat a c 1) s a (fun _ => (mxCtx s c).base) ∧
      LaneW (.mstat a c 2) s a (fun _ => (mxCtx s c).sts) ∧
      LaneW (.mstat a c 3) s a (fun _ => mxCount (s.cluster s.cur.cl).mxe c.toNat (mxCtx s c))) ∧
    (TableReady s 0 → s.cur.pfx = none →
      Posts (.mswp c) s 0 (cmd 3 0 0 [] [] 0) (fun _ => []) ∧
      (bitsOf 6 58 w = 0 → Posts (.mzero b c) s 0 (cmd 6 w 0 [] [] 0) fun _ => []) ∧
      (drainOk 7 w = true → Posts (.mdrn a b c) s 0 (cmd 7 w v [] [] 0) fun _ => []) ∧
      (drainDF w = (if intPair (mxCtx s c).cfg then 11 else 1) →
        (drainOk 8 w = true → Posts (.mdrna a b c) s 0 (cmd 8 w v [] [] 0) fun _ => []) ∧
        (drainOk 9 w = true → Posts (.mdrno a b c) s 0 (cmd 9 w v [] [] 0) fun _ => [])) ∧
      ((∀ j ∈ s.curKeys, ∀ x, s.thread j = some x → elementOk (readW x b) = true) →
        Posts (.mrdr a b c) s 0 (cmd 10 0 0 (laneOps s a b) [] a) (fun _ => [.w a]) ∧
        Posts (.mwrr a b c) s 0 (cmd 11 0 0 (laneOps s a b) [] a) fun _ => [])) ∧
    (TableReady s 0 →
      (readsScale F = decide (b ≠ 0) → (s.cur.pfx = none ∨ pfxOk F false = true) → Posts (.mlds a b c) s 0 (cmd 2 w v [] [] 0) fun _ => []) ∧
      (passOk w = true → (s.cur.pfx = none ∨ pfxOk F true = true) →
        (cfgFA F ≠ 10 → Posts (.mma a b c) s 0 (cmd 4 w 0 (laneOps s a b) [] 0) fun _ => []) ∧
        (intFmt (cfgFA F) = false → AllUnbound s → Posts (.mmas a b c) s 0
          (cmd 5 w 0 (laneOps s a b) (s.curThreads.map fun x => scaleBytes F x.2 t) 0) fun _ => [])))

/-- R174 to R181, R186, R190 to R192: a grant, and how each kind of granted command completes or fails.
When rows are read and drains staged is logs 33 and 35, and which issuer's stores a command waits for log 19 (DEDUCED). -/
def Obligations.MatrixEngineEventsComplete : Prop :=
  (∀ s cl cls c r charge rlt m, m = (s.cluster cl).mxe → clusterRuns s cl = true →
    (∀ e ∈ standings s cl (cls == 0), ∀ u, e.2 ≠ .wait u) → choice s cl (cls == 0) = some (c, .yes r charge rlt) →
    (cls = 0 → m.inputFree ≤ s.cyc) → (isPass c = true → (min charge (budCap (s.cluster cl)) : Int) ≤ levelNow (s.cluster cl) s.cyc) →
    ∃ u n, exec (.mxeGrant cl cls) s = .next u ∧ n = (u.cluster cl).mxe ∧ n.table = m.table.erase c ∧ n.running = m.running ++ [r] ∧
      (u.cluster cl).rlt = (s.cluster cl).rlt ++ rlt ∧ u.threads = s.threads ∧ u.mem = s.mem ∧ u.am = s.am ∧
      (isPass c = true → n.level = levelNow (s.cluster cl) s.cyc - charge ∧ n.inputFree = s.cyc + c.ops.length) ∧
      (isPass c = false → c.fn = 3 → n.active = m.shadow ∧ n.shadow = m.active)) ∧
  (∀ s cl i r, mxRunning s cl i = some r →
    (∀ p, isPass r.cmd = true → r.plane = some p → (natBit 6 (cmdB r.cmd).toNat = true ∨ badAm s (tileKey cl (tileAt r.cmd (cmdB r.cmd)) 0 0) 8192 = none) →
       (((s.cluster cl).mxe.running.take i).any fun x => isPass x.cmd) = false →
      ∃ u, exec (.mxePassComplete cl i) s = .next u ∧ u.mem = s.mem ∧ (u.cluster cl).mxe.running = dropAt (s.cluster cl).mxe.running i ∧
        u.am = (s.putTile cl (tileAt r.cmd (cmdB r.cmd)) (passResult s cl r p).1).am ∧ TlFalls s u r.cmd.keys) ∧
    (∀ addrs, r.cmd.fn = 2 → (((s.cluster cl).mxe.running).any fun x => isPass x.cmd && x.plane == (s.cluster cl).mxe.shadow) = false →
      placeReady s cl i r = .ok addrs →
      ∃ u p n raw, exec (.mxePlaneLoadComplete cl i) s = .next u ∧ (u.cluster cl).mxe.shadow = some p ∧ p.pt = basePT (cmdBase r.cmd) ∧
        p.fb = cfgFB (cmdCfg r.cmd) ∧ p.kb = cfgKB (cmdCfg r.cmd) ∧ n = 64 * rowBytes (fmtNo p.fb) p.kb ∧ raw = s.numAt (addrs.take n) ∧
        p.b = (List.range (2048 * p.kb)).map (fun j => BitVec.ofNat 64 (raw / 2 ^ (fmtStride (fmtNo p.fb) * j) % 2 ^ fmtStride (fmtNo p.fb))) ∧
        p.scale = (if readsScale (cmdCfg r.cmd) then some ((addrs.drop n).map s.byteAt) else none) ∧
        u.mem = s.mem ∧ u.am = s.am ∧ TlFalls s u r.cmd.keys) ∧
    (r.cmd.fn = 6 → ∃ u, exec (.mxeTileOpComplete cl i) s = .next u ∧
      (∀ j l, j < 32 → l < 64 → tileWord u cl (tileAt r.cmd (cmdB r.cmd)) j l = 0) ∧ u.mem = s.mem ∧ TlFalls s u r.cmd.keys ∧
      ∀ key, ¬ (tileKey cl (tileAt r.cmd (cmdB r.cmd)) 0 0 ≤ key ∧ key < tileKey cl (tileAt r.cmd (cmdB r.cmd)) 0 0 + 8192) →
        memRead u.am key = memRead s.am key) ∧
    (r.cmd.fn = 10 → ∀ o th, r.cmd.ops = [o] → r.cmd.keys = [laneKey r.cmd o.1] → s.thread (laneKey r.cmd o.1) = some th →
      badAm s (tileKey cl (tileAt r.cmd o.2.2) (elementRow r.cmd o.1 o.2.2) (elementCol o.2.2)) 8 = none →
      ∃ u v, exec (.mxeTileOpComplete cl i) s = .next u ∧ u.thread (laneKey r.cmd o.1) = some v ∧ v.tl = th.tl - 1 ∧ v.pc = th.pc ∧ v.f = th.f ∧ v.p = th.p ∧
        u.am = s.am ∧ u.mem = s.mem ∧ (∀ k, k ∉ r.cmd.keys → u.thread k = s.thread k) ∧ ∀ d : Reg, readW v d = if d ≠ 0 ∧ d = r.cmd.dst then
          word (tileWord s cl (tileAt r.cmd o.2.2) (elementRow r.cmd o.1 o.2.2) (elementCol o.2.2 + 1) * 2 ^ 32 +
            tileWord s cl (tileAt r.cmd o.2.2) (elementRow r.cmd o.1 o.2.2) (elementCol o.2.2)) else readW th d) ∧
    (r.cmd.fn = 11 → ∀ o t row j, r.cmd.ops = [o] → t = tileAt r.cmd o.2.2 → row = elementRow r.cmd o.1 o.2.2 → j = elementCol o.2.2 →
      ∃ u, exec (.mxeTileOpComplete cl i) s = .next u ∧ u.mem = s.mem ∧ TlFalls s u r.cmd.keys ∧
        tileWord u cl t row j = o.2.1.toNat % 2 ^ 32 ∧ tileWord u cl t row (j + 1) = o.2.1.toNat / 2 ^ 32 ∧
        ∀ key, ¬ (tileKey cl t row j ≤ key ∧ key < tileKey cl t row j + 8) → memRead u.am key = memRead s.am key) ∧
    (∀ addrs, r.cmd.fn = 7 → placeReady s cl i r = .ok addrs → ∃ u, exec (.mxeDrainComplete cl i) s = .next u ∧ u.am = s.am ∧
      TlFalls s u r.cmd.keys ∧ u.mem = (s.writeCells (addrs.zip (((List.range 32).map fun k =>
        (drainBytes (cmdB r.cmd) (cmdCfg r.cmd) (tileRow r.tile k)).1).flatMap id))).mem) ∧
    (∀ addrs, r.cmd.fn = 8 → placeReady s cl i r = .ok addrs → ∃ u, exec (.mxeDrainComplete cl i) s = .next u ∧
      u.am = s.am ∧ TlFalls s u r.cmd.keys ∧ u.mem = (s.addTile (intPair (cmdCfg r.cmd)) (rowKeys r.cmd addrs) r.tile).mem) ∧
    (∀ addrs n slice, r.cmd.fn = 9 → r.staged = false → placeReady s cl i r = .ok addrs → mget s.reductions (addrs.headD 0) = none →
      n = bitsOf 48 16 (cmdB r.cmd) → slice = bitsOf 16 16 (cmdB r.cmd) → slice < n →
      (∀ A, A = (rowKeys r.cmd addrs).flatMap (fun a => span a 256) → tableHeld s A = false ∧ snoopDown s A = false ∧ badAmong s A = none) →
      ∃ u, exec (.mdrnoContributionArrival cl i) s = .next u ∧ u.threads = s.threads ∧ u.am = s.am ∧
        (slice = 0 → n = 1 → mget u.reductions (addrs.headD 0) = none ∧
          u.mem = (s.addTile (intPair (cmdCfg r.cmd)) (rowKeys r.cmd addrs) r.tile).mem) ∧
        (slice ≠ 0 → stagedAt s (addrs.headD 0) < Config.stagedHere → u.mem = s.mem ∧
          ∃ x, mget u.reductions (addrs.headD 0) = some x ∧ x.n = n ∧ x.next = 0 ∧ x.staged.map (·.slice) = [slice]))) ∧
  (∀ s cl i c d va, clusterRuns s cl = true → clusterFinishes s cl = true → (s.cluster cl).mxe.table[i]? = some c →
    mxEligible s cl ((s.cluster cl).mxe.table.take i) c = .fail d va →
    ∃ u, exec (.mxeCommandFail cl i) s = .next u ∧ c ∉ (u.cluster cl).mxe.table ∧ u.mem = s.mem ∧ u.am = s.am ∧
      (∀ k, (∀ e ∈ (s.cluster cl).mxe.table, k ∉ e.keys ∧ ∀ o ∈ e.ops, k ≠ laneKey e o.1) → u.thread k = s.thread k) ∧
      ∀ k ∈ c.keys, ∀ t, s.thread k = some t → ∃ v, u.thread k = some v ∧ v.pc = t.pc ∧
        v.deferred = t.deferred ++ [{ engine := 0, detail := d, value := va, pc := c.pc }])

/-- R249 and R257 to R259: a copy instruction posts its command and retires with cp raised, the command granted at once
unless something holds it; the three queries write their word and raise no counter; a stream command changes the one stream, and the hint changes nothing.
That a copy may be granted at its posting is log 31 (DEDUCED). -/
def Obligations.CopyAndStreamInstructionsComplete : Prop :=
  (∀ s k t, Lone s k t → ∀ (a : Reg) (b : BitVec 4) (shape : Word), shape = readW t (pairReg b + 1) →
    tagFree (s.cluster (keyCl k)) (keyCore k) = true → t.cp < 63 →
    ∀ (f : Nat → Out) (cmd : Nat → Cmd), (∀ fn, cmd fn =
      { seq := s.nextSeq, fn := fn, issuer := (keyCl k, keyCore k, slotOf (keyCore k) (keyThr k)), keys := [k], gang := s.onGC,
          ctx := 0, words := [readW t a, readW t (pairReg b), shape], ops := [], scales := [], dst := 0, pc := t.pc, asid := t.asid,
          sup := xsSUP t.xstat, posted := s.cyc, inst := s.free }) →
    (∀ fn, f fn = .next ((({ s with nextSeq := s.nextSeq + 1 }.modCluster (keyCl k) fun c => { c with cpe := c.cpe ++ [cmd fn] }).putThread k
      (retired { t with cp := t.cp + 1 } (t.pc + 4))).grantPosted (keyCl k) (cmd fn))) →
    (lengthOk shape = true → exec (.ccopy a b) s = f 0) ∧ (shapeOk false shape = true → exec (.cgath a b) s = f 1) ∧
    (shapeOk true shape = true → exec (.cscat a b) s = f 2)) ∧
  (∀ s, Ready s → ∀ (a b : Reg) (i : BitVec 1) (n : BitVec 2),
    LaneEffect (.cstat a i) s (fun k t => retired (setW t a (cstatWord (s.cluster (keyCl k)) (keyCore k) t i)) (t.pc + 4)) ∧
    (∀ (K : Nat → Nat) (L : Nat → List Nat), (∀ k ∈ s.curKeys, ∀ t, s.thread k = some t → ∃ p x, s.partOf (keyCl k) = some (p, x) ∧
        byteKeys s x t.asid (xsSUP t.xstat) .read (readW t b) 1 = .ok [K k] (L k)) →
      WalkEffect (.pquery a b i) s L (fun k t => retired (setW t a (word ((List.range (if i = 0 then 1 else 32)).map fun j =>
        presenceCode s (K k) j * 4 ^ j).sum)) (t.pc + 4)) ∧
      WalkEffect (.lquery a b) s L (fun k t => retired (setW t a (word (bit01 (registered (s.cluster (keyCl k)) true (K k / 64)) +
        2 * bit01 (registered (s.cluster (keyCl k)) false (K k / 64)) + 256 * (s.cluster (keyCl k)).rlt.length))) (t.pc + 4))) ∧
    ((∀ k ∈ s.curKeys, ∀ t, s.thread k = some t → badStream (readW t a) (readW t b) = false ∧ (streamOf t n.toNat).state = .unbound) →
      LaneEffect (.scfg a b n) s fun _ t => retired (putStream t n.toNat
        { streamOf t n.toNat with base := readW t a, desc := readW t b, pos := 0, cfg := true }) (t.pc + 4)) ∧
    ((∀ k ∈ s.curKeys, ∀ t, s.thread k = some t → (streamOf t n.toNat).cfg = true ∧ (streamOf t n.toNat).state = .unbound) →
      LaneEffect (.son n) s fun _ t => retired (putStream t n.toNat { streamOf t n.toNat with
        pos := 0, ahead := [], dead := false, bind := (streamOf t n.toNat).bind + 1, state := if streamDir (streamOf t n.toNat) then .writeBound else .readBound }) (t.pc + 4)) ∧
    LaneEffect (.hplace a b) s (fun _ t => retired t (t.pc + 4))) ∧
  (∀ s k t (n : BitVec 2), Lone s k t → ∃ u, exec (.soff n) s = .next u ∧ u.mem = s.mem ∧ (∀ j, j ≠ k → u.thread j = s.thread j) ∧
    u.thread k = some (retired (putStream t n.toNat { streamOf t n.toNat with state := .unbound, ahead := [], dead := false }) (t.pc + 4)))

/-- R208, R249, R251, R252, R253 and R256: a command granted into scratch makes its lines absent; a running one writes the bytes it
reads next where they go and nowhere else, and a scratch line it has passed is present; a scatter-add makes its atomic operation; the
addresses of a gather's or scatter's next elements are read, up to eight, and their extents registered; a finished command lowers cp;
a failed one leaves a deferred fault pending. An element of a bound stream is read ahead, as far as its buffer goes (R49, R335).
The pieces a copy moves in are log 32, the room of the table log 85, and the issuer's stores before it log 19 (DEDUCED, DESIGN CHOICE). -/
def Obligations.CopyEngineEventsComplete : Prop :=
  ∀ s cl, clusterRuns s cl = true →
    (∀ c, (s.cluster cl).cpe = [c] → intoScratch c = true →
      (∀ l ∈ filledLines s cl c, bankBusy (s.cluster l.1) (l.2 / 2048) = false ∧ ∀ q, mget (s.cluster l.1).presence l.2 ≠ some (.absent q)) →
      ∃ u, exec (.cpeGrant cl) s = .next u ∧ (u.cluster cl).cpe = [] ∧ (u.cluster cl).cpeRun.map (·.cmd) = (s.cluster cl).cpeRun.map (·.cmd) ++ [c] ∧
        u.mem = s.mem ∧ u.threads = s.threads ∧ ∀ l ∈ filledLines s cl c, mget (u.cluster l.1).presence l.2 = some (.absent c.seq)) ∧
    (∀ i r s0, (s.cluster cl).cpeRun[i]? = some r → issuerDone s r.cmd = true → s.registerRanges cl i r = some s0 →
      ∀ ahead : Nat → Running, (∀ done, ahead done =
        { r with done := done, elems := if r.cmd.fn = 0 ∨ done % elemSize r.cmd = 0 then r.elems.drop 1 else r.elems }) →
      (∀ reads cells done, copyNext s0 cl i r = .write reads cells done →
        ∃ u, exec (.cpeLineWritten cl i) s = .next u ∧ (u.cluster cl).cpeRun[i]? = some (ahead done) ∧
          u.threads = s.threads ∧ u.mem = (s.writeCells cells).mem ∧ (∀ a, a ∉ cells.map (·.1) → memRead u.mem a = memRead s.mem a) ∧
          (intoScratch r.cmd = true → ∀ j c off, ((copyDst r.cmd).toNat + r.done) / 64 ≤ j →
            (64 * (j + 1) ≤ (copyDst r.cmd).toNat + done ∨ copyTotal r.cmd ≤ done ∧ 64 * j < (copyDst r.cmd).toNat + done) →
            spotOf (j * 64) = some (.scratch c off) → mget (u.cluster c).presence (off / 64) = none)) ∧
      (∀ addrs op new operand done, copyNext s0 cl i r = .adds addrs op new operand done →
        ∃ u, exec (.cpeLineWritten cl i) s = .next u ∧ (u.cluster cl).cpeRun[i]? = some (ahead done) ∧
          u.threads = s.threads ∧ u.mem = (s.writeNum addrs new).mem ∧ ∀ a, a ∉ addrs → memRead u.mem a = memRead s.mem a) ∧
      (∀ elems rlt reads, copyNext s0 cl i r = .taken elems rlt reads →
        ∃ u, exec (.cpeLineWritten cl i) s = .next u ∧ (u.cluster cl).cpeRun[i]? = some { r with elems := elems } ∧
          (u.cluster cl).rlt = (s0.cluster cl).rlt ++ rlt ∧ u.threads = s.threads ∧ u.mem = s.mem)) ∧
    (∀ i r k t, (s.cluster cl).cpeRun[i]? = some r → copyTotal r.cmd ≤ r.done → r.cmd.keys = [k] → s.thread k = some t →
      ∃ u, exec (.cpeCommandComplete cl i) s = .next u ∧ (u.cluster cl).cpeRun = dropAt (s.cluster cl).cpeRun i ∧
        u.thread k = some { t with cp := t.cp - 1 } ∧ (∀ j, j ≠ k → u.thread j = s.thread j) ∧ u.mem = s.mem) ∧
    (∀ i r k t d va, (s.cluster cl).cpeRun[i]? = some r → issuerDone s r.cmd = true → copyNext s cl i r = .fail d va → r.cmd.keys = [k] → s.thread k = some t →
      ∃ u v, exec (.cpeCommandFail cl i) s = .next u ∧ u.thread k = some v ∧ v.cp ≤ t.cp - 1 ∧ v.pc = t.pc ∧ v.w = t.w ∧ v.f = t.f ∧ v.p = t.p ∧
        u.mem = s.mem ∧ (∀ j, j ≠ k → u.thread j = s.thread j) ∧
        v.deferred = t.deferred ++ [{ engine := 1, detail := d, value := va, pc := r.cmd.pc }]) ∧
    (∀ k t n x addrs, keyCl k = cl → s.thread k = some t → x = streamOf t n → x.state = .readBound → x.ahead.length < 8 →
      (x.pos + word x.ahead.length).toNat < streamCount x → (∀ o ∈ t.out, outAcquires o = false) → appendDue t = false →
      s.agent cl (streamAgent k n) t.asid (xsSUP t.xstat) .read (elemAddr x (x.pos + word x.ahead.length)) 8 = .ok addrs →
      readReady t.out (opOf s t (.load (.f 0) false) (elemAddr x (x.pos + word x.ahead.length)) addrs [] [] 0 0 0) = true →
      exec (.streamElementRead k n) s = .next (((s.agentReads cl addrs).agentWalks cl t.asid (xsSUP t.xstat) .read
        [(elemAddr x (x.pos + word x.ahead.length), 8)]).putThread k (putStream t n
        { x with ahead := x.ahead ++ [.value (word (leNat (addrs.map (s.seen t.out))))] })))

/-- R342, R349 and R355 to R359: `ncfg` acts at retirement, or posts a change of NM; `nld`, `nrd` and `nspk` post their command;
`ninj` sends its event with SENT and tl raised; `ntick` arrives once for the lanes of its set that have not arrived, with AP set, and they
wait; a lane that has arrived retires once the step of its tick has ended.
That `ninj` raises tl in every lane is log 38, and that an `ntick` waits for the step of the tick its core has arrived for log 82 (DEDUCED). -/
def Obligations.NeuronInstructionsComplete : Prop :=
  (∀ s k t, Ready s → Lowest s k t → ∀ (a b : Reg) (c : Ctx) (i : BitVec 2) (v w : Word) (x : EnbCtx), v = readW t a → w = readW t b →
    x = enbCtx s s.cur.cl c.toNat →
    ∀ cmd : Nat → List Word → Reg → Cmd, (∀ fn ws d, cmd fn ws d = engineCmd s fn c ws [] [] d t) →
    (enbWordOk x i.toNat v = true → (2 ≤ i.toNat → ctlNM x.ctl = false) → (i = 0 → ctlNM v = ctlNM x.ctl) →
      ThenLanes (.ncfg a c i) s (s.putEnbCtx s.cur.cl c.toNat fun x => putEnbWord x i.toNat v t) fun _ t => retired t (t.pc + 4)) ∧
    (enbWordOk x i.toNat v = false → exec (.ncfg a c i) s = .next (s.trapAll 1)) ∧
    (TableReady s 2 → enbWordOk x 0 v = true → ctlNM v ≠ ctlNM x.ctl →
      (ctlNM v = true → calBarred (s.cluster s.cur.cl) c.toNat = false) → Posts (.ncfg a c 0) s 2 (cmd 0 [v] 0) fun _ => []) ∧
    (TableReady s 2 → loadWordOk w = true → Posts (.nld a b c) s 2 (cmd 1 [v, w] 0) fun _ => []) ∧
    (TableReady s 2 → Posts (.nrd a b c i) s 2 (cmd 4 [w, i.setWidth 64] a) (fun j => if j = k then [.w a] else []) ∧
      Posts (.nspk a b c) s 2 (cmd 5 [w] a) fun j => if j = k then [.w a] else []) ∧
    (∀ e tick, e = (s.cluster s.cur.cl).enb → tick = signed32 (bitsOf 0 32 w) → bitsOf 40 24 v = 0 → bitsOf 32 32 w = 0 →
      eventInside s s.cur.cl (evCLU v) = true → e.cl < tick → tick ≤ e.ct + 15 → (∀ k ∈ s.curKeys, ∀ t, s.thread k = some t → t.tl < 63) →
      ThenLanes (.ninj a b) s ((s.modEnb s.cur.cl fun e => { e with sent := bump e.sent tick.toNat }).send (s.cur.cl * 20 + s.cur.core) (.event v w s.curKeys)) fun _ t =>
        retired { t with tl := t.tl + 1 } (t.pc + 4))) ∧
  (∀ s k t, Ready s → Filled s → Lowest s k t → ∀ (a : Reg) (c : Ctx) (g p : Nat) (e : Group) (enb : Enb) (ks : List Nat),
    readW t a = word g → g < 256 → enb = (s.cluster s.cur.cl).enb → neuronMode (s.cluster s.cur.cl) c.toNat = true → MayUseGroup s k t g p e →
    crowded e = false → ks = s.curKeys.filter (fun j => (s.thread j).any fun v => !xsAP v.xstat) →
    (∀ j ∈ s.curKeys, ∀ v, s.thread j = some v → xsAP v.xstat = true → mget v.last 256 ≠ some 0 ∧ tickOver s j v g = true) →
    (ks = [] → LaneEffect (.ntick a c) s fun _ v => retired v (v.pc + 4)) ∧
    (ks ≠ [] → tickArrived s p s.cur.cl s.cur.core g = false → enb.due = [] →
      ThenLanes (.ntick a c) s (sends s (s.cur.cl * 20 + s.cur.core) (.tick ks p g enb.ct.toNat (enb.sent.toList.getD (enb.ct.toNat % 16) 0)
          (enb.recv.toList.getD (enb.ct.toNat % 16) 0))) fun _ v =>
        if xsAP v.xstat then retired v (v.pc + 4)
        else parked { v with xstat := xsSetAP v.xstat true, last := mset v.last 256 (enb.ct.toNat + 1) } (.tick g) s.cyc))

/-- R343, R346 to R352 and R356 to R359: changes of NM, the queue's commands, an event's arrival by its tick, the arrivals and
the counts of a tick, and the clock's step; and what a neuron's step does (R351).
That a command acts in one step and the reasons of a fan-out are logs 36 and 37 (DEDUCED); the room of the table and CT after a step
logs 85 and 94 (DESIGN CHOICE). -/
def Obligations.NeuronEventsComplete : Prop :=
  ∀ s cl, clusterRuns s cl = true →
    (∀ c rest v, (s.cluster cl).enb.queue = c :: rest → issuerDone s c = true → c.fn = 0 → v = c.words.getD 0 0 → c.ctx < 16 →
      (ctlNM v = true → neuronMode (s.cluster cl) c.ctx = false → 0 < rltRoom (s.cluster cl) →
        (∀ e ∈ (s.cluster cl).rlt, e.elem = none → ¬ (e.engine = 2 ∧ e.seq = c.seq)) →
        (((s.cluster cl).mxe.running).any fun r => (tilesOf r.cmd).any fun t => t / 4 == c.ctx) = false →
        ∃ u, exec (.neuronModeSwitch cl 0) s = .next u ∧ (u.cluster cl).enb.queue = rest ∧ neuronMode (u.cluster cl) c.ctx = true ∧
          (∀ i, i < 2048 → neuronAt u cl c.ctx i = 0) ∧ TlFalls s u c.keys ∧
          (∀ a, memRead u.mem a = if a ∈ span (scratchAddr cl (calBank (enbCtx s cl c.ctx) * 0x20000)) 0x20000 then 0 else memRead s.mem a) ∧ (u.cluster cl).rlt.length = (s.cluster cl).rlt.length + 1 ∧
          (neuronBanks (s.cluster cl) = [] → (u.cluster cl).enb.ct = 0 ∧ (u.cluster cl).enb.cl = -1)) ∧
      (ctlNM v = false → neuronMode (s.cluster cl) c.ctx = true →
        ∃ u, exec (.neuronModeSwitch cl 0) s = .next u ∧ (u.cluster cl).enb.queue = rest ∧ neuronMode (u.cluster cl) c.ctx = false ∧
          u.mem = s.mem ∧ TlFalls s u c.keys ∧ ∀ e ∈ (u.cluster cl).rlt, ¬ (e.engine = 2 ∧ e.elem = some c.ctx))) ∧
    (∀ c rest k t, (s.cluster cl).enb.queue = c :: rest → issuerDone s c = true → c.keys = [k] → s.thread k = some t →
      (∀ v, (c.fn = 4 ∧ badAm s (neuronKey cl c.ctx (bitsOf 0 11 (c.words.getD 0 0))) 16 = none ∧ v = nrdValue s cl c.ctx (c.words.getD 1 0).toNat (c.words.getD 0 0)) ∨
          (c.fn = 5 ∧ v = spikeWord (s.cluster cl) c.ctx (bitsOf 0 5 (c.words.getD 0 0))) →
        ∃ u w, exec (.enbCommandExecute cl) s = .next u ∧ (u.cluster cl).enb.queue = rest ∧ u.thread k = some w ∧ w.tl = t.tl - 1 ∧
          w.pc = t.pc ∧ (∀ j, j ≠ k → u.thread j = s.thread j) ∧ u.mem = s.mem ∧ u.am = s.am ∧ ∀ d : Reg, readW w d = if d ≠ 0 ∧ d = c.dst then v else readW t d) ∧
      (∀ va lw l, c.fn = 1 → va = c.words.getD 0 0 → lw = c.words.getD 1 0 → va.toNat % 16 = 0 → neuronMode (s.cluster cl) c.ctx = true →
        l = pagePieces va (16 * bitsOf 16 12 lw) →
        (∀ pieces rlt, (∀ e ∈ (s.cluster cl).rlt, e.elem = none → ¬ (e.engine = 2 ∧ e.seq = c.seq)) → s.locate cl 2 c .read l = .ok pieces →
          rlt = rltEntries 2 c false (lineRuns pieces) → rlt ≠ [] → rlt.length ≤ rltRoom (s.cluster cl) →
          exec (.enbCommandExecute cl) s = .next (s.modCluster cl fun x => { x with rlt := x.rlt ++ rlt })) ∧
        (∀ addrs, (∃ e ∈ (s.cluster cl).rlt, e.elem = none ∧ e.engine = 2 ∧ e.seq = c.seq) →
          s.agentAll cl (2, c.seq) c.asid c.sup .read l = .ok addrs →
          ∃ u w, exec (.enbCommandExecute cl) s = .next u ∧ u.thread k = some w ∧ w = { t with tl := t.tl - 1 } ∧
            (∀ j, j ≠ k → u.thread j = s.thread j) ∧ u.mem = s.mem ∧
            (∀ e ∈ (u.cluster cl).rlt, e.elem = none → ¬ (e.engine = 2 ∧ e.seq = c.seq)) ∧
            u.am = (s.loadNeurons cl c.ctx (bitsOf 0 11 lw) (addrs.map s.byteAt)).am))) ∧
    (∀ i w0 w1 srcs n j tick, s.flights[i]? = some (.event w0 w1 srcs) → evCLU w0 = cl → n = evBANK w0 → j = evNEUR w0 → tick = bitsOf 0 32 w1 →
      neuronMode (s.cluster cl) n = true → recEN (neuronAt s cl n j) = true → arrives s cl i = true →
      badAm s (neuronKey cl n j) 16 = none →
      ∃ u, exec (.neuronEventArrival i) s = .next u ∧ u.flights = s.flights.take i ++ s.flights.drop (i + 1) ∧
        TlFalls s u srcs ∧
        ((tick : Int) = (s.cluster cl).enb.ct → u.mem = s.mem ∧ u.am = (s.putAm (neuronKey cl n j + 4) 4
          (mod32 (leNat (memBytes s.am (span (neuronKey cl n j + 4) 4)) + evInput w0))).am) ∧
        ((s.cluster cl).enb.ct < tick → (tick : Int) ≤ (s.cluster cl).enb.ct + 15 → badAmong s (span (calendarKey s cl n (tick % 16) j) 4) = none → u.am = s.am ∧
          u.mem = (s.addCalendar cl n (tick % 16) j (evInput w0)).mem)) ∧
    (∀ i w0 w1 n j tick reason, s.flights[i]? = some (.event w0 w1 []) → evCLU w0 = cl → n = evBANK w0 → j = evNEUR w0 → tick = bitsOf 0 32 w1 →
      arrives s cl i = true → badAm s (neuronKey cl n j) 16 = none →
      ((reason = 1 ∧ neuronMode (s.cluster cl) n = false) ∨
        neuronMode (s.cluster cl) n = true ∧ ((reason = 2 ∧ recEN (neuronAt s cl n j) = false) ∨
          recEN (neuronAt s cl n j) = true ∧ ((reason = 3 ∧ (tick : Int) < (s.cluster cl).enb.ct) ∨ (reason = 4 ∧ (s.cluster cl).enb.ct + 15 < tick)))) →
      exec (.neuronEventArrival i) s = .next (((arrived s i).modEnb cl fun e => { e with recv := bump e.recv tick }).sendRecord cl
        (neuronRecord s cl reason w0 w1))) ∧
    (∀ x tick fuel va u, (∀ w keys, fanRead s cl x va = .word w keys → bitsOf 40 23 w = 0 → eventInside s cl (evCLU w) = true →
        u = sends (((s.agentReads cl keys).agentWalks cl x.asid x.sup .read [(va, 8)]).modEnb cl fun e => { e with sent := bump e.sent tick }) (cl * 20)
          (.event (w &&& 0x7FFFFFFFFFFFFFFF#64) (word (tick % 2 ^ 32)) []) →
        (natBit 63 w.toNat = true → s.emit cl x tick fuel va = some u) ∧
        (natBit 63 w.toNat = false → (∀ n, fuel = n + 1 → s.emit cl x tick fuel va = u.emit cl x tick n (va + 8)) ∧
          (fuel = 0 → s.emit cl x tick fuel va = some (u.sendRecord cl (neuronRecord u cl 5 va 0))))) ∧
      (fanRead s cl x va = .fault → s.emit cl x tick fuel va = some (s.sendRecord cl (neuronRecord s cl 7 va 0)))) ∧
    (∀ t n i x r v, x = enbCtx s cl n → r = neuronAt s cl n i → neuronActive x r = true → (neuronStep x t r).2 = true → natField 96 32 r ≠ 0xFFFFFFFF →
      v = ((s.putAm (neuronKey cl n i) 16 (neuronStep x t r).1).modEnb cl fun e => { e with spikes := mset e.spikes n (((mget e.spikes n).getD []) ++ [i]) }) →
      s.stepNeuron cl t n i = v.emit cl x (t + bitsOf 4 4 x.ctl) 4095 (x.fob + word (8 * natField 96 32 r))) ∧
    (∀ k ks p g tick sent recv e x, keyCl k = cl → k ∈ ks → s.flights = [.tick ks p g tick sent recv] → s.part p = some x → mget x.groups g = some e →
      clusterRuns s ((leastBy id (e.members.map (·.1))).getD 0) = true → (e.tick = none ∨ e.tick = some tick) →
      ∃ u y, exec (.ntickArrival k) s = .next u ∧ u.flights = [] ∧ u.part p = some y ∧ (u.cluster cl).enb.cl = tick ∧ u.threads = s.threads ∧
        mget y.groups g = some { e with tick := some tick, tickCores := e.tickCores ++ [(cl, keyCore k)] }) ∧
    (∀ p g e x tick, s.part p = some x → mget x.groups g = some e → e.tick = some tick → e.tickCores ≠ [] →
      clusterRuns s ((leastBy id (e.members.map (·.1))).getD 0) = true → ((liveCores s p e).all e.tickCores.contains) = true →
      (tickSums s e tick).1 = (tickSums s e tick).2 →
      ∃ u y, exec (.tickRecvGather p g) s = .next u ∧ u.part p = some y ∧ u.threads = s.threads ∧ u.mem = s.mem ∧
        mget y.groups g = some { e with tick := some (tick + 1), tickCores := [] } ∧
        ∀ c ∈ memberClusters e, (u.cluster c).enb.due = (s.cluster c).enb.due ++ [tick]) ∧
    (∀ tick rest, (s.cluster cl).enb.due = tick :: rest → (∀ n ∈ neuronBanks (s.cluster cl), badAm s (neuronKey cl n 0) 32768 = none ∧
        badAmong s (span (calendarKey s cl n ((tick + 1) % 16) 0) 8192) = none) →
      (∀ n ∈ neuronBanks (s.cluster cl), ∀ i, i < 2048 → neuronActive (enbCtx s cl n) (neuronAt s cl n i) = false) →
      ∃ u, exec (.tickStep cl) s = .next u ∧ (u.cluster cl).enb.ct = tick + 1 ∧ (u.cluster cl).enb.due = rest ∧
        (u.cluster cl).enb.spikes = [] ∧ u.threads = s.threads ∧
        ∀ a, (∀ n ∈ neuronBanks (s.cluster cl), a ∉ span (calendarKey s cl n ((tick + 1) % 16) 0) 8192) → memRead u.mem a = memRead s.mem a) ∧
    (∀ (x : EnbCtx) (tick r : Nat) (v1 : Int), v1 = max (-(2 ^ 31)) (min (2 ^ 31 - 1) (ctlREST x.ctl +
        ((signed32 r - ctlREST x.ctl) * bitsOf 16 16 x.ctl + 0x8000) / 2 ^ 16 + signed32 (r / 2 ^ 32))) → r < 2 ^ 128 →
      ((neuronStep x tick r).2 = true ↔ levTHR x.lev ≤ v1 ∧ r / 2 ^ 80 % 256 = 0) ∧
      (neuronStep x tick r).1 % 2 ^ 32 = (if (neuronStep x tick r).2 then bitsOf 32 32 x.lev else mod32 v1) ∧
      (neuronStep x tick r).1 / 2 ^ 32 % 2 ^ 32 = 0 ∧ (neuronStep x tick r).1 / 2 ^ 96 = r / 2 ^ 96 ∧
      (neuronStep x tick r).1 / 2 ^ 80 % 256 = (if (neuronStep x tick r).2 then bitsOf 8 8 x.ctl else r / 2 ^ 80 % 256 - 1))

/-- R363, R364 and R368: `tcfg` replaces a context word; every other instruction posts its lane's command, and `texp` waits for it
at its address. -/
def Obligations.TreeInstructionsComplete : Prop :=
  (∀ s k t, Ready s → Lowest s k t → ∀ (a : Reg) (c : Ctx) (i : BitVec 2) (x : SteCtx), x = steCtx s s.cur.cl c.toNat →
    (steWordOk i.toNat (readW t a) = true → ∃ u v, exec (.tcfg a c i) s = .next u ∧ LanesTo v u (fun _ t => retired t (t.pc + 4)) ∧
      { v with clusters := s.clusters } = s ∧
      steCtx v s.cur.cl c.toNat = (if i = 0 then { x with desc := readW t a } else if i = 1 then { x with expl := readW t a }
        else if i = 2 then { x with loss := readW t a } else { x with opts := readW t a })) ∧
    (steWordOk i.toNat (readW t a) = false → exec (.tcfg a c i) s = .next (s.trapAll 1))) ∧
  (∀ s k t, Lone s k t → ∀ (a b : Reg) (c : Ctx) (i : BitVec 2) (x : SteCtx), x = steCtx s s.cur.cl c.toNat →
    (TableReady s 3 →
      ∀ cmd : Nat → Word → Word → Reg → Cmd, (∀ fn va vb d, cmd fn va vb d =
        { engineCmd s fn c [x.desc, x.expl, x.loss, x.opts] [(laneOf (keyCore k) (keyThr k), va, vb)] [] d t with keys := [k] }) →
      ∀ done : Cmd → List RegRef → Out, (∀ q busy, done q busy =
        .next ((withCommand s 3 q).putThread k (retired (addBusy { t with tl := t.tl + 1 } busy) (t.pc + 4)))) →
      exec (.tdesc a b c) s = done (cmd 1 0 (readW t b) a) [.w a] ∧
      exec (.trdn a b c i) s = done (cmd 5 (i.setWidth 64) (readW t b) a) [.w a] ∧
      exec (.troot a c) s = done (cmd 4 (readW t a) 0 0) [] ∧ exec (.tvl a b c) s = done (cmd 6 (readW t a) (readW t b) 0) [] ∧
      (Unbound t → exec (.tback a b c) s = done (cmd 3 (readW t a) (readF t b) 0) []) ∧
      (t.park = none → bitsOf 41 23 (readW t a) = 0 → 1 ≤ bitsOf 32 9 (readW t a) → bitsOf 32 9 (readW t a) ≤ 256 →
        (readW t b).toNat % 8 = 0 → exec (.texp a b c) s = .next ((withCommand s 3 (cmd 2 (readW t a) (readW t b) 0)).putThread k
          (waits s { t with tl := t.tl + 1 } .texp)))))

/-- R364 to R366 and R368 to R373: a command begins after its issuer's earlier ones, with its range registered; what a descent that ends at
the root, an expansion, a backup and a virtual loss of one node and of two, and a read of a node leave; a root moves, and then its walk
visits a node or frees a run a step; a command that fails leaves a deferred fault pending in its lane.
That a command makes its accesses together is the model's choice (DESIGN CHOICE, log 39). -/
def Obligations.TreeEventsComplete : Prop :=
  (∀ s cl c rest, clusterRuns s cl = true → (s.cluster cl).ste.table = c :: rest → issuerDone s c = true →
    ∀ begun : List RltEntry → Prop, (∀ rlt, begun rlt ↔ ∃ u, exec (.steCommandBegin cl 0) s = .next u ∧ (u.cluster cl).ste.table = rest ∧
      u.threads = s.threads ∧ u.mem = s.mem ∧ (u.cluster cl).ste.running = (s.cluster cl).ste.running ++ [runOf c] ∧
      (u.cluster cl).rlt = (s.cluster cl).rlt ++ rlt) →
    ((c.fn = 4 ∨ c.fn = 5) → begun []) ∧
    (∀ dest va n pieces rlt, (c.fn = 1 ∧ dest = true ∧ va.toNat % 8 = 0 ∧ va = cmdLaneB c ∧ n = 8 * (optDMAX c + 1)) ∨
        (c.fn = 2 ∧ dest = false ∧ va = cmdLaneB c ∧ n = 8 * bitsOf 32 9 (cmdLaneA c)) →
      s.locate cl 3 c (if dest then .write else .read) (pagePieces va n) = .ok pieces → rlt = rltEntries 3 c dest (lineRuns pieces) →
      rlt.length ≤ rltRoom (s.cluster cl) → begun rlt)) ∧
  (∀ s cl i c k t tree s1, steRunning s cl i = some c → c.keys = [k] → s.thread k = some t → steTree cl c s = .ok tree s1 →
    (∀ v s2 x, c.fn = 5 → x = bitsOf 0 32 (cmdLaneB c) → x < tree.cap → steRead cl c (nodeAddr tree x (cmdLaneA c).toNat) s1 = .ok v s2 →
      ∃ u w, exec (.steCommandComplete cl i) s = .next u ∧ u.thread k = some w ∧ w.tl = t.tl - 1 ∧ w.pc = t.pc ∧ u.mem = s.mem ∧
        (∀ j, j ≠ k → u.thread j = s.thread j) ∧ ∀ d : Reg, readW w d = if d ≠ 0 ∧ d = c.dst then v else readW t d) ∧
    (∀ rec_ rw root h h2 w3 s2 s3 s4 s5 s6 s7 s8, c.fn = 1 → rec_ = cmdLaneB c → rec_.toNat % 8 = 0 → 1 ≤ optDMAX c →
      steRead cl c (rootAddr c) s1 = .ok rw s2 → root = bitsOf 0 32 rw → root < tree.cap → steRead cl c (nodeAddr tree root 1) s2 = .ok h s3 →
      nodeRET h = false → raiseVl cl c tree root s3 = .ok () s4 → steRead cl c (nodeAddr tree root 1) s4 = .ok h2 s5 →
      steRead cl c (nodeAddr tree root 3) s5 = .ok w3 s6 → (nodeEXP h2 = false ∨ nodeTERM h2 = true ∨ nodeNCH w3 = 0 ∨ optDMAX c = 1) →
      steWrite cl c rec_ 1 s6 = .ok () s7 → steWrite cl c (rec_ + 8) (word root) s7 = .ok () s8 →
      exec (.steCommandComplete cl i) s = .next ((s8.endSte cl c).steResult c
        (word (root + bit01 (nodeTERM h2) * 2 ^ 48 + bit01 (nodeEXP h2) * 2 ^ 49)))) ∧
    (∀ x n h s2, c.fn = 2 → x = bitsOf 0 32 (cmdLaneA c) → n = bitsOf 32 9 (cmdLaneA c) → x < tree.cap → xsSS t.xstat = false →
      steRead cl c (nodeAddr tree x 1) s1 = .ok h s2 →
      ((nodeEXP h || nodePEND h || nodeTERM h || nodeRET h) = true →
        exec (.steCommandComplete cl i) s = .next ((s2.endSte cl c).endTexp c (.p1 false))) ∧
      (∀ first s3 s4 s5, (nodeEXP h || nodePEND h || nodeTERM h || nodeRET h) = false → steWrite cl c (nodeAddr tree x 1) (putBit h 50 true) s2 = .ok () s3 →
        takeRun cl c tree n s3 = .ok (some first) s4 → fillRun cl c tree x first n s4 = .ok () s5 →
        exec (.steCommandComplete cl i) s = .next ((s5.endSte cl c).endTexp c (.p1 true)))) ∧
    (∀ rw root y h w2 w3 o s2 s3 s4 s5 s6 s7 s8, c.fn = 4 → clusterRuns s cl = true →
      ((s.cluster cl).ste.running.find? fun r => r.cmd == c) = some (runOf c) → y = bitsOf 0 32 (cmdLaneA c) →
      steRead cl c (rootAddr c) s1 = .ok rw s2 → root = bitsOf 0 32 rw → root < tree.cap → y < tree.cap →
      steRead cl c (nodeAddr tree root 1) s2 = .ok h s3 → steRead cl c (nodeAddr tree root 2) s3 = .ok w2 s4 →
      steRead cl c (nodeAddr tree root 3) s4 = .ok w3 s5 → nodeVL h = 0 → nodeFIRST w2 ≤ y → y < nodeFIRST w2 + nodeNCH w3 →
      steWrite cl c (nodeAddr tree root 1) (putBit h 51 true) s5 = .ok () s6 →
      steUpdate cl c (nodeAddr tree y 3) (fun w => putBits w 0 32 noNode) s6 = .ok o s7 → steWrite cl c (rootAddr c) (putBits rw 0 32 y) s7 = .ok () s8 →
      ∃ walk, exec (.steCommandComplete cl i) s = .next (s8.modSte cl c fun r => { r with walk := some walk }) ∧
        ∀ e, e ∈ walk ↔ e.2 = 0 ∧ e.1 ≠ y ∧ nodeFIRST w2 ≤ e.1 ∧ e.1 < nodeFIRST w2 + nodeNCH w3) ∧
    (∀ r e rest s2, c.fn = 4 → clusterRuns s cl = true → ((s.cluster cl).ste.running.find? fun r => r.cmd == c) = some r → r.walk = some (e :: rest) →
      (e.2 ≠ 0 → pushRun cl c tree e.1 e.2 s1 = .ok () s2 →
        exec (.steCommandComplete cl i) s = .next (s2.modSte cl c fun q => { q with walk := some rest, done := r.done })) ∧
      (∀ w3 w2 s3, e.2 = 0 → r.done < tree.cap → e.1 < tree.cap → steRead cl c (nodeAddr tree e.1 3) s1 = .ok w3 s2 →
        (nodeNCH w3 = 0 → exec (.steCommandComplete cl i) s =
          .next (s2.modSte cl c fun q => { q with walk := some rest, done := r.done + 1 })) ∧
        (nodeNCH w3 ≠ 0 → steRead cl c (nodeAddr tree e.1 2) s2 = .ok w2 s3 → exec (.steCommandComplete cl i) s =
          .next (s3.modSte cl c fun q => { q with
            walk := some ((List.range (nodeNCH w3)).map (fun j => (nodeFIRST w2 + j, 0)) ++ (nodeFIRST w2, nodeNCH w3) :: rest)
            done := r.done + 1 }))))) ∧
  (∀ s cl i c k t, steRunning s cl i = some c → c.keys = [k] → s.thread k = some t →
    (∀ r, c.fn = 4 → clusterRuns s cl = true → ((s.cluster cl).ste.running.find? fun r => r.cmd == c) = some r → r.walk = some [] →
      exec (.steCommandComplete cl i) s = .next (s.endSte cl c)) ∧
    (∀ path tree s1 s2 add up, c.fn = 6 ∨ c.fn = 3 → readPath cl c (cmdLaneA c) s = .ok path s1 → steTree cl c s1 = .ok tree s2 →
      (c.fn = 6 → add = false ∧ up = fun h => putBits h 32 16 (nodeVL h + bitsOf 0 16 (cmdLaneB c))) →
      (c.fn = 3 → add = true ∧ up = fun h => putBits (putBits h 0 32 (nodeN h + 1)) 32 16 (nodeVL h + 65535)) →
      ∀ v : Int, (c.fn = 3 → backupValue (bitsOf 0 32 (cmdLaneB c)) = some v) →
      ∀ node : Nat → Int → State → State → Prop, (∀ x z a b, node x z a b ↔ x < tree.cap ∧ ∃ h m, steUpdate cl c (nodeAddr tree x 1) up a = .ok h m ∧
        if add then ∃ w, steUpdate cl c (nodeAddr tree x 0) (fun w => w + BitVec.ofInt 64 z) m = .ok w b else b = m) →
      (∀ x b, path = [x] → node x v s2 b → exec (.steCommandComplete cl i) s = .next (b.endSte cl c)) ∧
      (∀ r x a b, path = [r, x] → node x v s2 a → node r (if optTWO c then -v else v) a b →
        exec (.steCommandComplete cl i) s = .next (b.endSte cl c))) ∧
    (∀ d va s1, c.fn ≠ 2 → steDone cl c s = .fail d va s1 → s1.threads = s.threads → (∀ e ∈ (s1.cluster cl).ste.table, e.fn ≠ 2) →
      ∃ u w, exec (.steCommandFail cl i) s = .next u ∧ u.thread k = some w ∧ w.pc = t.pc ∧ u.mem = s1.mem ∧
        (∀ j, j ≠ k → (∀ e ∈ (s1.cluster cl).ste.table, j ∉ e.keys) → u.thread j = s.thread j) ∧
        w.deferred = t.deferred ++ [{ engine := 3, detail := d, value := va, pc := c.pc }])) ∧
  (∀ cl c tree n s b s1, steRead cl c (binAddr c n) s = .ok b s1 →
    (∀ w3 s2 s3, bitsOf 0 32 b ≠ noNode → bitsOf 0 32 b < tree.cap → steRead cl c (nodeAddr tree (bitsOf 0 32 b) 3) s1 = .ok w3 s2 →
      steWrite cl c (binAddr c n) (word (nodePARENT w3 + bitsOf 0 32 (s2.freeNow (c.seq % 1024)) * 2 ^ 32)) s2 = .ok () s3 →
      takeRun cl c tree n s = .ok (some (bitsOf 0 32 b)) s3) ∧
    (∀ x s2 s3, bitsOf 0 32 b = noNode → steRead cl c (nextAddr c) s1 = .ok x s2 →
      (bitsOf 0 32 x + n ≤ tree.cap → steWrite cl c (nextAddr c) (putBits x 0 32 (bitsOf 0 32 x + n)) s2 = .ok () s3 →
        takeRun cl c tree n s = .ok (some (bitsOf 0 32 x)) s3) ∧
      (tree.cap < bitsOf 0 32 x + n → takeRun cl c tree n s = .ok none s2)))

/-! ### System registers, traps, faults, stops and switches (R102, R205 to R212, R404 to R447, R471 to R473) -/

/-- R405 to R407: what reading, writing, setting and clearing a register leave, by its writable fields; a register that no thread
may write is left as it is, an unassigned one is illegal, and the six that wait park with their operand. A register written reads back as
written, within its width, and no other register changes (LQSEL selects what LQADDR and LQCFG name). -/
def Obligations.SystemRegisterInstructionsComplete : Prop :=
  ∀ s k t p x, Lone s k t → s.partOf (keyCl k) = some (p, x) → ∀ (d a : Reg) (r : BitVec 12) (n : Nat), n = r.toNat →
    ∀ (sup gc : Bool), sup = xsSUP t.xstat → gc = !isSC (keyCore k) →
    (sysFields gc sup n = none → Vectored s k t p x → exec (.sysrd d r) s = .next (s.putThread k (trapped t x 1 0)) ∧
      exec (.syswr a r) s = .next (s.putThread k (trapped t x 1 0)) ∧ exec (.sysset d a r) s = .next (s.putThread k (trapped t x 1 0)) ∧
      exec (.sysclr d a r) s = .next (s.putThread k (trapped t x 1 0))) ∧
    (∀ f old, sysFields gc sup n = some f → old = sysValue s k t p x n →
      exec (.sysrd d r) s = .next (s.putThread k (retired (setW t d old) (t.pc + 4))) ∧
      (f.write = 0 → f.clear = 0 → exec (.syswr a r) s = .next (s.putThread k (retired t (t.pc + 4))) ∧
        exec (.sysset d a r) s = .next (s.putThread k (retired (setW t d old) (t.pc + 4))) ∧
        exec (.sysclr d a r) s = .next (s.putThread k (retired (setW t d old) (t.pc + 4)))) ∧
      ((f.write ≠ 0 ∨ f.clear ≠ 0) →
        ∀ w, w = ((old &&& ~~~ f.write) ||| (readW t a &&& f.write)) &&& ~~~ (readW t a &&& f.clear) →
        (sysWaits n = false →
          (readW t a &&& f.reserved = 0 → sysRefused x n w = false →
            exec (.syswr a r) s = .next ((s.putSys t p x n w).1.putThread k (retired (s.putSys t p x n w).2 (t.pc + 4)))) ∧
          (readW t a &&& f.reserved = 0 → sysRefused x n (old ||| (readW t a &&& f.write)) = false →
            exec (.sysset d a r) s = .next ((s.putSys t p x n (old ||| (readW t a &&& f.write))).1.putThread k
              (retired (setW (s.putSys t p x n (old ||| (readW t a &&& f.write))).2 d old) (t.pc + 4)))) ∧
          exec (.sysclr d a r) s = .next ((s.putSys t p x n (old &&& ~~~ (readW t a &&& (f.write ||| f.clear)))).1.putThread k
              (retired (setW (s.putSys t p x n (old &&& ~~~ (readW t a &&& (f.write ||| f.clear)))).2 d old) (t.pc + 4)))) ∧
        (sysWaits n = true → t.park = none →
          (readW t a &&& f.reserved = 0 → sysRefused x n w = false →
            exec (.syswr a r) s = .next (s.putThread k (waits s t (.sysWrite 1 r (readW t a) 0)))) ∧
          (readW t a &&& f.reserved = 0 → sysRefused x n (old ||| (readW t a &&& f.write)) = false →
            exec (.sysset d a r) s = .next (s.putThread k (waits s t (.sysWrite 2 r (readW t a) d)))) ∧
          (sysRefused x n (old &&& ~~~ (readW t a &&& (f.write ||| f.clear))) = false →
            exec (.sysclr d a r) s = .next (s.putThread k (waits s t (.sysWrite 3 r (readW t a) d))))))) ∧
    (∀ f w u v y, s.part p = some x → sysFields gc sup n = some f → f.write ≠ 0 → (u, v) = s.putSys t p x n w → u.part p = some y →
      sysValue u k v p y n = (if n = 0 then readXstat (keyCore k) w else if n = 3 then (if w = 0 then 1 else w)
        else if n = 0x100 then (w.setWidth 16).setWidth 64 else w) ∧
      ∀ m, m ≠ n → sysFields gc sup m ≠ none → (n = 0x104 → m ≠ 0x105 ∧ m ≠ 0x106) → sysValue u k v p y m = sysValue s k t p x m) ∧
    exec (.feat d a) s = .next (s.putThread k (retired (setW t d (featWord s (keyCl k) (readW t a))) (t.pc + 4))) ∧
    (OnSC s → exec (.timer a) s = .next ((s.modCore (keyCl k) (keyCore k) fun c => { c with
      timer := if readW t a = 0 then none else some (keyThr k, readW t a), timerDue := none }).putThread k (retired t (t.pc + 4))))

/-- R405: a user thread writes no supervisor register: each of the three write forms retires with the register as it was, and gives its
value where it gives one; and of XSTAT it changes the fields of Table 2.6 alone, never SUP, IE or SS.
That only a supervisor clears TCAUSE.V is log 49 (DEDUCED). -/
def Obligations.SupervisorRegistersArePrivileged : Prop :=
  (∀ (gc : Bool) (n : Nat) (f : SysFields), 0x100 ≤ n → sysFields gc false n = some f → f.write = 0 ∧ f.clear = 0) ∧
  (∀ s k t p x, Lone s k t → s.partOf (keyCl k) = some (p, x) → xsSUP t.xstat = false → ∀ (d a : Reg) (r : BitVec 12) (f : SysFields) (old : Word),
    sysFields (!isSC (keyCore k)) false r.toNat = some f → old = sysValue s k t p x r.toNat →
    (0x100 ≤ r.toNat → exec (.syswr a r) s = .next (s.putThread k (retired t (t.pc + 4))) ∧
      exec (.sysset d a r) s = .next (s.putThread k (retired (setW t d old) (t.pc + 4))) ∧
      exec (.sysclr d a r) s = .next (s.putThread k (retired (setW t d old) (t.pc + 4)))) ∧
    (r = 0 → ∀ u v, (exec (.syswr a r) s = .next u ∨ exec (.sysset d a r) s = .next u ∨ exec (.sysclr d a r) s = .next u) → u.thread k = some v →
      v.pc = t.pc + 4 → xsSUP v.xstat = false ∧ xsIE v.xstat = xsIE t.xstat ∧ xsSS v.xstat = xsSS t.xstat ∧ u.parts = s.parts) ∧
    (r = 0 → readW t a &&& f.reserved = 0 → xsRM (readW t a) < 6 → ∃ v, exec (.syswr a r) s = .next (s.putThread k v) ∧ v.pc = t.pc + 4 ∧
      xsSUP v.xstat = false ∧ xsIE v.xstat = xsIE t.xstat ∧ xsSS v.xstat = xsSS t.xstat ∧ v.w = t.w))

/-- R433, R443 to R445: `svc` on an SC, `brk` and the illegal-instruction row take their trap; `rft` returns from one; `wfi`
retires on a wake, which it consumes, and waits with nothing pending; `svc` of a gang lane waits for the counters of its set and while the
host ring is disabled, and with its index reserved writes its request into the ring's entry and waits for the host. A gang takes each trap
in every lane of its set.
That the host ring is read with supervisor rights is log 50 (PRESUMED); the order in which the lanes of a set reserve their entries
is log 51 and where `brk` leaves its thread log 55 (DEDUCED). -/
def Obligations.TrapInstructionsComplete : Prop :=
  (∀ s p x, Ready s → (∀ k ∈ s.curKeys, ∀ t, s.thread k = some t → Vectored s k t p x) →
    LaneEffect .illegalInstruction s (fun _ t => trapped t x 1 0) ∧
    (s.lowest ≠ none → s.partOf s.cur.cl = some (p, x) → natBit 18 x.fhcfg.toNat = false → LaneEffect .brk s (fun _ t => trapped t x 0x0D 0)) ∧
    ((∃ k ∈ s.curKeys, ∃ t, s.thread k = some t ∧ xsSUP t.xstat = false) →
      LaneEffect .rft s (fun _ t => trapped t x 4 0) ∧ LaneEffect .wfi s (fun _ t => trapped t x 4 0))) ∧
  (∀ s, Ready s → isSC s.cur.core = false →
    ((∀ k ∈ s.curKeys, ∀ t, s.thread k = some t → xsSUP t.xstat = true ∧ tstatRefused t = false) → LaneEffect .rft s fun k t =>
      { t with xstat := readXstat (keyCore k) (xsRead t.tstat), tcause := putBit t.tcause 63 false, pc := t.tpc, park := none }) ∧
    (∀ p x, (∀ k ∈ s.curKeys, ∀ t, s.thread k = some t → s.partOf (keyCl k) = some (p, x) ∧ t.call = none ∧ t.park = none) →
      natBit 0 x.hrbase.toNat = false →
      ((∀ k ∈ s.curKeys, ∀ t, s.thread k = some t → Idle t) → LaneEffect .svc s fun _ t => waits s t .hostOff) ∧
      ((∃ k ∈ s.curKeys, ∃ t, s.thread k = some t ∧ t.ld + t.st + t.cp + t.tl ≠ 0) → ∃ ks, (∀ k, k ∈ ks ↔ k ∈ s.curKeys ∧ (s.thread k).isSome = true) ∧
        LaneEffect .svc s fun _ t => waits s t (.svcDrain ks)))) ∧
  (∀ s k t p x, Lone s k t → s.lowest = some (k, t) →
    (Vectored s k t p x →
      (OnSC s → exec .svc s = .next (s.putThread k (trapped t x 0x0B 0))) ∧
      (s.cur.cl = keyCl k → natBit 18 x.fhcfg.toNat = false → exec .brk s = .next (s.putThread k (trapped t x 0x0D 0))) ∧
      exec .illegalInstruction s = .next (s.putThread k (trapped t x 1 0)) ∧
      (xsSUP t.xstat = false → exec .rft s = .next (s.putThread k (trapped t x 4 0)) ∧ exec .wfi s = .next (s.putThread k (trapped t x 4 0)))) ∧
    (s.partOf (keyCl k) = some (p, x) → s.cur.cl = keyCl k → natBit 18 x.fhcfg.toNat = true → x.run = .running →
      s.part p = some x → ∃ u y rep, exec .brk s = .next u ∧ u.threads = s.threads ∧ u.mem = s.mem ∧ u.part p = some y ∧ y.run = .stopping true rep) ∧
    (s.partOf (keyCl k) = some (p, x) → isSC s.cur.core = false → t.park = none →
      (t.call = none → Idle t → natBit 0 x.hrbase.toNat = false → exec .svc s = .next (s.putThread k (waits s t .hostOff))) ∧
      (∀ c i desc dl addrs al, t.call = some c → c.index = some i → ringRoom s (keyCl k) c = true →
        checkAccess s true (keyCl k) p x c.asid true .read c.base 24 = .ok desc dl → linkHeld s false desc = none →
        badAmong s desc = none →
        checkAccess s true (keyCl k) p x c.asid true .write (word (s.numAt (desc.take 8)) +
          word (i % 2 ^ (s.numAt ((desc.drop 8).take 8) % 32) * 128)) 128 = .ok addrs al →
        linkHeld s true addrs = none → tableHeld s addrs = false → farRefused s p (addrs.headD 0) true = false →
        farRefused s p (addrs.getLastD 0) true = false →
        ∃ u, exec .svc s = .next u ∧ u.thread k = some (waits s t .host) ∧ (∀ j, j ≠ k → u.thread j = s.thread j) ∧
          u.mem = (s.writeCells (addrs.zip (wordsBytes (hostRequest k t i c.nb c.pos)))).mem)) ∧
    (xsSUP t.xstat = true →
      (tstatRefused t = false → isSC (keyCore k) = true → exec .rft s = .next (s.putThread k
        { t with xstat := xsRead t.tstat, tcause := putBit t.tcause 63 false, pc := t.tpc, park := none })) ∧
      (k ∈ s.wakes → exec .wfi s = .next ({ s with wakes := s.wakes.erase k }.putThread k (retired t (t.pc + 4)))) ∧
      (k ∉ s.wakes → s.mailbox k = [] → (s.core (keyCl k) (keyCore k)).timerDue = none → t.park = none →
        exec .wfi s = .next (s.putThread k (waits s t .wfi)))))

/-- R413 and R439: what taking a trap writes: TPC, TSTAT, TCAUSE, TVAL and TEPC, SUP set and IE, SS, MIG and AP clear with RM, SM and
SB kept, and the PC at SVCBASE + 64 × cause; every other register is as before. With no vector, or while TCAUSE.V is 1, the
partition stops instead. A single-stepped `add` takes its effect, and the step trap follows at the next PC.
That a stop with no vector leaves the thread as it was but for its park is log 55 (DEDUCED). -/
def Obligations.TakingATrapSavesAndEnters : Prop :=
  (∀ s k t p x, Vectored s k t p x → ∀ (pc tstat value tepc : Word) (cause detail : Nat) (step : Bool), cause < 64 → detail < 256 →
    ∃ v, s.takeTrap k t pc tstat cause detail step value tepc = s.putThread k v ∧ v.tpc = pc ∧ v.tstat = tstat ∧ v.tval = value ∧
      v.tepc = tepc ∧ tcV v.tcause = true ∧ bitsOf 0 6 v.tcause = cause ∧ bitsOf 8 8 v.tcause = detail ∧
      natBit 16 v.tcause.toNat = step ∧ xsSUP v.xstat = true ∧ xsIE v.xstat = false ∧ xsSS v.xstat = false ∧ xsMIG v.xstat = false ∧
      xsAP v.xstat = false ∧ xsRM v.xstat = xsRM t.xstat ∧ xsSM v.xstat = xsSM t.xstat ∧ xsSB v.xstat = xsSB t.xstat ∧
      v.pc = x.svcbase + word (64 * cause) ∧ v.park = none ∧ v.w = t.w ∧ v.f = t.f ∧ v.p = t.p ∧ v.fflags = t.fflags ∧ v.asid = t.asid ∧
      v.tscr = t.tscr ∧ v.ld = t.ld ∧ v.st = t.st ∧ v.cp = t.cp ∧ v.tl = t.tl ∧ v.streams = t.streams) ∧
  (∀ (s : State) (k : Nat) (t : Thread) (p : Nat) (x : Partition), s.partOf (keyCl k) = some (p, x) → s.part p = some x → x.run = .running → (x.svcbase = 0 ∨ tcV t.tcause = true) →
    ∀ (pc tstat value tepc : Word) (cause detail : Nat) (step : Bool), ∃ u y rep, u = s.takeTrap k t pc tstat cause detail step value tepc ∧
      u.part p = some y ∧ y.run = .stopping false rep ∧ u.thread k = some { t with pc := pc, park := none } ∧ u.mem = s.mem) ∧
  (∀ s k t p x, s.curKeys = [k] → s.thread k = some t → s.cur.pfx = none → xsSS t.xstat = true → t.deferred = [] →
    s.partOf (keyCl k) = some (p, x) → x.svcbase ≠ 0 → tcV t.tcause = false → ∀ d a b : Reg,
      ∃ v, exec (.add d a b) s = .next (s.putThread k v) ∧ v.tpc = t.pc + 4 ∧ v.pc = x.svcbase + 64 * 0x0E ∧
        (∀ r, readW v r = readW (setW t d (readW t a + readW t b)) r) ∧ v.f = t.f ∧ v.p = t.p ∧ v.fflags = t.fflags ∧
        tcV v.tcause = true ∧ bitsOf 0 6 v.tcause = 0x0E ∧ xsSS v.xstat = false ∧ xsSUP v.xstat = true ∧ v.tval = 0)

/-- R386, R407, R409, R410, R414 and R471 to R473: the timer's expiry, the two asynchronous traps at a boundary, and the writes
that were parked.
When a timer that has expired traps is log 49 (DEDUCED). -/
def Obligations.SystemEventsComplete : Prop :=
  (∀ s cl core slot g, (s.core cl core).timer = some (slot, g) → clusterRuns s cl = true → g.toNat ≤ s.gtime →
    exec (.timerExpiry cl core) s = .next (s.modCore cl core fun c => { c with timer := none, timerDue := some slot })) ∧
  (∀ s k t p x, s.thread k = some t → t.park = none → Vectored s k t p x →
    (timerTrapDue s k t = true → ∃ u, exec (.timerTrapTaken k) s = .next u ∧ u.thread k = some (trapped t x 0x16 0) ∧
      (u.core (keyCl k) (keyCore k)).timerDue = none ∧ u.mem = s.mem ∧ (∀ j, j ≠ k → u.thread j = s.thread j)) ∧
    (messageTrapDue s k t = true → exec (.messageInterruptTrap k) s = .next (s.putThread k (trapped t x 0x17 0)))) ∧
  (∀ s k t p x fn d r a since f w, s.thread k = some t → clusterRuns s (keyCl k) = true → s.partOf (keyCl k) = some (p, x) → xsSS t.xstat = false →
    t.park = some { why := .sysWrite fn r a d, since := since } → sysFields (!isSC (keyCore k)) (xsSUP t.xstat) r.toNat = some f →
    w = sysNew fn f (sysValue s k t p x r.toNat) a → sysTurnedDown x fn r.toNat w = false →
    ∀ out : Out, out = .next ((s.putSys t p x r.toNat w).1.putThread k (retired (if fn = 1 then (s.putSys t p x r.toNat w).2
      else setW (s.putSys t p x r.toNat w).2 d (sysValue s k t p x r.toNat)) (t.pc + 4))) →
    (r = 0x100 → (∀ o ∈ t.out, untranslated o = false) → exec (.syswrAsid k) s = out) ∧ (r = 0x102 → exec (.syswrAstb k) s = out) ∧
    (r = 0x106 → exec (.lqcfgWrite k) s = out) ∧
    (r = 0x10D ∨ r = 0x10E ∨ r = 0x10F → t.out = [] → t.ld = 0 → t.st = 0 → t.cp = 0 → t.tl = 0 → exec (.faultRoutingWrite k) s = out)) ∧
  (∀ (f : SysFields) (old a : Word), sysNew 1 f old a = ((old &&& ~~~ f.write) ||| (a &&& f.write)) &&& ~~~ (a &&& f.clear) ∧
    sysNew 2 f old a = old ||| (a &&& f.write) ∧ sysNew 3 f old a = old &&& ~~~ (a &&& (f.write ||| f.clear)))

/-- R205, R207, R284, R419 and R421: a store to a control word acts when it is performed and lowers st; a bank's switch ends with
every line present and its queues empty; FBFCMD ends or retries the accesses it names; an entry retries on an invalidation. R414 and R417: a collector delivers its oldest record by the FHBASE and FHCFG that stood when it was produced: it takes the index at
RESV, raises it, and with the entry free writes the record there, with the wake FHCFG asks for; a record waits while that EN is 0.
The model's are: rings read with supervisor rights (PRESUMED, log 50), the end of a bank's switch (DEDUCED, log 56), a record
waiting under EN = 0 (DEDUCED, log 87), and which core a store's request counts for (DESIGN CHOICE, log 59). -/
def Obligations.ControlWordFaultAndRecordEventsComplete : Prop :=
  ((∀ s k i t o cl w v s1, CtlStore s k i t o cl w v → s1 = (s.putThread k (storeDone t i)).countAccess k o →
    (w = 0 → (∀ b, b < 16 → isCalendar s cl b = false) →
      ∃ u, exec (.csmctlWrite k i) s = .next u ∧ u.thread k = some (storeDone t i) ∧ (u.cluster cl).csmctl = v &&& 0xFFFFFFFF ∧ u.mem = s.mem ∧
        (∀ j, j ≠ k → u.thread j = s.thread j) ∧ ∀ b, b < 16 → bankMode (s.cluster cl) b ≠ bitsOf (2 * b) 2 v → (b, bankMode (s.cluster cl) b) ∈ (u.cluster cl).switching) ∧
    (w = 1 → exec (.controlWordWrite k i) s = .next (s1.modCluster cl fun c => { c with tqwgt := v })) ∧
    (∀ e j x, w = 2 → (s.cluster cl).fbf = [e] → e.asid.toNat = bitsOf 0 16 v → e.vpn = bitsOf 16 40 v → e.key = some j → e.engine = none →
      j ≠ k → s.thread j = some x →
      (natBit 56 v.toNat = false → refault s1 cl e = none → ∃ u, exec (.fbfcmdRetry k i) s = .next u ∧
        (u.cluster cl).fbf = [] ∧ u.thread j = some { x with park := none } ∧ u.thread k = some (storeDone t i) ∧ u.mem = s.mem ∧
        ∀ l, l ≠ j → l ≠ k → u.thread l = s.thread l) ∧
      (∀ p y, natBit 56 v.toNat = true → Vectored s j x p y → ∃ u z, exec (.fbfcmdAbort k i) s = .next u ∧ (u.cluster cl).fbf = [] ∧
        u.thread j = some z ∧ z.pc = y.svcbase + 64 * 4 ∧ z.tpc = x.pc ∧ z.tval = e.va ∧ bitsOf 0 6 z.tcause = 4 ∧ u.thread k = some (storeDone t i) ∧
        u.mem = s.mem ∧ ∀ l, l ≠ j → l ≠ k → u.thread l = s.thread l))) ∧
  (∀ s cl bank old, bank < 16 → (s.cluster cl).switching = [(bank, old)] → clusterFinishes s cl = true → bankInUse s cl bank = false →
    (old = 2 → ∀ q ∈ (s.cluster cl).fifos, q.1 / 16 = bank → q.2.pushes = [] ∧ q.2.pops = []) → ∃ u, exec (.csmBankSwitchComplete cl bank) s = .next u ∧ (u.cluster cl).switching = [] ∧ u.threads = s.threads ∧
      (∀ q ∈ (u.cluster cl).presence, q.1 / 2048 ≠ bank) ∧ (∀ q ∈ (u.cluster cl).fifos, q.1 / 16 ≠ bank) ∧
      ∀ a, ¬ (scratchAddr cl (bank * 0x20000) ≤ a ∧ a < scratchAddr cl (bank * 0x20000) + 0x20000) → memRead u.mem a = memRead s.mem a) ∧
  (∀ s cl i e j x, clusterRuns s cl = true → (s.cluster cl).fbf[i]? = some e → e.poked = true → refault s cl e = none → e.key = some j →
    e.engine = none → s.thread j = some x → exec (.fbfRetryOnInvalidation cl i) s =
      .next ((s.modCluster cl fun c => { c with fbf := c.fbf.erase e }).putThread j { x with park := none })) ∧
  (∀ s cl e rest j x, clusterRuns s cl = true → (s.cluster cl).fbfWait = e :: rest → (s.cluster cl).fbf.length < 256 → refault s cl e = none →
    e.key = some j → e.engine = none → s.thread j = some x → ∃ u, exec (.fbfEntryFreed cl) s = .next u ∧ (u.cluster cl).fbfWait = rest ∧
      u.thread j = some { x with park := none } ∧ u.mem = s.mem ∧ ∀ l, l ≠ j → u.thread l = s.thread l)) ∧
  (∀ s row r rest x cl base cfg, mget s.collectors row = some (r :: rest) → s.part r.part = some x → cl = rowCluster x row →
    recordRoute x r = (base, cfg) →
    (natBit 16 cfg.toNat = false → exec (.recordDelivery row) s = .next s) ∧
    (∀ resv i s1, natBit 16 cfg.toNat = true → mget s.reserved row = none →
      s.agentAtomic cl (8, row) (cfg.setWidth 16) true (ringBase base + 0x40) 8 = .ok resv → i = s.numAt resv →
      s1 = { (s.atomicFrom cl 1 resv (i + 1) 1 0).agentWalks cl (cfg.setWidth 16) true .write [(ringBase base + 0x40, 8)] with
        reserved := mset s.reserved row i } →
      (ringFree s1 x (cfg.setWidth 16) (ringBase base) i = false → exec (.recordDelivery row) s = .next s1) ∧
      (∀ desc addrs, ringFree s1 x (cfg.setWidth 16) (ringBase base) i = true →
        s1.agent cl (8, row) (cfg.setWidth 16) true .read (ringBase base) 24 = .ok desc →
        s1.agent cl (8, row) (cfg.setWidth 16) true .write (word (s1.numAt (desc.take 8)) +
          word (i % 2 ^ (s1.numAt ((desc.drop 8).take 8) % 32) * 32)) 32 = .ok addrs →
        ∃ u, exec (.recordDelivery row) s = .next u ∧ u.mem = (s1.writeCells (addrs.zip (wordsBytes [r.w0, r.w1, r.w2, r.w3]))).mem ∧
          mget u.collectors row = some rest ∧ mget u.reserved row = none ∧ u.threads = s.threads ∧
          (natBit 17 cfg.toNat = true → u.flights = s.flights) ∧
          ∀ dst, natBit 17 cfg.toNat = false → nameKey (word (bitsOf 19 22 cfg)) = some dst →
            x.halfDies.getLsbD (halfDieOf (keyCl dst)) = true → u.flights = s.flights ++ [.wake none dst])))

/-- R423 to R427, R431 and R432: a stop reports and leaves the partition stopped; a switch-out stops it at T and its image, with its
threads, its windows and the flits spilled, is whole once its channels are quiet; a resume and a switch-in restart it at their time,
the latter with the image's threads, windows and flits.
The form of the save image, and that a stop takes effect in one step, are the model's (DESIGN CHOICE, logs 59, 57). -/
def Obligations.StopAndSwitchEventsComplete : Prop :=
  ∀ s p x, s.part p = some x →
    (∀ r rep, x.run = .stopping r rep → ∃ u y, exec (.gangStop p) s = .next u ∧ u.part p = some y ∧ y.run = .stopped r ∧
      u.threads = s.threads ∧ u.mem = s.mem ∧ y.stops.length = 20 * (clustersIn x.halfDies).length ∧
      mget u.collectors (rowOf (bitsOf 12 9 rep.w0)) = some (addRecord ((mget s.collectors (rowOf (bitsOf 12 9 rep.w0))).getD []) rep)) ∧
    (∀ t, x.run = .leaving t → t ≤ s.gtime → ∃ u y, exec (.switchOutAtT p) s = .next u ∧ u.part p = some y ∧
      y.run = .saved t false false ∧ y.stopTime = t ∧ u.threads = s.threads ∧ u.mem = s.mem) ∧
    (∀ t held, x.run = .saved t false held → quiet s x = true → ∃ u y im, exec (.saveComplete p) s = .next u ∧ u.part p = some y ∧
      y.run = .saved t true held ∧ y.save = some im ∧ natBit 0 im.compl.toNat = true ∧ (0x08, 1) ∈ im.words ∧ (0x10, word t) ∈ im.words ∧
      (∀ cl core thr v, cl ∈ clustersIn x.halfDies → core < 20 → thr < positions core → s.thread (keyOf cl core thr) = some v →
        (blockAt x cl + 0x40000 + recordNo core thr * 1024, v.pc) ∈ im.words) ∧
      im.threads = (s.threads.filter fun e => ownsCluster x (keyCl e.1)) ∧
      im.bytes = memWriteAll [] (blockCells (windowAt s x) s.mem ++ blockCells (amAt x) s.am) ∧
      im.spill = s.flights.filter (onChannels p x) ∧ u.flights = (s.flights.filter fun f => !onChannels p x f) ∧
      u.threads = s.threads ∧ u.mem = s.mem ∧
      ∀ a ∈ u.dirty, ¬ (a / 2 ^ 30 ∈ x.granules)) ∧
    (∀ tr, x.run = .resuming tr → tr ≤ s.gtime → ∃ u y, exec (.resumeRestart p) s = .next u ∧ u.part p = some y ∧ y.run = .running ∧
      u.mem = s.mem ∧ (∀ k, s.thread k = none → u.thread k = none) ∧ ∀ k t, s.thread k = some t →
        ∃ v, u.thread k = some v ∧ { v with park := t.park } = t ∧ v.park.map (·.why) = t.park.map (·.why) ∧ (ownsCluster x (keyCl k) = false → v = t)) ∧
    (∀ t tr m, x.run = .entering t tr → tr ≤ s.gtime → x.save = some m → (∀ e ∈ x.images, e.2.revoked = false) →
      ∃ u y, exec (.switchInRestart p) s = .next u ∧ u.part p = some y ∧ y.run = .running ∧
      y.groups = m.groups ∧ y.launches = m.launches ∧ y.queues = m.queues ∧ u.flights = m.spill ++ s.flights ∧
      (∀ a, inWindow x a = false → (∀ c ∈ m.bytes, imageKey x c.1 ≠ some (false, a)) → memRead u.mem a = memRead s.mem a) ∧
      ((m.bytes.map (·.1)).Nodup → ∀ c ∈ m.bytes, ∀ a, (imageKey x c.1 = some (false, a) → memRead u.mem a = c.2) ∧
        (imageKey x c.1 = some (true, a) → memRead u.am a = c.2)) ∧
      ((m.threads.map (·.1)).Nodup → ∀ e ∈ m.threads, ∃ v, u.thread e.1 = some v ∧ { v with park := e.2.park } = e.2 ∧
        v.park.map (·.why) = e.2.park.map (·.why)) ∧
      (∀ k, k ∉ m.threads.map (·.1) → u.thread k = if ownsCluster x (keyCl k) then none else s.thread k) ∧
      ∃ rec ∈ (mget u.collectors (rowOf (lowestCluster x))).getD [], bitsOf 0 6 rec.w0 = 0x18 ∧ rec.w1 = word t ∧ rec.w3 = word tr)

/-- R212, R434 and R436 to R438: a gang whose lanes wait on the host leaves its slot and comes back to one; a reply is read into
w10 and w11, and the lanes of a gang retire their `svc` when all are; a page is blocked and moved; and what the two kinds of error do.
What leaves with a gang, the two events of racking, a block with no entry, and the key of bad storage are the model's (DEDUCED,
DESIGN CHOICE, logs 60, 61, 58). -/
def Obligations.OffCoreRackingAndErrorEventsComplete : Prop :=
  (∀ s cl core slot g l k t, isSC core = false → core < 20 → slot < 8 → l < 32 → clusterRuns s cl = true → mget (s.core cl core).gangs slot = some g →
    (s.cluster cl).offCore = [] → gangLanes s cl core slot = [(l, t)] → k = keyOf cl core (thrOf core slot l) →
    (t.park.map (·.why)) = some .host → laneLeaves s k t = true →
    ∃ u, exec (.gangOffCore cl core slot) s = .next u ∧ u.thread k = none ∧ mget (u.core cl core).gangs slot = none ∧ u.mem = s.mem ∧
      (∀ j, j ≠ k → u.thread j = s.thread j) ∧
      (u.cluster cl).offCore = [{ core := core, slot := slot, gang := g, lanes := [(l, t)] }]) ∧
  (∀ s k cl core slot t c i a b since lanes, cl = keyCl k → core = keyCore k → slot = slotOf core (keyThr k) → s.thread k = some t →
    t.park = some { why := .host, since := since } → t.call = some c → c.index = some i → clusterRuns s cl = true →
    gangLeaves s cl core slot = false → readReply s cl c i = .ok (a, b) → lanes = gangLanes s cl core slot →
    ((∃ l ∈ lanes, keyOf cl core (thrOf core slot l.1) ≠ k ∧ l.2.call.isSome = true) →
      exec (.hostReplyRead k) s = .next ((s.replyAsked cl c i).putThread k (repliedLane s.cyc a b t))) ∧
    (∀ l, lanes = [(l, t)] → k = keyOf cl core (thrOf core slot l) → xsSS t.xstat = false →
      exec (.hostReplyRead k) s = .next ((s.replyAsked cl c i).putThread k { retired (setW (setW t 10 a) 11 b) (t.pc + 4) with call := none }))) ∧
  (∀ s k uid c i a b, s.thread k = none → clusterRuns s (keyCl k) = true → offWaiting (s.cluster (keyCl k)) k = some (uid, c, i) →
    readReply s (keyCl k) c i = .ok (a, b) →
    exec (.hostReplyRead k) s = .next ((s.replyAsked (keyCl k) c i).modCluster (keyCl k) (modOff uid (repliedLane s.cyc a b)))) ∧
  (∀ s cl o l t slot since, clusterRuns s cl = true → (s.cluster cl).offCore = [o] → isSC o.core = false → o.core < 20 → slot < 8 → l < 32 →
    o.lanes = [(l, t)] → t.park = some { why := .replied, since := since } → xsSS t.xstat = false →
    (freeGangSlots s cl o.core).head? = some slot →
    ∃ u, exec (.gangReturn cl 0) s = .next u ∧ (u.cluster cl).offCore = [] ∧ u.mem = s.mem ∧
      u.thread (keyOf cl o.core (thrOf o.core slot l)) = some (retired t t.pc) ∧
      (∀ j, j ≠ keyOf cl o.core (thrOf o.core slot l) → u.thread j = s.thread j) ∧ (mget (u.core cl o.core).gangs slot).isSome = true) ∧
  (∀ s src dst level n, s.stage = .full → level ≤ 2 → n = 1024 ^ level → src % n = 0 → dst % n = 0 → src ≠ dst → sameOwner s src dst n = true →
    (∀ e ∈ s.racking, framesApart src n e.1 e.2.2 = true ∧ framesApart src n e.2.1 e.2.2 = true ∧ framesApart dst n e.1 e.2.2 = true ∧
      framesApart dst n e.2.1 e.2.2 = true) →
    exec (.rackPage { frame := src, level := level } dst) s = .next { s with racking := s.racking ++ [(src, dst, n)] }) ∧
  (∀ s src dst n pte e m o, memWf s.mem = true → e = tableWord s pte → s.racking = [(src, dst, n)] → leafOf s src n e = true →
    m = { src := src, dst := dst, n := n } → pte % 8 = 0 → inTarget m 65536 pte = false →
    (s.parts.find? fun x => x.2.granules.contains (src / 16384)) = some o → o.2.granules.contains (pte / 2 ^ 30) = true →
    (∀ b ∈ s.bad, inSource m 65536 b.1 = false) → framesApart src n dst n = true →
    ∃ u, exec (.rackBlockEnd pte) s = .next u ∧ u.racking = [] ∧ u.threads = (s.threads.map fun x => (x.1, movedThread m x.2)) ∧
      (∀ i, i < n * 65536 → ¬ (pte ≤ src * 65536 + i ∧ src * 65536 + i < pte + 8) →
        memRead u.mem (dst * 65536 + i) = memRead s.mem (src * 65536 + i)) ∧
      (pte < 2 ^ 45 → (dst + n) * 65536 ≤ 2 ^ 45 → ∀ i, i < 8 →
        memRead u.mem (moved m 65536 pte + i) = (leBytes 8 (e - src * 65536 + dst * 65536)).getD i 0) ∧
      ∀ a, inTarget m 65536 a = false → ¬ (pte ≤ a ∧ a < pte + 8) → memRead u.mem a = memRead s.mem a) ∧
  (∀ s pte, (s.racking.find? fun r => leafOf s r.1 r.2.2 (tableWord s pte)) = none →
    exec (.rackBlockEnd pte) s = .next { s with racking := s.racking.drop 1 }) ∧
  (∀ s storage addr k p x, storageOwner s storage addr k = some p → s.part p = some x →
    exec (.uncorrectableError storage addr k true) s = .next ((s.markBad storage addr k).sendRecord
      (bitsOf 12 9 (errorRecord s p x (storage % 8) addr k).w0) (errorRecord s p x (storage % 8) addr k)) ∧
    (x.run = .running → ∃ u y, exec (.uncorrectableError storage addr k false) s = .next u ∧ u.threads = (s.markBad storage addr k).threads ∧ u.part p = some y ∧
      u.mem = s.mem ∧ y.run = .stopping false (errorRecord s p x (storage % 8) addr k))) ∧
  (∀ s, exec .correctableError s = .next { s with corrected := s.corrected + 1 })

/-! ### The SMC, bring-up, power and the links (R374 to R376, R392 to R403, R425, R426, R431, R432, R440 to R442, R448 to R463) -/

/-- R374, R376, R395, R400, R450, R455, R458 and R462: what each SMC command, with none before it, leaves, and its status word.
Which status answers which refusal, the bytes of the answers and the image's address are the model's (logs 41, 42, 62);
so are SVCBASE 0 of a new partition and a loader's refused stores (DESIGN CHOICE, logs 70, 66), a withdrawal of a PFX grant at once and
what a loader does at bad data (DEDUCED, logs 65, 58). -/
def Obligations.SmcPartitionAndImageCommandsComplete : Prop :=
  ∀ s, smcRuns s = true → s.smcWaiting = [] →
    (∀ (m : BitVec 8) gs ks p, createStatus s m gs ks true = 0 → p = (halfDiesOf m).headD 0 →
      ∃ u x, exec (.smcCreatePartition m gs ks true) s = .next u ∧ answered u 0 [] ∧ u.part p = some x ∧ x.halfDies = m ∧ x.granules = gs ∧
        x.run = .running ∧ x.svcbase = 0 ∧ x.astb = 0 ∧ (∀ q, q ≠ p → u.part q = s.part q) ∧
        (∀ k, u.thread k = if m.getLsbD (halfDieOf (keyCl k)) then none else s.thread k) ∧
        ∀ a, memRead u.mem a = if ownsKey s x a then 0 else memRead s.mem a) ∧
    (∀ p x, s.part p = some x → ∃ u, exec (.smcDestroyPartition p true) s = .next u ∧ answered u 0 [] ∧ u.part p = none ∧
      (∀ q, q ≠ p → u.part q = s.part q) ∧ (∀ k, u.thread k = if ownsCluster x (keyCl k) then none else s.thread k) ∧
      ∀ a, memRead u.mem a = if ownsKey s x a then 0 else memRead s.mem a) ∧
    (∀ p, s.part p = none → exec (.smcDestroyPartition p true) s = .next { s with smcStatus := 2, smcAnswer := [] }) ∧
    (∀ req x, s.part req.part = some x → req.codeBase.toNat % 65536 = 0 → req.dataBase.toNat % 65536 = 0 →
      imageStop s req.part req.image = none →
      (imageFile (imageBytes s req.image) = none → exec (.smcLoadImage req) s = .next { s with smcStatus := 2, smcAnswer := [] }) ∧
      (∀ m, imageFile (imageBytes s req.image) = some m →
        (imageRefused s x m = true → exec (.smcLoadImage req) s = .next { s with smcStatus := 2, smcAnswer := [] }) ∧
        (∀ body frames, imageRefused s x m = false → body = m.bodies.getD (chosenBody m) (bodyAt [] 0) →
          ((List.range (textPages (textOf m body))).mapM fun i => codeFrame s x req.asid (req.codeBase + word (i * 65536))) = some frames →
          (∀ h im, (x.images.find? fun e => e.2.digest == leNat (imageDigest m) && e.2.asid == req.asid && !e.2.revoked) = some (h, im) →
            ∃ u, exec (.smcLoadImage req) s = .next u ∧ answered u 0 (leBytes 4 h) ∧ u.mem = s.mem ∧ u.threads = s.threads) ∧
          (∀ data, (x.images.find? fun e => e.2.digest == leNat (imageDigest m) && e.2.asid == req.asid && !e.2.revoked) = none →
            (frames.any (racked s)) = false → dataKeys s req.part x req (dataOf m body).length = some (some data) →
            loadHeld s frames (4 * (textOf m body).length) data = none →
            ∃ u y im, exec (.smcLoadImage req) s = .next u ∧ answered u 0 (leBytes 4 (x.images.length + 1)) ∧ u.part req.part = some y ∧
              mget y.images (x.images.length + 1) = some im ∧ im.kernels = kernelsOf req m (chosenBody m) ∧ im.frames = frames ∧
              im.asid = req.asid ∧ im.digest = leNat (imageDigest m) ∧ im.secv = m.secv ∧ im.codeBase = req.codeBase ∧
              im.revoked = false ∧ u.threads = s.threads ∧
              (∀ a, (∀ f ∈ frames, ∀ i, i < 65536 → homeKey s (f * 65536 + i) ≠ a) → a ∉ data → memRead u.mem a = memRead s.mem a) ∧
              (data = [] → frames.Nodup → ∀ i f, frames[i]? = some f → mget u.frames f = some
                { revoked := false, loops := (if chosenBody m = 0 then loopsIn (textOf m body) i else []) ++ loopsLeft s f (4 * im.words - 65536 * i) }))))) ∧
    (∀ v, s.secver.toNat ≤ v → v ≤ 255 → ∃ u, exec (.smcRaiseSecver v true) s = .next u ∧ answered u 0 [] ∧ u.secver.toNat = v ∧
      ((∀ e ∈ s.parts, e.2.launches = []) → u.mem = s.mem ∧ u.threads = s.threads ∧ ∀ e ∈ s.parts, ∀ i ∈ e.2.images, i.2.secv < v →
        ∀ f ∈ i.2.frames, ∃ fr, mget u.frames f = some fr ∧ fr.revoked = true) ∧
      ∀ p x h im, u.part p = some x → mget x.images h = some im → im.secv < v → im.revoked = true) ∧
    (∀ v, v < s.secver.toNat → ∃ u, exec (.smcRaiseSecver v true) s = .next u ∧ u.smcStatus = 2 ∧ u.secver = s.secver) ∧
    (∀ cl ref cap, cl < Config.clusters → ref ≤ 255 → 4608 ≤ cap → cap < 2 ^ 31 → s.railScale = 256 → ∃ u, exec (.smcSetBudget cl ref cap true) s = .next u ∧ answered u 0 [] ∧
      bitsOf 40 8 (u.cluster cl).budcfg = ref ∧ bitsOf 0 32 (u.cluster cl).budcfg = cap ∧ u.threads = s.threads ∧ u.mem = s.mem) ∧
    (∀ cl ref cap, (Config.clusters ≤ cl ∨ 255 < ref ∨ 2 ^ 31 ≤ cap → exec (.smcSetBudget cl ref cap true) s = .next { s with smcStatus := 1, smcAnswer := [] }) ∧
      (cl < Config.clusters → ref ≤ 255 → cap < 4608 → exec (.smcSetBudget cl ref cap true) s = .next { s with smcStatus := 2, smcAnswer := [] })) ∧
    (∀ g d p w, g < 32768 → d < 2048 → p < 8 →
      (((otherGrants s g d p).filter fun e => e.1 == g).length < 8 → ∃ u, exec (.smcGrantPfx g d p w true) s = .next u ∧ answered u 0 [] ∧
        (g, d, p, w) ∈ u.pfxGrants ∧ u.mem = s.mem ∧ u.threads = s.threads) ∧
      ∃ u, exec (.smcWithdrawPfx g d p true) s = .next u ∧ answered u 0 [] ∧ (∀ w, (g, d, p, w) ∉ u.pfxGrants) ∧ u.mem = s.mem ∧
        u.threads = s.threads) ∧
    (∀ g base, 16384 ≤ g → g < 32768 → base < 2 ^ 56 → base % 65536 = 0 → (s.parts.any fun e => e.2.granules.contains g) = true →
      exec (.smcHostWindowBase g base true) s = .next { s with hostBase := mset s.hostBase g base, smcStatus := 0, smcAnswer := [] }) ∧
    (∀ code, code = 0 ∨ 12 ≤ code → exec (.smcInvalidCommand code) s = .next { s with smcStatus := 1, smcAnswer := [] }) ∧
    (∀ nonce : List Byte, nonce.length = 32 → ∃ u, exec (.smcQuote nonce) s = .next u ∧ u.smcStatus = 0 ∧ u.smcAnswer.take 32 = nonce ∧ u.mem = s.mem ∧
      u.threads = s.threads) ∧
    exec .smcReadLog s = .next { s with smcStatus := 0, smcAnswer := s.log.flatMap fun e => Config.eventBytes e.kind e.args }

/-- R425, R426, R431, R432 and R442: the SMC's commands to a partition by the state it is in, with none before them and no save being
written, and the two of a checkpoint, of which a restore leaves each BUDCFG as it was (R462). A switch-out is in progress until the image
is whole, and then done.
The model's are the status codes (log 41), the commands' turns (log 88), the checkpoint's two events (log 63) and its bytes
(log 42). -/
def Obligations.SmcRunCommandsComplete : Prop :=
  ∀ s, smcRuns s = true → s.smcWaiting = [] → saving s = false → ∀ p x, s.part p = some x →
    (x.run = .running →
      (∃ u y rep, exec (.smcStop p) s = .next u ∧ answered u 0 [] ∧ u.part p = some y ∧ y.run = .stopping true rep ∧
        u.threads = s.threads ∧ u.mem = s.mem) ∧
      (∀ prio t, prio ≤ 3 → leavingOut s = false → s.gtime + 8192 ≤ t → ∃ u y, exec (.smcSwitchOut p prio t) s = .next u ∧ u.part p = some y ∧ y.run = .leaving t ∧
        u.smcWaiting = [{ begun := true, prio := prio, code := 6, args := [0, p] }] ∧ u.smcStatus = s.smcStatus ∧ u.threads = s.threads ∧
        u.mem = s.mem)) ∧
    (∀ prio t, 3 < prio → exec (.smcSwitchOut p prio t) s = .next { s with smcStatus := 1, smcAnswer := [] }) ∧
    (∀ t held, x.run = .saved t true held → (∃ u y, exec (.smcStop p) s = .next u ∧ answered u 0 [] ∧ u.part p = some y ∧
      y.run = .saved t true true ∧ u.threads = s.threads ∧ u.mem = s.mem) ∧ ∀ prio tr, prio ≤ 3 →
      exec (.smcSwitchOut p prio tr) s = .next { s with smcStatus := 0, smcAnswer := [] } ∧
      (unsound x = true ∨ held = true → s.gtime ≤ tr → exec (.smcSwitchIn p tr) s = .next { s with smcStatus := 2, smcAnswer := [] })) ∧
    (x.run = .stopped true → ∀ tr, s.gtime ≤ tr → ∃ u y, exec (.smcResume p tr) s = .next u ∧ answered u 0 [] ∧ u.part p = some y ∧
      y.run = .resuming tr ∧ u.threads = s.threads ∧ u.mem = s.mem) ∧
    (∀ r, x.run = .stopped r → x.launches = [] → ∃ u y, exec (.smcRelease p) s = .next u ∧ answered u 0 [] ∧ u.part p = some y ∧
      y.run = .stopped false ∧ u.mem = s.mem ∧ ∀ k, u.thread k = if ownsCluster x (keyCl k) then none else s.thread k) ∧
    (∀ t, x.run = .saved t true false → unsound x = false → ∀ tr, s.gtime ≤ tr → ∃ u y, exec (.smcSwitchIn p tr) s = .next u ∧
      answered u 0 [] ∧ u.part p = some y ∧ y.run = .entering t tr ∧ u.threads = s.threads ∧ u.mem = s.mem) ∧
    (s.stage = .full → (∀ e ∈ s.parts, e.2.run ≠ .running ∧ still e.2 = true) → ∃ u c, exec (.smcCheckpoint true) s = .next u ∧
      answered u 0 c.signature ∧ u.checkpoints = s.checkpoints ++ [c] ∧ c.threads = s.threads ∧ c.parts = s.parts ∧
      c.signer = Config.identityDigest ∧ u.threads = s.threads ∧ u.mem = s.mem ∧
      ∀ a, hostKey a = false → memRead c.mem a = memRead s.mem a) ∧
    (∀ i c, checkpointAt s i = some c → (∀ e ∈ s.parts, still e.2 = true) →
      (checkpointOk c = false →
        exec (.smcRestore i true) s = .next { s with smcStatus := 2, smcAnswer := [] }) ∧
      (checkpointOk c = true → memWf s.mem = true → memWf c.mem = true →
        (∀ e ∈ c.parts, e.2.launches = []) → ∃ u, exec (.smcRestore i true) s = .next u ∧ answered u 0 [] ∧ u.threads = c.threads ∧
          u.secver = s.secver ∧ (∀ cl, (u.cluster cl).budcfg = (s.cluster cl).budcfg) ∧
          ∀ a, memRead u.mem a = if hostKey a then memRead s.mem a else memRead c.mem a))

/-- R401, R459, R460 and R463: power-on, a replacement image, the dies in order, the step to full service, and the core rail.
The exact product of REF and the form of a firmware image are the model's (DEDUCED, log 64). -/
def Obligations.PowerEventsComplete : Prop :=
  (∀ s, ∃ u, exec .powerOn s = .next u ∧ u.threads = [] ∧ u.parts = [] ∧ u.dieAt = [] ∧ u.devno = s.devno ∧ u.secver = s.secver ∧
    u.checkpoints = s.checkpoints ∧ u.gtime = 0 ∧ u.mem = s.mem.filter (fun c => hostKey c.1) ∧ (u.stage = .firmware ∨ u.stage = .recovery)) ∧
  (∀ s image, s.stage = .recovery → (firmwareOk s image = false → exec (.firmwareImageReceived image) s = .next s) ∧
    (firmwareOk s image = true → ∃ u, exec (.firmwareImageReceived image) s = .next u ∧ u.stage = .firmware ∧ u.log.length = s.log.length + 2 ∧
    u.threads = s.threads ∧ u.mem = s.mem)) ∧
  (∀ s die, (s.stage = .firmware ∨ s.stage = .early) → s.dieAt.length = die →
    exec (.dieRelease die) s = .next { s with stage := .early, dieAt := mset s.dieAt die s.cyc }) ∧
  (∀ s g, s.stage = .early → s.dieAt.length = 4 → s.parts = [] →
    exec (.fullServiceStep g) s = .next { s with stage := .full, ddrGib := g, stepping := [] }) ∧
  (∀ s ref cl, cl < Config.clusters → ref ≤ 256 → (s.cluster cl).refSet ≤ 255 → ∃ u, exec (.coreRailOvercurrent ref) s = .next u ∧
    u.railScale = ref ∧ u.threads = s.threads ∧ u.mem = s.mem ∧ bitsOf 40 8 (u.cluster cl).budcfg = (s.cluster cl).refSet * ref / 256 ∧
    bitsOf 0 32 (u.cluster cl).budcfg = bitsOf 0 32 (s.cluster cl).budcfg)

/-- R440, R441, R449 to R451, R453, R455 and R457: flits by their sequence numbers, one accepted in order delivering its payload once;
replays, a link that goes down, and accesses from the host and other devices, which reach only memory that a partition
owns, and the mailboxes.
The model's are the links at power-on and the accesses as events (DESIGN CHOICE, logs 44, 47), the window of 512 numbers for
a duplicate (DEDUCED, log 45), and the mailboxes over GLK (DESIGN CHOICE, log 88). -/
def Obligations.LinkEventsComplete : Prop :=
  (∀ s port l f, l = s.link port → l.up = true → badFlit port l f = false →
    (f.seq.toNat = l.rx → ∃ u m, exec (.linkFlitReceive port f) s = .next u ∧ m = u.link port ∧ m.rx = (l.rx + 1) % 4096 ∧
      m.acked = f.seq.toNat ∧ m.asked = false ∧ m.delivered = l.delivered ++ [(f.vc.toNat, f.msgs, f.payload)] ∧ u.mem = s.mem ∧
      u.threads = s.threads) ∧
    (f.seq.toNat ≠ l.rx → ∃ u m, exec (.linkFlitReceive port f) s = .next u ∧ m = u.link port ∧ m.rx = l.rx ∧ m.delivered = l.delivered ∧
      (512 < (l.rx + 4096 - f.seq.toNat) % 4096 → m.asked = true) ∧ u.mem = s.mem ∧ u.threads = s.threads)) ∧
  (∀ s port l f, l = s.link port → l.up = true → badFlit port l f = true →
    exec (.linkFlitReceive port f) s = .next (s.putLink port { l with asked := true })) ∧
  (∀ s port l seq i, l = s.link port → l.up = true → (l.replay.findIdx? fun f => f.seq.toNat == seq) = some i →
    ∃ u m, exec (.linkReplayRequest port seq) s = .next u ∧ m = u.link port ∧ m.resent = l.resent ++ l.replay.drop i ∧
      m.replay = l.replay ∧ u.mem = s.mem ∧ u.threads = s.threads) ∧
  (∀ s port u, u = s.putLink port { s.link port with up := false } → (∀ e ∈ s.parts, waitsOnPort u e.2 port = none) →
    exec (.linkDown port) s = .next u ∧ (port = 0 → exec .hostSnoopTimeout s = .next u)) ∧
  (∀ s acc keys, keys = (outerKeys acc).map (hostSpace + ·) → acc.home = true → acc.atomic = none → acc.addr + (outerKeys acc).length ≤ 2 ^ 56 →
    (acc.write = true → tableHeld s keys = false → exec (.hostAccess acc) s = .next (s.writeCells (keys.zip acc.bytes))) ∧
    (acc.write = false → exec (.hostAccess acc) s = .next s)) ∧
  (∀ s acc p keys, keys = (outerKeys acc).map (homeKey s) → OuterReady s acc p → ∀ i, (i = .hostAccess acc ∧ acc.home = false ∧ (s.link 0).up = true ∧
      inWindows s (outerKeys acc) = true ∧ (∀ a ∈ outerKeys acc, a < hostBase0)) ∨
      (∃ dev part, i = .pfxRemoteAccess dev part acc ∧ (s.link (routePort dev)).up = true ∧ pfxGranted s dev part acc = true) →
    (acc.atomic = none → acc.write = true → exec i s = .next ((s.writeCells (keys.zip acc.bytes)).farRequest p 1 keys acc.bytes)) ∧
    (acc.atomic = none → acc.write = false → badAmong s keys = none → ∃ u, exec i s = .next u ∧ u.answered = keys.map s.byteAt ∧ u.mem = s.mem ∧
      u.threads = s.threads) ∧
    (∀ op w e, acc.atomic = some (op, w, e) → acc.write = false → badAmong s keys = none → outerAtomicOk acc = true → (i = .hostAccess acc →
      farNoAtomic s hostSpace op = false) → ∃ u, exec i s = .next u ∧ u.answered = leBytes keys.length (s.numAt keys) ∧
      u.mem = (s.writeNum keys (atomicNew op keys.length (word (s.numAt keys)) w e)).mem ∧ u.threads = s.threads)) ∧
  (∀ s acc, acc.home = false → (outerOwned s (outerKeys acc) = false ∨ inWindows s (outerKeys acc) = false) →
    ∃ u, exec (.hostAccess acc) s = .next u ∧ u.mem = s.mem ∧ u.threads = s.threads ∧ u.parts = s.parts ∧ u.clusters = s.clusters) ∧
  (∀ s acc, acc.home = false → acc.write = false → acc.atomic = none → (s.link 0).up = true → inWindows s (outerKeys acc) = false →
    Config.mailboxAddr ≤ acc.addr → acc.addr + acc.len ≤ Config.mailboxAddr + 8192 → ∃ u, exec (.hostAccess acc) s = .next u ∧
      u.answered = ((commandMailbox s ++ responseMailbox s).drop (acc.addr - Config.mailboxAddr)).take acc.len ∧ u.mem = s.mem ∧
      u.threads = s.threads) ∧
  (∀ s dev part acc, pfxGranted s dev part acc = false → ∃ u, exec (.pfxRemoteAccess dev part acc) s = .next u ∧ u.mem = s.mem ∧
    u.threads = s.threads ∧ u.parts = s.parts ∧ u.clusters = s.clusters)

/-! ### The whole machine -/

/-- R4, R66, R115, R159, R205, R284, R459, R462 and Tables 6.2 to 6.5, 11.1, 11.11: the values reset gives a thread, a cluster
and its engines; at power-on no thread, no partition and no released die exists and GTIME is 0; memory is in canonical form.
That a byte nothing has written reads zero is the model's choice outside R376's memory (DESIGN CHOICE, log 3), and so are the
zeros of the registers for which the spec gives no reset value (DESIGN CHOICE, log 4). -/
def Obligations.ResetLeavesTheSpecifiedValues : Prop :=
  State.reset.threads = [] ∧ State.reset.parts = [] ∧ State.reset.dieAt = [] ∧ State.reset.gtime = 0 ∧ State.reset.stage = .rom ∧
  (∀ a, memRead State.reset.mem a = 0) ∧ MemOk State.reset ∧
  (∀ r : Reg, readW Thread.zero r = 0 ∧ readF Thread.zero r = 0) ∧ Thread.zero.fflags = 0 ∧ Thread.zero.rndseed = 1 ∧
  (∀ n, (streamOf Thread.zero n).state = .unbound) ∧ Cluster.reset.csmctl = 0 ∧ Cluster.reset.tqwgt = 0x1111111111111111#64 ∧
  MxCtx.reset.cfg = 0x433#64 ∧ EnbCtx.reset.ctl = 0x10#64 ∧ EnbCtx.reset.lev = 0x10000#64 ∧ SteCtx.reset.expl = 0x3F800000#64 ∧
  SteCtx.reset.loss = 0x40000000#64 ∧ SteCtx.reset.opts = 0x4000#64 ∧ Cluster.reset.budcfg = 0x480000004000#64

/-- R79, R136, R287 and R288: while no budgeted park has lasted its limit (R310) and no source holds bad data (R438), a slot that its core selects, whose set's lanes read the same word at their PC, runs the instruction that
word decodes to in that set, and nothing else: `step` is `exec` of it in the state in which time has passed, the set stands and the core
has noted the issue.
What bad data in a register does is the model's choice (DESIGN CHOICE, log 110). -/
def Obligations.StepRunsTheDecodedInstruction : Prop :=
  ∀ s cl core slot rest r set w e i, stallDue (advance s) = none → s.agenda = .issue cl core slot :: rest → r = { advance s with agenda := rest } →
    clusterRuns r cl = true → timerExpired r cl core = false → pickSlot r cl core = some slot →
    (∀ t, r.thread (keyOf cl core slot) = some t →
      timerTrapDue r (keyOf cl core slot) t = false ∧ messageTrapDue r (keyOf cl core slot) t = false) →
    issuingSet r cl core slot = set → set ≠ [] →
    ∀ u, u = { r with cur := { cl := cl, core := core, slot := slot, lanes := set.map (·.1), pfx := none } } →
    (∀ x ∈ set, fetch u cl x.2 x.2.pc = .word w e) → decode w = .ok i → WellFormed i = true → (e = true ∨ elpolOnly i = false) →
    setBusy u i = false → badSource u i = none →
    ((∀ fa fb sel, i ≠ .pfx fa fb sel) → step s = exec i (u.noteIssue cl core slot none i)) ∧
    (∀ fa fb sel w2 e2 j, i = .pfx fa fb sel → (∀ x ∈ set, fetch u cl x.2 (x.2.pc + 4) = .word w2 e2) → decode w2 = .ok j →
      WellFormed j = true → elpolOnly j = false → acceptsPrefix j = true → setBusy { u with cur := { u.cur with pfx := some (fa, fb, sel) } } j = false →
      badSource { u with cur := { u.cur with pfx := some (fa, fb, sel) } } j = none → fa.toNat ≤ 11 → fb.toNat ≤ 11 →
      step s = exec j { u.noteIssue cl core slot (some (fa, fb, sel)) j with cur := { u.cur with pfx := some (fa, fb, sel) } })

/-- R136, R287 and R289: whatever issues, its lanes are distinct, at one PC, ready, and with no prefix in force. -/
def Obligations.AnIssuingSetIsReadyLanesAtOnePc : Prop :=
  ∀ s cl core slot i t, core < 20 → slot < (if isSC core then 16 else 8) →
    (planWords s cl core slot = some (.run i t) ∨ ∃ p, planWords s cl core slot = some (.pair p i t)) →
    t.curKeys.Nodup ∧ DistinctLanes t ∧ Filled t ∧ t.cur.pfx = none ∧ t.threads = s.threads ∧ t.mem = s.mem ∧
      ∃ pc, ∀ k ∈ t.curKeys, ∀ x, t.thread k = some x → x.pc = pc ∧ isReady s k x = true

/-- Words of the spec's encodings, each of a family of its own, and the instructions they are. -/
def Obligations.WordsOfTheSpecDecode : Prop :=
  decode 0x02531C00#32 = .ok (.add 5 6 7) ∧ decode 0x1052468A#32 = .ok (.lui 5 0x2468A) ∧ decode 0x0852E789#32 = .ok (.ori 5 5 0x6789) ∧
  decode 0x3042980B#32 = .ok (.fmadd 4 5 6 1) ∧ decode 0x3282004C#32 = .ok (.cvt 8 4 0 1 3 0) ∧
  decode 0x36110D44#32 = .ok (.nmul 1 2 3 5 0) ∧ decode 0x38260000#32 = .ok (.pfx 1 3 0)

/-- R29 to R37: every well-formed instruction of the table, the events apart, has a word, and decoding that word gives the
instruction back with every operand as it was. -/
def Obligations.DecodingAnEncodedInstructionGivesItBack : Prop :=
  ∀ i, WellFormed i = true → isEvent i = false → i ≠ .illegalInstruction → ∃ w, encode i = some w ∧ decode w = .ok i

/-- The invariant of memory: every step keeps device memory, accumulator memory and every checkpoint in canonical form (R7, R201:
a location holds one value, and only a write to it changes it). -/
def Obligations.EveryStepKeepsMemoryCanonical : Prop :=
  ∀ s u, MemOk s → step s = .next u → MemOk u
end

