-- ==== Sys2Proof/Laws/State.lean ====
section
/-! SUPPORT. The state's accessors after each plain update: tables first, then one lemma for each field and update, each
true by rfl. -/

namespace Sys2Proof.Machine

/-! ### Tables -/

@[simp] theorem mget_nil {α : Type} (k : Nat) : mget ([] : Map α) k = none := rfl

theorem mget_cons {α : Type} (j : Nat) (x : α) (m : Map α) (k : Nat) :
    mget ((j, x) :: m) k = if j = k then some x else mget m k := rfl

/-- A table read after a write of one entry. -/
@[simp] theorem mget_mset {α : Type} (m : Map α) (k : Nat) (v : α) (j : Nat) :
    mget (mset m k v) j = if j = k then some v else mget m j := by
  induction m with
  | nil => simp [mset, mget_cons, eq_comm]
  | cons e m ih =>
    obtain ⟨i, x⟩ := e
    simp only [mset]
    split
    · subst_vars; simp only [mget_cons]; split <;> simp_all [eq_comm]
    · split
      · simp only [mget_cons]; split <;> simp_all [eq_comm]
      · simp only [mget_cons, ih]; split <;> simp_all [eq_comm]

/-- A table read after the removal of one entry. -/
@[simp] theorem mget_mdel {α : Type} (m : Map α) (k j : Nat) :
    mget (mdel m k) j = if j = k then none else mget m j := by
  induction m with
  | nil => simp [mdel]
  | cons e m ih =>
    obtain ⟨i, x⟩ := e
    simp only [mdel, List.filter_cons] at ih ⊢
    by_cases h : i = k
    · subst h; simp only [bne_self_eq_false, Bool.false_eq_true, if_false, ih, mget_cons]
      split <;> simp_all [eq_comm]
    · simp only [bne_iff_ne, ne_eq, h, not_false_eq_true, if_true, mget_cons, ih]
      split <;> simp_all

/-- Writing the entry that is there changes nothing in any read. -/
theorem mget_mset_self {α : Type} (m : Map α) (k : Nat) (v : α) (h : mget m k = some v) (j : Nat) :
    mget (mset m k v) j = mget m j := by
  rw [mget_mset]; split
  · subst_vars; exact h.symm
  · rfl

/-! ### Threads -/

@[simp] theorem thread_putThread (s : State) (k : Nat) (t : Thread) (j : Nat) :
    (s.putThread k t).thread j = if j = k then some t else s.thread j := mget_mset ..

@[simp] theorem thread_dropThread (s : State) (k j : Nat) :
    (s.dropThread k).thread j = if j = k then none else s.thread j := mget_mdel ..

@[simp] theorem thread_putCluster (s : State) (cl : Nat) (c : Cluster) (j : Nat) :
    (s.putCluster cl c).thread j = s.thread j := rfl

@[simp] theorem thread_modCluster (s : State) (cl : Nat) (f : Cluster → Cluster) (j : Nat) :
    (s.modCluster cl f).thread j = s.thread j := rfl

@[simp] theorem thread_modCore (s : State) (cl i : Nat) (f : Core → Core) (j : Nat) :
    (s.modCore cl i f).thread j = s.thread j := rfl

@[simp] theorem thread_sendRecord (s : State) (cl : Nat) (r : Record) (j : Nat) :
    (s.sendRecord cl r).thread j = s.thread j := rfl

/-! ### Clusters and cores -/

@[simp] theorem cluster_putCluster (s : State) (cl : Nat) (c : Cluster) (j : Nat) :
    (s.putCluster cl c).cluster j = if j = cl then c else s.cluster j := by
  simp only [State.cluster, State.putCluster, mget_mset]; split <;> rfl

@[simp] theorem cluster_modCluster (s : State) (cl : Nat) (f : Cluster → Cluster) (j : Nat) :
    (s.modCluster cl f).cluster j = if j = cl then f (s.cluster cl) else s.cluster j := cluster_putCluster ..

@[simp] theorem core_modCore (s : State) (cl i : Nat) (f : Core → Core) (c j : Nat) :
    (s.modCore cl i f).core c j = if c = cl ∧ j = i then f (s.core cl i) else s.core c j := by
  simp only [State.core, State.modCore, cluster_modCluster]
  by_cases h : c = cl
  · subst h; simp only [if_true, true_and, coreIn, mget_mset]; split <;> simp_all
  · simp [h]

@[simp] theorem cluster_putThread (s : State) (k : Nat) (t : Thread) (j : Nat) :
    (s.putThread k t).cluster j = s.cluster j := rfl

@[simp] theorem cluster_dropThread (s : State) (k j : Nat) : (s.dropThread k).cluster j = s.cluster j := rfl

@[simp] theorem cluster_sendRecord (s : State) (cl : Nat) (r : Record) (j : Nat) :
    (s.sendRecord cl r).cluster j = s.cluster j := rfl

@[simp] theorem core_putThread (s : State) (k : Nat) (t : Thread) (cl i : Nat) : (s.putThread k t).core cl i = s.core cl i := rfl

@[simp] theorem partOf_putThread (s : State) (k : Nat) (t : Thread) (cl : Nat) : (s.putThread k t).partOf cl = s.partOf cl := rfl

@[simp] theorem partOf_modCluster (s : State) (cl : Nat) (f : Cluster → Cluster) (j : Nat) :
    (s.modCluster cl f).partOf j = s.partOf j := rfl

@[simp] theorem partOf_modCore (s : State) (cl i : Nat) (f : Core → Core) (j : Nat) :
    (s.modCore cl i f).partOf j = s.partOf j := rfl

@[simp] theorem partOf_sendRecord (s : State) (cl : Nat) (r : Record) (j : Nat) :
    (s.sendRecord cl r).partOf j = s.partOf j := rfl

@[simp] theorem curKeys_putThread (s : State) (k : Nat) (t : Thread) : (s.putThread k t).curKeys = s.curKeys := rfl

@[simp] theorem width_putThread (s : State) (k : Nat) (t : Thread) : (s.putThread k t).width = s.width := rfl

@[simp] theorem width_modCore (s : State) (cl i : Nat) (f : Core → Core) : (s.modCore cl i f).width = s.width := rfl

/-! ### Registers (R39, R42) -/

@[simp] theorem readW_zero (t : Thread) : readW t 0 = 0 := rfl

@[simp] theorem setW_zero (t : Thread) (v : Word) : setW t 0 v = t := rfl

@[simp] theorem readP_zero (t : Thread) : readP t 0 = true := rfl

@[simp] theorem setP_zero (t : Thread) (v : Bool) : setP t 0 v = t := rfl

@[simp] theorem readW_setW (t : Thread) (d a : Reg) (v : Word) :
    readW (setW t d v) a = if a = 0 then 0 else if a = d then v else readW t a := by
  by_cases ha : a = 0
  · simp [readW, ha]
  · by_cases hd : d = 0
    · have : ¬ a = d := fun e => ha (e.trans hd)
      simp only [setW, if_pos hd, if_neg ha, if_neg this]
    · simp only [readW, setW, if_neg ha, if_neg hd, Vector.getElem_set]
      by_cases h : a = d
      · simp [h]
      · have : ¬ d.toNat = a.toNat := fun e => h (BitVec.eq_of_toNat_eq e.symm)
        simp [h, this]

@[simp] theorem readF_setF (t : Thread) (d a : Reg) (v : Word) : readF (setF t d v) a = if a = d then v else readF t a := by
  unfold readF setF
  simp only [Vector.getElem_set]
  by_cases h : a = d
  · simp [h]
  · have : ¬ d.toNat = a.toNat := fun e => h (BitVec.eq_of_toNat_eq e.symm)
    simp [h, this]

@[simp] theorem readP_setP (t : Thread) (d a : PReg) (v : Bool) :
    readP (setP t d v) a = if a = 0 then true else if a = d then v else readP t a := by
  by_cases ha : a = 0
  · simp [readP, ha]
  · by_cases hd : d = 0
    · have : ¬ a = d := fun e => ha (e.trans hd)
      simp only [setP, if_pos hd, if_neg ha, if_neg this]
    · simp only [readP, setP, if_neg ha, if_neg hd, Vector.getElem_set]
      by_cases h : a = d
      · simp [h]
      · have : ¬ d.toNat = a.toNat := fun e => h (BitVec.eq_of_toNat_eq e.symm)
        simp [h, this]

@[simp] theorem readF_setW (t : Thread) (d a : Reg) (v : Word) : readF (setW t d v) a = readF t a := by
  unfold readF setW; split <;> rfl

@[simp] theorem readW_setF (t : Thread) (d a : Reg) (v : Word) : readW (setF t d v) a = readW t a := rfl

@[simp] theorem readW_setP (t : Thread) (d : PReg) (a : Reg) (v : Bool) : readW (setP t d v) a = readW t a := by
  unfold setP; split <;> rfl

@[simp] theorem readP_setW (t : Thread) (d : Reg) (a : PReg) (v : Word) : readP (setW t d v) a = readP t a := by
  unfold setW; split <;> rfl

/-! ### Thread fields after a register write, a raised flag, and retirement -/

@[simp] theorem setW_uid (t : Thread) (d : Reg) (v : Word) : (setW t d v).uid = t.uid := by unfold setW; split <;> rfl
@[simp] theorem setW_pc (t : Thread) (d : Reg) (v : Word) : (setW t d v).pc = t.pc := by unfold setW; split <;> rfl
@[simp] theorem setW_f (t : Thread) (d : Reg) (v : Word) : (setW t d v).f = t.f := by unfold setW; split <;> rfl
@[simp] theorem setW_p (t : Thread) (d : Reg) (v : Word) : (setW t d v).p = t.p := by unfold setW; split <;> rfl
@[simp] theorem setW_xstat (t : Thread) (d : Reg) (v : Word) : (setW t d v).xstat = t.xstat := by unfold setW; split <;> rfl
@[simp] theorem setW_fflags (t : Thread) (d : Reg) (v : Word) : (setW t d v).fflags = t.fflags := by unfold setW; split <;> rfl
@[simp] theorem setW_rndseed (t : Thread) (d : Reg) (v : Word) : (setW t d v).rndseed = t.rndseed := by unfold setW; split <;> rfl
@[simp] theorem setW_grantlim (t : Thread) (d : Reg) (v : Word) : (setW t d v).grantlim = t.grantlim := by unfold setW; split <;> rfl
@[simp] theorem setW_asid (t : Thread) (d : Reg) (v : Word) : (setW t d v).asid = t.asid := by unfold setW; split <;> rfl
@[simp] theorem setW_streams (t : Thread) (d : Reg) (v : Word) : (setW t d v).streams = t.streams := by unfold setW; split <;> rfl
@[simp] theorem setW_ld (t : Thread) (d : Reg) (v : Word) : (setW t d v).ld = t.ld := by unfold setW; split <;> rfl
@[simp] theorem setW_st (t : Thread) (d : Reg) (v : Word) : (setW t d v).st = t.st := by unfold setW; split <;> rfl
@[simp] theorem setW_cp (t : Thread) (d : Reg) (v : Word) : (setW t d v).cp = t.cp := by unfold setW; split <;> rfl
@[simp] theorem setW_tl (t : Thread) (d : Reg) (v : Word) : (setW t d v).tl = t.tl := by unfold setW; split <;> rfl
@[simp] theorem setW_tpc (t : Thread) (d : Reg) (v : Word) : (setW t d v).tpc = t.tpc := by unfold setW; split <;> rfl
@[simp] theorem setW_tstat (t : Thread) (d : Reg) (v : Word) : (setW t d v).tstat = t.tstat := by unfold setW; split <;> rfl
@[simp] theorem setW_tcause (t : Thread) (d : Reg) (v : Word) : (setW t d v).tcause = t.tcause := by unfold setW; split <;> rfl
@[simp] theorem setW_tval (t : Thread) (d : Reg) (v : Word) : (setW t d v).tval = t.tval := by unfold setW; split <;> rfl
@[simp] theorem setW_tscr (t : Thread) (d : Reg) (v : Word) : (setW t d v).tscr = t.tscr := by unfold setW; split <;> rfl
@[simp] theorem setW_tepc (t : Thread) (d : Reg) (v : Word) : (setW t d v).tepc = t.tepc := by unfold setW; split <;> rfl
@[simp] theorem setW_park (t : Thread) (d : Reg) (v : Word) : (setW t d v).park = t.park := by unfold setW; split <;> rfl
@[simp] theorem setW_call (t : Thread) (d : Reg) (v : Word) : (setW t d v).call = t.call := by unfold setW; split <;> rfl
@[simp] theorem setW_out (t : Thread) (d : Reg) (v : Word) : (setW t d v).out = t.out := by unfold setW; split <;> rfl
@[simp] theorem setW_busy (t : Thread) (d : Reg) (v : Word) : (setW t d v).busy = t.busy := by unfold setW; split <;> rfl
@[simp] theorem setW_deferred (t : Thread) (d : Reg) (v : Word) : (setW t d v).deferred = t.deferred := by unfold setW; split <;> rfl
@[simp] theorem setW_child (t : Thread) (d : Reg) (v : Word) : (setW t d v).child = t.child := by unfold setW; split <;> rfl
@[simp] theorem setW_launch (t : Thread) (d : Reg) (v : Word) : (setW t d v).launch = t.launch := by unfold setW; split <;> rfl
@[simp] theorem setW_tq (t : Thread) (d : Reg) (v : Word) : (setW t d v).tq = t.tq := by unfold setW; split <;> rfl
@[simp] theorem setW_last (t : Thread) (d : Reg) (v : Word) : (setW t d v).last = t.last := by unfold setW; split <;> rfl
@[simp] theorem setW_caller (t : Thread) (d : Reg) (v : Word) : (setW t d v).caller = t.caller := by unfold setW; split <;> rfl
@[simp] theorem setW_begun (t : Thread) (d : Reg) (v : Word) : (setW t d v).begun = t.begun := by unfold setW; split <;> rfl
@[simp] theorem setF_uid (t : Thread) (d : Reg) (v : Word) : (setF t d v).uid = t.uid := rfl
@[simp] theorem setF_pc (t : Thread) (d : Reg) (v : Word) : (setF t d v).pc = t.pc := rfl
@[simp] theorem setF_w (t : Thread) (d : Reg) (v : Word) : (setF t d v).w = t.w := rfl
@[simp] theorem setF_p (t : Thread) (d : Reg) (v : Word) : (setF t d v).p = t.p := rfl
@[simp] theorem setF_xstat (t : Thread) (d : Reg) (v : Word) : (setF t d v).xstat = t.xstat := rfl
@[simp] theorem setF_fflags (t : Thread) (d : Reg) (v : Word) : (setF t d v).fflags = t.fflags := rfl
@[simp] theorem setF_rndseed (t : Thread) (d : Reg) (v : Word) : (setF t d v).rndseed = t.rndseed := rfl
@[simp] theorem setF_grantlim (t : Thread) (d : Reg) (v : Word) : (setF t d v).grantlim = t.grantlim := rfl
@[simp] theorem setF_asid (t : Thread) (d : Reg) (v : Word) : (setF t d v).asid = t.asid := rfl
@[simp] theorem setF_streams (t : Thread) (d : Reg) (v : Word) : (setF t d v).streams = t.streams := rfl
@[simp] theorem setF_ld (t : Thread) (d : Reg) (v : Word) : (setF t d v).ld = t.ld := rfl
@[simp] theorem setF_st (t : Thread) (d : Reg) (v : Word) : (setF t d v).st = t.st := rfl
@[simp] theorem setF_cp (t : Thread) (d : Reg) (v : Word) : (setF t d v).cp = t.cp := rfl
@[simp] theorem setF_tl (t : Thread) (d : Reg) (v : Word) : (setF t d v).tl = t.tl := rfl
@[simp] theorem setF_tpc (t : Thread) (d : Reg) (v : Word) : (setF t d v).tpc = t.tpc := rfl
@[simp] theorem setF_tstat (t : Thread) (d : Reg) (v : Word) : (setF t d v).tstat = t.tstat := rfl
@[simp] theorem setF_tcause (t : Thread) (d : Reg) (v : Word) : (setF t d v).tcause = t.tcause := rfl
@[simp] theorem setF_tval (t : Thread) (d : Reg) (v : Word) : (setF t d v).tval = t.tval := rfl
@[simp] theorem setF_tscr (t : Thread) (d : Reg) (v : Word) : (setF t d v).tscr = t.tscr := rfl
@[simp] theorem setF_tepc (t : Thread) (d : Reg) (v : Word) : (setF t d v).tepc = t.tepc := rfl
@[simp] theorem setF_park (t : Thread) (d : Reg) (v : Word) : (setF t d v).park = t.park := rfl
@[simp] theorem setF_call (t : Thread) (d : Reg) (v : Word) : (setF t d v).call = t.call := rfl
@[simp] theorem setF_out (t : Thread) (d : Reg) (v : Word) : (setF t d v).out = t.out := rfl
@[simp] theorem setF_busy (t : Thread) (d : Reg) (v : Word) : (setF t d v).busy = t.busy := rfl
@[simp] theorem setF_deferred (t : Thread) (d : Reg) (v : Word) : (setF t d v).deferred = t.deferred := rfl
@[simp] theorem setF_child (t : Thread) (d : Reg) (v : Word) : (setF t d v).child = t.child := rfl
@[simp] theorem setF_launch (t : Thread) (d : Reg) (v : Word) : (setF t d v).launch = t.launch := rfl
@[simp] theorem setF_tq (t : Thread) (d : Reg) (v : Word) : (setF t d v).tq = t.tq := rfl
@[simp] theorem setF_last (t : Thread) (d : Reg) (v : Word) : (setF t d v).last = t.last := rfl
@[simp] theorem setF_caller (t : Thread) (d : Reg) (v : Word) : (setF t d v).caller = t.caller := rfl
@[simp] theorem setF_begun (t : Thread) (d : Reg) (v : Word) : (setF t d v).begun = t.begun := rfl
@[simp] theorem setP_uid (t : Thread) (d : PReg) (v : Bool) : (setP t d v).uid = t.uid := by unfold setP; split <;> rfl
@[simp] theorem setP_pc (t : Thread) (d : PReg) (v : Bool) : (setP t d v).pc = t.pc := by unfold setP; split <;> rfl
@[simp] theorem setP_w (t : Thread) (d : PReg) (v : Bool) : (setP t d v).w = t.w := by unfold setP; split <;> rfl
@[simp] theorem setP_f (t : Thread) (d : PReg) (v : Bool) : (setP t d v).f = t.f := by unfold setP; split <;> rfl
@[simp] theorem setP_xstat (t : Thread) (d : PReg) (v : Bool) : (setP t d v).xstat = t.xstat := by unfold setP; split <;> rfl
@[simp] theorem setP_fflags (t : Thread) (d : PReg) (v : Bool) : (setP t d v).fflags = t.fflags := by unfold setP; split <;> rfl
@[simp] theorem setP_rndseed (t : Thread) (d : PReg) (v : Bool) : (setP t d v).rndseed = t.rndseed := by unfold setP; split <;> rfl
@[simp] theorem setP_grantlim (t : Thread) (d : PReg) (v : Bool) : (setP t d v).grantlim = t.grantlim := by unfold setP; split <;> rfl
@[simp] theorem setP_asid (t : Thread) (d : PReg) (v : Bool) : (setP t d v).asid = t.asid := by unfold setP; split <;> rfl
@[simp] theorem setP_streams (t : Thread) (d : PReg) (v : Bool) : (setP t d v).streams = t.streams := by unfold setP; split <;> rfl
@[simp] theorem setP_ld (t : Thread) (d : PReg) (v : Bool) : (setP t d v).ld = t.ld := by unfold setP; split <;> rfl
@[simp] theorem setP_st (t : Thread) (d : PReg) (v : Bool) : (setP t d v).st = t.st := by unfold setP; split <;> rfl
@[simp] theorem setP_cp (t : Thread) (d : PReg) (v : Bool) : (setP t d v).cp = t.cp := by unfold setP; split <;> rfl
@[simp] theorem setP_tl (t : Thread) (d : PReg) (v : Bool) : (setP t d v).tl = t.tl := by unfold setP; split <;> rfl
@[simp] theorem setP_tpc (t : Thread) (d : PReg) (v : Bool) : (setP t d v).tpc = t.tpc := by unfold setP; split <;> rfl
@[simp] theorem setP_tstat (t : Thread) (d : PReg) (v : Bool) : (setP t d v).tstat = t.tstat := by unfold setP; split <;> rfl
@[simp] theorem setP_tcause (t : Thread) (d : PReg) (v : Bool) : (setP t d v).tcause = t.tcause := by unfold setP; split <;> rfl
@[simp] theorem setP_tval (t : Thread) (d : PReg) (v : Bool) : (setP t d v).tval = t.tval := by unfold setP; split <;> rfl
@[simp] theorem setP_tscr (t : Thread) (d : PReg) (v : Bool) : (setP t d v).tscr = t.tscr := by unfold setP; split <;> rfl
@[simp] theorem setP_tepc (t : Thread) (d : PReg) (v : Bool) : (setP t d v).tepc = t.tepc := by unfold setP; split <;> rfl
@[simp] theorem setP_park (t : Thread) (d : PReg) (v : Bool) : (setP t d v).park = t.park := by unfold setP; split <;> rfl
@[simp] theorem setP_call (t : Thread) (d : PReg) (v : Bool) : (setP t d v).call = t.call := by unfold setP; split <;> rfl
@[simp] theorem setP_out (t : Thread) (d : PReg) (v : Bool) : (setP t d v).out = t.out := by unfold setP; split <;> rfl
@[simp] theorem setP_busy (t : Thread) (d : PReg) (v : Bool) : (setP t d v).busy = t.busy := by unfold setP; split <;> rfl
@[simp] theorem setP_deferred (t : Thread) (d : PReg) (v : Bool) : (setP t d v).deferred = t.deferred := by unfold setP; split <;> rfl
@[simp] theorem setP_child (t : Thread) (d : PReg) (v : Bool) : (setP t d v).child = t.child := by unfold setP; split <;> rfl
@[simp] theorem setP_launch (t : Thread) (d : PReg) (v : Bool) : (setP t d v).launch = t.launch := by unfold setP; split <;> rfl
@[simp] theorem setP_tq (t : Thread) (d : PReg) (v : Bool) : (setP t d v).tq = t.tq := by unfold setP; split <;> rfl
@[simp] theorem setP_last (t : Thread) (d : PReg) (v : Bool) : (setP t d v).last = t.last := by unfold setP; split <;> rfl
@[simp] theorem setP_caller (t : Thread) (d : PReg) (v : Bool) : (setP t d v).caller = t.caller := by unfold setP; split <;> rfl
@[simp] theorem setP_begun (t : Thread) (d : PReg) (v : Bool) : (setP t d v).begun = t.begun := by unfold setP; split <;> rfl
@[simp] theorem setP_badRegs (t : Thread) (d : PReg) (v : Bool) : (setP t d v).badRegs = t.badRegs := by unfold setP; split <;> rfl
@[simp] theorem raise_uid (t : Thread) (f : Flags) : (raise t f).uid = t.uid := rfl
@[simp] theorem raise_pc (t : Thread) (f : Flags) : (raise t f).pc = t.pc := rfl
@[simp] theorem raise_w (t : Thread) (f : Flags) : (raise t f).w = t.w := rfl
@[simp] theorem raise_f (t : Thread) (f : Flags) : (raise t f).f = t.f := rfl
@[simp] theorem raise_p (t : Thread) (f : Flags) : (raise t f).p = t.p := rfl
@[simp] theorem raise_xstat (t : Thread) (f : Flags) : (raise t f).xstat = t.xstat := rfl
@[simp] theorem raise_rndseed (t : Thread) (f : Flags) : (raise t f).rndseed = t.rndseed := rfl
@[simp] theorem raise_grantlim (t : Thread) (f : Flags) : (raise t f).grantlim = t.grantlim := rfl
@[simp] theorem raise_asid (t : Thread) (f : Flags) : (raise t f).asid = t.asid := rfl
@[simp] theorem raise_streams (t : Thread) (f : Flags) : (raise t f).streams = t.streams := rfl
@[simp] theorem raise_ld (t : Thread) (f : Flags) : (raise t f).ld = t.ld := rfl
@[simp] theorem raise_st (t : Thread) (f : Flags) : (raise t f).st = t.st := rfl
@[simp] theorem raise_cp (t : Thread) (f : Flags) : (raise t f).cp = t.cp := rfl
@[simp] theorem raise_tl (t : Thread) (f : Flags) : (raise t f).tl = t.tl := rfl
@[simp] theorem raise_tpc (t : Thread) (f : Flags) : (raise t f).tpc = t.tpc := rfl
@[simp] theorem raise_tstat (t : Thread) (f : Flags) : (raise t f).tstat = t.tstat := rfl
@[simp] theorem raise_tcause (t : Thread) (f : Flags) : (raise t f).tcause = t.tcause := rfl
@[simp] theorem raise_tval (t : Thread) (f : Flags) : (raise t f).tval = t.tval := rfl
@[simp] theorem raise_tscr (t : Thread) (f : Flags) : (raise t f).tscr = t.tscr := rfl
@[simp] theorem raise_tepc (t : Thread) (f : Flags) : (raise t f).tepc = t.tepc := rfl
@[simp] theorem raise_park (t : Thread) (f : Flags) : (raise t f).park = t.park := rfl
@[simp] theorem raise_call (t : Thread) (f : Flags) : (raise t f).call = t.call := rfl
@[simp] theorem raise_out (t : Thread) (f : Flags) : (raise t f).out = t.out := rfl
@[simp] theorem raise_busy (t : Thread) (f : Flags) : (raise t f).busy = t.busy := rfl
@[simp] theorem raise_deferred (t : Thread) (f : Flags) : (raise t f).deferred = t.deferred := rfl
@[simp] theorem raise_child (t : Thread) (f : Flags) : (raise t f).child = t.child := rfl
@[simp] theorem raise_launch (t : Thread) (f : Flags) : (raise t f).launch = t.launch := rfl
@[simp] theorem raise_tq (t : Thread) (f : Flags) : (raise t f).tq = t.tq := rfl
@[simp] theorem raise_last (t : Thread) (f : Flags) : (raise t f).last = t.last := rfl
@[simp] theorem raise_caller (t : Thread) (f : Flags) : (raise t f).caller = t.caller := rfl
@[simp] theorem raise_begun (t : Thread) (f : Flags) : (raise t f).begun = t.begun := rfl
@[simp] theorem raise_badRegs (t : Thread) (f : Flags) : (raise t f).badRegs = t.badRegs := rfl
@[simp] theorem retired_uid (t : Thread) (pc : Word) : (retired t pc).uid = t.uid := rfl
@[simp] theorem retired_w (t : Thread) (pc : Word) : (retired t pc).w = t.w := rfl
@[simp] theorem retired_f (t : Thread) (pc : Word) : (retired t pc).f = t.f := rfl
@[simp] theorem retired_p (t : Thread) (pc : Word) : (retired t pc).p = t.p := rfl
@[simp] theorem retired_fflags (t : Thread) (pc : Word) : (retired t pc).fflags = t.fflags := rfl
@[simp] theorem retired_rndseed (t : Thread) (pc : Word) : (retired t pc).rndseed = t.rndseed := rfl
@[simp] theorem retired_grantlim (t : Thread) (pc : Word) : (retired t pc).grantlim = t.grantlim := rfl
@[simp] theorem retired_asid (t : Thread) (pc : Word) : (retired t pc).asid = t.asid := rfl
@[simp] theorem retired_streams (t : Thread) (pc : Word) : (retired t pc).streams = t.streams := rfl
@[simp] theorem retired_ld (t : Thread) (pc : Word) : (retired t pc).ld = t.ld := rfl
@[simp] theorem retired_st (t : Thread) (pc : Word) : (retired t pc).st = t.st := rfl
@[simp] theorem retired_cp (t : Thread) (pc : Word) : (retired t pc).cp = t.cp := rfl
@[simp] theorem retired_tl (t : Thread) (pc : Word) : (retired t pc).tl = t.tl := rfl
@[simp] theorem retired_tpc (t : Thread) (pc : Word) : (retired t pc).tpc = t.tpc := rfl
@[simp] theorem retired_tstat (t : Thread) (pc : Word) : (retired t pc).tstat = t.tstat := rfl
@[simp] theorem retired_tcause (t : Thread) (pc : Word) : (retired t pc).tcause = t.tcause := rfl
@[simp] theorem retired_tval (t : Thread) (pc : Word) : (retired t pc).tval = t.tval := rfl
@[simp] theorem retired_tscr (t : Thread) (pc : Word) : (retired t pc).tscr = t.tscr := rfl
@[simp] theorem retired_tepc (t : Thread) (pc : Word) : (retired t pc).tepc = t.tepc := rfl
@[simp] theorem retired_call (t : Thread) (pc : Word) : (retired t pc).call = t.call := rfl
@[simp] theorem retired_out (t : Thread) (pc : Word) : (retired t pc).out = t.out := rfl
@[simp] theorem retired_busy (t : Thread) (pc : Word) : (retired t pc).busy = t.busy := rfl
@[simp] theorem retired_deferred (t : Thread) (pc : Word) : (retired t pc).deferred = t.deferred := rfl
@[simp] theorem retired_child (t : Thread) (pc : Word) : (retired t pc).child = t.child := rfl
@[simp] theorem retired_launch (t : Thread) (pc : Word) : (retired t pc).launch = t.launch := rfl
@[simp] theorem retired_tq (t : Thread) (pc : Word) : (retired t pc).tq = t.tq := rfl
@[simp] theorem retired_last (t : Thread) (pc : Word) : (retired t pc).last = t.last := rfl
@[simp] theorem retired_caller (t : Thread) (pc : Word) : (retired t pc).caller = t.caller := rfl
@[simp] theorem retired_begun (t : Thread) (pc : Word) : (retired t pc).begun = t.begun := rfl
@[simp] theorem retired_badRegs (t : Thread) (pc : Word) : (retired t pc).badRegs = t.badRegs := rfl
@[simp] theorem retired_pc (t : Thread) (pc : Word) : (retired t pc).pc = pc := rfl
@[simp] theorem retired_park (t : Thread) (pc : Word) : (retired t pc).park = none := rfl

/-! ### Device fields after an update -/

@[simp] theorem putThread_mem (s : State) (k : Nat) (t : Thread) : (s.putThread k t).mem = s.mem := rfl
@[simp] theorem putThread_am (s : State) (k : Nat) (t : Thread) : (s.putThread k t).am = s.am := rfl
@[simp] theorem putThread_mail (s : State) (k : Nat) (t : Thread) : (s.putThread k t).mail = s.mail := rfl
@[simp] theorem putThread_wakes (s : State) (k : Nat) (t : Thread) : (s.putThread k t).wakes = s.wakes := rfl
@[simp] theorem putThread_clusters (s : State) (k : Nat) (t : Thread) : (s.putThread k t).clusters = s.clusters := rfl
@[simp] theorem putThread_parts (s : State) (k : Nat) (t : Thread) : (s.putThread k t).parts = s.parts := rfl
@[simp] theorem putThread_flights (s : State) (k : Nat) (t : Thread) : (s.putThread k t).flights = s.flights := rfl
@[simp] theorem putThread_packets (s : State) (k : Nat) (t : Thread) : (s.putThread k t).packets = s.packets := rfl
@[simp] theorem putThread_collectors (s : State) (k : Nat) (t : Thread) : (s.putThread k t).collectors = s.collectors := rfl
@[simp] theorem putThread_reserved (s : State) (k : Nat) (t : Thread) : (s.putThread k t).reserved = s.reserved := rfl
@[simp] theorem putThread_reductions (s : State) (k : Nat) (t : Thread) : (s.putThread k t).reductions = s.reductions := rfl
@[simp] theorem putThread_frames (s : State) (k : Nat) (t : Thread) : (s.putThread k t).frames = s.frames := rfl
@[simp] theorem putThread_oldText (s : State) (k : Nat) (t : Thread) : (s.putThread k t).oldText = s.oldText := rfl
@[simp] theorem putThread_dirty (s : State) (k : Nat) (t : Thread) : (s.putThread k t).dirty = s.dirty := rfl
@[simp] theorem putThread_racking (s : State) (k : Nat) (t : Thread) : (s.putThread k t).racking = s.racking := rfl
@[simp] theorem putThread_gtime (s : State) (k : Nat) (t : Thread) : (s.putThread k t).gtime = s.gtime := rfl
@[simp] theorem putThread_cyc (s : State) (k : Nat) (t : Thread) : (s.putThread k t).cyc = s.cyc := rfl
@[simp] theorem putThread_dieAt (s : State) (k : Nat) (t : Thread) : (s.putThread k t).dieAt = s.dieAt := rfl
@[simp] theorem putThread_stage (s : State) (k : Nat) (t : Thread) : (s.putThread k t).stage = s.stage := rfl
@[simp] theorem putThread_ddrGib (s : State) (k : Nat) (t : Thread) : (s.putThread k t).ddrGib = s.ddrGib := rfl
@[simp] theorem putThread_devno (s : State) (k : Nat) (t : Thread) : (s.putThread k t).devno = s.devno := rfl
@[simp] theorem putThread_secver (s : State) (k : Nat) (t : Thread) : (s.putThread k t).secver = s.secver := rfl
@[simp] theorem putThread_nextSeq (s : State) (k : Nat) (t : Thread) : (s.putThread k t).nextSeq = s.nextSeq := rfl
@[simp] theorem putThread_nextUid (s : State) (k : Nat) (t : Thread) : (s.putThread k t).nextUid = s.nextUid := rfl
@[simp] theorem putThread_codeCache (s : State) (k : Nat) (t : Thread) : (s.putThread k t).codeCache = s.codeCache := rfl
@[simp] theorem putThread_fwVersion (s : State) (k : Nat) (t : Thread) : (s.putThread k t).fwVersion = s.fwVersion := rfl
@[simp] theorem putThread_fwFuse (s : State) (k : Nat) (t : Thread) : (s.putThread k t).fwFuse = s.fwFuse := rfl
@[simp] theorem putThread_measure (s : State) (k : Nat) (t : Thread) : (s.putThread k t).measure = s.measure := rfl
@[simp] theorem putThread_log (s : State) (k : Nat) (t : Thread) : (s.putThread k t).log = s.log := rfl
@[simp] theorem putThread_smcStatus (s : State) (k : Nat) (t : Thread) : (s.putThread k t).smcStatus = s.smcStatus := rfl
@[simp] theorem putThread_smcAnswer (s : State) (k : Nat) (t : Thread) : (s.putThread k t).smcAnswer = s.smcAnswer := rfl
@[simp] theorem putThread_smcWaiting (s : State) (k : Nat) (t : Thread) : (s.putThread k t).smcWaiting = s.smcWaiting := rfl
@[simp] theorem putThread_hostBase (s : State) (k : Nat) (t : Thread) : (s.putThread k t).hostBase = s.hostBase := rfl
@[simp] theorem putThread_pfxGrants (s : State) (k : Nat) (t : Thread) : (s.putThread k t).pfxGrants = s.pfxGrants := rfl
@[simp] theorem putThread_links (s : State) (k : Nat) (t : Thread) : (s.putThread k t).links = s.links := rfl
@[simp] theorem putThread_pfxOut (s : State) (k : Nat) (t : Thread) : (s.putThread k t).pfxOut = s.pfxOut := rfl
@[simp] theorem putThread_hostShares (s : State) (k : Nat) (t : Thread) : (s.putThread k t).hostShares = s.hostShares := rfl
@[simp] theorem putThread_bad (s : State) (k : Nat) (t : Thread) : (s.putThread k t).bad = s.bad := rfl
@[simp] theorem putThread_checkpoints (s : State) (k : Nat) (t : Thread) : (s.putThread k t).checkpoints = s.checkpoints := rfl
@[simp] theorem putThread_stepping (s : State) (k : Nat) (t : Thread) : (s.putThread k t).stepping = s.stepping := rfl
@[simp] theorem putThread_railScale (s : State) (k : Nat) (t : Thread) : (s.putThread k t).railScale = s.railScale := rfl
@[simp] theorem putThread_corrected (s : State) (k : Nat) (t : Thread) : (s.putThread k t).corrected = s.corrected := rfl
@[simp] theorem putThread_answered (s : State) (k : Nat) (t : Thread) : (s.putThread k t).answered = s.answered := rfl
@[simp] theorem putThread_cur (s : State) (k : Nat) (t : Thread) : (s.putThread k t).cur = s.cur := rfl
@[simp] theorem putThread_agenda (s : State) (k : Nat) (t : Thread) : (s.putThread k t).agenda = s.agenda := rfl
@[simp] theorem putThread_free (s : State) (k : Nat) (t : Thread) : (s.putThread k t).free = s.free := rfl
@[simp] theorem dropThread_mem (s : State) (k : Nat) : (s.dropThread k).mem = s.mem := rfl
@[simp] theorem dropThread_am (s : State) (k : Nat) : (s.dropThread k).am = s.am := rfl
@[simp] theorem dropThread_mail (s : State) (k : Nat) : (s.dropThread k).mail = s.mail := rfl
@[simp] theorem dropThread_wakes (s : State) (k : Nat) : (s.dropThread k).wakes = s.wakes := rfl
@[simp] theorem dropThread_clusters (s : State) (k : Nat) : (s.dropThread k).clusters = s.clusters := rfl
@[simp] theorem dropThread_parts (s : State) (k : Nat) : (s.dropThread k).parts = s.parts := rfl
@[simp] theorem dropThread_flights (s : State) (k : Nat) : (s.dropThread k).flights = s.flights := rfl
@[simp] theorem dropThread_packets (s : State) (k : Nat) : (s.dropThread k).packets = s.packets := rfl
@[simp] theorem dropThread_collectors (s : State) (k : Nat) : (s.dropThread k).collectors = s.collectors := rfl
@[simp] theorem dropThread_reserved (s : State) (k : Nat) : (s.dropThread k).reserved = s.reserved := rfl
@[simp] theorem dropThread_reductions (s : State) (k : Nat) : (s.dropThread k).reductions = s.reductions := rfl
@[simp] theorem dropThread_frames (s : State) (k : Nat) : (s.dropThread k).frames = s.frames := rfl
@[simp] theorem dropThread_oldText (s : State) (k : Nat) : (s.dropThread k).oldText = s.oldText := rfl
@[simp] theorem dropThread_dirty (s : State) (k : Nat) : (s.dropThread k).dirty = s.dirty := rfl
@[simp] theorem dropThread_racking (s : State) (k : Nat) : (s.dropThread k).racking = s.racking := rfl
@[simp] theorem dropThread_gtime (s : State) (k : Nat) : (s.dropThread k).gtime = s.gtime := rfl
@[simp] theorem dropThread_cyc (s : State) (k : Nat) : (s.dropThread k).cyc = s.cyc := rfl
@[simp] theorem dropThread_dieAt (s : State) (k : Nat) : (s.dropThread k).dieAt = s.dieAt := rfl
@[simp] theorem dropThread_stage (s : State) (k : Nat) : (s.dropThread k).stage = s.stage := rfl
@[simp] theorem dropThread_ddrGib (s : State) (k : Nat) : (s.dropThread k).ddrGib = s.ddrGib := rfl
@[simp] theorem dropThread_devno (s : State) (k : Nat) : (s.dropThread k).devno = s.devno := rfl
@[simp] theorem dropThread_secver (s : State) (k : Nat) : (s.dropThread k).secver = s.secver := rfl
@[simp] theorem dropThread_nextSeq (s : State) (k : Nat) : (s.dropThread k).nextSeq = s.nextSeq := rfl
@[simp] theorem dropThread_nextUid (s : State) (k : Nat) : (s.dropThread k).nextUid = s.nextUid := rfl
@[simp] theorem dropThread_codeCache (s : State) (k : Nat) : (s.dropThread k).codeCache = s.codeCache := rfl
@[simp] theorem dropThread_fwVersion (s : State) (k : Nat) : (s.dropThread k).fwVersion = s.fwVersion := rfl
@[simp] theorem dropThread_fwFuse (s : State) (k : Nat) : (s.dropThread k).fwFuse = s.fwFuse := rfl
@[simp] theorem dropThread_measure (s : State) (k : Nat) : (s.dropThread k).measure = s.measure := rfl
@[simp] theorem dropThread_log (s : State) (k : Nat) : (s.dropThread k).log = s.log := rfl
@[simp] theorem dropThread_smcStatus (s : State) (k : Nat) : (s.dropThread k).smcStatus = s.smcStatus := rfl
@[simp] theorem dropThread_smcAnswer (s : State) (k : Nat) : (s.dropThread k).smcAnswer = s.smcAnswer := rfl
@[simp] theorem dropThread_smcWaiting (s : State) (k : Nat) : (s.dropThread k).smcWaiting = s.smcWaiting := rfl
@[simp] theorem dropThread_hostBase (s : State) (k : Nat) : (s.dropThread k).hostBase = s.hostBase := rfl
@[simp] theorem dropThread_pfxGrants (s : State) (k : Nat) : (s.dropThread k).pfxGrants = s.pfxGrants := rfl
@[simp] theorem dropThread_links (s : State) (k : Nat) : (s.dropThread k).links = s.links := rfl
@[simp] theorem dropThread_pfxOut (s : State) (k : Nat) : (s.dropThread k).pfxOut = s.pfxOut := rfl
@[simp] theorem dropThread_hostShares (s : State) (k : Nat) : (s.dropThread k).hostShares = s.hostShares := rfl
@[simp] theorem dropThread_bad (s : State) (k : Nat) : (s.dropThread k).bad = s.bad := rfl
@[simp] theorem dropThread_checkpoints (s : State) (k : Nat) : (s.dropThread k).checkpoints = s.checkpoints := rfl
@[simp] theorem dropThread_stepping (s : State) (k : Nat) : (s.dropThread k).stepping = s.stepping := rfl
@[simp] theorem dropThread_railScale (s : State) (k : Nat) : (s.dropThread k).railScale = s.railScale := rfl
@[simp] theorem dropThread_corrected (s : State) (k : Nat) : (s.dropThread k).corrected = s.corrected := rfl
@[simp] theorem dropThread_answered (s : State) (k : Nat) : (s.dropThread k).answered = s.answered := rfl
@[simp] theorem dropThread_cur (s : State) (k : Nat) : (s.dropThread k).cur = s.cur := rfl
@[simp] theorem dropThread_agenda (s : State) (k : Nat) : (s.dropThread k).agenda = s.agenda := rfl
@[simp] theorem dropThread_free (s : State) (k : Nat) : (s.dropThread k).free = s.free := rfl
@[simp] theorem putCluster_mem (s : State) (cl : Nat) (c : Cluster) : (s.putCluster cl c).mem = s.mem := rfl
@[simp] theorem putCluster_am (s : State) (cl : Nat) (c : Cluster) : (s.putCluster cl c).am = s.am := rfl
@[simp] theorem putCluster_threads (s : State) (cl : Nat) (c : Cluster) : (s.putCluster cl c).threads = s.threads := rfl
@[simp] theorem putCluster_mail (s : State) (cl : Nat) (c : Cluster) : (s.putCluster cl c).mail = s.mail := rfl
@[simp] theorem putCluster_wakes (s : State) (cl : Nat) (c : Cluster) : (s.putCluster cl c).wakes = s.wakes := rfl
@[simp] theorem putCluster_parts (s : State) (cl : Nat) (c : Cluster) : (s.putCluster cl c).parts = s.parts := rfl
@[simp] theorem putCluster_flights (s : State) (cl : Nat) (c : Cluster) : (s.putCluster cl c).flights = s.flights := rfl
@[simp] theorem putCluster_packets (s : State) (cl : Nat) (c : Cluster) : (s.putCluster cl c).packets = s.packets := rfl
@[simp] theorem putCluster_collectors (s : State) (cl : Nat) (c : Cluster) : (s.putCluster cl c).collectors = s.collectors := rfl
@[simp] theorem putCluster_reserved (s : State) (cl : Nat) (c : Cluster) : (s.putCluster cl c).reserved = s.reserved := rfl
@[simp] theorem putCluster_reductions (s : State) (cl : Nat) (c : Cluster) : (s.putCluster cl c).reductions = s.reductions := rfl
@[simp] theorem putCluster_frames (s : State) (cl : Nat) (c : Cluster) : (s.putCluster cl c).frames = s.frames := rfl
@[simp] theorem putCluster_oldText (s : State) (cl : Nat) (c : Cluster) : (s.putCluster cl c).oldText = s.oldText := rfl
@[simp] theorem putCluster_dirty (s : State) (cl : Nat) (c : Cluster) : (s.putCluster cl c).dirty = s.dirty := rfl
@[simp] theorem putCluster_racking (s : State) (cl : Nat) (c : Cluster) : (s.putCluster cl c).racking = s.racking := rfl
@[simp] theorem putCluster_gtime (s : State) (cl : Nat) (c : Cluster) : (s.putCluster cl c).gtime = s.gtime := rfl
@[simp] theorem putCluster_cyc (s : State) (cl : Nat) (c : Cluster) : (s.putCluster cl c).cyc = s.cyc := rfl
@[simp] theorem putCluster_dieAt (s : State) (cl : Nat) (c : Cluster) : (s.putCluster cl c).dieAt = s.dieAt := rfl
@[simp] theorem putCluster_stage (s : State) (cl : Nat) (c : Cluster) : (s.putCluster cl c).stage = s.stage := rfl
@[simp] theorem putCluster_ddrGib (s : State) (cl : Nat) (c : Cluster) : (s.putCluster cl c).ddrGib = s.ddrGib := rfl
@[simp] theorem putCluster_devno (s : State) (cl : Nat) (c : Cluster) : (s.putCluster cl c).devno = s.devno := rfl
@[simp] theorem putCluster_secver (s : State) (cl : Nat) (c : Cluster) : (s.putCluster cl c).secver = s.secver := rfl
@[simp] theorem putCluster_nextSeq (s : State) (cl : Nat) (c : Cluster) : (s.putCluster cl c).nextSeq = s.nextSeq := rfl
@[simp] theorem putCluster_nextUid (s : State) (cl : Nat) (c : Cluster) : (s.putCluster cl c).nextUid = s.nextUid := rfl
@[simp] theorem putCluster_codeCache (s : State) (cl : Nat) (c : Cluster) : (s.putCluster cl c).codeCache = s.codeCache := rfl
@[simp] theorem putCluster_fwVersion (s : State) (cl : Nat) (c : Cluster) : (s.putCluster cl c).fwVersion = s.fwVersion := rfl
@[simp] theorem putCluster_fwFuse (s : State) (cl : Nat) (c : Cluster) : (s.putCluster cl c).fwFuse = s.fwFuse := rfl
@[simp] theorem putCluster_measure (s : State) (cl : Nat) (c : Cluster) : (s.putCluster cl c).measure = s.measure := rfl
@[simp] theorem putCluster_log (s : State) (cl : Nat) (c : Cluster) : (s.putCluster cl c).log = s.log := rfl
@[simp] theorem putCluster_smcStatus (s : State) (cl : Nat) (c : Cluster) : (s.putCluster cl c).smcStatus = s.smcStatus := rfl
@[simp] theorem putCluster_smcAnswer (s : State) (cl : Nat) (c : Cluster) : (s.putCluster cl c).smcAnswer = s.smcAnswer := rfl
@[simp] theorem putCluster_smcWaiting (s : State) (cl : Nat) (c : Cluster) : (s.putCluster cl c).smcWaiting = s.smcWaiting := rfl
@[simp] theorem putCluster_hostBase (s : State) (cl : Nat) (c : Cluster) : (s.putCluster cl c).hostBase = s.hostBase := rfl
@[simp] theorem putCluster_pfxGrants (s : State) (cl : Nat) (c : Cluster) : (s.putCluster cl c).pfxGrants = s.pfxGrants := rfl
@[simp] theorem putCluster_links (s : State) (cl : Nat) (c : Cluster) : (s.putCluster cl c).links = s.links := rfl
@[simp] theorem putCluster_pfxOut (s : State) (cl : Nat) (c : Cluster) : (s.putCluster cl c).pfxOut = s.pfxOut := rfl
@[simp] theorem putCluster_hostShares (s : State) (cl : Nat) (c : Cluster) : (s.putCluster cl c).hostShares = s.hostShares := rfl
@[simp] theorem putCluster_bad (s : State) (cl : Nat) (c : Cluster) : (s.putCluster cl c).bad = s.bad := rfl
@[simp] theorem putCluster_checkpoints (s : State) (cl : Nat) (c : Cluster) : (s.putCluster cl c).checkpoints = s.checkpoints := rfl
@[simp] theorem putCluster_stepping (s : State) (cl : Nat) (c : Cluster) : (s.putCluster cl c).stepping = s.stepping := rfl
@[simp] theorem putCluster_railScale (s : State) (cl : Nat) (c : Cluster) : (s.putCluster cl c).railScale = s.railScale := rfl
@[simp] theorem putCluster_corrected (s : State) (cl : Nat) (c : Cluster) : (s.putCluster cl c).corrected = s.corrected := rfl
@[simp] theorem putCluster_answered (s : State) (cl : Nat) (c : Cluster) : (s.putCluster cl c).answered = s.answered := rfl
@[simp] theorem putCluster_cur (s : State) (cl : Nat) (c : Cluster) : (s.putCluster cl c).cur = s.cur := rfl
@[simp] theorem putCluster_agenda (s : State) (cl : Nat) (c : Cluster) : (s.putCluster cl c).agenda = s.agenda := rfl
@[simp] theorem putCluster_free (s : State) (cl : Nat) (c : Cluster) : (s.putCluster cl c).free = s.free := rfl
@[simp] theorem sendRecord_mem (s : State) (cl : Nat) (r : Record) : (s.sendRecord cl r).mem = s.mem := rfl
@[simp] theorem sendRecord_am (s : State) (cl : Nat) (r : Record) : (s.sendRecord cl r).am = s.am := rfl
@[simp] theorem sendRecord_threads (s : State) (cl : Nat) (r : Record) : (s.sendRecord cl r).threads = s.threads := rfl
@[simp] theorem sendRecord_mail (s : State) (cl : Nat) (r : Record) : (s.sendRecord cl r).mail = s.mail := rfl
@[simp] theorem sendRecord_wakes (s : State) (cl : Nat) (r : Record) : (s.sendRecord cl r).wakes = s.wakes := rfl
@[simp] theorem sendRecord_clusters (s : State) (cl : Nat) (r : Record) : (s.sendRecord cl r).clusters = s.clusters := rfl
@[simp] theorem sendRecord_parts (s : State) (cl : Nat) (r : Record) : (s.sendRecord cl r).parts = s.parts := rfl
@[simp] theorem sendRecord_flights (s : State) (cl : Nat) (r : Record) : (s.sendRecord cl r).flights = s.flights := rfl
@[simp] theorem sendRecord_packets (s : State) (cl : Nat) (r : Record) : (s.sendRecord cl r).packets = s.packets := rfl
@[simp] theorem sendRecord_reserved (s : State) (cl : Nat) (r : Record) : (s.sendRecord cl r).reserved = s.reserved := rfl
@[simp] theorem sendRecord_reductions (s : State) (cl : Nat) (r : Record) : (s.sendRecord cl r).reductions = s.reductions := rfl
@[simp] theorem sendRecord_frames (s : State) (cl : Nat) (r : Record) : (s.sendRecord cl r).frames = s.frames := rfl
@[simp] theorem sendRecord_oldText (s : State) (cl : Nat) (r : Record) : (s.sendRecord cl r).oldText = s.oldText := rfl
@[simp] theorem sendRecord_dirty (s : State) (cl : Nat) (r : Record) : (s.sendRecord cl r).dirty = s.dirty := rfl
@[simp] theorem sendRecord_racking (s : State) (cl : Nat) (r : Record) : (s.sendRecord cl r).racking = s.racking := rfl
@[simp] theorem sendRecord_gtime (s : State) (cl : Nat) (r : Record) : (s.sendRecord cl r).gtime = s.gtime := rfl
@[simp] theorem sendRecord_cyc (s : State) (cl : Nat) (r : Record) : (s.sendRecord cl r).cyc = s.cyc := rfl
@[simp] theorem sendRecord_dieAt (s : State) (cl : Nat) (r : Record) : (s.sendRecord cl r).dieAt = s.dieAt := rfl
@[simp] theorem sendRecord_stage (s : State) (cl : Nat) (r : Record) : (s.sendRecord cl r).stage = s.stage := rfl
@[simp] theorem sendRecord_ddrGib (s : State) (cl : Nat) (r : Record) : (s.sendRecord cl r).ddrGib = s.ddrGib := rfl
@[simp] theorem sendRecord_devno (s : State) (cl : Nat) (r : Record) : (s.sendRecord cl r).devno = s.devno := rfl
@[simp] theorem sendRecord_secver (s : State) (cl : Nat) (r : Record) : (s.sendRecord cl r).secver = s.secver := rfl
@[simp] theorem sendRecord_nextSeq (s : State) (cl : Nat) (r : Record) : (s.sendRecord cl r).nextSeq = s.nextSeq := rfl
@[simp] theorem sendRecord_nextUid (s : State) (cl : Nat) (r : Record) : (s.sendRecord cl r).nextUid = s.nextUid := rfl
@[simp] theorem sendRecord_codeCache (s : State) (cl : Nat) (r : Record) : (s.sendRecord cl r).codeCache = s.codeCache := rfl
@[simp] theorem sendRecord_fwVersion (s : State) (cl : Nat) (r : Record) : (s.sendRecord cl r).fwVersion = s.fwVersion := rfl
@[simp] theorem sendRecord_fwFuse (s : State) (cl : Nat) (r : Record) : (s.sendRecord cl r).fwFuse = s.fwFuse := rfl
@[simp] theorem sendRecord_measure (s : State) (cl : Nat) (r : Record) : (s.sendRecord cl r).measure = s.measure := rfl
@[simp] theorem sendRecord_log (s : State) (cl : Nat) (r : Record) : (s.sendRecord cl r).log = s.log := rfl
@[simp] theorem sendRecord_smcStatus (s : State) (cl : Nat) (r : Record) : (s.sendRecord cl r).smcStatus = s.smcStatus := rfl
@[simp] theorem sendRecord_smcAnswer (s : State) (cl : Nat) (r : Record) : (s.sendRecord cl r).smcAnswer = s.smcAnswer := rfl
@[simp] theorem sendRecord_smcWaiting (s : State) (cl : Nat) (r : Record) : (s.sendRecord cl r).smcWaiting = s.smcWaiting := rfl
@[simp] theorem sendRecord_hostBase (s : State) (cl : Nat) (r : Record) : (s.sendRecord cl r).hostBase = s.hostBase := rfl
@[simp] theorem sendRecord_pfxGrants (s : State) (cl : Nat) (r : Record) : (s.sendRecord cl r).pfxGrants = s.pfxGrants := rfl
@[simp] theorem sendRecord_links (s : State) (cl : Nat) (r : Record) : (s.sendRecord cl r).links = s.links := rfl
@[simp] theorem sendRecord_pfxOut (s : State) (cl : Nat) (r : Record) : (s.sendRecord cl r).pfxOut = s.pfxOut := rfl
@[simp] theorem sendRecord_hostShares (s : State) (cl : Nat) (r : Record) : (s.sendRecord cl r).hostShares = s.hostShares := rfl
@[simp] theorem sendRecord_bad (s : State) (cl : Nat) (r : Record) : (s.sendRecord cl r).bad = s.bad := rfl
@[simp] theorem sendRecord_checkpoints (s : State) (cl : Nat) (r : Record) : (s.sendRecord cl r).checkpoints = s.checkpoints := rfl
@[simp] theorem sendRecord_stepping (s : State) (cl : Nat) (r : Record) : (s.sendRecord cl r).stepping = s.stepping := rfl
@[simp] theorem sendRecord_railScale (s : State) (cl : Nat) (r : Record) : (s.sendRecord cl r).railScale = s.railScale := rfl
@[simp] theorem sendRecord_corrected (s : State) (cl : Nat) (r : Record) : (s.sendRecord cl r).corrected = s.corrected := rfl
@[simp] theorem sendRecord_answered (s : State) (cl : Nat) (r : Record) : (s.sendRecord cl r).answered = s.answered := rfl
@[simp] theorem sendRecord_cur (s : State) (cl : Nat) (r : Record) : (s.sendRecord cl r).cur = s.cur := rfl
@[simp] theorem sendRecord_agenda (s : State) (cl : Nat) (r : Record) : (s.sendRecord cl r).agenda = s.agenda := rfl
@[simp] theorem sendRecord_free (s : State) (cl : Nat) (r : Record) : (s.sendRecord cl r).free = s.free := rfl
@[simp] theorem send_mem (s : State) (core : Nat) (f : Flight) : (s.send core f).mem = s.mem := rfl
@[simp] theorem send_am (s : State) (core : Nat) (f : Flight) : (s.send core f).am = s.am := rfl
@[simp] theorem send_threads (s : State) (core : Nat) (f : Flight) : (s.send core f).threads = s.threads := rfl
@[simp] theorem send_mail (s : State) (core : Nat) (f : Flight) : (s.send core f).mail = s.mail := rfl
@[simp] theorem send_wakes (s : State) (core : Nat) (f : Flight) : (s.send core f).wakes = s.wakes := rfl
@[simp] theorem send_clusters (s : State) (core : Nat) (f : Flight) : (s.send core f).clusters = s.clusters := rfl
@[simp] theorem send_parts (s : State) (core : Nat) (f : Flight) : (s.send core f).parts = s.parts := rfl
@[simp] theorem send_collectors (s : State) (core : Nat) (f : Flight) : (s.send core f).collectors = s.collectors := rfl
@[simp] theorem send_reserved (s : State) (core : Nat) (f : Flight) : (s.send core f).reserved = s.reserved := rfl
@[simp] theorem send_reductions (s : State) (core : Nat) (f : Flight) : (s.send core f).reductions = s.reductions := rfl
@[simp] theorem send_frames (s : State) (core : Nat) (f : Flight) : (s.send core f).frames = s.frames := rfl
@[simp] theorem send_oldText (s : State) (core : Nat) (f : Flight) : (s.send core f).oldText = s.oldText := rfl
@[simp] theorem send_dirty (s : State) (core : Nat) (f : Flight) : (s.send core f).dirty = s.dirty := rfl
@[simp] theorem send_racking (s : State) (core : Nat) (f : Flight) : (s.send core f).racking = s.racking := rfl
@[simp] theorem send_gtime (s : State) (core : Nat) (f : Flight) : (s.send core f).gtime = s.gtime := rfl
@[simp] theorem send_cyc (s : State) (core : Nat) (f : Flight) : (s.send core f).cyc = s.cyc := rfl
@[simp] theorem send_dieAt (s : State) (core : Nat) (f : Flight) : (s.send core f).dieAt = s.dieAt := rfl
@[simp] theorem send_stage (s : State) (core : Nat) (f : Flight) : (s.send core f).stage = s.stage := rfl
@[simp] theorem send_ddrGib (s : State) (core : Nat) (f : Flight) : (s.send core f).ddrGib = s.ddrGib := rfl
@[simp] theorem send_devno (s : State) (core : Nat) (f : Flight) : (s.send core f).devno = s.devno := rfl
@[simp] theorem send_secver (s : State) (core : Nat) (f : Flight) : (s.send core f).secver = s.secver := rfl
@[simp] theorem send_nextSeq (s : State) (core : Nat) (f : Flight) : (s.send core f).nextSeq = s.nextSeq := rfl
@[simp] theorem send_nextUid (s : State) (core : Nat) (f : Flight) : (s.send core f).nextUid = s.nextUid := rfl
@[simp] theorem send_codeCache (s : State) (core : Nat) (f : Flight) : (s.send core f).codeCache = s.codeCache := rfl
@[simp] theorem send_fwVersion (s : State) (core : Nat) (f : Flight) : (s.send core f).fwVersion = s.fwVersion := rfl
@[simp] theorem send_fwFuse (s : State) (core : Nat) (f : Flight) : (s.send core f).fwFuse = s.fwFuse := rfl
@[simp] theorem send_measure (s : State) (core : Nat) (f : Flight) : (s.send core f).measure = s.measure := rfl
@[simp] theorem send_log (s : State) (core : Nat) (f : Flight) : (s.send core f).log = s.log := rfl
@[simp] theorem send_smcStatus (s : State) (core : Nat) (f : Flight) : (s.send core f).smcStatus = s.smcStatus := rfl
@[simp] theorem send_smcAnswer (s : State) (core : Nat) (f : Flight) : (s.send core f).smcAnswer = s.smcAnswer := rfl
@[simp] theorem send_smcWaiting (s : State) (core : Nat) (f : Flight) : (s.send core f).smcWaiting = s.smcWaiting := rfl
@[simp] theorem send_hostBase (s : State) (core : Nat) (f : Flight) : (s.send core f).hostBase = s.hostBase := rfl
@[simp] theorem send_pfxGrants (s : State) (core : Nat) (f : Flight) : (s.send core f).pfxGrants = s.pfxGrants := rfl
@[simp] theorem send_links (s : State) (core : Nat) (f : Flight) : (s.send core f).links = s.links := rfl
@[simp] theorem send_pfxOut (s : State) (core : Nat) (f : Flight) : (s.send core f).pfxOut = s.pfxOut := rfl
@[simp] theorem send_hostShares (s : State) (core : Nat) (f : Flight) : (s.send core f).hostShares = s.hostShares := rfl
@[simp] theorem send_bad (s : State) (core : Nat) (f : Flight) : (s.send core f).bad = s.bad := rfl
@[simp] theorem send_checkpoints (s : State) (core : Nat) (f : Flight) : (s.send core f).checkpoints = s.checkpoints := rfl
@[simp] theorem send_stepping (s : State) (core : Nat) (f : Flight) : (s.send core f).stepping = s.stepping := rfl
@[simp] theorem send_railScale (s : State) (core : Nat) (f : Flight) : (s.send core f).railScale = s.railScale := rfl
@[simp] theorem send_corrected (s : State) (core : Nat) (f : Flight) : (s.send core f).corrected = s.corrected := rfl
@[simp] theorem send_answered (s : State) (core : Nat) (f : Flight) : (s.send core f).answered = s.answered := rfl
@[simp] theorem send_cur (s : State) (core : Nat) (f : Flight) : (s.send core f).cur = s.cur := rfl
@[simp] theorem send_agenda (s : State) (core : Nat) (f : Flight) : (s.send core f).agenda = s.agenda := rfl
@[simp] theorem send_free (s : State) (core : Nat) (f : Flight) : (s.send core f).free = s.free := rfl
@[simp] theorem send_flights (s : State) (core : Nat) (f : Flight) : (s.send core f).flights = s.flights ++ [f] := rfl

end Sys2Proof.Machine
end

