-- ==== Sys2Proof/Laws/Lanes.lean ====
section
/-! SUPPORT. What an instruction that acts lane by lane does to the state (R136). -/

namespace Sys2Proof.Laws

open Machine Safety

/-- What a core sends, in the words of the statements. -/
theorem send_eq (s : State) (core : Nat) (f : Flight) : s.send core f = sends s core f := rfl

/-- One turn of the fold behind `State.forLanes`. -/
theorem foldl_lanes (f : State → Nat → Thread → State) (g : Nat → Thread → Thread) (s : State) :
    ∀ (ks : List Nat), ks.Nodup →
      (∀ ts, ∀ k ∈ ks, ∀ t, s.thread k = some t →
        f { s with threads := ts } k t = State.putThread { s with threads := ts } k (g k t)) →
      ∀ ts, (∀ k ∈ ks, mget ts k = s.thread k) →
        let u := ks.foldl (fun s k => match s.thread k with
          | some t => f s k t
          | none => s) { s with threads := ts }
        { u with threads := s.threads } = s ∧ (∀ k, k ∉ ks → u.thread k = mget ts k) ∧
          ∀ k ∈ ks, u.thread k = (s.thread k).map (g k) := by
  intro ks
  induction ks with
  | nil => intro _ _ ts _; exact ⟨rfl, fun _ _ => rfl, by simp⟩
  | cons k ks ih =>
    intro hn hf ts hts
    obtain ⟨hk, hn⟩ := List.nodup_cons.mp hn
    have hf' : ∀ ts, ∀ j ∈ ks, ∀ t, s.thread j = some t →
        f { s with threads := ts } j t = State.putThread { s with threads := ts } j (g j t) :=
      fun ts j hj => hf ts j (List.mem_cons_of_mem _ hj)
    have hkt : State.thread { s with threads := ts } k = s.thread k := hts k (List.mem_cons_self ..)
    simp only [List.foldl_cons, hkt]
    cases hs : s.thread k with
    | none =>
      obtain ⟨h1, h2, h3⟩ := ih hn hf' ts (fun j hj => hts j (List.mem_cons_of_mem _ hj))
      refine ⟨h1, fun j hj => h2 j (fun h => hj (List.mem_cons_of_mem _ h)), ?_⟩
      intro j hj
      rcases List.mem_cons.mp hj with rfl | hj
      · rw [h2 _ hk]; exact (hts _ (List.mem_cons_self ..)).trans (by rw [hs]; rfl)
      · exact h3 j hj
    | some t =>
      simp only
      rw [hf ts k (List.mem_cons_self ..) t hs]
      have hts' : ∀ j ∈ ks, mget (mset ts k (g k t)) j = s.thread j := by
        intro j hj
        have : ¬ j = k := fun e => hk (e ▸ hj)
        rw [mget_mset, if_neg this]; exact hts j (List.mem_cons_of_mem _ hj)
      obtain ⟨h1, h2, h3⟩ := ih hn hf' (mset ts k (g k t)) hts'
      refine ⟨h1, ?_, ?_⟩
      · intro j hj
        rw [List.mem_cons, not_or] at hj
        refine (h2 j hj.2).trans ?_
        rw [mget_mset, if_neg hj.1]
      · intro j hj
        rcases List.mem_cons.mp hj with rfl | hj
        · refine (h2 _ hk).trans ?_
          rw [mget_mset, if_pos rfl, hs]; rfl
        · exact h3 j hj

/-- The instruction whose work in a lane is to put that lane's thread changed by `g`. -/
theorem forLanes_put (s : State) (f : State → Nat → Thread → State) (g : Nat → Thread → Thread) (hn : s.curKeys.Nodup)
    (hf : ∀ ts, ∀ k ∈ s.curKeys, ∀ t, s.thread k = some t →
      f { s with threads := ts } k t = State.putThread { s with threads := ts } k (g k t)) :
    LanesTo s (s.forLanes f) g :=
  foldl_lanes f g s s.curKeys hn hf s.threads fun _ _ => rfl

/-- Retirement outside a single step. -/
theorem finishAt_eq (s : State) (k : Nat) (t t' : Thread) (pc : Word) (h : xsSS t.xstat = false) :
    s.finishAt k t t' pc = s.putThread k (retired t' pc) := by simp [State.finishAt, h]

theorem finish_eq (s : State) (k : Nat) (t t' : Thread) (h : xsSS t.xstat = false) :
    s.finish k t t' = s.putThread k (retired t' (t.pc + s.width)) := finishAt_eq _ _ _ _ _ h

theorem width_none (s : State) (h : s.cur.pfx = none) : s.width = 4 := by simp [State.width, h]

/-- A register instruction's effect. -/
theorem regOp_effect (s : State) (h : Ready s) (f : Thread → Thread) :
    ∃ u, s.regOp f = .next u ∧ LanesTo s u fun _ t => retired (f t) (t.pc + 4) :=
  ⟨_, rfl, forLanes_put s _ _ h.1 fun ts k hk t ht => by
    rw [finish_eq _ _ _ _ (h.2.2 k hk t ht), width_none _ (by exact h.2.1)]⟩

/-- An instruction of one lane. -/
theorem lone_forLanes (s : State) (k : Nat) (t : Thread) (h : Lone s k t) (f : State → Nat → Thread → State) :
    s.forLanes f = f s k t := by simp [State.forLanes, h.1, h.2.1]

end Sys2Proof.Laws
end

