-- ==== Sys2Proof/Laws/Streams.lean ====
section
/-! SUPPORT. A thread with no stream bound: an f register is a plain register (R48 to R50). -/

namespace Sys2Proof.Laws

open Machine Safety

theorem streamOf_unbound (t : Thread) (h : Unbound t) (n : Nat) : (streamOf t n).state = .unbound := by
  unfold Unbound anyBound at h
  unfold streamOf
  rw [List.getD_eq_getElem?_getD]
  cases hx : t.streams.toList[n]? with
  | none => rfl
  | some x =>
    have hm := List.mem_of_getElem? hx
    have := List.any_eq_false.mp h x hm
    simpa using this

theorem regIs_unbound (t : Thread) (h : Unbound t) (st : StreamState) (hst : st ≠ .unbound) (r : Reg) : regIs t st r = false := by
  unfold regIs
  cases streamNo r with
  | none => rfl
  | some n => simp [streamOf_unbound t h n, hst.symm]

theorem boundSources_unbound (t : Thread) (h : Unbound t) (srcs : List Reg) : boundSources t srcs = [] := by
  unfold boundSources
  rw [List.filter_eq_nil_iff]
  intro n _
  simp [streamOf_unbound t h n]

/-- With no stream bound the stream rules let every operand through unchanged. -/
theorem fPrep_unbound (t : Thread) (h : Unbound t) (srcs : List Reg) (dst : Option Reg) : fPrep t srcs dst = .ok t := by
  have hr := regIs_unbound t h .readBound (by decide)
  have hw := regIs_unbound t h .writeBound (by decide)
  have h1 : srcs.any (regIs t .writeBound) = false := List.any_eq_false.mpr fun r _ => by simp [hw]
  have h2 : dst.any (regIs t .readBound) = false := by cases dst <;> simp [hr]
  have h3 : dst.any (regIs t .writeBound) = false := by cases dst <;> simp [hw]
  have h4 : (dst.any fun d => regIs t .writeBound d && (streamNo d).any fun n =>
      streamCount (streamOf t n) ≤ (streamOf t n).pos.toNat) = false := by cases dst <;> simp [hw]
  unfold fPrep
  rw [h1, h2, h3, h4, boundSources_unbound t h]
  rfl

theorem withF_unbound (s : State) (k : Nat) (t : Thread) (h : Unbound t) (srcs : List Reg) (dst : Option Reg)
    (f : Thread → State) : s.withF k t srcs dst f = f t := by simp [State.withF, fPrep_unbound t h]

/-- A write of an f register that is not bound is plain. -/
theorem writeF_unbound (s : State) (k : Nat) (t : Thread) (h : Unbound t) (pc : Word) (d : Reg) (v : Word) :
    s.writeF k t pc d v = (s, setF t d v) := by
  unfold State.writeF
  cases streamNo d with
  | none => rfl
  | some n => simp [streamOf_unbound t h n]

theorem unbound_raise (t : Thread) (f : Flags) (h : Unbound t) : Unbound (raise t f) := h

/-- Retirement of a write of f[d] with no stream bound and outside a single step. -/
theorem finishF_unbound (s : State) (k : Nat) (t t' : Thread) (h : Unbound t') (hss : xsSS t.xstat = false) (d : Reg) (v : Word) :
    s.finishF k t t' d v = s.putThread k (retired (setF t' d v) (t.pc + s.width)) := by
  simp only [State.finishF, writeF_unbound s k t' h]
  exact finish_eq _ _ _ _ hss

end Sys2Proof.Laws
end

