-- ==== Sys2Proof/Laws/Float.lean ====
section
/-! SUPPORT. What a floating-point instruction does in each lane: the shared operations of FloatOps, once (R124 to R127). -/

namespace Sys2Proof.Laws

open Machine Safety

theorem readyPair_of_ready (s : State) (h : Ready s) : ReadyPair s := ⟨h.1, h.2.2⟩

/-- An instruction whose work in a lane is to put that lane's thread changed by `g`. -/
theorem eachLane_effect (s : State) (hn : s.curKeys.Nodup) (f : State → Nat → Thread → State) (g : Nat → Thread → Thread)
    (hf : ∀ ts, ∀ k ∈ s.curKeys, ∀ t, s.thread k = some t →
      f { s with threads := ts } k t = State.putThread { s with threads := ts } k (g k t)) :
    ∃ u, s.eachLane f = .next u ∧ LanesTo s u g := ⟨_, rfl, forLanes_put s f g hn hf⟩

theorem noAssist_if (a b : Bool) (h : a = true ∨ b = false) : ¬ (!a && b) = true := by cases a <;> cases b <;> simp_all

/-- A job that meets no subnormal under SM = 0 writes its result and raises its flags in every lane. -/
theorem runJob_effect (s : State) (h : ReadyPair s) (hu : AllUnbound s) (j : FpJob) (i : Instr) (hn : NoAssist s j.subs) :
    ∃ u, runJob s j i = .next u ∧ LanesTo s u fun _ t =>
      retired (setF (raise t (j.result t).flags) j.dst (word (j.result t).bits)) (t.pc + s.width) := by
  refine eachLane_effect s h.1 _ _ ?_
  intro ts k hk t ht
  rw [withF_unbound _ _ _ (hu k hk t ht), if_neg (noAssist_if _ _ (hn k hk t ht)), State.finishJob,
    finishF_unbound _ _ _ _ (unbound_raise _ _ (hu k hk t ht)) (h.2 k hk t ht)]
  rfl

/-- An operation of f registers that takes no assist. -/
theorem fOp_effect (s : State) (h : ReadyPair s) (hu : AllUnbound s) (srcs : List Reg) (d : Reg) (r : Thread → Rounded) :
    ∃ u, fOp s srcs d r = .next u ∧ LanesTo s u fun _ t =>
      retired (setF (raise t (r t).flags) d (word (r t).bits)) (t.pc + s.width) := by
  refine eachLane_effect s h.1 _ _ ?_
  intro ts k hk t ht
  rw [withF_unbound _ _ _ (hu k hk t ht)]
  dsimp only
  rw [finishF_unbound _ _ _ _ (unbound_raise _ _ (hu k hk t ht)) (h.2 k hk t ht)]
  rfl

/-- A compare. -/
theorem cmpOp_effect (s : State) (h : ReadyPair s) (hu : AllUnbound s) (d : PReg) (a b : Reg) (f : Fmt) (anyNan : Bool)
    (g : Val → Val → Bool) :
    ∃ u, cmpOp s d a b f anyNan g = .next u ∧ LanesTo s u fun _ t =>
      retired (setP (raise t { nv := (if anyNan then isNan (operandV f t a) || isNan (operandV f t b) else isSig (operandV f t a) || isSig (operandV f t b)) }) d (g (operandV f t a) (operandV f t b))) (t.pc + s.width) := by
  refine eachLane_effect s h.1 _ _ ?_
  intro ts k hk t ht
  rw [withF_unbound _ _ _ (hu k hk t ht)]
  exact finish_eq _ _ _ _ (h.2 k hk t ht)

end Sys2Proof.Laws
end

