-- ==== Sys2Proof/Laws/Memory.lean ====
section
/-! SUPPORT. Memory: a read after a write, and that every memory operation keeps the canonical form. -/

namespace Sys2Proof.Machine

/-! ### Reading after writing -/

theorem memRead_memErase (m : Mem) (k j : Nat) : memRead (memErase m k) j = if j = k then 0 else memRead m j := by
  induction m with
  | nil => simp [memErase, memRead]
  | cons e m ih =>
    obtain ⟨a, b⟩ := e
    simp only [memErase, List.filter_cons] at ih ⊢
    by_cases h : a = k
    · subst h; simp only [bne_self_eq_false, Bool.false_eq_true, if_false, ih, memRead]
      split <;> simp_all [eq_comm]
    · simp only [bne_iff_ne, ne_eq, h, not_false_eq_true, if_true, memRead, ih]
      split <;> simp_all

theorem memRead_memInsert (m : Mem) (k : Nat) (v : Byte) (j : Nat) :
    memRead (memInsert m k v) j = if j = k then v else memRead m j := by
  induction m with
  | nil => simp [memInsert, memRead, eq_comm]
  | cons e m ih =>
    obtain ⟨a, b⟩ := e
    simp only [memInsert]
    by_cases hak : a = k
    · subst hak
      rw [if_pos rfl]; simp only [memRead]
      by_cases h : a = j
      · simp [h]
      · have : ¬ j = a := fun e => h e.symm
        simp [h, this]
    · rw [if_neg hak]
      have key : (if k = j then v else if a = j then b else memRead m j) =
          if j = k then v else if a = j then b else memRead m j := by
        by_cases h : k = j
        · simp [h]
        · have : ¬ j = k := fun e => h e.symm
          simp [h, this]
      split
      · exact key
      · simp only [memRead, ih]
        by_cases h : a = j
        · have : ¬ j = k := fun e => hak (h.trans e)
          simp [h, this]
        · simp [h]

/-- A byte read after a byte is written. -/
@[simp] theorem memRead_memWrite (m : Mem) (k : Nat) (v : Byte) (j : Nat) :
    memRead (memWrite m k v) j = if j = k then v else memRead m j := by
  unfold memWrite
  split
  · subst_vars; exact memRead_memErase ..
  · exact memRead_memInsert ..

/-- A byte outside the written addresses reads as before. -/
theorem memRead_memWriteAll_other (cells : List (Nat × Byte)) :
    ∀ (m : Mem) (j : Nat), (∀ c ∈ cells, c.1 ≠ j) → memRead (memWriteAll m cells) j = memRead m j := by
  induction cells with
  | nil => intros; rfl
  | cons c cells ih =>
    intro m j h
    have h1 := h c (List.mem_cons_self ..)
    show memRead (memWriteAll (memWrite m c.1 c.2) cells) j = _
    rw [ih _ _ fun x hx => h x (List.mem_cons_of_mem _ hx), memRead_memWrite, if_neg fun e => h1 e.symm]

/-! ### The canonical form -/

theorem memWfFrom_weaken (m : Mem) (lo : Nat) (h : memWfFrom (some lo) m = true) : memWfFrom none m = true := by
  cases m with
  | nil => rfl
  | cons e m => simp_all [memWfFrom]

theorem memWfFrom_lower (m : Mem) (lo lo' : Nat) (hl : lo' ≤ lo) (h : memWfFrom (some lo) m = true) :
    memWfFrom (some lo') m = true := by
  cases m with
  | nil => rfl
  | cons e m => simp_all [memWfFrom]; omega

theorem memWfFrom_memErase (m : Mem) (k : Nat) : ∀ lo, memWfFrom lo m = true → memWfFrom lo (memErase m k) = true := by
  induction m with
  | nil => intro lo h; exact h
  | cons e m ih =>
    obtain ⟨a, b⟩ := e
    intro lo h
    simp only [memWfFrom, Bool.and_eq_true] at h
    obtain ⟨⟨h1, h2⟩, h3⟩ := h
    simp only [memErase, List.filter_cons]
    split
    · simp only [memWfFrom, Bool.and_eq_true]; exact ⟨⟨h1, h2⟩, ih _ h3⟩
    · refine ih _ ?_
      cases lo with
      | none => exact memWfFrom_weaken _ _ h3
      | some l => exact memWfFrom_lower _ _ _ (by simp at h1; omega) h3

theorem memWfFrom_memInsert (m : Mem) (k : Nat) (v : Byte) (hv : v ≠ 0) :
    ∀ lo : Option Nat, (lo.all (· < k)) = true → memWfFrom lo m = true → memWfFrom lo (memInsert m k v) = true := by
  induction m with
  | nil => intro lo hl _; simp [memInsert, memWfFrom, hl]; simpa using hv
  | cons e m ih =>
    obtain ⟨a, b⟩ := e
    intro lo hl h
    simp only [memWfFrom, Bool.and_eq_true] at h
    obtain ⟨⟨h1, h2⟩, h3⟩ := h
    simp only [memInsert]
    split
    · subst_vars; simp [memWfFrom, hl, h3]; simpa using hv
    · split
      · simp only [memWfFrom, Bool.and_eq_true]
        refine ⟨⟨hl, by simpa using hv⟩, ⟨by simpa, h2⟩, h3⟩
      · simp only [memWfFrom, Bool.and_eq_true]
        exact ⟨⟨h1, h2⟩, ih _ (by simp; omega) h3⟩

/-- A byte write keeps the canonical form. -/
theorem memWf_memWrite (m : Mem) (k : Nat) (v : Byte) (h : memWf m = true) : memWf (memWrite m k v) = true := by
  unfold memWrite
  split
  · exact memWfFrom_memErase _ _ _ h
  · exact memWfFrom_memInsert _ _ _ ‹_› _ rfl h

/-- A write of many bytes keeps the canonical form. -/
theorem memWf_memWriteAll (cells : List (Nat × Byte)) : ∀ m, memWf m = true → memWf (memWriteAll m cells) = true := by
  induction cells with
  | nil => intro m h; exact h
  | cons c cells ih => intro m h; exact ih _ (memWf_memWrite _ _ _ h)

/-- Memory in canonical form stays so when some cells go. -/
theorem memWfFrom_filter (p : Host.Cell → Bool) (m : Mem) : ∀ lo, memWfFrom lo m = true → memWfFrom lo (m.filter p) = true := by
  induction m with
  | nil => intro lo h; exact h
  | cons e m ih =>
    obtain ⟨a, b⟩ := e
    intro lo h
    simp only [memWfFrom, Bool.and_eq_true] at h
    obtain ⟨⟨h1, h2⟩, h3⟩ := h
    simp only [List.filter_cons]
    split
    · simp only [memWfFrom, Bool.and_eq_true]; exact ⟨⟨h1, h2⟩, ih _ h3⟩
    · refine ih _ ?_
      cases lo with
      | none => exact memWfFrom_weaken _ _ h3
      | some l => exact memWfFrom_lower _ _ _ (by simp at h1; omega) h3

/-- The memory of `writeCells`: the bytes of this device, and no other. -/
theorem writeCells_mem (s : State) (cells : List (Nat × Byte)) :
    (s.writeCells cells).mem = memWriteAll s.mem (cells.filter fun c => c.1 < remoteBase) := rfl

theorem writeCells_am (s : State) (cells : List (Nat × Byte)) : (s.writeCells cells).am = s.am := rfl

theorem writeCells_threads (s : State) (cells : List (Nat × Byte)) : (s.writeCells cells).threads = s.threads := rfl

theorem writeCells_checkpoints (s : State) (cells : List (Nat × Byte)) : (s.writeCells cells).checkpoints = s.checkpoints := rfl

/-- A byte outside the written keys is as before (R201). -/
theorem writeCells_other (s : State) (cells : List (Nat × Byte)) (a : Nat) (h : ∀ c ∈ cells, c.1 ≠ a) :
    memRead (s.writeCells cells).mem a = memRead s.mem a := by
  rw [writeCells_mem]
  exact memRead_memWriteAll_other _ _ _ fun c hc => h c (List.mem_of_mem_filter hc)

/-- A performed write keeps every memory canonical. -/
theorem writeCells_memOk (s : State) (cells : List (Nat × Byte)) (h : Safety.MemOk s) : Safety.MemOk (s.writeCells cells) :=
  ⟨memWf_memWriteAll _ _ h.1, h.2.1, h.2.2⟩

/-! ### Messages to host memory and other devices (R450, R454) -/

/-- A field that no flit changes is as it was after a message. -/
theorem postMessage_field {α : Type} (g : State → α) (h : ∀ s port vc l, g (State.postPart s port vc l) = g s) (s : State) (port vc : Nat)
    (l : List Byte) : g (s.postMessage port vc l) = g s := by
  unfold State.postMessage
  generalize flitParts _ _ _ = parts
  induction parts generalizing s with
  | nil => rfl
  | cons p ps ih => exact (ih _).trans (h ..)

@[simp] theorem postMessage_mem (s : State) (port vc : Nat) (l : List Byte) : (s.postMessage port vc l).mem = s.mem :=
  postMessage_field (·.mem) (fun _ _ _ _ => rfl) ..
@[simp] theorem postMessage_threads (s : State) (port vc : Nat) (l : List Byte) : (s.postMessage port vc l).threads = s.threads :=
  postMessage_field (·.threads) (fun _ _ _ _ => rfl) ..
@[simp] theorem postMessage_clusters (s : State) (port vc : Nat) (l : List Byte) : (s.postMessage port vc l).clusters = s.clusters :=
  postMessage_field (·.clusters) (fun _ _ _ _ => rfl) ..

/-- A field that no message changes is as it was after a request. -/
theorem farRequest_field {α : Type} (g : State → α) (h : ∀ s port vc l, g (State.postMessage s port vc l) = g s) (s : State) (part kind : Nat)
    (keys : List Nat) (data : List Byte) : g (s.farRequest part kind keys data) = g s := by
  unfold State.farRequest
  generalize dedup _ = ports
  have : ∀ (bytes : State → List Byte) (ports : List Nat) (u : State), g (ports.foldl (fun u port =>
      u.postMessage port (if kind = 2 && port = 0 && (u.link 0).gen3 then 3 else 0) (bytes u)) u) = g u := by
    intro bytes ports
    induction ports with
    | nil => exact fun _ => rfl
    | cons p ps ih => exact fun u => (ih _).trans (h ..)
  exact this (fun u => Config.messageBytes kind [u.devno.toNat, part, (farAddr (keys.headD 0)).toNat, keys.length] data) ports s

@[simp] theorem farRequest_mem (s : State) (part kind : Nat) (keys : List Nat) (data : List Byte) :
    (s.farRequest part kind keys data).mem = s.mem := farRequest_field (·.mem) postMessage_mem ..
@[simp] theorem farRequest_threads (s : State) (part kind : Nat) (keys : List Nat) (data : List Byte) :
    (s.farRequest part kind keys data).threads = s.threads := farRequest_field (·.threads) postMessage_threads ..
@[simp] theorem farRequest_clusters (s : State) (part kind : Nat) (keys : List Nat) (data : List Byte) :
    (s.farRequest part kind keys data).clusters = s.clusters := farRequest_field (·.clusters) postMessage_clusters ..

/-- An access whose bytes all lie in the device sends nothing. -/
theorem farRequest_near (s : State) (part kind : Nat) (keys : List Nat) (data : List Byte) (h : ∀ a ∈ keys, portOf a = none) :
    s.farRequest part kind keys data = s := by
  have : (keys.take 1 ++ keys.drop (keys.length - 1)).filterMap portOf = [] := by
    rw [List.filterMap_eq_nil_iff]
    intro a ha
    exact h a ((List.mem_append.1 ha).elim List.mem_of_mem_take List.mem_of_mem_drop)
  simp [State.farRequest, this, dedup]

/-- Page-table lines in this device send nothing for a walk (R450). -/
theorem walkReads_near (s : State) (cl : Nat) (lines : List Nat) (h : ∀ l ∈ lines, hostKey (l * 64) = false) : s.walkReads cl lines = s := by
  have : (lines.filter fun l => hostKey (l * 64) && !Config.cachedTable s.free l) = [] := by
    rw [List.filter_eq_nil_iff]
    intro l hl
    simp [h l hl]
  simp [State.walkReads, this]

/-- A field that no request changes is as it was after a walk's requests. -/
theorem walkReads_field {α : Type} (g : State → α) (h : ∀ s part kind keys data, g (State.farRequest s part kind keys data) = g s) (s : State)
    (cl : Nat) (lines : List Nat) : g (s.walkReads cl lines) = g s := by
  unfold State.walkReads
  generalize List.filter _ _ = lines
  induction lines generalizing s with
  | nil => rfl
  | cons p ps ih => exact (ih _).trans (h ..)

@[simp] theorem walkReads_mem (s : State) (cl : Nat) (lines : List Nat) : (s.walkReads cl lines).mem = s.mem :=
  walkReads_field (·.mem) farRequest_mem ..
@[simp] theorem walkReads_threads (s : State) (cl : Nat) (lines : List Nat) : (s.walkReads cl lines).threads = s.threads :=
  walkReads_field (·.threads) farRequest_threads ..
@[simp] theorem walkReads_clusters (s : State) (cl : Nat) (lines : List Nat) : (s.walkReads cl lines).clusters = s.clusters :=
  walkReads_field (·.clusters) farRequest_clusters ..

end Sys2Proof.Machine
end

