-- ==== Sys2Proof/Tests/Slice0.lean ====
section
/-! SUPPORT. The model's own tests: the operand checks of well-formedness, a word of every encoded instruction written out from the
formats of Table 2.1 and the family tables of chapter 3, worked examples of the spec, and for every statement with hypotheses a state
that meets them. -/

namespace Sys2Proof.Tests

open Machine Safety

set_option maxRecDepth 20000

set_option Elab.async false

/-! ### Well-formedness: a term each check refuses -/

/-- R53 and R93 to R96: a format code of 12, an 8-byte `ldu`, a release load, an acquire store, a scope of 5, no pair. -/
theorem test_ill_formed_memory : ([.pfx 12 0 0, .pfx 0 12 0, .ldu 1 2 0 3 0, .ldIndexed 1 2 3 0 2 0, .ldIndexed 1 2 3 0 1 5, .lduIndexed 1 2 3 3 0 0,
    .lduIndexed 1 2 3 0 3 0, .stIndexed 1 2 3 0 1 0, .stIndexed 1 2 3 0 2 5, .ldfIndexed 1 2 3 0 2 0, .stfIndexed 1 2 3 0 3 0,
    .fence 0 0, .fence 1 5] : List Instr).all (fun i => !WellFormed i) = true := by decide +kernel

/-- R95: a scope code of 5 to 7 of an atomic. -/
theorem test_ill_formed_atomics : ([.aadd 1 2 3 0 0 5, .aand 1 2 3 0 0 5, .aor 1 2 3 0 0 5, .axor 1 2 3 0 0 6, .amin 1 2 3 0 0 6, .amax 1 2 3 0 0 6,
    .aminu 1 2 3 0 0 7, .amaxu 1 2 3 0 0 7, .aswap 1 2 3 0 0 7, .acas 1 2 3 0 0 5, .afaddF32 1 2 3 0 5, .afaddBf16 1 2 3 0 5]
    : List Instr).all (fun i => !WellFormed i) = true := by decide +kernel

/-- R99 to R102, R248, R38 and R76: w0 where a pair or a line is named, an unassigned system register, a register range downward,
a loop with no index, guard or step. -/
theorem test_ill_formed_operands : ([.wlpop 0, .pwait 0, .ccopy 1 0, .cgath 1 0, .cscat 1 0, .sysrd 1 0x005, .syswr 1 0x111,
    .sysset 1 2 0x013, .sysclr 1 2 0x0FF, .msvw 2 3 1, .mrsw 2 3 1, .msvf 2 3 1, .mrsf 2 3 1, .eloop 0 1 0 1 0, .eloop 1 1 0 0 0, .eloop 1 1 3 1 0]
    : List Instr).all (fun i => !WellFormed i) = true := by decide +kernel

/-- Events that name a place no device has: a cluster 384, a barrel slot 16, a partition 8, a bank 16, a key 64, a group 256. -/
theorem test_ill_formed_events : ([.loadPerformed (384 * 20 * 256) 0, .storePerformed 16 0, .timerExpiry 384 0, .timerExpiry 0 20, .slotFill 0 0 16, .launchPlace 8 0,
    .csmBankSwitchComplete 0 16, .grantKeyDeadline 0 64, .barrierArrival 0 256, .recordDelivery 16, .mxeGrant 0 2, .streamElementRead 0 4,
    .tickRecvGather 0 256, .smcInvalidCommand 1, .dieRelease 4, .fullServiceStep 2049, .coreRailOvercurrent 257, .linkDown 17,
    .uncorrectableError 8 0 0 true] : List Instr).all (fun i => !WellFormed i) = true := by decide +kernel

/-! ### Words, in the formats of Table 2.1 -/

def wA (op d a b fn : Nat) : BitVec 32 := BitVec.ofNat 32 (op * 2 ^ 25 + d * 2 ^ 20 + a * 2 ^ 15 + b * 2 ^ 10 + fn)
def wI (op d a imm15 : Nat) : BitVec 32 := BitVec.ofNat 32 (op * 2 ^ 25 + d * 2 ^ 20 + a * 2 ^ 15 + imm15)
def wK (op d a k8 fn : Nat) : BitVec 32 := BitVec.ofNat 32 (op * 2 ^ 25 + d * 2 ^ 20 + a * 2 ^ 15 + k8 * 2 ^ 7 + fn)
def wM (op d a off11 size order : Nat) : BitVec 32 :=
  BitVec.ofNat 32 (op * 2 ^ 25 + d * 2 ^ 20 + a * 2 ^ 15 + off11 * 2 ^ 4 + size * 2 ^ 2 + order)
def wB (op pred neg off21 : Nat) : BitVec 32 := BitVec.ofNat 32 (op * 2 ^ 25 + pred * 2 ^ 22 + neg * 2 ^ 21 + off21)
def wJ (op d off20 : Nat) : BitVec 32 := BitVec.ofNat 32 (op * 2 ^ 25 + d * 2 ^ 20 + off20)
def wC (op engine fn a b context imm : Nat) : BitVec 32 :=
  BitVec.ofNat 32 (op * 2 ^ 25 + engine * 2 ^ 22 + fn * 2 ^ 16 + a * 2 ^ 11 + b * 2 ^ 6 + context * 2 ^ 2 + imm)
def wW (op ld st cp tl fl : Nat) : BitVec 32 := BitVec.ofNat 32 (op * 2 ^ 25 + ld * 2 ^ 21 + st * 2 ^ 17 + cp * 2 ^ 13 + tl * 2 ^ 9 + fl)
def wX (op fa fb sel : Nat) : BitVec 32 := BitVec.ofNat 32 (op * 2 ^ 25 + fa * 2 ^ 21 + fb * 2 ^ 17 + sel * 2 ^ 11)
def wS (op d a sysreg fn : Nat) : BitVec 32 := BitVec.ofNat 32 (op * 2 ^ 25 + d * 2 ^ 20 + a * 2 ^ 15 + sysreg * 2 ^ 3 + fn)

/-- The words decode to the instructions beside them. -/
def reads (l : List (BitVec 32 × Instr)) : Bool := l.all fun e => decode e.1 == .ok e.2

/-- Table 3.2. -/
theorem test_words_integer : reads [(wA 1 5 6 7 0x000, .add 5 6 7), (wA 1 5 6 7 0x001, .sub 5 6 7), (wA 1 5 6 7 0x002, .mul 5 6 7),
    (wA 1 5 6 7 0x003, .mulh 5 6 7), (wA 1 5 6 7 0x004, .mulhu 5 6 7), (wA 1 5 6 7 0x005, .div 5 6 7), (wA 1 5 6 7 0x006, .divu 5 6 7),
    (wA 1 5 6 7 0x007, .rem 5 6 7), (wA 1 5 6 7 0x008, .remu 5 6 7), (wA 1 5 6 7 0x010, .and 5 6 7), (wA 1 5 6 7 0x011, .or 5 6 7),
    (wA 1 5 6 7 0x012, .xor 5 6 7), (wA 1 5 6 7 0x013, .andn 5 6 7), (wA 1 5 6 7 0x018, .sll 5 6 7), (wA 1 5 6 7 0x019, .srl 5 6 7),
    (wA 1 5 6 7 0x01A, .sra 5 6 7), (wA 1 5 6 7 0x01B, .ror 5 6 7), (wA 1 5 6 0 0x020, .clz 5 6), (wA 1 5 6 0 0x021, .ctz 5 6),
    (wA 1 5 6 0 0x022, .popc 5 6), (wA 1 5 6 0 0x023, .brev 5 6), (wA 1 5 6 0 0x024, .bswap 5 6), (wA 1 5 6 7 0x028, .min 5 6 7),
    (wA 1 5 6 7 0x029, .max 5 6 7), (wA 1 5 6 7 0x02A, .minu 5 6 7), (wA 1 5 6 7 0x02B, .maxu 5 6 7), (wA 1 5 6 7 0x030, .slt 5 6 7),
    (wA 1 5 6 7 0x031, .sltu 5 6 7), (wA 1 5 6 7 0x03B, .sel 3 5 6 7), (wA 1 5 6 7 0x040, .bfxu 5 6 7), (wA 1 5 6 7 0x041, .bfxs 5 6 7),
    (wA 1 5 6 7 0x042, .bfi 5 6 7)] = true := by decide +kernel

/-- Tables 3.3 and 3.5, R86: the kind of a shift is imm15[8:6]. -/
theorem test_words_immediate : reads [(wI 2 5 6 0x7FFF, .addi 5 6 0x7FFF), (wI 3 5 6 1, .andi 5 6 1), (wI 4 5 6 1, .ori 5 6 1), (wI 5 5 6 1, .xori 5 6 1),
    (wI 6 5 6 1, .slti 5 6 1), (wI 7 5 6 (0 * 64 + 63), .slli 5 6 63), (wI 7 5 6 (1 * 64 + 63), .srli 5 6 63), (wI 7 5 6 (2 * 64 + 63), .srai 5 6 63),
    (wI 7 5 6 (3 * 64 + 63), .rori 5 6 63), (wI 7 5 6 (4 * 64 + 31), .slliw 5 6 31), (wI 7 5 6 (5 * 64 + 31), .srliw 5 6 31),
    (wI 7 5 6 (6 * 64 + 31), .sraiw 5 6 31), (wI 7 5 6 (7 * 64 + 31), .roriw 5 6 31), (wJ 8 5 0x80000, .lui 5 0x80000),
    (wK 9 5 0 200 0, .ldk 5 200), (wK 9 5 6 200 1, .addk 5 6 200), (wK 9 5 6 200 2, .subk 5 6 200), (wK 9 5 6 200 3, .andk 5 6 200),
    (wK 9 5 0 200 4, .ldkf 5 200)] = true := by decide +kernel

theorem test_words_predicate : reads [(wA 0xA 5 6 7 0x000, .cpeq 5 6 7), (wA 0xA 5 6 7 0x001, .cpne 5 6 7), (wA 0xA 5 6 7 0x002, .cplt 5 6 7),
    (wA 0xA 5 6 7 0x003, .cpltu 5 6 7), (wA 0xA 5 6 7 0x004, .cpge 5 6 7), (wA 0xA 5 6 7 0x005, .cpgeu 5 6 7), (wA 0xA 5 14 7 0x010, .pand 5 14 7),
    (wA 0xA 5 14 7 0x011, .por 5 14 7), (wA 0xA 5 14 7 0x012, .pxor 5 14 7), (wA 0xA 5 30 0 0x018, .pmovw 5 30), (wA 0xA 29 14 0 0x019, .wmovp 29 14)]
    = true := by decide +kernel

/-- R88, R53 and Table 2.14, with the words of Table 2.3. -/
theorem test_words_control : reads [(0x20FFFFFD, .br 3 1 0x1FFFFD), (wJ 0x11 5 0xFFFFF, .jal 5 0xFFFFF), (wA 0x12 5 6 0 0, .jalr 5 6),
    (0x38A20000, .pfx 5 1 0), (BitVec.ofNat 32 (0x7E * 2 ^ 25 + 5 * 2 ^ 20 + 6 * 2 ^ 15 + 1 * 2 ^ 13 + 2 * 2 ^ 10 + 0x3FE), .eloop 5 6 1 2 0x3FE)] = true := by decide +kernel

/-- Table 3.7, with the words of Table 3.23. -/
theorem test_words_float : reads [(0x30110C00, .fadd 1 2 3 0), (0x30110C01, .fadd 1 2 3 1), (wA 0x18 5 6 7 (1 * 2), .fsub 5 6 7 0), (wA 0x18 5 6 7 (2 * 2 + 1), .fmul 5 6 7 1),
    (wA 0x18 5 6 7 (3 * 2), .fdiv 5 6 7 0), (wA 0x18 5 6 0 (4 * 2 + 1), .fsqrt 5 6 1), (wA 0x18 5 6 7 (5 * 2), .fmadd 5 6 7 0), (wA 0x18 5 6 7 (6 * 2), .fmsub 5 6 7 0),
    (wA 0x18 5 6 7 (7 * 2), .fnmadd 5 6 7 0), (wA 0x18 5 6 7 (8 * 2), .fnmsub 5 6 7 0), (wA 0x18 5 6 7 (9 * 2), .fmin 5 6 7 0), (wA 0x18 5 6 7 (10 * 2), .fmax 5 6 7 0),
    (wA 0x18 5 6 7 (11 * 2), .fsgnj 5 6 7 0), (wA 0x18 5 6 7 (12 * 2), .fsgnjn 5 6 7 0), (wA 0x18 5 6 7 (13 * 2), .fsgnjx 5 6 7 0), (wA 0x18 5 6 7 (14 * 2), .fceq 5 6 7 0),
    (wA 0x18 5 6 7 (15 * 2), .fclt 5 6 7 0), (wA 0x18 5 6 7 (16 * 2), .fcle 5 6 7 0), (wA 0x18 5 6 7 (17 * 2), .fcun 5 6 7 0), (wA 0x18 5 6 0 (18 * 2), .fclass 5 6 0),
    (wA 0x18 5 6 0 (19 * 2), .frint 5 6 0), (wA 0x18 5 6 0 (20 * 2), .fmov 5 6), (wA 0x18 5 6 0 (21 * 2), .fmvwf 5 6), (wA 0x18 5 6 0 (22 * 2), .fmvfw 5 6)]
    = true := by decide +kernel

/-- R90 to R92. -/
theorem test_words_convert : reads [(wA 0x19 5 6 7 (1 * 64 + 3 * 4 + 2), .cvt 5 6 7 1 3 1), (wA 0x19 5 6 0 (11 * 64 + 0 * 4 + 1), .cvti 5 6 11 0 0),
    (wA 0x1A 5 6 0 0, .fexp2 5 6), (wA 0x1A 5 6 0 1, .flog2 5 6), (wA 0x1A 5 6 0 2, .frsqrt 5 6), (wA 0x1A 5 6 0 3, .fsin 5 6), (wA 0x1A 5 6 0 4, .fcos 5 6),
    (wA 0x1B 5 6 7 (3 * 64 + 0 * 2 + 1), .nadd 5 6 7 3 1), (wA 0x1B 5 6 7 (4 * 64 + 1 * 2), .nsub 5 6 7 4 0), (wA 0x1B 5 6 7 (5 * 64 + 2 * 2), .nmul 5 6 7 5 0),
    (wA 0x1B 5 6 7 (3 * 64 + 3 * 2), .nfma 5 6 7 3 0), (wA 0x1B 5 6 7 (3 * 64 + 4 * 2), .nmin 5 6 7 3 0), (wA 0x1B 5 6 7 (3 * 64 + 5 * 2), .nmax 5 6 7 3 0),
    (wA 0x1B 5 6 7 (3 * 64 + 6 * 2), .ndot 5 6 7 3 0)] = true := by decide +kernel

/-- Tables 3.11 to 3.14, with words of Tables 2.3 and 3.23. -/
theorem test_words_memory : reads [(0x40520049, .ld 5 4 4 2 1), (wM 0x21 5 6 0x7FF 2 1, .ldu 5 6 0x7FF 2 1), (wM 0x22 5 6 1 3 2, .st 5 6 1 3 1), (wM 0x23 5 6 1 3 0, .ldf 5 6 1 3 0),
    (wM 0x24 5 6 1 3 2, .stf 5 6 1 3 1), (wM 0x29 3 6 1 2 0, .pref 3 6 1 2), (wA 0x25 5 6 7 (0 * 128 + 2 * 32 + 1 * 8 + 1), .ldIndexed 5 6 7 2 1 1),
    (wA 0x25 5 6 7 (1 * 128 + 2 * 32 + 0 * 8 + 3), .lduIndexed 5 6 7 2 0 3), (wA 0x25 5 6 7 (2 * 128 + 3 * 32 + 2 * 8 + 4), .stIndexed 5 6 7 3 2 4),
    (wA 0x25 5 6 7 (3 * 128 + 3 * 32), .ldfIndexed 5 6 7 3 0 0), (wA 0x25 5 6 7 (4 * 128 + 3 * 32), .stfIndexed 5 6 7 3 0 0),
    (wA 0x26 5 6 7 (0 * 32), .aadd 5 6 7 0 0 0), (wA 0x26 5 6 7 (3 * 32 + 1 * 8), .aand 5 6 7 1 1 0), (wA 0x26 5 6 7 (4 * 32), .aor 5 6 7 0 0 0), (wA 0x26 5 6 7 (6 * 32), .axor 5 6 7 0 0 0),
    (wA 0x26 5 6 7 (8 * 32), .amin 5 6 7 0 0 0), (wA 0x26 5 6 7 (10 * 32), .amax 5 6 7 0 0 0), (wA 0x26 5 6 7 (12 * 32), .aminu 5 6 7 0 0 0), (wA 0x26 5 6 7 (14 * 32), .amaxu 5 6 7 0 0 0),
    (wA 0x26 5 6 7 (16 * 32), .aswap 5 6 7 0 0 0), (0x4C521A79, .acas 5 4 6 1 3 1), (wA 0x26 5 6 7 (20 * 32 + 3), .afaddF32 5 6 7 0 3), (wA 0x26 5 6 7 (21 * 32), .afaddBf16 5 6 7 0 0),
    (wA 0x27 0 0 0 (0 * 128 + 9 * 8 + 2), .fence 9 2), (wA 0x27 0 0 0 (1 * 128), .ifence), (wA 0x28 0 6 0 0, .cflush 6), (wA 0x28 0 6 0 1, .cclean 6), (wA 0x28 0 6 0 2, .cinval 6),
    (wA 0x28 0 6 0 3, .czero 6)] = true := by decide +kernel

/-- Tables 3.15, 3.16 and 3.18. -/
theorem test_words_lanes_and_threads : reads [(wA 0x30 5 6 7 0, .shfl 5 6 7), (wA 0x30 5 6 7 1, .shflup 5 6 7), (wA 0x30 5 6 7 2, .shfldn 5 6 7), (wA 0x30 5 6 7 3, .shflx 5 6 7),
    (wA 0x30 5 6 7 4, .fshfl 5 6 7), (wA 0x30 5 6 7 5, .fshflup 5 6 7), (wA 0x30 5 6 7 6, .fshfldn 5 6 7), (wA 0x30 5 6 7 7, .fshflx 5 6 7), (wA 0x30 5 14 0 8, .vall 5 14),
    (wA 0x30 5 14 0 9, .vany 5 14), (wA 0x30 25 14 0 10, .vbal 25 14), (wA 0x30 25 0 0 11, .lmask 25), (wA 0x34 0 6 7 0, .qpush 6 7), (wA 0x34 5 6 0 1, .qpop 5 6),
    (wA 0x34 5 6 0 2, .qtry 5 6), (wA 0x34 5 6 0 3, .qlen 5 6), (wA 0x34 0 6 7 4, .wlpush 6 7), (wA 0x34 30 0 0 5, .wlpop 15), (wA 0x34 0 6 7 6, .rqpush 6 7), (wA 0x34 5 0 0 7, .rqpop 5),
    (wA 0x34 0 6 7 8, .msend 6 7), (wA 0x34 5 0 0 9, .mrecv 5), (wA 0x35 5 6 7 0, .spawn 5 6 7), (wA 0x35 0 6 0 1, .join 6), (wA 0x35 0 0 0 2, .exit), (wA 0x35 0 0 0 3, .sleep),
    (wA 0x35 0 6 0 4, .wake 6), (wA 0x35 0 0 0 5, .yield), (wA 0x35 0 6 0 6, .migrate 6), (wA 0x39 5 6 0 0, .launch 5 6), (wJ 0x36 0 0x80001, .gcall 0x80001), (wJ 0x36 1 0, .gret),
    (wA 0x37 0 0 0 (0 * 256 + 200), .bsync 200), (wA 0x37 0 0 0 (1 * 256 + 200), .barv 200), (wA 0x37 0 0 0 (2 * 256 + 200), .bwait 200), (wA 0x37 5 0 0 (3 * 256 + 200), .bquery 5 200),
    (wW 0x38 1 2 3 15 0, .wait 1 2 3 15), (wW 0x38 15 15 15 15 (6 * 16 + 1), .pwait 6)] = true := by decide +kernel

/-- Table 3.19; the register pair of a copy is b and b + 1 with b even. -/
theorem test_words_engines : reads [(wC 0x40 0 0 6 0 4 2, .mcfg 6 4 2), (wC 0x40 0 1 6 0 4 0, .msel 6 4), (wC 0x40 0 2 6 7 4 0, .mlds 6 7 4), (wC 0x40 0 3 0 0 4 0, .mswp 4), (wC 0x40 0 4 6 7 4 0, .mma 6 7 4),
    (wC 0x40 0 5 6 7 4 0, .mmas 6 7 4), (wC 0x40 0 6 0 7 4 0, .mzero 7 4), (wC 0x40 0 7 6 7 4 0, .mdrn 6 7 4), (wC 0x40 0 8 6 7 4 0, .mdrna 6 7 4), (wC 0x40 0 9 6 7 4 0, .mdrno 6 7 4),
    (wC 0x40 0 10 6 7 4 0, .mrdr 6 7 4), (wC 0x40 0 11 6 7 4 0, .mwrr 6 7 4), (wC 0x40 0 12 6 0 4 3, .mstat 6 4 3), (wC 0x40 1 0 6 8 0 0, .ccopy 6 4), (wC 0x40 1 1 6 8 0 0, .cgath 6 4),
    (wC 0x40 1 2 6 8 0 0, .cscat 6 4), (wC 0x40 1 3 6 0 0 1, .cstat 6 1), (wC 0x40 1 4 6 7 0 1, .pquery 6 7 1), (wC 0x40 1 5 6 7 0 0, .lquery 6 7), (wC 0x40 2 0 6 0 4 2, .ncfg 6 4 2),
    (wC 0x40 2 1 6 7 4 0, .nld 6 7 4), (wC 0x40 2 2 6 7 0 0, .ninj 6 7), (wC 0x40 2 3 6 0 4 0, .ntick 6 4), (wC 0x40 2 4 6 7 4 3, .nrd 6 7 4 3), (wC 0x40 2 5 6 7 4 0, .nspk 6 7 4),
    (wC 0x40 3 0 6 0 4 3, .tcfg 6 4 3), (wC 0x40 3 1 6 7 4 0, .tdesc 6 7 4), (wC 0x40 3 2 6 7 4 0, .texp 6 7 4), (wC 0x40 3 3 6 7 4 0, .tback 6 7 4), (wC 0x40 3 4 6 0 4 0, .troot 6 4),
    (wC 0x40 3 5 6 7 4 2, .trdn 6 7 4 2), (wC 0x40 3 6 6 7 4 0, .tvl 6 7 4), (wC 0x40 4 0 6 7 3 0, .scfg 6 7 3), (wC 0x40 4 1 0 0 3 0, .son 3), (wC 0x40 4 2 0 0 3 0, .soff 3),
    (wC 0x40 5 0 6 7 0 0, .hplace 6 7)] = true := by decide +kernel

/-- Table 3.20. -/
theorem test_words_system : reads [(wS 0x60 5 0 0x106 0, .sysrd 5 0x106), (wS 0x60 0 6 0x106 1, .syswr 6 0x106), (wS 0x60 5 6 0x106 2, .sysset 5 6 0x106), (wS 0x60 5 6 0x106 3, .sysclr 5 6 0x106),
    (wS 0x60 5 6 0 4, .feat 5 6), (wS 0x60 0 6 0 5, .timer 6), (wA 0x61 0 0 0 0, .svc), (wA 0x61 0 0 0 1, .brk), (wA 0x61 0 0 0 2, .rft), (wA 0x61 0 0 0 3, .wfi),
    (wA 0x62 5 6 7 0, .msvw 5 6 7), (wA 0x62 5 6 7 1, .mrsw 5 6 7), (wA 0x62 5 6 7 2, .msvf 5 6 7), (wA 0x62 5 6 7 3, .mrsf 5 6 7)] = true := by decide +kernel

/-- R79 and Table 3.23: the all-zero and the all-ones word, an unassigned operation, and a reserved bit are no instruction. -/
theorem test_words_refused : (decode 0, decode 0xFFFFFFFF, decode 0x30110C30, decode (wA 1 5 6 7 0x020), decode (wX 0x1C 0 0 0 + 1)) =
    (.error .unassignedOpcode, .error .unassignedOpcode, .error .unassignedFunction, .error .reservedField, .error .reservedField) := by decide +kernel

/-! ### Small machines -/

/-- A thread at 0x1_0000, and one that holds w and f registers. -/
def th : Thread := { Thread.zero with pc := 0x10000 }
def withW (t : Thread) (l : List (Reg × Word)) : Thread := l.foldl (fun t e => setW t e.1 e.2) t
def withF (t : Thread) (l : List (Reg × Word)) : Thread := l.foldl (fun t e => setF t e.1 e.2) t

/-- Half-die 0 with granule 0, with handlers at 0x2_0000. -/
def part0 : Partition := { fetchPartition with svcbase := 0x20000 }

/-- One SC thread, `t`, in slot 0 of core 0 of cluster 0, issuing. -/
def on (t : Thread) : State :=
  { State.reset with parts := [(0, part0)], threads := [(0, t)], stage := .full, cur := { cl := 0, core := 0, slot := 0, lanes := [0], pfx := none } }

def sc : State := on th

/-- A gang of lanes in slot 0 of GC 16 of cluster 0, all issuing. -/
def gang (ts : List Thread) : State :=
  { sc with
    threads := ts.zipIdx.map fun e => (keyOf 0 16 e.2, e.1)
    cur := { cl := 0, core := 16, slot := 0, lanes := List.range ts.length, pfx := none } }

def gc : State := gang [th, { th with uid := 1 }]

/-- What an instruction leaves of the thread at a position. -/
def left (i : Instr) (s : State) (k : Nat) : Option Thread :=
  match exec i s with
  | .next u => u.thread k
  | _ => none

/-! ### Worked examples of the spec -/

/-- Example 2.2, passes 1 and 2. -/
theorem test_loop_example : (left (.eloop 5 6 1 2 0) (on (withW th [(6, 300)])) 0).map (fun t => (readW t 5, readP t 2)) = some (128, true) ∧
    (left (.eloop 5 6 1 2 0) (on (withW th [(5, 128), (6, 300)])) 0).map (fun t => (readW t 5, readP t 2, t.pc)) = some (256, false, 0x10000) := by decide +kernel

/-- Example 2.2, pass 3. -/
theorem test_loop_ends : (left (.eloop 5 6 1 2 0) (on (withW th [(5, 256), (6, 300)])) 0).map (fun t => (readW t 5, readP t 2, t.pc)) =
    some (384, false, 0x10004) := by decide +kernel

/-- Example 4.1. -/
theorem test_convert_once_and_twice : (left (.cvt 8 4 0 1 5 0) (on (withF th [(4, 0x3F880800)])) 0).map (fun t => (readF t 8 &&& 0xFF, t.fflags)) = some (0x39, 1) ∧
    (left (.cvt 8 4 0 3 5 0) (on (withF th [(4, 0x3F88)])) 0).map (fun t => (readF t 8 &&& 0xFF, t.fflags)) = some (0x38, 1) := by decide +kernel

/-- Example 4.2: mode 5 draws from RNDSEED. -/
theorem test_stochastic_example : (left (.cvt 8 4 0 1 3 0) (on { withF th [(4, 0x3F804000)] with xstat := 5 <<< 2 }) 0).map
    (fun t => (readF t 8, t.rndseed, t.fflags)) = some (0x3F81, 0x42021, 1) := by decide +kernel

/-- Example 4.4: c0, c1, c2 in order, and c1, c2, c0, on FP32 words. -/
theorem test_reduction_orders : ([0x3F800000, 0x4B800000, 0xCB800000].foldl (fun d c => (roundExact false .f32 0 false (addV 0 (valueOf .f32 0 d) (valueOf .f32 0 c))).bits) 0,
    [0x4B800000, 0xCB800000, 0x3F800000].foldl (fun d c => (roundExact false .f32 0 false (addV 0 (valueOf .f32 0 d) (valueOf .f32 0 c))).bits) 0) = (0, 0x3F800000) := by decide +kernel

/-- Example 5.1. -/
theorem test_constant_pair : (left (.lui 5 0x2468A) sc 0).map (readW · 5) = some 0x123450000 ∧
    (left (.ori 5 5 0x6789) (on (withW th [(5, 0x123450000)])) 0).map (readW · 5) = some 0x123456789 := by decide +kernel

/-- Example 5.2: lane 3 reads its own register. -/
theorem test_shuffle_down : [4096, 4097, 4098, 4099].map (fun k => (left (.shfldn 6 5 7) (gang ([10, 11, 12, 13].map fun v => withW th [(5, v), (7, 1)])) k).map (readW · 6)) =
    [some 11, some 12, some 13, some 13] := by decide +kernel

/-- Example 5.3: one rounding. -/
theorem test_fused_example : (left (.fmadd 4 5 6 1) (on (withF th [(5, 0x3FF0000000000001), (6, 0x3FF0000000000001), (4, 0xBFF0000000000000)])) 0).map
    (fun t => (readF t 4, t.fflags)) = some (0x3CC0000000000000, 1) := by decide +kernel

/-- Example 5.5: above the largest E4M3 value, without and with SAT. -/
theorem test_narrow_overflow : (left (.nmul 1 2 3 5 0) (on (withF th [(2, 0x3838383838383877), (3, 0x3838383838383840)])) 0).map (fun t => (readF t 1, t.fflags)) = some (0x383838383838387F, 16) ∧
    (left (.nmul 1 2 3 5 1) (on (withF th [(2, 0x3838383838383877), (3, 0x3838383838383840)])) 0).map (fun t => (readF t 1, t.fflags)) = some (0x383838383838387E, 33) := by decide +kernel

/-- R141: the quotient rounds toward zero and the remainder has the sign of the dividend. -/
theorem test_divide_signs : (left (.div 5 6 7) (on (withW th [(6, -7), (7, 2)])) 0).map (readW · 5) = some (-3) ∧
    (left (.rem 5 6 7) (on (withW th [(6, -7), (7, 2)])) 0).map (readW · 5) = some (-1) := by decide +kernel

/-- R39, R317: `jalr` reads w1 before it writes it, and drops the low bits of the target. -/
theorem test_jump_reads_first : (left (.jalr 1 1) (on (withW th [(1, 0x30007)])) 0).map (fun t => (t.pc, readW t 1)) = some (0x30004, 0x10004) := by decide +kernel

/-- R413: `svc` on an SC saves its own address, enters at SVCBASE + 64 × 0x0B, and raises SUP. -/
theorem test_svc_enters : (left .svc sc 0).map (fun t => (t.pc, t.tpc, t.xstat, t.tcause)) = some (0x202C0, 0x10000, 0x2000, 0x800000000000000B) := by decide +kernel

/-! ### States that meet the hypotheses of the statements -/

/-- A fact about every lane of the issuing set, by evaluation. -/
theorem lanes_all {P : Nat → Thread → Prop} [∀ k t, Decidable (P k t)] (s : State)
    (h : (s.curKeys.all fun k => (s.thread k).all fun t => decide (P k t)) = true) : ∀ k ∈ s.curKeys, ∀ t, s.thread k = some t → P k t := by
  intro k hk t ht
  have := List.all_eq_true.mp h k hk
  simpa [ht] using this

theorem ready_of (s : State) (h1 : s.curKeys.Nodup) (h2 : s.cur.pfx = none)
    (h3 : (s.curKeys.all fun k => (s.thread k).all fun t => decide (xsSS t.xstat = false)) = true) : Ready s :=
  ⟨h1, h2, lanes_all s h3⟩

theorem unbound_of (s : State) (h : (s.curKeys.all fun k => (s.thread k).all fun t => decide (anyBound t = false)) = true) : AllUnbound s :=
  lanes_all (P := fun _ t => anyBound t = false) s h

theorem noAssist_of (s : State) (f : Thread → Bool)
    (h : (s.curKeys.all fun k => (s.thread k).all fun t => decide (xsSM t.xstat = true ∨ f t = false)) = true) : NoAssist s f := lanes_all s h

/-- Two lanes of a gang, ready, distinct, with no stream bound and every position filled. -/
theorem test_gang_is_ready : Ready gc ∧ ReadyPair gc ∧ DistinctLanes gc ∧ AllUnbound gc ∧ Filled gc ∧ Lowest gc 4096 th :=
  ⟨ready_of _ (by decide +kernel) rfl (by decide +kernel), ⟨by decide +kernel, lanes_all _ (by decide +kernel)⟩, by unfold DistinctLanes; decide +kernel,
    unbound_of _ (by decide +kernel), by unfold Filled; decide +kernel, by decide +kernel, by decide +kernel⟩

theorem lone_on (t : Thread) (h : xsSS t.xstat = false) : Lone (on t) 0 t := ⟨rfl, rfl, rfl, h⟩

/-- The lone thread of core 0, its partition, and its handlers. -/
theorem test_lone_thread : Lone sc 0 th ∧ Unbound th ∧ Idle th ∧ Released th ∧ OnSC sc ∧ isSC (keyCore 0) = true ∧ Vectored sc 0 th 0 part0 :=
  ⟨lone_on _ rfl, by unfold Unbound; decide +kernel, by unfold Idle; decide +kernel, by unfold Released; decide +kernel, by unfold OnSC; decide +kernel, by decide +kernel, by decide +kernel,
    by decide +kernel, by decide +kernel⟩

/-- IntegerInstructionsComplete, ImmediateConstantAndPredicateComplete, ControlFlowAndPrefixComplete, ShufflesCompleteAcrossTheIssuingSet,
VotesAndMasksComplete: their hypotheses on the operands, at the ends of their ranges. -/
theorem test_meets_register_families : (Ready gc ∧ DistinctLanes gc ∧ AllUnbound gc ∧ Filled gc) ∧
    ((2 : BitVec 2) ≠ 3 ∧ (1 : Reg) ≠ 0 ∧ (7 : PReg) ≠ 0) ∧ ((11 : BitVec 4).toNat ≤ 11 ∧ (0 : BitVec 4).toNat ≤ 11) ∧ (12 ≤ (12 : BitVec 4).toNat ∧ 12 ≤ (15 : BitVec 4).toNat) :=
  ⟨⟨test_gang_is_ready.1, test_gang_is_ready.2.2.1, test_gang_is_ready.2.2.2.1, test_gang_is_ready.2.2.2.2.1⟩, by decide, by decide, by decide⟩

/-- A lane that waits for firmware's assist. -/
def assisted : Thread := { withF th [(1, 1)] with park := some { why := .assist (.fadd 2 1 3 0) none, since := 0 } }

/-- FloatArithmeticCompletes, FloatMovesComparesAndClassComplete, SpecialFunctionsAndAssistComplete: registers of zeros under SM = 0; the least subnormal under SM = 1
needs no assist, and under SM = 0 parks for one. -/
theorem test_meets_float : (Ready gc ∧ AllUnbound gc ∧ ∀ F, NoAssist gc fun t => isSubnormal F (opnd F t 1) || isSubnormal F (opnd F t 2) || isSubnormal F (opnd F t 3)) ∧
    (Ready (on { withF th [(1, 1)] with xstat := 0x20 }) ∧ NoAssist (on { withF th [(1, 1)] with xstat := 0x20 }) fun t => isSubnormal .f32 (opnd .f32 t 1)) ∧
    (Lone (on (withF th [(1, 1)])) 0 (withF th [(1, 1)]) ∧ isSubnormal .f32 (opnd .f32 (withF th [(1, 1)]) 1) = true) ∧
    ((on assisted).thread 0 = some assisted ∧ clusterRuns (on assisted) (keyCl 0) = true ∧ Unbound assisted ∧ xsSS assisted.xstat = false ∧ xsSM assisted.xstat = false) :=
  ⟨⟨test_gang_is_ready.1, test_gang_is_ready.2.2.2.1, fun F => noAssist_of _ _ (by cases F <;> decide +kernel)⟩,
    ⟨ready_of _ (by decide +kernel) rfl (by decide +kernel), noAssist_of _ _ (by decide +kernel)⟩, ⟨lone_on _ (by decide +kernel), by decide +kernel⟩,
    by unfold Unbound; decide +kernel⟩

/-- The same, an assist: the least FP32 subnormal in a sum, a fused multiply-add and a special function, the least FP64 subnormal under a root,
and BF16 subnormals in packed operations, with and without a prefix. -/
def tiny (x : Word) : Thread := withF th [(1, x)]
theorem test_meets_assist : (∃ r, Assisted (tiny 1) none (.fadd 2 1 3 0) 2 r) ∧ (∃ r, Assisted (tiny 1) none (.fnmsub 1 2 3 0) 1 r) ∧
    (∃ r, Assisted (tiny 1) none (.fexp2 2 1) 2 r) ∧ (∃ r, Assisted (tiny 1) none (.fsqrt 2 1 1) 2 r) ∧
    (∃ r, Assisted (tiny 0x1000000000000) none (.nmax 2 1 3 3 0) 2 r) ∧ (∃ r, Assisted (tiny 0x1000000000000) (some (3, 3, 0)) (.nfma 1 2 3 0 1) 1 r) ∧
    ∃ r, Assisted (tiny 1) (some (3, 1, 0)) (.ndot 2 1 3 0 0) 2 r := by
  and_intros
  · exact ⟨_, by decide +kernel, 1, 3, .inl ⟨rfl, .inl ⟨0, _, _, _, _, _, _, rfl, rfl, rfl, rfl, rfl, rfl, .inr (.inl ⟨by decide +kernel, .inl ⟨rfl, rfl⟩⟩)⟩⟩⟩
  · exact ⟨_, by decide +kernel, 2, 3, .inl ⟨rfl, .inl ⟨0, _, _, _, _, _, _, rfl, rfl, rfl, rfl, rfl, rfl, .inr (.inr ⟨by decide +kernel, .inr (.inr (.inr ⟨rfl, rfl⟩))⟩)⟩⟩⟩
  · exact ⟨_, by decide +kernel, 1, 0, .inl ⟨rfl, .inr ⟨by decide +kernel, _, rfl, .inl ⟨rfl, rfl⟩⟩⟩⟩
  · exact ⟨_, by decide +kernel, 1, 0, .inl ⟨rfl, .inl ⟨1, _, _, _, _, _, _, rfl, rfl, rfl, rfl, rfl, rfl, .inl ⟨by decide +kernel, rfl, rfl⟩⟩⟩⟩
  · exact ⟨_, by decide +kernel, 1, 3, .inr ⟨3, 0, _, _, _, _, _, fun _ => rfl, fun _ => rfl, fun _ => rfl, fun _ => rfl, .inl ⟨rfl, by decide +kernel, .inr (.inr (.inr ⟨true, rfl, rfl⟩))⟩⟩⟩
  · exact ⟨_, by decide +kernel, 2, 3, .inr ⟨0, 1, _, _, _, _, _, fun _ => rfl, fun _ => rfl, fun _ => rfl, fun _ => rfl, .inr (.inl ⟨rfl, by decide +kernel, rfl, rfl⟩)⟩⟩
  · exact ⟨_, by decide +kernel, 1, 3, .inr ⟨0, 0, _, _, _, _, _, fun _ => rfl, fun _ => rfl, fun _ => rfl, fun _ => rfl, .inr (.inr ⟨rfl, by decide +kernel, rfl, rfl⟩)⟩⟩

/-- ConversionsComplete, PackedNarrowCompletes: pairs supported and not, with and without a prefix, on registers of zeros. -/
theorem test_meets_conversions : ReadyPair gc ∧ AllUnbound gc ∧ (cvtShape 0 1 3 none).isSome = true ∧ (cvtShape 0 0 0 (some (1, 3, 3))).isSome = true ∧ cvtShape 0 1 1 none = none ∧
    cvtiPair 11 0 none = some (.i32, .f64) ∧ cvtiPair 0 11 none = some (.f64, .i32) ∧ cvtiPair 1 0 none = none ∧
    narrowFmt 3 false none = some .bf16 ∧ narrowFmt 0 false (some (7, 7, 0)) = some .e2m3 ∧ narrowFmt 3 true none = some .bf16 ∧ narrowFmt 6 false none = none ∧ narrowFmt 2 true none = none ∧
    NoAssist gc (fun t => elemSub .bf16 t 1 || elemSub .bf16 t 2 || elemSub .bf16 t 3) ∧
    NoAssist gc (fun t => elemSub .bf16 t 1 || elemSub .bf16 t 2 || ((Fmt.bf16 = .bf16) && isSubnormal .f32 (opnd .f32 t 3))) := by
  and_intros
  · exact test_gang_is_ready.2.1.1
  · exact test_gang_is_ready.2.1.2
  · exact test_gang_is_ready.2.2.2.1
  all_goals first | exact noAssist_of _ _ (by decide +kernel) | decide +kernel

/-- A thread whose stream n is as given. -/
def streaming (n : Nat) (x : Stream) : Thread := putStream th n x
def readStream (ahead : List StreamElem) : Stream := { Stream.reset with desc := 1, state := .readBound, cfg := true, ahead := ahead }
def writeStream : Stream := { Stream.reset with desc := 0x1000000000001, state := .writeBound, cfg := true }

/-- StreamOperandsReadAndAppend: on f28 and f31, the last element, none yet, a failed one, a write to a read-bound register, an append. -/
theorem test_meets_streams : (∀ n ∈ [0, 3], Lone (on (streaming n (readStream [.value 7]))) 0 (streaming n (readStream [.value 7])) ∧
      (streamOf (streaming n (readStream [.value 7])) n).state = .readBound ∧ (streamOf (streaming n (readStream [.value 7])) n).ahead = [.value 7]) ∧
    (∀ n ∈ [0, 3], (streamOf (streaming n (readStream [])) n).ahead = [] ∧ (streaming n (readStream [])).park = none) ∧
    (∀ n ∈ [0, 3], (streamOf (streaming n (readStream [.failed 1])) n).ahead = [.failed 1] ∧ Vectored (on (streaming n (readStream [.failed 1]))) 0 (streaming n (readStream [.failed 1])) 0 part0) ∧
    (∀ n ∈ [0, 3], (streamOf (streaming n writeStream) n).state = .writeBound ∧ (streamOf (streaming n writeStream) n).pos.toNat < streamCount (streamOf (streaming n writeStream) n) ∧
      (streaming n writeStream).st < 63 ∧ (streamOf (streaming n writeStream) n).dead = false) ∧ ((28 : Reg).toNat = 28 + 0 ∧ (31 : Reg).toNat = 28 + 3 ∧ (27 : Reg).toNat < 28) := by
  refine ⟨?_, ?_, ?_, ?_, by decide⟩ <;> simp only [List.forall_mem_cons, List.not_mem_nil, false_implies, implies_true, and_true]
  · exact ⟨⟨lone_on _ (by decide +kernel), by decide +kernel, by decide +kernel⟩, lone_on _ (by decide +kernel), by decide +kernel, by decide +kernel⟩
  · decide +kernel
  · unfold Vectored; decide +kernel
  · decide +kernel

/-- A byte of core 0's LM, and the address of 8 there. -/
def lm : Nat := 0xFF000000800100
def thA : Thread := withW th [(6, word lm), (7, 5)]

theorem stays_on (t : Thread) (va : Word) (h : (((on t).partOf 0).bind fun p => migrates p.2 0 t va) = none) : Stays (on t) 0 t va := h

theorem reaches_on (t : Thread) (acc : Access) (va : Word) (n : Nat) (A L : List Nat)
    (h : checkAccess (on t) false 0 0 part0 t.asid (xsSUP t.xstat) acc va n = .ok A L) (hd : tableDirty (on t) L = false) : Reaches (on t) 0 t acc va n A L :=
  ⟨⟨0, part0, rfl, h⟩, hd⟩

theorem counts_on (t : Thread) (acc : Access) (va : Word) (n : Nat) (A L : List Nat)
    (h : checkCounter (on t) 0 part0 t.asid (xsSUP t.xstat) acc va n = .ok A L) : Counts (on t) 0 t acc va n A L := ⟨0, part0, rfl, h⟩

theorem reach_on (t : Thread) (acc : Access) (va : Thread → Word) (n : Nat) (A L : List Nat) (h1 : Stays (on t) 0 t (va t)) (h2 : Reaches (on t) 0 t acc (va t) n A L) :
    LanesReach (on t) acc va n (fun _ => A) (fun _ => L) := by
  intro k hk u hu
  have : k = 0 := by simpa [on, State.curKeys, keyOf, thrOf, isSC] using hk
  subst this
  have : u = t := by simpa [on, State.thread, mget] using hu.symm
  subst this
  exact ⟨h1, h2⟩

/-- LoadsAndRestoresRetireWithTheirReadOutstanding: eight bytes and one byte of LM, both address forms, a range of one register and one that ends in f31 with the record of
its stream. -/
theorem test_meets_loads : (Ready (on thA) ∧ AllUnbound (on thA) ∧ thA.ld < 63 ∧ thA.out = [] ∧ (3 : BitVec 2) ≠ 0) ∧
    LanesReach (on thA) .read (fun t => readW t 6 + (0 : BitVec 11).signExtend 64 * word (2 ^ (3 : BitVec 2).toNat)) (2 ^ (3 : BitVec 2).toNat) (fun _ => span lm 8) (fun _ => []) ∧
    LanesReach (on thA) .read (fun t => readW t 6 + readW t 7 * word (2 ^ (0 : BitVec 2).toNat)) (2 ^ (0 : BitVec 2).toNat) (fun _ => span (lm + 5) 1) (fun _ => []) ∧
    Reaches (on thA) 0 thA .read (readW thA 6) (8 * ((5 : Reg).toNat + 1 - (5 : Reg).toNat)) (span lm 8) [] ∧
    Reaches (on thA) 0 thA .read (readW thA 6) (8 * ((31 : Reg).toNat + 1 - (31 : Reg).toNat) + 32 * (rangeStreams 31 31).length) (span lm 40) [] ∧
    restoredStreams 31 31 ((span lm 40).map ((on thA).seen [])) = [(3, some Stream.reset)] ∧
    badAmong (on thA) (span lm 40) = none ∧ readReady thA.out (opOf (on thA) thA (.restoreF 31 31 [(3, Stream.reset)]) (word lm) (span lm 40) [] [] 0 0 0) = true :=
  ⟨⟨ready_of _ (by decide +kernel) rfl (by decide +kernel), unbound_of _ (by decide +kernel), by decide +kernel, rfl, by decide⟩,
    reach_on _ _ _ _ _ _ (stays_on _ _ (by decide +kernel)) (reaches_on _ _ _ _ _ _ (by decide +kernel) rfl),
    reach_on _ _ _ _ _ _ (stays_on _ _ (by decide +kernel)) (reaches_on _ _ _ _ _ _ (by decide +kernel) rfl), reaches_on _ _ _ _ _ _ (by decide +kernel) rfl,
    reaches_on _ _ _ _ _ _ (by decide +kernel) rfl, by decide +kernel, by decide +kernel, by decide +kernel⟩

/-- StoresRetireWithTheirWriteOutstanding, and the hypotheses of `StoreSent`. -/
theorem test_meets_stores : Lone (on thA) 0 thA ∧ Stays (on thA) 0 thA (word lm) ∧ Unbound thA ∧ Reaches (on thA) 0 thA .write (word lm) 8 (span lm 8) [] ∧
    Reaches (on thA) 0 thA .write (word lm &&& 0xFFFFFFFFFFFFFFC0#64) 64 (span lm 64) [] ∧ Reaches (on thA) 0 thA .write (word lm) 40 (span lm 40) [] ∧
    ctlRefuses (span lm 8) (leBytes 8 5) = false ∧ calendarRefuses (on thA) (span lm 8) (leBytes 8 5) = false ∧ thA.st < 63 ∧ (31 : Reg).toNat ≤ (31 : Reg).toNat := by
  refine ⟨lone_on _ (by decide +kernel), stays_on _ _ (by decide +kernel), by unfold Unbound; decide +kernel, ?_, ?_, ?_, by decide +kernel⟩ <;>
    exact reaches_on _ _ _ _ _ _ (by decide +kernel) rfl

/-- InstructionsOfAGangRunLaneByLane. -/
theorem test_meets_lane_by_lane : gc.cur.lanes = 0 :: [1] ∧ gc.curKeys.Nodup ∧ (∀ k ∈ (gang [{ th with xstat := 0x2000 }, { th with xstat := 0x2000 }]).curKeys, ∀ t ∈
      (gang [{ th with xstat := 0x2000 }, { th with xstat := 0x2000 }]).thread k, xsSUP t.xstat = true) := by decide +kernel

/-- An outstanding operation on eight bytes of LM, and the thread that holds it. -/
def op (kind : OutKind) (data : List Byte) : OutOp :=
  { kind := kind, addrs := span lm 8, data := data, order := 0, scope := 0, pc := 0x10000, serial := 1, inst := 0, lines := [], va := word lm }
def holding (o : OutOp) : Thread := { th with ld := 1, st := 1, out := [o] }

/-- LoadPerformedWritesItsDestination: a load into w5, into f5, two restores, and the length of a queue. -/
theorem test_meets_load_performed : ∀ kind ∈ [OutKind.load (.w 5) true, .load (.f 5) false, .restoreW 5 5, .restoreF 31 31 [(3, Stream.reset)], .queueLen 5 0 255],
    Performs (on (holding (op kind []))) 0 0 (holding (op kind [])) (op kind []) ∧ badAmong (on (holding (op kind []))) (op kind []).addrs = none ∧
      readReady ((holding (op kind [])).out.take 0) (op kind []) = true ∧ Unbound (holding (op kind [])) := by
  simp only [List.forall_mem_cons, List.not_mem_nil, false_implies, implies_true, and_true, Performs, Unbound]
  decide +kernel

/-- StorePerformedWritesItsBytesAndNoOther, AtomicPerformedReadsAndWritesInOneStep. -/
theorem test_meets_store_performed : ∀ o ∈ [op .store (leBytes 8 7), op (.atomic 0 (.w 5) 1 0) [], op (.atomic 17 (.w 5) 1 0) [], op (.atomic 19 (.w 5) 1 0) [], op (.atomic 20 (.f 5) 1 0) []],
    Performs (on (holding o)) 0 0 (holding o) o ∧ badAmong (on (holding o)) o.addrs = none ∧ ctlOf o = none ∧ writeReady ((holding o).out.take 0) o = true ∧ readReady ((holding o).out.take 0) o = true ∧
    translationsDone (on (holding o)) 0 0 o.addrs = true ∧ lanesBefore (on (holding o)) 0 o = true ∧ farRefused (on (holding o)) 0 (o.addrs.headD 0) true = false ∧
    farRefused (on (holding o)) 0 (o.addrs.getLastD 0) true = false ∧ o.addrs.Nodup ∧ o.addrs.length = 8 ∧ (∀ a ∈ o.addrs, a < remoteBase) ∧ memWf (on (holding o)).mem = true ∧
    (o.kind = .store ∨ atomicGroup (on (holding o)) 0 o = [(0, 0)]) := by
  simp only [List.forall_mem_cons, List.not_mem_nil, false_implies, implies_true, and_true, Performs]
  and_intros <;> decide +kernel

/-- The same, of two lanes of one instruction at one location of device memory. -/
def sameOp : OutOp := { op (.atomic 0 (.w 5) 1 0) [] with addrs := span 0x20000 4 }
def sharing : State := gang [holding sameOp, holding sameOp]
theorem test_meets_atomic_group : atomicGroup sharing 4096 sameOp = [(4096, 0), (4097, 0)] ∧ sharing.thread 4097 = some (holding sameOp) ∧ readReady ((holding sameOp).out.take 0) sameOp = true ∧
    writeReady ((holding sameOp).out.take 0) sameOp = true ∧ (∀ k ∈ [4096, 4097], translationsDone sharing k 0 sameOp.addrs = true) ∧ sameOp.addrs.Nodup ∧ sameOp.addrs.length ≤ 8 ∧
    (∀ a ∈ sameOp.addrs, a < remoteBase ∧ spotOf a = none) ∧ badAmong sharing sameOp.addrs = none := by decide +kernel

/-- PrefetchFencesAndCacheOperationsComplete: a line of LM, read, and written with SUP. -/
theorem test_meets_cache : (Ready (on thA) ∧ thA.out = [] ∧ thA.st < 63 ∧ Reaches (on thA) 0 thA .read (readW thA 6 &&& 0xFFFFFFFFFFFFFFC0#64) 64 (span lm 64) []) ∧
    (Reaches (on { thA with xstat := 0x2000 }) 0 { thA with xstat := 0x2000 } .write (readW thA 6 &&& 0xFFFFFFFFFFFFFFC0#64) 64 (span lm 64) [] ∧ xsSUP (0x2000 : Word) = true) :=
  ⟨⟨ready_of _ (by decide +kernel) rfl (by decide +kernel), rfl, by decide +kernel, reaches_on _ _ _ _ _ _ (by decide +kernel) rfl⟩, reaches_on _ _ _ _ _ _ (by decide +kernel) rfl, by decide⟩

/-- AtomicsRetireWithTheirOperationOutstanding: eight, four and two bytes. -/
theorem test_meets_atomics : Lone (on thA) 0 thA ∧ Stays (on thA) 0 thA (readW thA 6) ∧ thA.ld < 63 ∧ Unbound thA ∧ (readW thA 6).toNat % 8 = 0 ∧
    Reaches (on thA) 0 thA .write (readW thA 6) 8 (span lm 8) [] ∧ (∀ o, o < 20 → atomicBarred (on thA) 0 o (span lm 8) = false) ∧
    Reaches (on thA) 0 thA .write (readW thA 6) 4 (span lm 4) [] ∧ atomicBarred (on thA) 0 20 (span lm 4) = false ∧
    Reaches (on thA) 0 thA .write (readW thA 6) 2 (span lm 2) [] ∧ atomicBarred (on thA) 0 21 (span lm 2) = false := by
  refine ⟨lone_on _ (by decide +kernel), stays_on _ _ (by decide +kernel), by decide, by unfold Unbound; decide +kernel, by decide +kernel, ?_, by decide +kernel, ?_, by decide +kernel, ?_, by decide +kernel⟩ <;>
    exact reaches_on _ _ _ _ _ _ (by decide +kernel) rfl

/-- RefusedFormsTrapWithNoOtherEffect: no SUP, an address one past a multiple, no handle, a GC, a group that is not there. -/
theorem test_meets_refused_forms : (Lone sc 0 th ∧ Vectored sc 0 th 0 part0 ∧ xsSUP th.xstat = false ∧ queueOf (readW th 6) = none ∧ sc.groupFor 0 th 255 = none) ∧
    (Stays (on (withW th [(6, word (lm + 1))])) 0 (withW th [(6, word (lm + 1))]) (word (lm + 1)) ∧ (word (lm + 1)).toNat % 4 ≠ 0) ∧
    (Lone (gang [th]) 4096 th ∧ isSC (gang [th]).cur.core = false ∧ Vectored (gang [th]) 4096 th 0 part0) := by
  refine ⟨⟨lone_on _ rfl, by unfold Vectored; decide +kernel, by decide +kernel, by decide +kernel, by decide +kernel⟩, ⟨stays_on _ _ (by decide +kernel), by decide +kernel⟩, ?_, by decide +kernel, ?_⟩
  · unfold Lone; decide +kernel
  · unfold Vectored; decide +kernel

/-- The lone thread with the state of cluster 0, or of core 0 in it. -/
def onC (t : Thread) (c : Cluster) : State := { on t with clusters := [(0, c)] }
def onCore (t : Thread) (c : Core) : State := onC t { Cluster.reset with cores := [(0, c)] }

/-- Bank 15 in FIFO mode, and the handle of its last queue, 255. -/
def fifoCluster : Cluster := { Cluster.reset with csmctl := 0x80000000 }
def thQ : Thread := withW th [(6, 0xFF0000001FE000)]
def fifoWith (f : Fifo) : Cluster := { fifoCluster with fifos := [(255, f)] }
def noFifo : Fifo := { entries := [], pushes := [], pops := [] }

/-- QueueInstructionsComplete: an empty queue, and one that a push fills. -/
theorem test_meets_queue : ∀ c ∈ [fifoCluster, fifoWith { noFifo with entries := List.replicate 1023 (0, 0, 0) }],
    Lone (onC thQ c) 0 thQ ∧ FifoHandle (onC thQ c) 0 (readW thQ 6) 0 255 ∧ thQ.st < 63 ∧ thQ.ld < 63 ∧ thQ.park = none ∧ ((onC thQ c).fifo 0 255).pushes = [] ∧
    ((onC thQ c).fifo 0 255).entries.length + (pushesTo (onC thQ c) 0 255).length < 1024 := by
  simp only [List.forall_mem_cons, List.not_mem_nil, false_implies, implies_true, and_true, Lone, FifoHandle]
  decide +kernel

/-- QueueEventsComplete: a push and a pop on their way, a pop of an empty queue, an entry taken; a try that meets an entry and one that meets none. -/
def queueFlights (f : Flight) (x : Fifo) : State := { onC { thQ with st := 1 } (fifoWith x) with flights := [f] }
def tryFlight (x : Fifo) : State := { onC (holding (op (.popWait 5) [])) (fifoWith x) with flights := [.pop 0 0 255 5 true] }
theorem test_meets_queue_events : (∀ s ∈ [queueFlights (.push 0 0 0 255 7 0 0) noFifo, queueFlights (.pop 0 0 255 5 false) noFifo, queueFlights (.pop 0 0 255 5 false) { noFifo with entries := [(7, 0, 0)] }],
      bankBusy (s.cluster 0) (255 / 16) = false ∧ bankMode (s.cluster 0) (255 / 16) = 2 ∧ arrives s 0 0 = true ∧ (s.fifo 0 255).pops = [] ∧ (s.fifo 0 255).pushes = []) ∧
    (queueFlights (.push 0 0 0 255 7 0 0) noFifo).flights[0]? = some (.push 0 0 0 255 7 0 0) ∧ (queueFlights (.push 0 0 0 255 7 0 0) noFifo).flights.take 0 = [] ∧
    xsSS thQ.xstat = false ∧ ((queueFlights (.pop 0 0 255 5 false) noFifo).fifo 0 255).entries = [] ∧
    ((queueFlights (.pop 0 0 255 5 false) { noFifo with entries := [(7, 0, 0)] }).fifo 0 255).entries = [(7, 0, 0)] ∧
    (holding (op (.pop 5 7 0 0) [])).out[0]? = some (op (.pop 5 7 0 0) []) ∧ (op (.pop 5 7 0 0) []).kind = .pop 5 7 0 0 ∧
    clusterDrains (on (holding (op (.pop 5 7 0 0) []))) (keyCl 0) = true ∧ (on (holding (op (.pop 5 7 0 0) []))).drained 0 0 = true ∧
    ∀ x ∈ [noFifo, { noFifo with entries := [(7, 0, 0)] }], (tryFlight x).flights[0]? = some (.pop 0 0 255 5 true) ∧ (tryFlight x).thread 0 = some (holding (op (.popWait 5) [])) ∧
      (op (.popWait 5) []).kind = .popWait 5 ∧ bankBusy ((tryFlight x).cluster 0) (255 / 16) = false ∧ bankMode ((tryFlight x).cluster 0) (255 / 16) = 2 ∧ arrives (tryFlight x) 0 0 = true := by
  refine ⟨?_, by decide +kernel, by decide +kernel, by decide +kernel, by decide +kernel, (by decide +kernel), by decide +kernel, by decide +kernel, by decide +kernel, by decide +kernel, ?_⟩ <;>
  (simp only [List.forall_mem_cons, List.not_mem_nil, false_implies, implies_true, and_true]; decide +kernel)

/-- WorkListsMessagesAndWakesComplete, the work list and the ready queues: with room for one, full, empty, and holding one entry. -/
theorem test_meets_work_lists : (∀ c ∈ [Core.reset, { Core.reset with work := List.replicate 255 (0, 0, 0, 0) }], Lone (onCore th c) 0 th ∧ OnSC (onCore th c) ∧ ((onCore th c).core 0 0).work.length < 256) ∧
    256 ≤ ((onCore th { Core.reset with work := List.replicate 256 (0, 0, 0, 0) }).core 0 0).work.length ∧ Released th ∧
    (((onCore th { Core.reset with ready := Vector.replicate 4 (List.replicate 15 0) }).core 0 0).ready[(0 : Fin 4)].length < 16 ∧ (0 : Fin 4).val = (readW th 6).toNat % 4) ∧
    (∀ n : Fin 4, Core.reset.ready[n] = []) ∧
    ((Core.reset.ready.set (0 : Fin 4) [7])[(0 : Fin 4)] = [7] ∧ ∀ m : Fin 4, (0 : Fin 4) < m → (Core.reset.ready.set (0 : Fin 4) [7])[m] = []) ∧
    ((Core.reset.ready.set (3 : Fin 4) [7])[(3 : Fin 4)] = [7] ∧ ∀ m : Fin 4, (3 : Fin 4) < m → (Core.reset.ready.set (3 : Fin 4) [7])[m] = []) := by
  refine ⟨?_, by decide +kernel, by unfold Released; decide +kernel, by decide +kernel, by decide +kernel, by decide +kernel, by decide +kernel⟩
  simp only [List.forall_mem_cons, List.not_mem_nil, false_implies, implies_true, and_true, Lone, OnSC]
  decide +kernel

/-- The same, messages and wakes: the last thread position of the cluster named, a message held, a wake held and none. -/
def thM : Thread := withW th [(6, word (nameOf (keyOf 0 19 255)))]
theorem test_meets_messages : Lone (on thM) 0 thM ∧ NamesThread (on thM) 0 (readW thM 6) (keyOf 0 19 255) ∧ thM.st < 63 ∧ Released thM ∧
    ({ on thM with mail := [(0, [(7, 1, 2)])] } : State).mailbox 0 = [(7, 1, 2)] ∧ thM.ld < 63 ∧ 0 ∈ ({ on thM with wakes := [0] } : State).wakes ∧ 0 ∉ (on thM).wakes ∧ thM.park = none := by
  refine ⟨lone_on _ (by decide +kernel), ?_⟩
  unfold NamesThread Released
  decide +kernel

/-- MessageAndWakeEventsComplete: the eighth message of a mailbox, a wake before the first instruction, in a sleep and in none, and the two
values that wait for their stamp. -/
def twoThreads (f : Flight) (w : Thread) : State := { on { th with st := 1 } with threads := [(0, { th with st := 1 }), (1, w)], mail := [(1, List.replicate 7 (0, 0, 0))], flights := [f] }
theorem test_meets_message_events : ((twoThreads (.message 0 0 1 7 0 0) th).flights[0]? = some (.message 0 0 1 7 0 0) ∧ arrives (twoThreads (.message 0 0 1 7 0 0) th) (keyCl 1) 0 = true ∧
      ((twoThreads (.message 0 0 1 7 0 0) th).mailbox 1).length < 8 ∧ (twoThreads (.message 0 0 1 7 0 0) th).thread 0 = some { th with st := 1 } ∧ (0 : Nat) ≠ 1) ∧
    (∀ w ∈ [th, { th with begun := true, park := some { why := .sleep, since := 0 } }, { th with begun := true }],
      (twoThreads (.wake (some (0, 0)) 1) w).flights[0]? = some (.wake (some (0, ({ th with st := 1 } : Thread).uid)) 1) ∧ arrives (twoThreads (.wake (some (0, 0)) 1) w) (keyCl 1) 0 = true ∧
        (twoThreads (.wake (some (0, 0)) 1) w).thread 1 = some w ∧ xsSS w.xstat = false) ∧
    ∀ kind ∈ [OutKind.message 5 7 0 0, .work 30 7 8 0 0], (holding (op kind [])).out[0]? = some (op kind []) ∧ (op kind []).kind = kind ∧
      clusterDrains (on (holding (op kind []))) (keyCl 0) = true ∧ (on (holding (op kind []))).drained 0 0 = true := by
  simp only [List.forall_mem_cons, List.not_mem_nil, false_implies, implies_true, and_true]
  decide +kernel

/-- A partition in which a launch has enabled arrivals (R46), and the address of scratch in the next cluster. -/
def arrivingKernel : Kernel := { entry := 0, run := 0x10000, argsz := 0, constOff := 0, constSize := 0, template := 0x40, grantlim := 0 }
def anImage : Image := { asid := 0, digest := 0, secv := 0, revoked := false, accepted := true, kernels := [arrivingKernel], frames := [1], codeBase := 0x10000, words := 1, native := false }
def aRecord : LaunchRec :=
  { ver := 1, sigop := 0, image := 1, entry := 0, args := 0, argsz := 0, csz := 0, const := 0, nthr := 1, ngang := 0, groups := 0, depctr := 0, signal := 0, sigval := 7, prio := 0, tq := 0, place := 0, reserved := false }
def aLaunch (stage : LaunchStage) : Launch :=
  { r := aRecord, cl := 0, queue := none, asid := 0, sup := false, stage := stage, placedThr := 0, placedGang := 0, status := 0, clusters := [0], const := [], reads := 0, started := false, signals := 0 }
def partL (stage : LaunchStage) : Partition := { part0 with launches := [(0, aLaunch stage)], images := [(1, anImage)] }
def thG : Thread := { withW th [(6, 0xFF000001000000)] with xstat := 0x40 }
def onMig : State := { on thG with parts := [(0, partL .placed)] }

/-- ThreadInstructionsComplete: 64 children and none, a counter of zero, a counter to raise, an address of its own core, and one of the SC of the next cluster. -/
theorem test_meets_thread_instructions : (Lone sc 0 th ∧ OnSC sc ∧ isSC (keyCore 0) = true ∧ (∀ r ∈ argRegs, r ∉ th.busy) ∧ .w 3 ∉ th.busy ∧ Released th ∧ readW th 7 = 0) ∧
    64 ≤ ((onCore th { Core.reset with children := (List.range 64).map fun n => (n, { jc := 0, asid := 0 }) }).core 0 0).children.length ∧ (sc.core 0 0).children.length < 64 ∧
    ((readW thA 6).toNat % 8 = 0 ∧ readW thA 6 ≠ 0 ∧ Counts (on thA) 0 thA .read (readW thA 6) 8 (span lm 8) [] ∧ Counts (on thA) 0 thA .write (readW thA 6) 8 (span lm 8) [] ∧
      Writable (on thA) 0 1 (span lm 8) ∧ badAmong (on thA) (span lm 8) = none ∧ Ready gc ∧ isSC gc.cur.core = false ∧ thA.ld < 63 ∧ thA.out = [] ∧ leNat ((span lm 8).map ((on thA).seen thA.out)) = 0) ∧
    (windowRefused (on thA) 0 (readW thA 6) = false ∧ Stays (on thA) 0 thA (readW thA 6)) ∧
    (Lone onMig 0 thG ∧ windowRefused onMig 0 (readW thG 6) = false ∧ onMig.partOf (keyCl 0) = some (0, partL .placed) ∧ migrates (partL .placed) 0 thG (readW thG 6) = some (1, 0) ∧ Unbound thG ∧
      Idle thG) := by
  refine ⟨⟨lone_on _ rfl, by unfold OnSC; decide +kernel, by decide +kernel, by decide +kernel, by decide +kernel, by unfold Released; decide +kernel, by decide +kernel⟩, by decide +kernel, by decide +kernel,
    ⟨by decide +kernel, by decide +kernel, counts_on _ _ _ _ _ _ (by decide +kernel), counts_on _ _ _ _ _ _ (by decide +kernel), by unfold Writable; decide +kernel, by decide +kernel,
      ready_of _ (by decide +kernel) rfl (by decide +kernel), by decide +kernel⟩, ⟨by decide +kernel, stays_on _ _ (by decide +kernel)⟩, ?_⟩
  unfold Lone Unbound Idle
  decide +kernel

/-- ExitEndsTheThread: a child with nothing outstanding, and one access outstanding. -/
theorem test_meets_exit : (Lone (on { th with child := some { cl := 0, core := 1, entry := 63 } }) 0 { th with child := some { cl := 0, core := 1, entry := 63 } } ∧
      sc.inPack 0 = false ∧ th.deferred = [] ∧ sc.wakes.Nodup ∧ Idle th) ∧ ({ th with ld := 1 } : Thread).ld ≠ 0 ∧ ({ th with ld := 1 } : Thread).park = none := by
  unfold Lone Idle; decide +kernel

/-- GangCallAndLaunchLeaveForTheirUnits: a caller on an SC, a lane of a packed gang, a lane of none, a record in LM. -/
def packed : State := { gang [{ th with caller := some 0 }] with clusters := [(0, { Cluster.reset with cores := [(16, { Core.reset with gangs := [(0, { mask := 1, packed := true, since := 0, launch := none })] })] })] }
def thR : Thread := withW th [(6, 0xFF000000800100)]
theorem test_meets_gang_call : (Lone sc 0 th ∧ OnSC sc ∧ Released th ∧ (∀ r ∈ argRegs, r ∉ th.busy) ∧ th.park = none) ∧
    (Lone packed 4096 { th with caller := some 0 } ∧ packed.inPack 4096 = true ∧ (∀ r ∈ [RegRef.w 10, .w 11, .f 10, .f 11], r ∉ th.busy) ∧ th.cp = 0 ∧ th.tl = 0 ∧ th.deferred = []) ∧
    (sc.inPack 0 = false ∧ sc.partOf (keyCl 0) = some (0, part0) ∧ part0.svcbase ≠ 0 ∧ tcV th.tcause = false) ∧
    ((readW thR 6).toNat % 128 = 0 ∧ Counts (on thR) 0 thR .read (readW thR 6) 128 (span 0xFF000000800100 128) [] ∧ badAmong (on thR) (span 0xFF000000800100 128) = none) := by
  refine ⟨⟨lone_on _ rfl, by unfold OnSC; decide +kernel, by unfold Released; decide +kernel, by decide +kernel, rfl⟩, ?_, by decide +kernel, by decide +kernel, counts_on _ _ _ _ _ _ (by decide +kernel), by decide +kernel⟩
  unfold Lone; decide +kernel

/-- A group of core 0 of cluster 0 in phase 3, held by launch 0 of partition 0, and a thread of that launch. -/
def aGroup : Group := { serial := 0, members := [(0, 1)], phase := 3, arrived := [], tick := none, tickCores := [] }
def partG (e : Group) : Partition := { partL .placed with groups := [(255, e)] }
def thL : Thread := { th with launch := some (0, 0), uid := 9 }
def inGroup (t : Thread) (e : Group) : State := { on t with parts := [(0, partG e)] }

/-- BarriersAndWaitsComplete: group 255, not yet arrived, arrived, and on the way out; bounds met at their ends; a present line. -/
theorem test_meets_barriers : (∀ t ∈ [thL, { thL with last := [(255, 2)], xstat := 0x80 }, { thL with last := [(255, 3)] }],
      Lone (inGroup t aGroup) 0 t ∧ (inGroup t aGroup).partOf (keyCl 0) = some (0, partG aGroup) ∧ mget (partG aGroup).groups 255 = some aGroup ∧ t.launch = some (0, aGroup.serial) ∧
        isMember aGroup (keyCl 0) (keyCore 0) = true ∧ Released t ∧ t.park = none) ∧
    (mget thL.last 255 ≠ some aGroup.phase ∧ xsAP thL.xstat = false ∧ xsAP (0x80 : Word) = true ∧ mget [(255, 2)] 255 ≠ some 3 ∧ mget [(255, 3)] 255 = some aGroup.phase) ∧
    (th.deferred = [] ∧ th.ld ≤ (0 : BitVec 4).toNat ∧ ({ th with st := 14 } : Thread).st ≤ (14 : BitVec 4).toNat ∧ th.cp ≤ (0 : BitVec 4).toNat ∧ (15 : BitVec 4) = 15) ∧
    (checkAccess (onC th { Cluster.reset with csmctl := 1 }) true 0 0 part0 0 false .read 0xFF000000000000 1 = .ok [0xFF000000000000] [] ∧ spotOf 0xFF000000000000 = some (.scratch 0 0)) := by
  refine ⟨?_, by decide +kernel, by decide +kernel, by decide +kernel⟩
  simp only [List.forall_mem_cons, List.not_mem_nil, false_implies, implies_true, and_true, Lone, Released]
  decide +kernel

/-- ThreadEventsComplete: an arrival for a phase that has ended and one for the current phase; a budgeted wait at its limit. -/
def arriving (phase : Nat) (e : Group) : State := { inGroup thL e with flights := [.arrival 9 0 255 phase] }
def sleeper : Thread := { th with park := some { why := .sleep, since := 5 }, xstat := 0x10000 }
/-- A thread whose `bsync` has waited 2048 cycles for an arrival that nothing has recorded. -/
def late : Thread := { thL with xstat := 0x10080, last := [(255, 3)], park := some { why := .barrier 255 3, since := 5 } }
def unrecorded : State := { inGroup late aGroup with cyc := 2053, flights := [.arrival 9 0 255 3] }
theorem test_meets_arrival_and_limit : (∀ phase ∈ [2, 3], (arriving phase aGroup).flights[0]? = some (.arrival 9 0 255 phase) ∧ (arriving phase aGroup).part 0 = some (partG aGroup) ∧
      mget (partG aGroup).groups 255 = some aGroup ∧ arrives (arriving phase aGroup) ((leastBy id (aGroup.members.map (·.1))).getD 0) 0 = true) ∧
    (aGroup.phase = 3 ∧ 9 ∉ aGroup.arrived ∧ liveThreads (arriving 3 aGroup) 0 aGroup = [9]) ∧
    (stallLimit sleeper.xstat = some 2048 ∧ clusterRuns { on sleeper with cyc := 2053 } (keyCl 0) = true ∧ budgeted .sleep = true ∧ 5 + 2048 ≤ ({ on sleeper with cyc := 2053 } : State).cyc ∧
      parkOver { on sleeper with cyc := 2053 } 0 sleeper .sleep = false ∧ aboutToPack { on sleeper with cyc := 2053 } 0 = false ∧ prefixAt (({ on sleeper with cyc := 2053 } : State).withdraw 0) 0 sleeper = none ∧ arrivalDue { on sleeper with cyc := 2053 } 0 sleeper = false ∧ part0.svcbase ≠ 0 ∧ tcV sleeper.tcause = false ∧
      (({ on sleeper with cyc := 2053 } : State).cluster (keyCl 0)).grantWait = []) ∧
    (clusterRuns unrecorded (keyCl 0) = true ∧ parkOver unrecorded 0 late (.barrier 255 3) = false ∧ aboutToPack unrecorded 0 = false ∧
      prefixAt ((unrecorded.withdraw 0).withdrawArrival 0 late) 0 (unarrived late) = none ∧ arrivalDue unrecorded 0 late = true) := by decide +kernel

/-- The same: contexts that find room in the arrival queue, in the heap behind a full queue, and from the heap; exit notices without a join counter and with one. -/
def aCtx : MigCtx :=
  { pc := 0x10000, asid := 0, xstat := 0, fflags := 0, child := none, regs := Vector.replicate 8 0, uid := 0, launch := none, tq := 0, last := [], deferred := [], stepped := false }
theorem test_meets_arrivals_and_exits : (∀ c ∈ [{ Core.reset with arrivals := List.replicate 31 aCtx }, { Core.reset with arrivals := List.replicate 31 aCtx, heap := [aCtx] }],
      (onCore th c).core 0 0 = c ∧ clusterRuns (onCore th c) 0 = true ∧ arrives { onCore th c with flights := [.migration aCtx 0 0] } 0 0 = true ∧ c.arrivals.length < 32 ∧ c.overflow = []) ∧
    (32 ≤ ({ Core.reset with arrivals := List.replicate 32 aCtx } : Core).arrivals.length ∧ Core.reset.heap.length < 4096) ∧
    (∀ jc ∈ [0, word lm], ({ onCore th { Core.reset with children := [(63, { jc := jc, asid := 0 })] } with flights := [.exitNotice 0 0 63 false] } : State).flights[0]? = some (.exitNotice 0 0 63 false) ∧
      arrives { onCore th { Core.reset with children := [(63, { jc := jc, asid := 0 })] } with flights := [.exitNotice 0 0 63 false] } 0 0 = true ∧
      fbfHolds ((onCore th { Core.reset with children := [(63, { jc := jc, asid := 0 })] }).cluster 0) (7, (0 * 64 + 63) * 20 + 0) = false ∧
      mget ((onCore th { Core.reset with children := [(63, { jc := jc, asid := 0 })] }).core 0 0).children 63 = some { jc := jc, asid := 0 }) ∧
    (checkCounter sc 0 part0 0 false .write (word lm) 8 = .ok (span lm 8) [] ∧ Writable sc (keyOf 0 0 0) 1 (span lm 8) ∧ badAmong sc (span lm 8) = none) := by
  simp only [List.forall_mem_cons, List.not_mem_nil, false_implies, implies_true, and_true, Writable]
  decide +kernel

/-- GrantEventsComplete: a caller that finds the last key free, a deadline reached, a due key, results on their way, a request of 32 callers for a GC that holds its launch's image. -/
def aKey : GrantKey := { asid := 0, target := 0x10000, callers := [0], launch := none, limit := 4096, deadline := 100, due := true }
def manyKeys : Cluster := { Cluster.reset with grant := (List.range 63).map fun n => (n, { aKey with target := 0x20000 }) }
def aCaller : CallerArgs := { key := 0, w := Vector.replicate 8 0, f := Vector.replicate 4 0, xstat := 0, launch := some (0, 0) }
def waitingGang : State :=
  onC thL { Cluster.reset with gangQueue := [{ asid := 0, target := 0x10000, callers := List.replicate 32 aCaller, launch := some (0, 0) }], cores := [(16, { Core.reset with image := some (0, 0) })] }
theorem test_meets_grant : (({ onC th manyKeys with flights := [.gcall 0 0x10000] } : State).flights[0]? = some (.gcall 0 0x10000) ∧ arrives { onC th manyKeys with flights := [.gcall 0 0x10000] } 0 0 = true ∧ keyCl 0 = 0 ∧ manyKeys.grantWait = [] ∧
      (∀ e ∈ manyKeys.grant, e.2.asid ≠ th.asid ∨ e.2.target ≠ 0x10000) ∧ lowestFree 64 (mkeys manyKeys.grant) = some 63 ∧ clusterRuns (onC th manyKeys) 0 = true) ∧
    (mget ({ Cluster.reset with grant := [(63, aKey)] } : Cluster).grant 63 = some aKey ∧ aKey.deadline ≤ ({ sc with gtime := 100 } : State).gtime ∧ aKey.due = true ∧ Cluster.reset.gangQueue = []) ∧
    (({ sc with flights := [.results 0 1 2 3 4] } : State).flights[0]? = some (.results 0 1 2 3 4) ∧ xsSS th.xstat = false) ∧
    (chooseGC waitingGang 0 (some (0, 0)) = some 16 ∧ (freeGangSlots waitingGang 0 16).head? = some 0 ∧ (waitingGang.core 0 16).image = some (0, 0) ∧ (List.replicate 32 aCaller).length ≤ 32) := by
  decide +kernel

/-- LaunchEventsComplete: a queue of two records with both new, a record read, a launch at each of its stages. -/
def aQueue : LaunchQueue := { lqaddr := word lm, cfg := 0x80000000, addr := word lm, head := none, due := false, halted := false }
def queued : State := { on th with parts := [(0, { part0 with queues := [(0, aQueue)] })], mem := [(lm + 8, 1), (lm + 64, 2)] }
/-- The queue owes its descriptor HEAD 1. -/
def owing : State := { on th with parts := [(0, { part0 with queues := [(0, { aQueue with head := some 1, due := true })] })] }
def launching : State := { on th with flights := [.launch 0 0 none 0 false (word lm) (some (0, 5))] }
theorem test_meets_launch_queue : (queued.part 0 = some { part0 with queues := [(0, aQueue)] } ∧ natBit 31 aQueue.cfg.toNat = true ∧ aQueue.halted = false ∧ aQueue.due = false ∧ clusterRuns queued (bitsOf 16 9 aQueue.cfg) = true ∧
      queued.agent (bitsOf 16 9 aQueue.cfg) (queueAgent 0 0) (aQueue.cfg.setWidth 16) (natBit 30 aQueue.cfg.toNat) .read aQueue.addr 128 = .ok (span lm 128) ∧
      (word (queued.numAt ((span lm 128).take 8))).toNat % 128 = 0 ∧ queued.numAt (((span lm 128).drop 8).take 8) = 1 ∧ queued.numAt (((span lm 128).drop 64).take 8) = 2 ∧ queueOnWay queued 0 0 = 0) ∧
    (mget ((owing.part 0).getD part0).queues 0 = some { aQueue with head := some 1, due := true } ∧ clusterRuns owing 0 = true ∧
      owing.agent 0 (queueAgent 0 0) 0 false .write (aQueue.addr + 0x10) 8 = .ok (span (lm + 16) 8)) ∧
    (launching.flights[0]? = some (.launch 0 0 none 0 false (word lm) (some (0, 5))) ∧ launching.part 0 = some part0 ∧ clusterRuns launching 0 = true ∧ xsSS th.xstat = false ∧
      launching.agent 0 (issuerAgent 0) 0 false .read (word lm) 128 = .ok (span lm 128) ∧ (recordOf ((span lm 128).map launching.byteAt)).place = 0) := by decide +kernel

def launched (stage : LaunchStage) (r : LaunchRec) : State := { on th with parts := [(0, { partL stage with launches := [(0, { aLaunch stage with r := r })] })] }
theorem test_meets_launch_stages : (∀ e ∈ [(LaunchStage.waiting, aRecord), (.waiting, { aRecord with depctr := word lm }), (.placing, aRecord), (.placing, { aRecord with nthr := 0, ngang := 1 }), (.placed, aRecord),
      (.placed, { aRecord with signal := word lm })], HasLaunch (launched e.1 e.2) 0 0 { partL e.1 with launches := [(0, { aLaunch e.1 with r := e.2 })] } { aLaunch e.1 with r := e.2 } ∧
        (mget (partL e.1).images e.2.image).any (·.revoked) = false ∧ e.2.place = 0 ∧ e.2.csz = 0 ∧ e.2.groups = 0 ∧
        outranked (launched e.1 e.2) 0 0 { partL e.1 with launches := [(0, { aLaunch e.1 with r := e.2 })] } { aLaunch e.1 with r := e.2 } = false ∧ launchAlive (launched e.1 e.2) 0 0 = false) ∧
    ((launched .waiting { aRecord with depctr := word lm }).agent 0 (launchAgent 0 0) 0 false .read (word lm) 8 = .ok (span lm 8) ∧ (launched .waiting { aRecord with depctr := word lm }).numAt (span lm 8) = 0) ∧
    (placeCore (launched .placing aRecord) 0 0 (aLaunch .placing) false).isSome = true ∧
    (placeCore (launched .placing { aRecord with nthr := 0, ngang := 1 }) 0 0 { aLaunch .placing with r := { aRecord with nthr := 0, ngang := 1 } } true).isSome = true ∧
    ((word lm).toNat % 16 = 0 ∧ (word lm) ≠ 0 ∧ aRecord.sigop = 0 ∧ (launched .placed { aRecord with signal := word lm }).agent 0 (launchAgent 0 0) 0 false .write (word lm) 8 = .ok (span lm 8)) := by
  simp only [List.forall_mem_cons, List.not_mem_nil, false_implies, implies_true, and_true, HasLaunch]
  and_intros <;> decide +kernel

def pend (tq : Nat) : Pending := { part := 0, serial := 0, index := 0, tq := tq }
def pendingOn (core : Nat) (c : Core) : State := { onC th { Cluster.reset with cores := [(core, c)] } with threads := [], parts := [(0, partL .placing)] }
theorem test_meets_gang_start : isSC 19 = false ∧ clusterRuns (pendingOn 19 { Core.reset with pending := [pend 0] }) 0 = true ∧ ((pendingOn 19 { Core.reset with pending := [pend 0] }).core 0 19).pending = [pend 0] ∧
    (freeGangSlots (pendingOn 19 { Core.reset with pending := [pend 0] }) 0 19).head? = some 0 ∧ (pendingThread (pendingOn 19 { Core.reset with pending := [pend 0] }) (pend 0) 31 31 true).isSome = true := by decide +kernel

/-- The same, levelling: 40 entries beside cores with none, the nearest of which takes 16; two queues that own no slot, and two that each own one. -/
def levelState : State := onCore th { Core.reset with work := (List.range 40).map fun n => (word n, 0, 0, 0) }
def owning : State := pendingOn 0 { Core.reset with pending := [pend 3, pend 5], owner := (Core.reset.owner.set 0 3).set 1 5 }
theorem test_meets_levelling : levelState.partOf 0 = some (0, part0) ∧ (match neighbours levelState part0 0 0 with
      | [] => false
      | m :: post => (post.all fun o => workLen levelState m.1 m.2 ≤ workLen levelState o.1 o.2) && workLen levelState 0 0 == 40 &&
          min 16 (min ((workLen levelState 0 0 - workLen levelState m.1 m.2) / 2) (256 - workLen levelState m.1 m.2 - workOnWay levelState m.1 m.2)) == 16) = true ∧
    (arbiterQueue (pendingOn 0 { Core.reset with pending := [pend 15, pend 7] }) 0 0 = some 7 ∧ ownedBy (pendingOn 0 { Core.reset with pending := [pend 15, pend 7] }) 0 0 7 = 0) ∧
    isSC 0 = true ∧ (pendingOn 0 { Core.reset with pending := [pend 15] }).thread (keyOf 0 0 0) = none := by decide +kernel

/-- SlotAndListEventsComplete: a child, a context, and a pending thread of queue 15 for a slot; the one free slot of a core at a boundary; an entry of the list on its way. -/
theorem test_meets_slots : (∀ c ∈ [{ Core.reset with waiting := [th] }, { Core.reset with arrivals := [aCtx] }, { Core.reset with pending := [pend 15] }],
      isSC 0 = true ∧ clusterRuns (pendingOn 0 c) 0 = true ∧ (freeSlots (pendingOn 0 c) 0 0).head? = some 0) ∧ aCtx.stepped = false ∧
    (((pendingQueues (pendingOn 0 { Core.reset with pending := [pend 15] }) 0 0).contains (Core.reset.owner.toList.getD 0 0)) = false ∧
      arbiterQueue (pendingOn 0 { Core.reset with pending := [pend 15] }) 0 0 = some 15 ∧ ([pend 15].find? fun x => x.tq == 15) = some (pend 15) ∧
      (pendingThread (pendingOn 0 { Core.reset with pending := [pend 15] }) (pend 15) 0 0 false).isSome = true) ∧
    (0 ∈ pendingQueues (pendingOn 0 { Core.reset with pending := [pend 15, pend 0] }) 0 0 ∧ ([pend 15, pend 0].find? fun x => x.tq == 0) = some (pend 0) ∧
      (pendingThread (pendingOn 0 { Core.reset with pending := [pend 15, pend 0] }) (pend 0) 0 0 false).isSome = true) ∧
    (({ sc with gtime := 1024 } : State).gtime % 1024 = 0 ∧ freeSlots { pendingOn 0 { Core.reset with pending := [pend 15] } with threads := (List.range 14).map fun n => (n, th) } 0 0 = [14] ∧ sc.gtime % 4096 = 0) ∧
    (({ sc with flights := [.work 0 0 1 2 3 4] } : State).flights[0]? = some (.work 0 0 1 2 3 4) ∧ clusterRuns sc 0 = true) := by
  simp only [List.forall_mem_cons, List.not_mem_nil, false_implies, implies_true, and_true]
  decide +kernel

/-- MatrixInstructionsComplete: operand words at the ends of their ranges, accepted and refused, with and without a prefix, and a table with one place left. -/
def aCmd (fn : Nat) (words : List Word) : Cmd :=
  { seq := 0, fn := fn, issuer := (0, 0, 0), keys := [0], gang := false, ctx := 0, words := words, ops := [], scales := [], dst := 5, pc := 0x10000, asid := 0, sup := false, posted := 0, inst := 0 }
def withTable (n : Nat) : Cluster := { Cluster.reset with mxe := { Mxe.reset with table := List.replicate n (aCmd 6 [0, 0, 0, 0]) } }
theorem test_meets_matrix : (ReadyPair gc ∧ Filled gc ∧ Lowest gc 4096 th ∧ gc.cur.pfx = none) ∧
    (cfgOk 0x433 = true ∧ cfgOk 0x1099 = true ∧ cfgOk 0 = false ∧ baseOk 0x3FFF3F = true ∧ (0x37 : Word) &&& ~~~ (0x37 : Word) = 0 ∧ bitsOf 6 58 (0x3F : Word) = 0) ∧
    (drainOk 7 0x4100 = true ∧ drainOk 8 0x100 = true ∧ drainOk 9 0xFFFF0000FFFE0100 = true ∧ drainDF 0x100 = (if intPair (0x433 : Word) then 11 else 1) ∧
      drainDF 0xB00 = (if intPair (0x188 : Word) then 11 else 1)) ∧ (elementOk 0x1F1F3F = true ∧ passOk 0x1F7F = true) ∧
    (readsScale 0x433 = false ∧ readsScale 0x1AA = true ∧ pfxOk (latched 0x111 (some (10, 10, 0))) false = true ∧ pfxOk (latched 0x111 (some (10, 10, 61))) true = true ∧
      cfgFA 0x433 ≠ 10 ∧ intFmt (cfgFA 0x433) = false) ∧
    (TableReady (onC th (withTable 31)) 0) := by
  refine ⟨⟨test_gang_is_ready.2.1, test_gang_is_ready.2.2.2.2.1, test_gang_is_ready.2.2.2.2.2, rfl⟩, by decide +kernel, by decide +kernel, by decide +kernel, by decide +kernel, by decide +kernel,
    lanes_all (P := fun _ t => t.tl < 63) _ (by decide +kernel)⟩

/-- MatrixEngineEventsComplete, grants: a pass of one FP32 row on its plane, and a clear of a tile; a command refused for its address. -/
def aPlane : Plane := { b := [], fb := 1, kb := 1, pt := 0, scale := none, hb := 0 }
def passCmd (va : Word) : Cmd := { aCmd 4 [0x111, 0, 0, 0] with ops := [(0, va, 0)] }
def engineOn (m : Mxe) : State := onC { th with tl := 1 } { Cluster.reset with mxe := m }
def arrayWaits : Mxe := { Mxe.reset with active := some aPlane, table := [passCmd (word lm)] }
def noWait : Elig → Bool
  | .wait _ => false
  | _ => true
theorem test_meets_matrix_grant : (clusterRuns (engineOn arrayWaits) 0 = true ∧ ((standings (engineOn arrayWaits) 0 true).all fun e => noWait e.2) = true ∧ isPass (passCmd (word lm)) = true ∧
      ((choice (engineOn arrayWaits) 0 true).any fun e => match e.2 with
        | .yes _ charge rlt => e.1 == passCmd (word lm) && rlt.isEmpty && charge ≤ 16384
        | _ => false) = true ∧ arrayWaits.inputFree ≤ (engineOn arrayWaits).cyc) ∧
    (((standings (engineOn { Mxe.reset with table := [aCmd 6 [0x433, 0, 0, 0]] }) 0 false).all fun e => noWait e.2) = true ∧
      choice (engineOn { Mxe.reset with table := [aCmd 6 [0x433, 0, 0, 0]] }) 0 false = some (aCmd 6 [0x433, 0, 0, 0], .yes (runOf (aCmd 6 [0x433, 0, 0, 0])) 0 [])) ∧
    (clusterFinishes (engineOn { Mxe.reset with table := [passCmd (word (lm + 1))] }) 0 = true ∧
      mxEligible (engineOn { Mxe.reset with table := [passCmd (word (lm + 1))] }) 0 [] (passCmd (word (lm + 1))) = .fail 1 (word (lm + 1))) := by decide +kernel

/-- The same, completions: a pass, a clear, a read of an element. -/
def ran (c : Cmd) : Running := { runOf c with plane := some aPlane }
def runsAt (r : Running) : State := engineOn { Mxe.reset with running := [r] }
def runs (c : Cmd) : State := runsAt (ran c)
theorem test_meets_matrix_completion : (∀ c ∈ [passCmd (word lm), aCmd 6 [0x433, 0, 0, 0]], mxRunning (runs c) 0 0 = some (ran c)) ∧
    (isPass (passCmd (word lm)) = true ∧ (ran (passCmd (word lm))).plane = some aPlane ∧ (((runs (passCmd (word lm))).cluster 0).mxe.running.take 0) = [] ∧
      badAm (runs (passCmd (word lm))) (tileKey 0 (tileAt (passCmd (word lm)) (cmdB (passCmd (word lm)))) 0 0) 8192 = none) ∧
    (mxRunning (runs { aCmd 10 [0x111, 0, 0, 0] with ops := [(0, 0, 0x1F1F3F)] }) 0 0 = some (ran { aCmd 10 [0x111, 0, 0, 0] with ops := [(0, 0, 0x1F1F3F)] }) ∧
      ({ aCmd 10 [0x111, 0, 0, 0] with ops := [(0, 0, 0x1F1F3F)] } : Cmd).keys = [laneKey { aCmd 10 [0x111, 0, 0, 0] with ops := [(0, 0, 0x1F1F3F)] } 0]) ∧
    ({ aCmd 11 [0x111, 0, 0, 0] with ops := [(0, 7, 0x1F1F3F)] } : Cmd).ops = [(0, 7, 0x1F1F3F)] := by
  simp only [List.forall_mem_cons, List.not_mem_nil, false_implies, implies_true, and_true]
  decide +kernel

/-- The same: a plane load of the whole range, drains of rows of 32 bytes and of 256 bytes, of the latter the first four, and contributions 0 and 1 of an ordered drain, each
placed at its grant. -/
def placed (c : Cmd) (a n w : Nat) : Running := { ran c with place := (List.range n).map fun i => (a + w * i, w) }
def aLoad : Running := placed (aCmd 2 [0x199, 0, 0, word lm]) lm 1 1024
def aDrain (fn : Nat) (b : Word) : Running := placed (aCmd fn [0x111, 0, b, word lm]) lm 32 32
def anAdd : Running := placed (aCmd 8 [0x111, 0, 0x100, word (lm + 0x700)]) (lm + 0x700) 4 256
/-- What `placeReady` answers is the keys of `n` bytes from `a`. -/
def readyAt (r : Running) (a n : Nat) : Bool := match placeReady (runsAt r) 0 0 r with
  | .ok l => l == span a n
  | _ => false
theorem test_meets_placed_commands : readyAt aLoad lm 1024 = true ∧
    (((runsAt aLoad).cluster 0).mxe.running.any fun x => isPass x.cmd && x.plane == Mxe.reset.shadow) = false ∧
    readyAt (aDrain 7 0x900) lm 1024 = true ∧ readyAt anAdd (lm + 0x700) 1024 = true := by
  and_intros <;> decide +kernel

theorem test_meets_contributions : ∀ b ∈ [(0x0001000000000900 : Word), 0x0002000000010900], readyAt (aDrain 9 b) lm 1024 = true ∧
    mget (runsAt (aDrain 9 b)).reductions lm = none ∧ bitsOf 16 16 b < bitsOf 48 16 b ∧ stagedAt (runsAt (aDrain 9 b)) lm < Config.stagedHere ∧
    (runsAt (aDrain 9 b)).bad = [] ∧ (runsAt (aDrain 9 b)).hostShares = [] ∧
    tableHeld (runsAt (aDrain 9 b)) ((rowKeys (aDrain 9 b).cmd (span lm 1024)).flatMap fun a => span a 256) = false := by
  simp only [List.forall_mem_cons, List.not_mem_nil, false_implies, implies_true, and_true]
  and_intros <;> decide +kernel

/-- CopyAndStreamInstructionsComplete: the longest copy, the largest gather, an adding scatter, the last free tag of a core; a stream recorded and one not. -/
def lastTag : Cluster := { Cluster.reset with cpe := List.replicate 127 (aCmd 0 [0, 0, 1]) }
theorem test_meets_copy : (Lone (onC th lastTag) 0 th ∧ tagFree ((onC th lastTag).cluster (keyCl 0)) (keyCore 0) = true ∧ th.cp < 63 ∧ lengthOk 1 = true ∧ lengthOk 16777216 = true ∧
      shapeOk false (0x8000000 + 65536) = true ∧ shapeOk true 0x12000001 = true) ∧
    (byteKeys sc part0 0 false .read (word lm) 1 = .ok [lm] []) ∧ (badStream 0 1 = false ∧ (streamOf th 3).state = .unbound) ∧
    ((streamOf (streaming 3 { Stream.reset with desc := 1, cfg := true }) 3).cfg = true ∧ (streamOf (streaming 3 { Stream.reset with desc := 1, cfg := true }) 3).state = .unbound) := by
  unfold Lone; decide +kernel

/-- CopyEngineEventsComplete: a copy into scratch at its grant, its line, its end and its failure; a gather that reads an address, a scatter
that adds; an element of a stream read ahead. -/
def copyCmd (dst src n : Word) : Cmd := aCmd 0 [dst, src, n]
def copying (c : Cmd) (done : Nat) : State :=
  onC { th with cp := 1 } { Cluster.reset with csmctl := 1, cpeRun := [{ runOf c with done := done }], presence := [(0, .absent 0)] }
def intoCsm : Cmd := copyCmd 0xFF000000000000 (word lm) 64
def gathering (fn : Nat) (shape : Word) (elems : List (Nat × Word)) : State :=
  let c := aCmd fn [word lm, word (lm + 128), shape]
  onC { th with cp := 1 } { Cluster.reset with cpeRun := [{ runOf c with elems := elems }] }
theorem test_meets_copy_events : (intoScratch intoCsm = true ∧ filledLines (onC th { Cluster.reset with csmctl := 1, cpe := [intoCsm] }) 0 intoCsm = [(0, 0)] ∧
      bankBusy ((onC th { Cluster.reset with csmctl := 1, cpe := [intoCsm] }).cluster 0) 0 = false) ∧
    (clusterRuns (copying intoCsm 0) 0 = true ∧ spotOf 0xFF000000000000 = some (.scratch 0 0) ∧ (copying intoCsm 0).registerRanges 0 0 (runOf intoCsm) = some (copying intoCsm 0) ∧
      copyNext (copying intoCsm 0) 0 0 (runOf intoCsm) = .write (span lm 64) ((span 0xFF000000000000 64).zip (List.replicate 64 0)) 64 ∧ copyTotal intoCsm ≤ 64) ∧
    (∀ e ∈ [(1, (0x3000001 : Word), ([] : List (Nat × Word)), (0 : Nat)), (2, 0x12000001, [(0, word (lm + 64))], 1)],
      issuerDone (gathering e.1 e.2.1 e.2.2.1) (aCmd e.1 [word lm, word (lm + 128), e.2.1]) = true ∧
      (((gathering e.1 e.2.1 e.2.2.1).registerRanges 0 0 { runOf (aCmd e.1 [word lm, word (lm + 128), e.2.1]) with elems := e.2.2.1 }).any fun s0 =>
        match copyNext s0 0 0 { runOf (aCmd e.1 [word lm, word (lm + 128), e.2.1]) with elems := e.2.2.1 } with
          | .taken elems _ _ => e.2.2.2 == 0 && elems == [(0, 0)]
          | .adds addrs _ _ _ done => e.2.2.2 == 1 && addrs == span (lm + 64) 4 && done == 4
          | _ => false) = true) ∧
    ((match copyNext (copying (copyCmd 0x100000000000000 (word lm) 64) 0) 0 0 (runOf (copyCmd 0x100000000000000 (word lm) 64)) with
      | .fail _ _ => true
      | _ => false) = true) ∧
    ((streamOf (streaming 3 { readStream [] with base := word lm }) 3).state = .readBound ∧
      (on (streaming 3 { readStream [] with base := word lm })).agent 0 (streamAgent 0 3) 0 false .read (word lm) 8 = .ok (span lm 8) ∧
      ((0 : Word) + word 0).toNat < streamCount (streamOf (streaming 3 { readStream [] with base := word lm }) 3)) := by decide +kernel

/-- Bank 15 in neuron mode with CSM bank 15 as its calendar. -/
def nmCtx : EnbCtx := { EnbCtx.reset with ctl := 0x11, cal := 15 }
def nmCluster (queue : List Cmd) : Cluster :=
  { Cluster.reset with csmctl := 0x40000000, enb := { Enb.reset with ctx := Enb.reset.ctx.set 15 nmCtx, queue := queue } }
def offCluster (queue : List Cmd) : Cluster :=
  { Cluster.reset with csmctl := 0x40000000, enb := { Enb.reset with ctx := Enb.reset.ctx.set 15 { EnbCtx.reset with cal := 15 }, queue := queue } }
def nCmd (fn : Nat) (words : List Word) : Cmd := { aCmd fn words with ctx := 15 }

/-- NeuronInstructionsComplete: each word accepted and refused, a change of NM both ways, a load of a whole bank, a selector, an event at the ends of its window; `ntick` of a group of cluster 0. -/
def thN : Thread := { withW thL [(6, 255)] with xstat := 0 }
def ticking (t : Thread) (recorded : Option Nat) : State := { onC t (nmCluster []) with parts := [(0, partG { aGroup with tick := recorded })] }
def thP : Thread := { thN with xstat := 0x80, last := [(256, 1)] }
def onward (t : Thread) : State := { ticking t none with clusters := [(0, { nmCluster [] with enb := { (nmCluster []).enb with ct := 1 } })] }
theorem test_meets_neuron : (Ready (onC th (offCluster [])) ∧ Lowest (onC th (offCluster [])) 0 th) ∧
    (enbWordOk EnbCtx.reset 0 0x10 = true ∧ ctlNM EnbCtx.reset.ctl = false ∧ enbWordOk EnbCtx.reset 1 0x7FFFFFFF = true ∧ enbWordOk EnbCtx.reset 2 0xFFFFFFFFFFFFF8 = true ∧ enbWordOk EnbCtx.reset 3 15 = true ∧
      enbWordOk EnbCtx.reset 0 0x2 = false ∧ enbWordOk EnbCtx.reset 1 0 = false ∧ enbWordOk EnbCtx.reset 2 4 = false ∧ enbWordOk EnbCtx.reset 3 16 = false) ∧
    (TableReady (onC th (offCluster (List.replicate 31 (nCmd 5 [0])))) 2 ∧ ctlNM 0x11 = true ∧ calBarred ((onC th (offCluster [])).cluster 0) 15 = false ∧ loadWordOk 0x8000000 = true ∧ loadWordOk 0x107FF = true) ∧
    (bitsOf 40 24 (0 : Word) = 0 ∧ bitsOf 32 32 (15 : Word) = 0 ∧ eventInside sc 0 (evCLU 0) = true ∧ Enb.reset.cl < signed32 (bitsOf 0 32 (0 : Word)) ∧ signed32 (bitsOf 0 32 (15 : Word)) ≤ Enb.reset.ct + 15 ∧ th.tl < 63) ∧
    (Ready (ticking thN none) ∧ Filled (ticking thN none) ∧ Lowest (ticking thN none) 0 thN ∧ readW thN 6 = word 255 ∧ neuronMode ((ticking thN none).cluster 0) 15 = true ∧ MayUseGroup (ticking thN none) 0 thN 255 0 aGroup ∧
      crowded aGroup = false ∧ xsAP thN.xstat = false ∧ tickArrived (ticking thN none) 0 0 0 255 = false ∧ ((ticking thN none).cluster 0).enb.due = []) ∧
    (Ready (onward thP) ∧ Filled (onward thP) ∧ Lowest (onward thP) 0 thP ∧ xsAP thP.xstat = true ∧ mget thP.last 256 ≠ some 0 ∧ tickOver (onward thP) 0 thP 255 = true ∧ MayUseGroup (onward thP) 0 thP 255 0 aGroup) := by
  refine ⟨⟨ready_of _ (by decide +kernel) rfl (by decide +kernel), by decide +kernel, by decide +kernel⟩, by decide +kernel,
    ⟨⟨by decide +kernel, lanes_all (P := fun _ t => t.tl < 63) _ (by decide +kernel)⟩, by decide +kernel⟩, by decide +kernel,
    ⟨ready_of _ (by decide +kernel) rfl (by decide +kernel), by unfold Filled; decide +kernel, by unfold Lowest; decide +kernel, by decide +kernel, by decide +kernel, ⟨⟨_, rfl, by decide +kernel⟩, by decide +kernel⟩, by decide +kernel⟩,
    ready_of _ (by decide +kernel) rfl (by decide +kernel), by unfold Filled; decide +kernel, by unfold Lowest; decide +kernel, by decide +kernel, by decide +kernel, by decide +kernel, ⟨⟨_, rfl, by decide +kernel⟩, by decide +kernel⟩⟩

/-- NeuronEventsComplete: NM changed both ways, a read and a spike word, a load, an event for this tick and for the last bucket, the arrival and the end of a tick, a step with nothing active. -/
def queueOne (c : Cmd) : State := onC { th with tl := 1 } (nmCluster [c])
def eventFlight (w0 w1 : Word) : State := { onC th (nmCluster []) with flights := [.event w0 w1 [0]], am := [(neuronKey 0 15 2047 + 11, 1)] }
def tickFlight : State := { ticking thN none with flights := [.tick [0] 0 255 0 0 0] }
def tickDone : State := { ticking thN none with parts := [(0, partG { aGroup with tick := some 0, tickCores := [(0, 0)] })] }
theorem test_meets_neuron_events : (clusterRuns (onC th (offCluster [nCmd 0 [0x11]])) 0 = true ∧ ((onC th (offCluster [nCmd 0 [0x11]])).cluster 0).enb.queue = [nCmd 0 [0x11]] ∧
      neuronMode ((onC th (offCluster [nCmd 0 [0x11]])).cluster 0) 15 = false ∧ neuronBanks ((onC th (offCluster [nCmd 0 [0x11]])).cluster 0) = [] ∧
      0 < rltRoom ((onC th (offCluster [nCmd 0 [0x11]])).cluster 0) ∧ ((onC th (offCluster [nCmd 0 [0x11]])).cluster 0).rlt = [] ∧
      ((onC th (offCluster [nCmd 0 [0x11]])).cluster 0).mxe.running = [] ∧ (nCmd 0 [0x11]).ctx < 16 ∧ neuronMode ((queueOne (nCmd 0 [0x10])).cluster 0) 15 = true ∧ ctlNM 0x10 = false) ∧
    (((queueOne (nCmd 4 [2047, 0])).cluster 0).enb.queue = [nCmd 4 [2047, 0]] ∧ badAm (queueOne (nCmd 4 [2047, 0])) (neuronKey 0 15 2047) 16 = none) ∧ (nCmd 4 [2047, 0]).keys = [0] ∧ (queueOne (nCmd 4 [2047, 0])).thread 0 = some { th with tl := 1 } ∧
    ((word lm).toNat % 16 = 0 ∧ (queueOne (nCmd 1 [word lm, 0x107FF])).locate 0 2 (nCmd 1 [word lm, 0x107FF]) .read (pagePieces (word lm) (16 * bitsOf 16 12 (0x107FF : Word))) = .ok [(lm, 16)] ∧
      rltEntries 2 (nCmd 1 [word lm, 0x107FF]) false (lineRuns [(lm, 16)]) ≠ [] ∧
      (rltEntries 2 (nCmd 1 [word lm, 0x107FF]) false (lineRuns [(lm, 16)])).length ≤ rltRoom ((queueOne (nCmd 1 [word lm, 0x107FF])).cluster 0) ∧
      (queueOne (nCmd 1 [word lm, 0x107FF])).agentAll 0 (2, 0) 0 false .read (pagePieces (word lm) (16 * bitsOf 16 12 (0x107FF : Word))) = .ok (span lm 16)) ∧
    ((eventFlight 0x7FFF8001 0).flights[0]? = some (.event 0x7FFF8001 0 [0]) ∧ evCLU 0x7FFF8001 = 0 ∧ evBANK 0x7FFF8001 = 15 ∧ evNEUR 0x7FFF8001 = 2047 ∧ recEN (neuronAt (eventFlight 0x7FFF8001 0) 0 15 2047) = true ∧
      arrives (eventFlight 0x7FFF8001 0) 0 0 = true ∧ badAm (eventFlight 0x7FFF8001 0) (neuronKey 0 15 2047) 16 = none ∧ (eventFlight 0x7FFF8001 0).bad = [] ∧
      ((bitsOf 0 32 (0 : Word) : Nat) : Int) = Enb.reset.ct ∧ Enb.reset.ct < (bitsOf 0 32 (15 : Word) : Nat) ∧ ((bitsOf 0 32 (15 : Word) : Nat) : Int) ≤ Enb.reset.ct + 15) ∧
    (tickFlight.flights = [.tick [0] 0 255 0 0 0] ∧ tickFlight.part 0 = some (partG aGroup) ∧ clusterRuns tickFlight ((leastBy id (aGroup.members.map (·.1))).getD 0) = true ∧ aGroup.tick = none) ∧
    (((liveCores tickDone 0 { aGroup with tick := some 0, tickCores := [(0, 0)] }).all [(0, 0)].contains) = true ∧
      (tickSums tickDone { aGroup with tick := some 0, tickCores := [(0, 0)] } 0).1 = (tickSums tickDone { aGroup with tick := some 0, tickCores := [(0, 0)] } 0).2) ∧
    (((onC th { nmCluster [] with enb := { (nmCluster []).enb with due := [0] } }).cluster 0).enb.due = [0] ∧
      badAm (onC th { nmCluster [] with enb := { (nmCluster []).enb with due := [0] } }) (neuronKey 0 15 0) 32768 = none ∧ (onC th (nmCluster [])).bad = [] ∧
      ∀ n ∈ neuronBanks ((onC th { nmCluster [] with enb := { (nmCluster []).enb with due := [0] } }).cluster 0), ∀ i, i < 2048 →
        neuronActive (enbCtx (onC th { nmCluster [] with enb := { (nmCluster []).enb with due := [0] } }) 0 n) (neuronAt (onC th { nmCluster [] with enb := { (nmCluster []).enb with due := [0] } }) 0 n i) = false) := by
  decide +kernel

/-- The same, the four reasons of a refused event; the last entry of a fan-out list, and a list that is not mapped; a neuron that fires. -/
def refusedEvent (c : Cluster) (rec_ : Byte) (w1 : Word) : State := { onC th c with flights := [.event 0x7FFF8001 w1 []], am := [(neuronKey 0 15 2047 + 11, rec_)] }
def firing : State := { onC th { nmCluster [] with enb := { (nmCluster []).enb with ctx := Enb.reset.ctx.set 15 { nmCtx with lev := 1, fob := word lm } } } with
  mem := [(lm + 7, 0x80)], am := [(neuronKey 0 15 0 + 4, 9), (neuronKey 0 15 0 + 11, 1)] }
theorem test_meets_neuron_refusals : neuronMode ((refusedEvent (offCluster []) 0 0).cluster 0) 15 = false ∧ neuronMode ((refusedEvent (nmCluster []) 0 0).cluster 0) 15 = true ∧
    recEN (neuronAt (refusedEvent (nmCluster []) 0 0) 0 15 2047) = false ∧ recEN (neuronAt (refusedEvent (nmCluster []) 1 16) 0 15 2047) = true ∧ ((refusedEvent (nmCluster []) 1 16).cluster 0).enb.ct + 15 < 16 ∧
    (0 : Int) < ({ (nmCluster []).enb with ct := 5 } : Enb).ct ∧ arrives (refusedEvent (nmCluster []) 1 16) 0 0 = true ∧ badAm (refusedEvent (nmCluster []) 1 16) (neuronKey 0 15 2047) 16 = none ∧
    fanRead firing 0 (enbCtx firing 0 15) (word lm) = .word 0x8000000000000000 (span lm 8) ∧ bitsOf 40 23 (0x8000000000000000 : Word) = 0 ∧ eventInside firing 0 (evCLU 0x8000000000000000) = true ∧
    fanRead firing 0 (enbCtx firing 0 15) 0x100000000000000 = .fault ∧ neuronActive (enbCtx firing 0 15) (neuronAt firing 0 15 0) = true ∧
    (neuronStep (enbCtx firing 0 15) 0 (neuronAt firing 0 15 0)).2 = true ∧ natField 96 32 (neuronAt firing 0 15 0) ≠ 0xFFFFFFFF := by
  and_intros <;> decide +kernel

/-- TreeInstructionsComplete: words accepted and refused, the largest batch. -/
theorem test_meets_tree : Lone (onC th Cluster.reset) 0 th ∧ (Ready (onC th Cluster.reset) ∧ Lowest (onC th Cluster.reset) 0 th) ∧ (steWordOk 0 0 = true ∧ steWordOk 1 0x3F800000 = true ∧ steWordOk 2 0x40000000 = true ∧ steWordOk 3 0x4000 = true ∧ steWordOk 3 0x8000000000000000 = false) ∧
    TableReady (onC th Cluster.reset) 3 ∧ (bitsOf 41 23 (0x10000000000 : Word) = 0 ∧ bitsOf 32 9 (0x10000000000 : Word) = 256 ∧ (readW th 7).toNat % 8 = 0 ∧ Unbound th ∧ th.park = none) :=
  ⟨lone_on _ rfl, ⟨ready_of _ (by decide +kernel) rfl (by decide +kernel), by unfold Lowest; decide +kernel⟩, by decide +kernel, ⟨by decide +kernel, lanes_all (P := fun _ t => t.tl < 63) _ (by decide +kernel)⟩, by decide +kernel, by decide +kernel, by decide +kernel, by unfold Unbound; decide +kernel, rfl⟩

/-- TreeEventsComplete: a tree of two nodes in LM, a read of its last node, a path of that node, and a descriptor whose pool is misaligned. -/
def treeMem : Mem := memWriteAll [] ((span lm 8).zip (leBytes 8 (lm + 64)) ++ [(lm + 8, 2), (lm + 128, 1), (lm + 136, 1)])
def sCmd (fn : Nat) (a b : Word) : Cmd := { aCmd fn [word lm, 0x3F800000, 0x40000000, 0x4000] with ops := [(0, a, b)] }
def treeOn (c : Cmd) (m : Mem) : State := { onC { th with tl := 1 } { Cluster.reset with ste := { Ste.reset with running := [runOf c] } } with mem := m }
def endsOk {α : Type} [DecidableEq α] (r : SteRun α) (v : α) (s : State) : Bool := match r with
  | .ok w u => decide (w = v) && decide (u = s)
  | _ => false
theorem endsOk_eq {α : Type} [DecidableEq α] {r : SteRun α} {v : α} {s : State} (h : endsOk r v s = true) : r = .ok v s := by
  unfold endsOk at h; split at h <;> simp_all
def fails (r : SteRun State) (d : Nat) (va : Word) (s : State) : Bool := match r with
  | .fail e w u => decide (e = d) && decide (w = va) && decide (u = s)
  | _ => false
theorem fails_eq {r : SteRun State} {d : Nat} {va : Word} {s : State} (h : fails r d va s = true) : r = .fail d va s := by
  unfold fails at h; split at h <;> simp_all
theorem test_meets_tree_events : (clusterRuns (onC th { Cluster.reset with ste := { Ste.reset with table := [sCmd 4 0 0] } }) 0 = true) ∧
    (steRunning (treeOn (sCmd 5 3 1) treeMem) 0 0 = some (sCmd 5 3 1) ∧ (sCmd 5 3 1).keys = [0] ∧ bitsOf 0 32 (cmdLaneB (sCmd 5 3 1)) = 1) ∧
    (steTree 0 (sCmd 5 3 1) (treeOn (sCmd 5 3 1) treeMem) = .ok { pool := word (lm + 64), cap := 2 } (treeOn (sCmd 5 3 1) treeMem)) ∧
    (steRead 0 (sCmd 5 3 1) (word (lm + 64) + word (32 * 1 + 8 * 3)) (treeOn (sCmd 5 3 1) treeMem) = .ok 0 (treeOn (sCmd 5 3 1) treeMem)) ∧
    (readPath 0 (sCmd 6 (word (lm + 128)) 1) (cmdLaneA (sCmd 6 (word (lm + 128)) 1)) (treeOn (sCmd 6 (word (lm + 128)) 1) treeMem) = .ok [1] (treeOn (sCmd 6 (word (lm + 128)) 1) treeMem)) ∧
    (steWrite 0 (sCmd 6 (word (lm + 128)) 1) (word (lm + 64) + word (32 * 1 + 8)) (putBits 0 32 16 1) (treeOn (sCmd 6 (word (lm + 128)) 1) treeMem) =
      .ok () (treeOn (sCmd 6 (word (lm + 128)) 1) (memWriteAll treeMem [(lm + 64 + 40 + 4, 1)]))) ∧
    (steDone 0 (sCmd 5 3 1) (treeOn (sCmd 5 3 1) [(lm, 1)]) = .fail 1 1 (treeOn (sCmd 5 3 1) [(lm, 1)])) :=
  ⟨by decide +kernel, by decide +kernel, endsOk_eq (by decide +kernel), endsOk_eq (by decide +kernel), endsOk_eq (by decide +kernel), endsOk_eq (by decide +kernel), fails_eq (by decide +kernel)⟩


/-- The same: a tree of four nodes whose root has two children, the last free run of size 1 in its bin or none, and what each command reads and
writes there. -/
def pool : Nat := lm + 0x900
def forest (bin next : Nat) (more : List (Nat × Byte)) : Mem :=
  memWriteAll [] ((span lm 24).zip (leBytes 8 pool ++ leBytes 8 4 ++ leBytes 8 next) ++ (span (lm + 0x40) 8).zip (leBytes 8 bin) ++
    [(pool + 20, 1), (pool + 28, 2), (lm + 128, 2), (lm + 144, 1)] ++ more)
def got {α : Type} : SteRun α → Option (α × State)
  | .ok a s => some (a, s)
  | _ => none
def walking (w : Option (List (Nat × Nat))) : State := let c := sCmd 4 1 0
  { onC { th with tl := 1 } { Cluster.reset with ste := { Ste.reset with running := [{ runOf c with walk := w }] } } with mem := forest 0xFFFFFFFF 3 [] }
theorem test_meets_descent : (do
    let c := sCmd 1 0 (word (lm + 128))
    let (tree, s1) ← got (steTree 0 c (treeOn c (forest 0xFFFFFFFF 3 [])))
    let (rw, s2) ← got (steRead 0 c (rootAddr c) s1)
    let root := bitsOf 0 32 rw
    let (h, s3) ← got (steRead 0 c (nodeAddr tree root 1) s2)
    let (_, s4) ← got (raiseVl 0 c tree root s3)
    let (h2, s5) ← got (steRead 0 c (nodeAddr tree root 1) s4)
    let (_, s6) ← got (steRead 0 c (nodeAddr tree root 3) s5)
    let (_, s7) ← got (steWrite 0 c (cmdLaneB c) 1 s6)
    let (_, _) ← got (steWrite 0 c (cmdLaneB c + 8) (word root) s7)
    some (decide (root < tree.cap) && !nodeRET h && !nodeEXP h2 && 1 ≤ optDMAX c && (cmdLaneB c).toNat % 8 == 0)) = some true := by decide +kernel
theorem test_meets_expansion : (∀ e ∈ [(0xFFFFFFFF, 3), (2, 4)], (do
    let c := sCmd 2 0x100000003 (word (lm + 128))
    let (tree, s1) ← got (steTree 0 c (treeOn c (forest e.1 e.2 [])))
    let (h, s2) ← got (steRead 0 c (nodeAddr tree 3 1) s1)
    let (_, s3) ← got (steWrite 0 c (nodeAddr tree 3 1) (putBit h 50 true) s2)
    let (run, s4) ← got (takeRun 0 c tree 1 s3)
    let (_, _) ← got (fillRun 0 c tree 3 (run.getD 0) 1 s4)
    some (run == some (min e.1 3) && decide (3 < tree.cap) && !(nodeEXP h || nodePEND h || nodeTERM h || nodeRET h))) = some true) ∧
    (do
      let c := sCmd 2 0x100000003 (word (lm + 128))
      let (tree, s1) ← got (steTree 0 c (treeOn c (forest 0xFFFFFFFF 4 [(pool + 110, 1)])))
      let (h, _) ← got (steRead 0 c (nodeAddr tree 3 1) s1)
      let (run, _) ← got (takeRun 0 c tree 1 s1)
      some (nodeEXP h && run == none)) = some true := by
  simp only [List.forall_mem_cons, List.not_mem_nil, false_implies, implies_true, and_true]; and_intros <;> decide +kernel
theorem test_meets_reroot : (do
    let c := sCmd 4 1 0
    let (tree, s1) ← got (steTree 0 c (walking none))
    let (rw, s2) ← got (steRead 0 c (rootAddr c) s1)
    let (h, s3) ← got (steRead 0 c (nodeAddr tree 0 1) s2)
    let (w2, s4) ← got (steRead 0 c (nodeAddr tree 0 2) s3)
    let (w3, s5) ← got (steRead 0 c (nodeAddr tree 0 3) s4)
    let (_, s6) ← got (steWrite 0 c (nodeAddr tree 0 1) (putBit h 51 true) s5)
    let (_, s7) ← got (steUpdate 0 c (nodeAddr tree 1 3) (fun w => putBits w 0 32 noNode) s6)
    let (_, _) ← got (steWrite 0 c (rootAddr c) (putBits rw 0 32 1) s7)
    some (bitsOf 0 32 rw == 0 && nodeVL h == 0 && nodeFIRST w2 == 1 && nodeNCH w3 == 2)) = some true ∧
    (∀ e ∈ [(1, 0), (0, 2)], (do
      let c := sCmd 4 1 0
      let (tree, s1) ← got (steTree 0 c (walking (some [(e.1, 0)])))
      let (w3, s2) ← got (steRead 0 c (nodeAddr tree e.1 3) s1)
      let (_, _) ← got (steRead 0 c (nodeAddr tree e.1 2) s2)
      let (_, _) ← got (pushRun 0 c tree 1 2 s1)
      some (nodeNCH w3 == e.2)) = some true) ∧
    (((walking (some [])).cluster 0).ste.running.find? fun r => r.cmd == sCmd 4 1 0) = some { runOf (sCmd 4 1 0) with walk := some [] } := by
  simp only [List.forall_mem_cons, List.not_mem_nil, false_implies, implies_true, and_true]; and_intros <;> decide +kernel
theorem test_meets_backup : (∀ fn ∈ [3, 6], (do
    let c := sCmd fn (word (lm + 128)) 0x3F800000
    let (path, s1) ← got (readPath 0 c (cmdLaneA c) (treeOn c (forest 0xFFFFFFFF 3 [])))
    let (tree, s2) ← got (steTree 0 c s1)
    let (_, s3) ← got (steUpdate 0 c (nodeAddr tree 1 1) id s2)
    let (_, s4) ← got (steUpdate 0 c (nodeAddr tree 1 0) id s3)
    let (_, s5) ← got (steUpdate 0 c (nodeAddr tree 0 1) id s4)
    let (_, _) ← got (steUpdate 0 c (nodeAddr tree 0 0) id s5)
    some (path == [0, 1])) = some true) ∧ backupValue (bitsOf 0 32 (0x3F800000 : Word)) = some (2 ^ 30) := by
  simp only [List.forall_mem_cons, List.not_mem_nil, false_implies, implies_true, and_true]; and_intros <;> decide +kernel
/-- SystemRegisterInstructionsComplete, SupervisorRegistersArePrivileged: an unassigned register, a read-only one, RNDSEED at the end of its field, and LQCFG, which waits. -/
def super : Thread := { withW th [(6, 0xFFFFFFFF), (7, 0x80000000)] with xstat := 0x2000 }
theorem test_meets_system : (Lone sc 0 th ∧ sc.partOf (keyCl 0) = some (0, part0) ∧ sysFields false false 0x111 = none ∧ sysFields false false 0x005 = none ∧ Vectored sc 0 th 0 part0) ∧
    (sysFields false false 0x021 = some fieldsRO ∧ fieldsRO.write = 0 ∧ fieldsRO.clear = 0) ∧
    (Lone (on super) 0 super ∧ sysFields false true 0x003 = some (fieldsRW (maskOf 0 32)) ∧ (fieldsRW (maskOf 0 32)).write ≠ 0 ∧ sysWaits 0x003 = false ∧ readW super 6 &&& (fieldsRW (maskOf 0 32)).reserved = 0 ∧
      sysRefused part0 0x003 0xFFFFFFFF = false) ∧
    ((sysFields false true 0x106).isSome = true ∧ sysWaits 0x106 = true ∧ super.park = none ∧ ((sysFields false true 0x106).any fun f => readW super 7 &&& f.reserved == 0 && f.write != 0) = true ∧ sysRefused part0 0x106 0x80000000 = false) ∧
    ((sysFields false false 0x100).isSome = true ∧ (sysFields true false 0x110).isSome = true ∧ sysFields false false 0 = some (fieldsXstat false false) ∧
      readW th 7 &&& (fieldsXstat false false).reserved = 0 ∧ xsRM (readW th 7) < 6 ∧ xsSUP th.xstat = false) := by
  unfold Lone; and_intros <;> first | rfl | decide +kernel

def breaking : State := { sc with parts := [(0, { part0 with fhcfg := 0x40000 })] }
/-- A gang lane whose `svc` has its index, with the host ring in LM: one entry, none used. -/
def aCall : HostCall := { base := word lm, asid := 0, index := some 0, nb := 1, pos := 0 }
def caller : State := { gang [{ th with call := some aCall }] with mem := memWriteAll [] ((span lm 8).zip (leBytes 8 (lm + 128))) }
theorem test_meets_host_request : Lone caller 4096 { th with call := some aCall } ∧ caller.lowest = some (4096, { th with call := some aCall }) ∧ ringRoom caller 0 aCall = true ∧
    checkAccess caller true 0 0 part0 0 true .read (word lm) 24 = .ok (span lm 24) [] ∧ linkHeld caller false (span lm 24) = none ∧ badAmong caller (span lm 24) = none ∧
    checkAccess caller true 0 0 part0 0 true .write (word (caller.numAt ((span lm 24).take 8)) + word (0 % 2 ^ (caller.numAt (((span lm 24).drop 8).take 8) % 32) * 128)) 128 = .ok (span (lm + 128) 128) [] ∧
    linkHeld caller true (span (lm + 128) 128) = none ∧ tableHeld caller (span (lm + 128) 128) = false ∧ farRefused caller 0 (lm + 128) true = false ∧
    farRefused caller 0 (lm + 255) true = false := by
  unfold Lone; and_intros <;> rfl

/-- TrapInstructionsComplete: an SC thread with handlers, without SUP, with BRKSTOP, a gang that calls the host, a supervisor that returns, one woken and one not. -/
theorem test_meets_traps : (sc.lowest = some (0, th) ∧ Vectored sc 0 th 0 part0 ∧ OnSC sc ∧ sc.cur.cl = keyCl 0 ∧ natBit 18 part0.fhcfg.toNat = false ∧ xsSUP th.xstat = false) ∧
    (breaking.lowest = some (0, th) ∧ breaking.partOf (keyCl 0) = some (0, { part0 with fhcfg := 0x40000 }) ∧ natBit 18 (0x40000 : Word).toNat = true ∧ part0.run = .running ∧ breaking.part 0 = some { part0 with fhcfg := 0x40000 }) ∧
    ((gang [th]).lowest = some (4096, th) ∧ (gang [th]).partOf (keyCl 4096) = some (0, part0) ∧ isSC (gang [th]).cur.core = false ∧ Idle th ∧ th.park = none ∧ natBit 0 part0.hrbase.toNat = false ∧ Lone (gang [th]) 4096 th) ∧
    (Lone (on super) 0 super ∧ (on super).lowest = some (0, super) ∧ xsSUP super.xstat = true ∧ tstatRefused super = false ∧ isSC (keyCore 0) = true) ∧
    (0 ∈ ({ on super with wakes := [0] } : State).wakes ∧ 0 ∉ (on super).wakes ∧ (on super).mailbox 0 = [] ∧ ((on super).core (keyCl 0) (keyCore 0)).timerDue = none) := by
  unfold Lone Vectored OnSC Idle; and_intros <;> first | rfl | decide +kernel

/-- The same, of a set of two lanes: users, supervisors, with nothing outstanding and with a load outstanding. -/
def supers : State := gang [{ th with xstat := 0x2000 }, { th with xstat := 0x2000 }]
def drainingPair : State := gang [{ th with ld := 1 }, th]
theorem test_meets_gang_traps : (Ready gc ∧ isSC gc.cur.core = false ∧ gc.lowest ≠ none ∧ gc.partOf gc.cur.cl = some (0, part0) ∧
      (∀ k ∈ gc.curKeys, ∀ t, gc.thread k = some t → gc.partOf (keyCl k) = some (0, part0) ∧ t.call = none ∧ t.park = none ∧ xsSUP t.xstat = false ∧ t.ld + t.st + t.cp + t.tl = 0 ∧ tcV t.tcause = false)) ∧
    (Ready supers ∧ ∀ k ∈ supers.curKeys, ∀ t, supers.thread k = some t → xsSUP t.xstat = true ∧ tstatRefused t = false) ∧
    (Ready drainingPair ∧ 4096 ∈ drainingPair.curKeys ∧ drainingPair.thread 4096 = some { th with ld := 1 }) :=
  ⟨⟨ready_of _ (by decide +kernel) rfl (by decide +kernel), by decide +kernel, by decide +kernel, by decide +kernel,
      lanes_all (P := fun k t => gc.partOf (keyCl k) = some (0, part0) ∧ t.call = none ∧ t.park = none ∧ xsSUP t.xstat = false ∧ t.ld + t.st + t.cp + t.tl = 0 ∧ tcV t.tcause = false) _ (by decide +kernel)⟩,
    ⟨ready_of _ (by decide +kernel) rfl (by decide +kernel), lanes_all (P := fun _ t => xsSUP t.xstat = true ∧ tstatRefused t = false) _ (by decide +kernel)⟩,
    ready_of _ (by decide +kernel) rfl (by decide +kernel), by decide +kernel, by decide +kernel⟩

/-- TakingATrapSavesAndEnters: a vector, none, a trap in force, and a single step. -/
theorem test_meets_taking_a_trap : (Vectored sc 0 th 0 part0 ∧ 63 < 64 ∧ 255 < 256) ∧
    (({ sc with parts := [(0, fetchPartition)] } : State).partOf (keyCl 0) = some (0, fetchPartition) ∧ ({ sc with parts := [(0, fetchPartition)] } : State).part 0 = some fetchPartition ∧ fetchPartition.run = .running ∧ fetchPartition.svcbase = 0) ∧
    (sc.partOf (keyCl 0) = some (0, part0) ∧ sc.part 0 = some part0 ∧ tcV ({ th with tcause := 0x8000000000000004 } : Thread).tcause = true) ∧
    ((on { th with xstat := 0x1000 }).curKeys = [0] ∧ (on { th with xstat := 0x1000 }).thread 0 = some { th with xstat := 0x1000 } ∧ xsSS (0x1000 : Word) = true ∧ th.deferred = [] ∧ part0.svcbase ≠ 0 ∧ tcV th.tcause = false) := by
  unfold Vectored; and_intros <;> first | rfl | decide +kernel

/-- SystemEventsComplete: a timer at its time, the two asynchronous traps, and each of the six writes parked. -/
def timerSet (due : Option Nat) : State := { onCore { th with xstat := 1 } { Core.reset with timer := some (0, 100), timerDue := due } with gtime := 100, mail := [(0, [(7, 0, 0)])] }
def parkedWrite (r : BitVec 12) : Thread := { super with park := some { why := .sysWrite 1 r 0 0, since := 0 } }
theorem test_meets_system_events : (((timerSet none).core 0 0).timer = some (0, 100) ∧ clusterRuns (timerSet none) 0 = true ∧ (100 : Word).toNat ≤ (timerSet none).gtime) ∧
    ((timerSet (some 0)).thread 0 = some { th with xstat := 1 } ∧ Vectored (timerSet (some 0)) 0 { th with xstat := 1 } 0 part0 ∧ prefixAt (timerSet (some 0)) 0 { th with xstat := 1 } = none ∧
      timerTrapDue (timerSet (some 0)) 0 { th with xstat := 1 } = true ∧ messageTrapDue { timerSet none with gtime := 99 } 0 { th with xstat := 1 } = true) ∧
    (∀ r ∈ ([0x100, 0x102, 0x106, 0x10D, 0x10E, 0x10F] : List (BitVec 12)), (on (parkedWrite r)).thread 0 = some (parkedWrite r) ∧ clusterRuns (on (parkedWrite r)) (keyCl 0) = true ∧
      xsSS (parkedWrite r).xstat = false ∧ (sysFields false true r.toNat).isSome = true ∧ ((sysFields false true r.toNat).any fun f => !sysTurnedDown part0 1 r.toNat (sysNew 1 f (sysValue (on (parkedWrite r)) 0 (parkedWrite r) 0 part0 r.toNat) 0)) = true ∧
      (parkedWrite r).out = [] ∧ (parkedWrite r).ld = 0 ∧ (parkedWrite r).st = 0 ∧ (parkedWrite r).cp = 0 ∧ (parkedWrite r).tl = 0) := by
  simp only [List.forall_mem_cons, List.not_mem_nil, false_implies, implies_true, and_true]
  unfold Vectored; and_intros <;> first | rfl | decide +kernel

/-- ControlWordFaultAndRecordEventsComplete, control words: stores to CSMCTL, TQWGT and FBFCMD, the latter against an access that is held; a bank at the end of its switch. -/
def ctlOp (w : Nat) (v : Word) : OutOp :=
  { kind := .store, addrs := span (0xFF000000F00000 + 8 * w) 8, data := leBytes 8 v.toNat, order := 0, scope := 0, pc := 0x10000, serial := 1, inst := 0, lines := [],
    va := word (0xFF000000F00000 + 8 * w) }
def heldAt (k : Nat) (va : Word) : FbfEntry :=
  { key := some k, engine := none, asid := 0, vpn := bitsOf 16 40 va, va := va, cause := 3, write := false, fetch := false, sup := false, lines := [], poked := true }
def storing (w : Nat) (v : Word) (fbf : List FbfEntry) : State :=
  { onC { th with st := 1, out := [ctlOp w v] } { Cluster.reset with fbf := fbf } with threads := [(0, { th with st := 1, out := [ctlOp w v] }), (1, { th with park := some { why := .fault, since := 0 } })] }
theorem test_meets_control_words : (∀ e ∈ [(0, (0x80000001 : Word)), (1, 5), (2, 0xFF000000800000), (2, 0x1FF000000800000)],
      (storing e.1 e.2 [heldAt 1 0xFF000000800000]).thread 0 = some { th with st := 1, out := [ctlOp e.1 e.2] } ∧ clusterDrains (storing e.1 e.2 [heldAt 1 0xFF000000800000]) (keyCl 0) = true ∧ writeReady [] (ctlOp e.1 e.2) = true ∧
      lanesBefore (storing e.1 e.2 [heldAt 1 0xFF000000800000]) 0 (ctlOp e.1 e.2) = true ∧ ctlOf (ctlOp e.1 e.2) = some (0, e.1) ∧ e.2 = word (leNat (ctlOp e.1 e.2).data)) ∧
    (∀ b, b < 16 → isCalendar (storing 0 0x80000001 []) 0 b = false) ∧
    ((heldAt 1 0xFF000000800000).asid.toNat = bitsOf 0 16 (0xFF000000800000 : Word) ∧ (heldAt 1 0xFF000000800000).vpn = bitsOf 16 40 (0xFF000000800000 : Word)) := by
  simp only [List.forall_mem_cons, List.not_mem_nil, false_implies, implies_true, and_true]
  decide +kernel

/-- The same, the end of a switch, entries that retry and that wait, and the fault ring in LM: delivery off, a full ring, a free entry. -/
def switching : Cluster := { Cluster.reset with csmctl := 0x40000000, switching := [(15, 0)] }
def parked : Thread := { th with park := some { why := .fault, since := 0 } }
def ringPart (cfg : Word) : Partition := { part0 with fhbase := word lm, fhcfg := cfg }
def aReport : Record := { part := 0, w0 := 7, w1 := 0, w2 := 0, w3 := 0, route := none }
def ringMem (resv : Byte) : Mem := memWriteAll [] ((span lm 8).zip (leBytes 8 (lm + 128)) ++ [(lm + 0x40, resv)])
def collecting (cfg : Word) (resv : Byte) : State := { sc with parts := [(0, ringPart cfg)], mem := ringMem resv, collectors := [(0, [aReport])] }
theorem test_meets_faults : (((onC th switching).cluster 0).switching = [(15, 0)] ∧ clusterFinishes (onC th switching) 0 = true ∧ bankInUse (onC th switching) 0 15 = false ∧ (onC th { switching with switching := [(15, 2)] } |>.cluster 0).fifos = []) ∧
    (clusterRuns (onC parked { Cluster.reset with fbf := [heldAt 0 (word lm)] }) 0 = true ∧ (heldAt 0 (word lm)).poked = true ∧
      refault (onC parked { Cluster.reset with fbf := [heldAt 0 (word lm)] }) 0 (heldAt 0 (word lm)) = none ∧ ({ Cluster.reset with fbfWait := [heldAt 0 (word lm)] } : Cluster).fbf.length < 256) ∧
    (mget (collecting 0 0).collectors 0 = some [aReport] ∧ (collecting 0 0).part aReport.part = some (ringPart 0) ∧ 0 = rowCluster (ringPart 0) 0 ∧
      recordRoute (ringPart 0) aReport = (word lm, 0) ∧ recordRoute part0 { aReport with route := some (word lm, 0x10000) } = (word lm, 0x10000) ∧ natBit 16 (0 : Word).toNat = false) ∧
    (natBit 16 (0x10000 : Word).toNat = true ∧ mget (collecting 0x10000 0).reserved 0 = none ∧ (collecting 0x10000 0).agentAtomic 0 (8, 0) ((0x10000 : Word).setWidth 16) true (ringBase (word lm) + 0x40) 8 = .ok (span (lm + 0x40) 8) ∧
      (collecting 0x10000 0).numAt (span (lm + 0x40) 8) = 0 ∧ ringFree { (collecting 0x10000 0).atomicFrom 0 1 (span (lm + 0x40) 8) 1 1 0 with reserved := [(0, 0)] } (ringPart 0x10000) ((0x10000 : Word).setWidth 16) (ringBase (word lm)) 0 = true ∧
      ringFree { (collecting 0x10000 1).atomicFrom 0 1 (span (lm + 0x40) 8) 2 1 0 with reserved := [(0, 1)] } (ringPart 0x10000) ((0x10000 : Word).setWidth 16) (ringBase (word lm)) 1 = false) := by
  and_intros <;> decide +kernel

/-- StopAndSwitchEventsComplete: a partition at each of its states, at its time. -/
def inRun (r : RunState) : State := { sc with parts := [(0, { part0 with run := r })], gtime := 8192 }
theorem test_meets_stops : (∀ r ∈ [RunState.stopping true aReport, .leaving 8192, .saved 8192 false false, .resuming 8192, .entering 0 8192], (inRun r).part 0 = some { part0 with run := r }) ∧
    (natBit 16 (0 : Word).toNat = false ∧ 8192 ≤ (inRun (.leaving 8192)).gtime ∧ quiet (inRun (.saved 8192 false false)) { part0 with run := .saved 8192 false false } = true ∧ (inRun (.resuming 8192)).thread 0 = some th) := by
  simp only [List.forall_mem_cons, List.not_mem_nil, false_implies, implies_true, and_true]; decide +kernel

/-- OffCoreRackingAndErrorEventsComplete: a gang of one lane that waits on the host, its reply, its return; a page racked and moved; an error whose storage partition 0 owns. -/
def hosted : Thread := { th with park := some { why := .host, since := 0 }, call := some aCall }
def aGang : Gang := { mask := 1, packed := false, since := 0, launch := none }
def gangOn (gangs : Map Gang) (off : List OffGang) (ts : Map Thread) : State :=
  { gang [] with threads := ts, clusters := [(0, { Cluster.reset with offCore := off, cores := [(19, { Core.reset with gangs := gangs })] })] }
def offGang : OffGang := { core := 19, slot := 7, gang := { aGang with mask := 0x80000000 }, lanes := [(31, { th with park := some { why := .replied, since := 0 } })] }
def replyMem : Mem := memWriteAll [] ((span lm 8).zip (leBytes 8 (lm + 128)) ++ [(lm + 128 + 0x78, 1)])
def rackedState : State := { sc with racking := [(1, 2, 1)], mem := memWriteAll [] ((span 0x8008 8).zip (leBytes 8 0x1000B)) }
theorem test_meets_off_core : (isSC 19 = false ∧ clusterRuns (gangOn [(7, { aGang with mask := 0x80000000 })] [] [(keyOf 0 19 255, hosted)]) 0 = true ∧
      gangLanes (gangOn [(7, { aGang with mask := 0x80000000 })] [] [(keyOf 0 19 255, hosted)]) 0 19 7 = [(31, hosted)] ∧ keyOf 0 19 255 = keyOf 0 19 (thrOf 19 7 31) ∧
      laneLeaves (gangOn [(7, { aGang with mask := 0x80000000 })] [] [(keyOf 0 19 255, hosted)]) (keyOf 0 19 255) hosted = true) ∧
    (((gangOn [] [offGang] []).cluster 0).offCore = [offGang] ∧ (freeGangSlots (gangOn [] [offGang] []) 0 19).head? = some 0 ∧ xsSS th.xstat = false) ∧
    (sc.stage = .full ∧ (1 : Nat) ≠ 2 ∧ sameOwner sc 1 2 (1024 ^ 0) = true ∧ sameOwner sc 1024 2048 (1024 ^ 1) = true ∧ 1024 % 1024 ^ 1 = 0 ∧ sc.racking = [] ∧
      framesApart 1024 1024 1 1 = true) ∧
    (tableWord rackedState 0x8008 = 0x1000B ∧ leafOf rackedState 1 1 0x1000B = true ∧ 0x8008 % 8 = 0 ∧ inSource { src := 1, dst := 2, n := 1 } 65536 0x8008 = false ∧
      inTarget { src := 1, dst := 2, n := 1 } 65536 0x8008 = false ∧ (rackedState.parts.find? fun x => x.2.granules.contains (1 / 16384)) = some (0, part0) ∧ part0.granules.contains (0x8008 / 2 ^ 30) = true ∧
      rackedState.bad = [] ∧ framesApart 1 1 2 1 = true ∧ (2 + 1) * 65536 ≤ 2 ^ 45 ∧ memWf rackedState.mem = true ∧
      (rackedState.racking.find? fun q => leafOf rackedState q.1 q.2.2 (tableWord rackedState 0x8000)) = none) ∧
    (storageOwner sc 0 0 0 = some 0 ∧ storageOwner sc 7 0 0 = some 0 ∧ part0.run = .running) := by
  and_intros <;> decide +kernel

/-- The same, a reply that is there: of a lane beside one whose request is not yet written, of one alone with every off-core record in use,
and of a lane off-core. -/
def ringLane : Thread := { th with park := some { why := .ring, since := 0 }, call := some { aCall with index := none, pos := 1 } }
def slotGang (off : List OffGang) (ts : Map Thread) : State := { gangOn [(7, { aGang with mask := -1 })] off ts with mem := replyMem }
def twoHosted : State := slotGang [] [(keyOf 0 19 254, ringLane), (keyOf 0 19 255, hosted)]
def oneHosted : State := slotGang (List.replicate 64 offGang) [(keyOf 0 19 255, hosted)]
def offHosted : State := { gangOn [] [{ offGang with lanes := [(31, hosted)] }] [] with mem := replyMem }
def replied (s : State) : Bool := match readReply s 0 aCall 0 with
  | .ok _ => true
  | .error _ => false
theorem test_meets_reply : (∀ s ∈ [twoHosted, oneHosted], s.thread (keyOf 0 19 255) = some hosted ∧ clusterRuns s 0 = true ∧ gangLeaves s 0 19 7 = false ∧ replied s = true) ∧
    (keyCl (keyOf 0 19 255) = 0 ∧ keyCore (keyOf 0 19 255) = 19 ∧ slotOf 19 (keyThr (keyOf 0 19 255)) = 7 ∧ hosted.call = some aCall ∧ aCall.index = some 0) ∧
    gangLanes twoHosted 0 19 7 = [(30, ringLane), (31, hosted)] ∧ gangLanes oneHosted 0 19 7 = [(31, hosted)] ∧
    (offHosted.thread (keyOf 0 19 255) = none ∧ offWaiting (offHosted.cluster 0) (keyOf 0 19 255) = some (0, aCall, 0) ∧ replied offHosted = true) := by
  simp only [List.forall_mem_cons, List.not_mem_nil, false_implies, implies_true, and_true]
  and_intros <;> decide +kernel

/-- SmcPartitionAndImageCommandsComplete: the last half-die and granule 0; an image loaded, and loaded again; a SECVER raised and lowered; budgets, grants and windows at the ends of their ranges. -/
def early (dies : Map Nat) : State := { State.reset with stage := .early, dieAt := dies }
def aRequest : LoadRequest := { image := 0x100000, part := 0, asid := 0, codeBase := 0x10000, dataBase := 0 }
/-- An image of 192 bytes: one Elpol body of one word, one kernel, and room for a signature. -/
def imageOf (text : Nat) : List Byte := leBytes 8 0x1014D4947 ++ leBytes 4 192 ++ leBytes 4 0x10001 ++ leBytes 8 0 ++ leBytes 4 0x40 ++ leBytes 4 0x60 ++ List.replicate 32 0 ++
  (leBytes 8 0 ++ leBytes 4 0x78 ++ leBytes 4 4 ++ List.replicate 16 0) ++ List.replicate 24 0 ++ leBytes 4 text ++ List.replicate 68 0
def loading (text : Nat) (images : Map Image) : State := let s := State.reset.withFetchWord 32 0
  { s with parts := [(0, { fetchPartition with images := images })], mem := memWriteAll s.mem ((span 0x100000 192).zip (imageOf text)) }
def theImage : ImageFile := (imageFile (imageOf 0x02531C00)).getD { bytes := [], secv := 0, keyid := [], bodies := [], kernels := [] }
theorem test_meets_smc : (smcRuns (early [(0, 0), (1, 0), (2, 0), (3, 0)]) = true ∧ createStatus (early [(0, 0), (1, 0), (2, 0), (3, 0)]) 0x80 [0] [] true = 0 ∧ (early []).part 0 = none ∧ sc.part 0 = some part0) ∧
    ((loading 0x02531C00 []).part 0 = some fetchPartition ∧ aRequest.codeBase.toNat % 65536 = 0 ∧ aRequest.dataBase.toNat % 65536 = 0 ∧
      imageFile (imageBytes sc aRequest.image) = none ∧ imageFile (imageBytes (loading 0x02531C00 []) aRequest.image) = some theImage ∧ theImage.bodies.length = 1 ∧ chosenBody theImage = 0 ∧
      ((List.range (textPages (textOf theImage (theImage.bodies.getD 0 (bodyAt [] 0))))).mapM fun i => codeFrame (loading 0x02531C00 []) fetchPartition aRequest.asid (aRequest.codeBase + word (i * 65536))) = some [1] ∧
      ([1].any (racked (loading 0x02531C00 []))) = false ∧ dataOf theImage (theImage.bodies.getD 0 (bodyAt [] 0)) = [] ∧ dataKeys (loading 0x02531C00 []) 0 fetchPartition aRequest 0 = some (some []) ∧
      imageStop sc 0 aRequest.image = none ∧ imageStop (loading 0x02531C00 []) 0 aRequest.image = none ∧ loadHeld (loading 0x02531C00 []) [1] 4 [] = none) ∧
    (sc.secver.toNat ≤ 0 ∧ sc.secver.toNat ≤ 255 ∧ 0 < ({ sc with secver := 1 } : State).secver.toNat) ∧
    (sc.railScale = 256 ∧ (otherGrants sc 32767 2047 7 = []) ∧ (otherGrants sc 0 0 0).length < 8) ∧
    (({ sc with parts := [(0, { part0 with granules := [16384, 32767] })] } : State).parts.any fun e => e.2.granules.contains 32767) = true ∧ (List.replicate 32 (0 : Byte)).length = 32 := by
  and_intros <;> decide +kernel

/-- SmcRunCommandsComplete: each state a command meets, an image with STATUS 1, all partitions stopped, and a checkpoint. -/
def badImage : SaveImage := { blankImage with compl := 0x11 }
def aSnapshot : Snapshot := snapshot (inRun (.stopped true))
theorem test_meets_smc_run : (∀ r ∈ [RunState.running, .stopped true, .stopped false, .saved 0 true false, .saved 0 true true], smcRuns (inRun r) = true ∧ (inRun r).smcWaiting = [] ∧ saving (inRun r) = false ∧ leavingOut (inRun r) = false ∧ (inRun r).part 0 = some { part0 with run := r }) ∧
    ((inRun .running).gtime + 8192 ≤ 16384 ∧ (inRun (.stopped true)).gtime ≤ 8192 ∧ part0.launches = [] ∧ unsound { part0 with run := .saved 0 true false } = false ∧ unsound { part0 with run := .saved 0 true false, save := some badImage } = true) ∧
    ((inRun (.stopped true)).stage = .full ∧ (∀ e ∈ (inRun (.stopped true)).parts, e.2.run ≠ .running ∧ still e.2 = true)) ∧
    (checkpointAt { inRun (.stopped true) with checkpoints := [aSnapshot] } 0 = some aSnapshot ∧ memWf aSnapshot.mem = true ∧ memWf (inRun (.stopped true)).mem = true) := by
  simp only [List.forall_mem_cons, List.not_mem_nil, false_implies, implies_true, and_true]
  and_intros <;> first | rfl | decide +kernel

/-- The same: a checkpoint of this device whose signature verifies may be restored, and one whose does not may not. -/
theorem test_meets_restore (b : Bool) (h : Config.verifies Config.identityDigest (snapshotDigest aSnapshot) aSnapshot.signature = b) : checkpointOk aSnapshot = b := by
  have : aSnapshot.signer = Config.identityDigest := rfl
  simp [checkpointOk, this, h]

/-- PowerEventsComplete, LinkEventsComplete: each stage; the flit expected, one far outside the window, a number to resend; a port on which nothing waits; accesses to granule 0 and to one no partition owns. -/
def flitOf (seq : BitVec 12) (vc : BitVec 3) (crc : BitVec 32) : Flit :=
  { seq := seq, vc := vc, gen := 0, msgs := 1, rs := false, vcs := 0, ack := 0, crdt := 0, payload := [7], crc := crc }
/-- A flit with its CRC, the CRC no field of itself. -/
def flit (seq : BitVec 12) (vc : BitVec 3) : Flit := flitOf seq vc (flitCrc (flitOf seq vc 0))
theorem test_meets_flit (seq : BitVec 12) : badFlit 0 (sc.link 0) (flit seq 0) = false ∧ badFlit 0 (sc.link 0) (flit seq 3) = true := by
  have h (v : BitVec 3) : flitCrc (flit seq v) = (flit seq v).crc := rfl
  constructor <;> simp [badFlit, h] <;> rfl
def hostWrite (addr : Nat) : HostReq := { addr := addr, home := false, write := true, bytes := [7], len := 1, ordered := false, atomic := none }
theorem test_meets_power_and_links : (({ State.reset with stage := .recovery } : State).stage = .recovery ∧ (early [(0, 0), (1, 0), (2, 0)]).dieAt.length = 3 ∧ (early [(0, 0), (1, 0), (2, 0), (3, 0)]).dieAt.length = 4 ∧ (early []).parts = [] ∧
      (sc.cluster 383).refSet ≤ 255 ∧ 383 < Config.clusters) ∧
    ((sc.link 0).up = true ∧ (flit 0 0).seq.toNat = (sc.link 0).rx ∧ (flit 3000 0).seq.toNat ≠ (sc.link 0).rx ∧ 512 < ((sc.link 0).rx + 4096 - (flit 3000 0).seq.toNat) % 4096 ∧
      ((({ sc with links := [(0, { Link.reset with replay := [flitOf 4 0 0, flitOf 5 0 0] })] } : State).link 0).replay.findIdx? fun f => f.seq.toNat == 5) = some 1) ∧
    (∀ e ∈ sc.parts, waitsOnPort (sc.putLink 16 { sc.link 16 with up := false }) e.2 16 = none) ∧
    (tableHeld sc (span (hostSpace + 7) 1) = false ∧ badAmong sc (span 0x3FFFFFFF 1) = none ∧ outerAtomicOk { hostWrite 0x100 with write := false, bytes := leBytes 8 1, atomic := some (1, 1, 0) } = true ∧ outerOwned sc (outerKeys (hostWrite 0x40000000)) = false ∧ (sc.link (routePort 5)).up = true ∧ (hostWrite 7).addr + 1 ≤ 2 ^ 56 ∧
      pfxGranted { sc with pfxGrants := [(0, 5, 7, true)] } 5 7 (hostWrite 0) = true ∧ pfxGranted sc 5 7 (hostWrite 0) = false) := by
  and_intros <;> decide +kernel

/-- StepRunsTheDecodedInstruction, AnIssuingSetIsReadyLanesAtOnePc: `add w5, w6, w7` at 0x1_0000, and `pfx f32, bf16, 0` before `cvt f8, f4`. -/
def fetching (w : Nat) : State := let s := State.reset.withFetchWord 32 w
  { s with mem := memWriteAll s.mem ((span 0x10004 4).zip (leBytes 4 0x32820000)), agenda := [.issue 0 0 0] }
theorem test_step_issues : ∀ w ∈ [0x02531C00, 0x38260000], clusterRuns (fetching w) 0 = true ∧ timerExpired (fetching w) 0 0 = false ∧ issuingSet (fetching w) 0 0 0 = [(0, th)] ∧ pickSlot (fetching w) 0 0 = some 0 ∧
    timerTrapDue (fetching w) (keyOf 0 0 0) th = false ∧ messageTrapDue (fetching w) (keyOf 0 0 0) th = false ∧ fetch (fetching w) 0 th th.pc = .word (BitVec.ofNat 32 w) false ∧
    stallDue (advance (fetching w)) = none := by
  simp only [List.forall_mem_cons, List.not_mem_nil, false_implies, implies_true, and_true]; and_intros <;> decide +kernel
theorem test_step_decodes : decode 0x02531C00 = .ok (.add 5 6 7) ∧ decode 0x38260000 = .ok (.pfx 1 3 0) ∧ decode 0x32820000 = .ok (.cvt 8 4 0 0 0 0) ∧ WellFormed (.cvt 8 4 0 0 0 0) = true ∧ elpolOnly (.cvt 8 4 0 0 0 0) = false ∧
    acceptsPrefix (.cvt 8 4 0 0 0 0) = true ∧ setBusy (fetching 0x38260000) (.cvt 8 4 0 0 0 0) = false ∧
    (badSource (fetching 0x02531C00) (.add 5 6 7)).isNone = true ∧ (badSource (fetching 0x38260000) (.pfx 1 3 0)).isNone = true ∧
    (badSource { fetching 0x38260000 with cur := { (fetching 0x38260000).cur with pfx := some (1, 3, 0) } } (.cvt 8 4 0 0 0 0)).isNone = true := by decide +kernel

/-- DecodingAnEncodedInstructionGivesItBack, EveryStepKeepsMemoryCanonical: an instruction, and the state right after reset, whose step is a next state. -/
theorem test_meets_encoding : WellFormed (.add 5 6 7) = true ∧ isEvent (.add 5 6 7) = false ∧ (.add 5 6 7 : Instr) ≠ .illegalInstruction := by decide +kernel
theorem test_meets_invariant : MemOk (fetching 0x02531C00) ∧ (match step (fetching 0x02531C00) with
    | .next u => (u.thread 0).map (·.pc) == some 0x10004
    | _ => false) = true := ⟨⟨by decide +kernel, rfl, fun _ h => absurd h List.not_mem_nil⟩, by decide +kernel⟩


/-- The issuer's earlier accesses are performed in the witness states of the engine statements (R213). -/
theorem test_meets_issuer_done : issuerDone (runs (passCmd (word lm))) (passCmd (word lm)) = true ∧
    issuerDone (copying intoCsm 0) intoCsm = true ∧
    issuerDone (copying (copyCmd 0x100000000000000 (word lm) 64) 0) (copyCmd 0x100000000000000 (word lm) 64) = true ∧
    issuerDone (onC th (offCluster [nCmd 0 [0x11]])) (nCmd 0 [0x11]) = true ∧ issuerDone (queueOne (nCmd 4 [2047, 0])) (nCmd 4 [2047, 0]) = true ∧ issuerDone (treeOn (sCmd 5 3 1) treeMem) (sCmd 5 3 1) = true := by decide +kernel

/-- NeuronEventsComplete: a load whose range is registered. -/
def loadsOn : State := onC { th with tl := 1 } { nmCluster [nCmd 1 [word lm, 0x107FF]] with rlt := rltEntries 2 (nCmd 1 [word lm, 0x107FF]) false [(lm / 64, 1)] }
theorem test_meets_neuron_load : (∃ e ∈ (loadsOn.cluster 0).rlt, e.elem = none ∧ e.engine = 2 ∧ e.seq = (nCmd 1 [word lm, 0x107FF]).seq) ∧
    loadsOn.agentAll 0 (2, 0) 0 false .read (pagePieces (word lm) (16 * bitsOf 16 12 (0x107FF : Word))) = .ok (span lm 16) := by decide +kernel

/-- ControlWordFaultAndRecordEventsComplete, FBFCMD: the held access goes on, and its thread has a handler. -/
theorem test_meets_fbfcmd : (let s := storing 2 0xFF000000800000 [heldAt 1 0xFF000000800000]
    refault ((s.putThread 0 (storeDone { th with st := 1, out := [ctlOp 2 0xFF000000800000] } 0)).countAccess 0 (ctlOp 2 0xFF000000800000)) 0 (heldAt 1 0xFF000000800000) = none ∧
      s.partOf (keyCl 1) = some (0, part0)) ∧ part0.svcbase ≠ 0 ∧ tcV th.tcause = false := by decide +kernel

/-- StopAndSwitchEventsComplete: an image that is whole, at its switch-in. -/
def enteringPart : Partition := { part0 with run := .entering 0 8192, save := some { blankImage with bytes := [(0x200100, 7)], threads := [(0, th)] } }
theorem test_meets_switch_in : (∀ e ∈ enteringPart.images, e.2.revoked = false) ∧ imageKey enteringPart 0x200100 = some (false, lm) ∧ imageKey enteringPart 0x500000 = some (true, 0) ∧ inWindow enteringPart 0 = false := by decide +kernel

/-- SmcPartitionAndImageCommandsComplete: an image below SECVER is refused, and one whose signature verifies is not; a digest already loaded is found. -/
theorem test_meets_image_checks (h : imageSigned fetchPartition theImage = true) :
    imageRefused { loading 0x02531C00 [] with secver := 1 } fetchPartition theImage = true ∧ imageRefused (loading 0x02531C00 []) fetchPartition theImage = false ∧
      (([(1, { anImage with digest := leNat (imageDigest theImage) })] : Map Image).find? fun e => e.2.digest == leNat (imageDigest theImage) && e.2.asid == aRequest.asid && !e.2.revoked) =
        some (1, { anImage with digest := leNat (imageDigest theImage) }) := by
  have h1 : (loading 0x02531C00 []).secver = 0 := by decide +kernel
  have h2 : theImage.secv = 0 := by decide +kernel
  have h3 : stampsRepeat theImage = false := by decide +kernel
  have h4 : (theImage.bodies.head?.any fun b => elpolText none (textOf theImage b)) = true := by decide +kernel
  refine ⟨?_, ?_, ?_⟩
  · simp [imageRefused, h2]
  · simp [imageRefused, h, h1, h3, h4]
  · simp [List.find?, anImage, aRequest]

/-- LinkEventsComplete: an access to the last byte of granule 0. -/
theorem test_meets_outer : OuterReady sc (hostWrite 0x3FFFFFFF) 0 ∧ (∀ a ∈ outerKeys (hostWrite 0x3FFFFFFF), a < hostBase0) := by
  unfold OuterReady; and_intros <;> decide +kernel

/-- LinkEventsComplete: a byte in a window assigned to the host. -/
theorem test_meets_window (h : Config.glkWindow 0 0 = true) : inWindows sc (span 0x3FFFFFFF 1) = true := by
  have : granuleOwner sc 0 = some (0, part0) := by decide +kernel
  simp [inWindows, span, this, h]

/-- LinkEventsComplete: the last four bytes of the mailboxes, on a device with no partition. -/
def mailRead : HostReq := { addr := Config.mailboxAddr + 8188, home := false, write := false, bytes := [], len := 4, ordered := false, atomic := none }
theorem test_meets_mailbox : inWindows State.reset (outerKeys mailRead) = false ∧ (State.reset.link 0).up = true ∧
    Config.mailboxAddr ≤ mailRead.addr ∧ mailRead.addr + mailRead.len ≤ Config.mailboxAddr + 8192 := by
  refine ⟨rfl, rfl, ?_, ?_⟩ <;> simp [mailRead]

/-- R205: CSMCTL takes an 8-byte store of a supervisor; a user's store and a 4-byte store are refused. -/
theorem test_control_word : checkAccess sc false 0 0 part0 0 true .write 0xFF000000F00000 8 = .ok (span 0xFF000000F00000 8) [] ∧
    checkAccess sc false 0 0 part0 0 false .write 0xFF000000F00000 8 = .trap 4 0xFF000000F00000 ∧
    checkAccess sc false 0 0 part0 0 true .write 0xFF000000F00000 4 = .trap 4 0xFF000000F00000 := by decide +kernel

/-- R150: minus infinity is not below a NaN. -/
theorem test_unordered : ltV (f32Val 0xFF800000) (f32Val 0x7FC00000) = false ∧ ltV (f32Val 0xFF800000) (f32Val 0x00000000) = true := by decide +kernel

/-- Table 1.1: the two slice hits from cluster 73, their router and die crossings and their latency. -/
theorem test_routes : routeToSlice 73 21 = { routers := 4, dies := 0 } ∧ sliceHit 73 21 = 40 ∧ routeToSlice 73 26 = { routers := 11, dies := 1 } ∧ sliceHit 73 26 = 55 ∧ sliceHalf 21 = 1 := by decide +kernel
end Sys2Proof.Tests
end

section
/-! Memory stays canonical, first part: the invariant under the state's own operations, traps, accesses and issue. -/

namespace Sys2Proof.Safety

open Machine

variable {s u : State} {cl core slot k j n p : Nat} {t t' : Thread} {va pc : Word}

/-! ### Outcomes, and the shapes a next state is built with -/

/-- The next state an outcome holds, if any, has canonical memory. -/
def OutOk : Out → Prop
  | .next u => MemOk u
  | _ => True

/-- A state an option holds has canonical memory. -/
def OptOk (o : Option State) : Prop := ∀ u ∈ o, MemOk u

theorem MemOk.ite {c : Prop} [Decidable c] (h : MemOk s) (h' : MemOk u) : MemOk (if c then s else u) := by
  split
  · exact h
  · exact h'

theorem MemOk.foldl {α : Type} {l : List α} {f : State → α → State} (hf : ∀ {u} x, MemOk u → MemOk (f u x)) (h : MemOk s) :
    MemOk (l.foldl f s) := by
  induction l generalizing s with
  | nil => exact h
  | cons x l ih => exact ih (hf x h)

theorem MemOk.foldr {α : Type} {l : List α} {f : α → State → State} (hf : ∀ {u} x, MemOk u → MemOk (f x u)) (h : MemOk s) :
    MemOk (l.foldr f s) := by
  induction l with
  | nil => exact h
  | cons x l ih => exact hf x ih

theorem MemOk.getD {o : Option State} (ho : OptOk o) (h : MemOk s) : MemOk (o.getD s) := by
  cases o with
  | none => exact h
  | some u => exact ho u rfl

theorem OutOk.ite {c : Prop} [Decidable c] {o o' : Out} (h : OutOk o) (h' : OutOk o') : OutOk (if c then o else o') := by
  split
  · exact h
  · exact h'

theorem OptOk.none : OptOk none := by rintro u ⟨⟩

theorem OptOk.some (h : MemOk s) : OptOk (some s) := by rintro u ⟨⟩; exact h

theorem OptOk.ite {c : Prop} [Decidable c] {o o' : Option State} (h : OptOk o) (h' : OptOk o') : OptOk (if c then o else o') := by
  split
  · exact h
  · exact h'

/-! ### Tables of the state -/

theorem MemOk.putThread (h : MemOk s) : MemOk (s.putThread k t) := h
theorem MemOk.dropThread (h : MemOk s) : MemOk (s.dropThread k) := h
theorem MemOk.putWakes {l} (h : MemOk s) : MemOk { s with wakes := l } := h
theorem MemOk.putCur {c} (h : MemOk s) : MemOk { s with cur := c } := h
theorem MemOk.putCluster {c} (h : MemOk s) : MemOk (s.putCluster cl c) := h
theorem MemOk.modCluster {f} (h : MemOk s) : MemOk (s.modCluster cl f) := h
theorem MemOk.modCore {f} (h : MemOk s) : MemOk (s.modCore cl core f) := h
theorem MemOk.modAway {uid f} (h : MemOk s) : MemOk (s.modAway uid f) := h
theorem MemOk.putLink {l} (h : MemOk s) : MemOk (s.putLink p l) := h
theorem MemOk.landFlight (h : MemOk s) : MemOk (s.landFlight n) := h
theorem MemOk.send {f} (h : MemOk s) : MemOk (s.send core f) := h
theorem MemOk.sendRecord {r} (h : MemOk s) : MemOk (s.sendRecord cl r) := h
theorem MemOk.answer {bs} (h : MemOk s) : MemOk (s.answer n bs) := h
theorem MemOk.record {args} (h : MemOk s) : MemOk (s.record n args) := h

theorem MemOk.modPart {f} (h : MemOk s) : MemOk (s.modPart p f) := by
  unfold State.modPart
  split <;> exact h

/-- A thread changed where its position holds one. -/
theorem MemOk.putAt {f : Thread → Thread} (h : MemOk s) : MemOk (match s.thread k with
    | some t => s.putThread k (f t)
    | none => s) := by
  split <;> exact h

theorem MemOk.forLanes {f} (h : MemOk s) (hf : ∀ {u k t}, MemOk u → MemOk (f u k t)) : MemOk (s.forLanes f) := by
  refine h.foldl fun {u} k hu => ?_
  split
  · exact hf hu
  · exact hu

theorem OutOk.eachLane {f} (h : MemOk s) (hf : ∀ {u k t}, MemOk u → MemOk (f u k t)) : OutOk (s.eachLane f) := h.forLanes hf

/-! ### Writes of memory -/

theorem MemOk.writeCells {cells} (h : MemOk s) : MemOk (s.writeCells cells) := writeCells_memOk s cells h

/-- Bytes of device memory written, whatever else changes. -/
theorem MemOk.writeMem {cells} (h : MemOk s) : MemOk { s with mem := memWriteAll s.mem cells } :=
  ⟨memWf_memWriteAll _ _ h.1, h.2⟩

theorem MemOk.writeAm {cells} (h : MemOk s) : MemOk (s.writeAm cells) := by
  obtain ⟨hm, ha, hc⟩ := h
  exact ⟨hm, memWf_memWriteAll _ _ ha, hc⟩

theorem MemOk.putAm {key v} (h : MemOk s) : MemOk (s.putAm key n v) := h.writeAm
theorem MemOk.putTile {tile es} (h : MemOk s) : MemOk (s.putTile cl tile es) := h.writeAm
theorem MemOk.writeNum {addrs v} (h : MemOk s) : MemOk (s.writeNum addrs v) := h.writeCells
theorem MemOk.sendFar {runs a} (h : MemOk s) : MemOk (s.sendFar p runs a) := h

theorem MemOk.postMessage {port vc l} (h : MemOk s) : MemOk (s.postMessage port vc l) := h.foldl fun _ h => h

theorem MemOk.farRequest {kind keys data} (h : MemOk s) : MemOk (s.farRequest p kind keys data) :=
  h.foldl fun _ h => h.postMessage

theorem MemOk.walkReads {lines} (h : MemOk s) : MemOk (s.walkReads cl lines) := h.foldl fun _ h => h.farRequest

theorem MemOk.agentReads {addrs} (h : MemOk s) : MemOk (s.agentReads cl addrs) := h.farRequest

theorem MemOk.agentWalks {asid sup acc ranges} (h : MemOk s) : MemOk (s.agentWalks cl asid sup acc ranges) := by
  unfold State.agentWalks
  split
  · exact h
  · exact .ite h h.walkReads

theorem MemOk.writeFrom {cells} (h : MemOk s) : MemOk (s.writeFrom cl cells) := h.writeCells.sendFar.farRequest

theorem MemOk.atomicFrom {op addrs new x e} (h : MemOk s) : MemOk (s.atomicFrom cl op addrs new x e) :=
  h.writeNum.sendFar.farRequest

/-! ### Stops and traps -/

theorem MemOk.startStop {b r} (h : MemOk s) : MemOk (s.startStop p b r) := h.modPart

theorem MemOk.contain {r} (h : MemOk s) : MemOk (s.contain p r) := by
  unfold State.contain
  split
  · exact h
  · split
    · exact h.modPart
    · exact h.startStop
    · exact h.modPart
    · exact h.modPart.sendRecord
    · exact h.modPart.sendRecord
    · exact h.modPart.sendRecord
    · exact h.sendRecord

theorem MemOk.containLink {addr} (h : MemOk s) : MemOk (s.containLink p cl core addr pc) := h.contain
theorem MemOk.containBad {b} (h : MemOk s) : MemOk (s.containBad p cl core b pc) := h.contain
theorem MemOk.containSource {x} (h : MemOk s) : MemOk (s.containSource x) := h.containBad

theorem MemOk.containKey {key} (h : MemOk s) : MemOk (s.containKey p cl core key pc) := by
  unfold State.containKey
  split
  · exact h.containBad
  · exact h.containLink

theorem MemOk.takeTrap {ts c d b v te} (h : MemOk s) : MemOk (s.takeTrap k t pc ts c d b v te) := by
  unfold State.takeTrap
  split
  · exact h
  · exact .ite h.putThread.startStop h.putThread

theorem MemOk.trap {c v} (h : MemOk s) : MemOk (s.trap k t c v) := h.takeTrap
theorem MemOk.trapDeferred {d} (h : MemOk s) : MemOk (s.trapDeferred k t d) := h.takeTrap
theorem MemOk.trapWaiting {c} (h : MemOk s) : MemOk (s.trapWaiting k t c) := h.takeTrap
theorem MemOk.asyncTrap {c} (h : MemOk s) : MemOk (s.asyncTrap k t c) := h.takeTrap
theorem MemOk.trapAll {c} (h : MemOk s) : MemOk (s.trapAll c) := h.forLanes (·.trap)
theorem MemOk.illegal (h : MemOk s) : MemOk s.illegal := h.trapAll

theorem MemOk.scOnly {f} (h : MemOk s) (hf : ∀ {u}, MemOk u → MemOk (f u)) : MemOk (s.scOnly f) := .ite h.trapAll (hf h)
theorem MemOk.supOnly {f} (h : MemOk s) (hf : ∀ {u}, MemOk u → MemOk (f u)) : MemOk (s.supOnly f) := .ite (hf h) h.trapAll

theorem MemOk.stepTrap (h : MemOk s) : MemOk (s.stepTrap k t) := by
  unfold State.stepTrap
  split <;> exact h.takeTrap

theorem MemOk.finishAt (h : MemOk s) : MemOk (s.finishAt k t t' pc) := .ite h.stepTrap h.putThread
theorem MemOk.finish (h : MemOk s) : MemOk (s.finish k t t') := h.finishAt
theorem OutOk.regOp {f} (h : MemOk s) : OutOk (s.regOp f) := .eachLane h (·.finish)
theorem MemOk.parkAt {w} (h : MemOk s) : MemOk (s.parkAt k t w) := h

theorem MemOk.enterFbf {r e} (h : MemOk s) : MemOk (s.enterFbf cl r e pc) :=
  .walkReads (.ite h.putCluster.sendRecord h.putCluster)

theorem MemOk.faultPark {acc c r lines} (h : MemOk s) : MemOk (s.faultPark k t acc c r va lines) := h.parkAt.enterFbf

theorem MemOk.checkStop {acc c} (h : MemOk s) : MemOk (s.checkStop k t acc c) := by
  unfold State.checkStop
  split
  · exact h.containKey
  · exact h.trap
  · exact h.faultPark
  · exact h.parkAt
  · exact h

/-! ### Accesses of a lane -/

theorem MemOk.access {acc f} (h : MemOk s) (hf : ∀ addrs lines, MemOk (f addrs lines)) : MemOk (s.access k t acc va n f) := by
  unfold State.access
  split
  · exact h
  · split
    · exact .ite h.parkAt (hf _ _).walkReads
    · exact h.checkStop

theorem MemOk.counterAccess {acc f} (h : MemOk s) (hf : ∀ addrs lines, MemOk (f addrs lines)) :
    MemOk (s.counterAccess k t acc va n f) := by
  unfold State.counterAccess
  split
  · exact h
  · split
    · split
      · exact h.containBad
      · exact (hf _ _).walkReads
    · exact h.checkStop

theorem MemOk.guardAm {key} (h : MemOk s) (hu : MemOk u) : MemOk (s.guardAm cl key n u) := by
  unfold State.guardAm
  split
  · exact h.containBad
  · exact hu

theorem MemOk.guardKeys {keys} (h : MemOk s) (hu : MemOk u) : MemOk (s.guardKeys cl keys u) := by
  unfold State.guardKeys
  split
  · exact h.containBad
  · exact hu

theorem MemOk.nextWrite (h : MemOk s) : MemOk (s.nextWrite k).1 := h.modCore

theorem MemOk.withF {srcs dst f} (h : MemOk s) (hf : ∀ t', MemOk (f t')) : MemOk (s.withF k t srcs dst f) := by
  unfold State.withF
  split
  · exact hf _
  · exact h.trap
  · exact h.parkAt
  · exact h.takeTrap
  · exact h.parkAt

theorem MemOk.writeF {d v} (h : MemOk s) : MemOk (s.writeF k t pc d v).1 := by
  unfold State.writeF
  split
  · exact h
  · dsimp only
    split
    · exact h
    · split
      · exact h
      · exact h.nextWrite

theorem MemOk.finishF {d v} (h : MemOk s) : MemOk (s.finishF k t t' d v) := h.writeF.finish

/-! ### Time, fetch and issue -/

theorem MemOk.passTime (h : MemOk s) : MemOk (passTime s) := h
theorem MemOk.withdraw (h : MemOk s) : MemOk (s.withdraw k) := h
theorem MemOk.withdrawArrival (h : MemOk s) : MemOk (s.withdrawArrival k t) := h
theorem MemOk.stallOffCore (h : MemOk s) : MemOk (s.stallOffCore k) := h

theorem MemOk.expireOff {uid} (h : MemOk s) : MemOk (s.expireOff k uid) :=
  .foldl (fun _ h => h.withdrawArrival) h.stallOffCore.withdraw

theorem MemOk.advance (h : MemOk s) : MemOk (advance s) := .foldl (fun _ h => h.expireOff) h.passTime

theorem MemOk.fetchStop {c} (h : MemOk s) : MemOk (fetchStop s k t c) := by
  unfold Machine.fetchStop
  split
  · split
    · exact h.containBad
    · exact h.containLink
  · exact h.parkAt.sendRecord
  · exact h.trap
  · exact h.faultPark
  · exact h.parkAt
  · exact h

theorem MemOk.fetchSet {off} (h : MemOk s) (hu : fetchSet s off = .error u) : MemOk u := by
  unfold Machine.fetchSet at hu
  dsimp only at hu
  split at hu
  · cases hu; exact h
  · split at hu
    · split at hu
      · cases hu
      · cases hu; exact h.foldl fun _ h => h.fetchStop
    · cases hu
      refine h.foldl fun {u} g h => ?_
      split
      · exact h
      · exact h.fetchStop

theorem MemOk.noteBegun (h : MemOk s) : MemOk s.noteBegun := by
  refine h.foldl fun {u} k h => ?_
  split
  · exact .ite h h.putThread
  · exact h

theorem MemOk.noteFetch (h : MemOk s) : MemOk (s.noteFetch cl n) := by
  unfold State.noteFetch
  split
  · split
    · exact .ite h.walkReads.farRequest h.walkReads
    · exact h
  · exact h

theorem MemOk.noteIssue {pfx i} (h : MemOk s) : MemOk (s.noteIssue cl core slot pfx i) := h.noteFetch.noteBegun.modCore

theorem MemOk.takeTurn (h : MemOk s) : MemOk (takeTurn s).1 := by
  unfold Machine.takeTurn
  split <;> exact h

end Sys2Proof.Safety
end

section
/-! Memory stays canonical, second part: the plan of a step; loads, stores and atomics; arithmetic. -/

namespace Sys2Proof.Safety

open Machine

variable {s u : State} {cl core slot k i j n p q : Nat} {t t' : Thread} {va pc : Word}

/-! ### What a step comes to -/

/-- The state a plan goes on with has canonical memory. -/
def PlanOk : Plan → Prop
  | .run _ u => MemOk u
  | .pair _ _ u => MemOk u
  | .settled u => MemOk u

theorem PlanOk.ite {c : Prop} [Decidable c] {x y : Plan} (h : PlanOk x) (h' : PlanOk y) : PlanOk (if c then x else y) := by
  split
  · exact h
  · exact h'

theorem MemOk.planWords (h : MemOk s) : ∀ x ∈ planWords s cl core slot, PlanOk x := by
  intro x hx
  have hs : ∀ c, MemOk { s with cur := c } := fun _ => h
  unfold Machine.planWords at hx
  dsimp only at hx
  split at hx
  · cases hx
  · split at hx
    next hf => cases hx; exact (hs _).fetchSet hf
    next =>
    split at hx
    · cases hx; exact h
    · split at hx
      · cases hx
      · split at hx
        · cases hx; exact (hs _).containSource
        · split at hx
          · split at hx
            next hf => cases hx; exact (hs _).fetchSet hf
            next =>
            split at hx
            · cases hx; exact h
            · split at hx
              · cases hx; exact h
              · split at hx
                · cases hx
                · split at hx
                  · cases hx; exact (hs _).containSource
                  · cases hx; exact h
          · cases hx; exact h

theorem MemOk.planPicked (h : MemOk s) : PlanOk (planPicked s cl core slot) := by
  have hw : ∀ x ∈ Machine.planWords s cl core slot, PlanOk x := h.planWords
  unfold Machine.planPicked
  refine .ite ?_ h
  split
  next e => exact MemOk.noteIssue (hw _ e)
  next e =>
    split
    · exact MemOk.noteIssue (hw _ e)
    · exact h
  next e => exact hw _ e
  · exact h

theorem MemOk.planIssue (h : MemOk s) : PlanOk (planIssue s cl core slot) := by
  unfold Machine.planIssue
  dsimp only
  split
  · exact .ite h (.ite h (.ite h h.planPicked))
  · exact h.planPicked

theorem MemOk.planTurn {x} (h : MemOk s) : PlanOk (planTurn s x) := by
  unfold Machine.planTurn
  split
  · exact h
  · exact .ite h h
  · exact .ite h.planIssue h

theorem MemOk.plan (h : MemOk s) : PlanOk (plan s) := by
  unfold Machine.plan
  dsimp only
  split
  · exact h.advance
  · exact h.advance.takeTurn.planTurn

/-! ### Groups and releases -/

theorem MemOk.settle (h : MemOk s) : MemOk (s.settle p) := h.modPart
theorem MemOk.withReleased (h : MemOk s) (hu : MemOk u) : MemOk (s.withReleased k t u) := .ite hu h.parkAt

theorem MemOk.settleLaunch {l f} (h : MemOk s) : MemOk (s.settleLaunch core l f) := by
  unfold State.settleLaunch
  split
  · exact h.send.settle
  · exact h.send

/-! ### Loads and stores -/

theorem MemOk.depart {target} (h : MemOk s) : MemOk (s.depart k t pc target) :=
  .ite h.trap (.ite h.parkAt (.settleLaunch h.dropThread.modCore))

theorem MemOk.orMigrate (h : MemOk s) (hu : MemOk u) : MemOk (s.orMigrate k t va u) := by
  unfold State.orMigrate
  split
  · exact h.depart
  · exact hu

theorem MemOk.loadLane {dst b o sc} (h : MemOk s) : MemOk (s.loadLane k t dst b n o sc va) :=
  h.orMigrate (h.access fun _ _ => .ite h.parkAt h.finish)

theorem MemOk.storeLane {o sc data} (h : MemOk s) : MemOk (s.storeLane k t t' o sc va data) :=
  h.access fun _ _ => .ite h.trap (.ite h.trap (.ite h.parkAt h.nextWrite.finish))

theorem OutOk.loadW {d b sz o sc f} (h : MemOk s) : OutOk (loadW s d b sz o sc f) := .eachLane h (·.loadLane)
theorem OutOk.loadF {d sz o sc f} (h : MemOk s) : OutOk (loadF s d sz o sc f) := .eachLane h fun h => h.withF fun _ => h.loadLane
theorem OutOk.storeW {d sz o sc f} (h : MemOk s) : OutOk (storeW s d sz o sc f) := .eachLane h fun h => h.orMigrate h.storeLane
theorem OutOk.storeF {d sz o sc f} (h : MemOk s) : OutOk (storeF s d sz o sc f) :=
  .eachLane h fun h => h.withF fun _ => h.orMigrate h.storeLane

theorem MemOk.fenceLane {a b} (h : MemOk s) : MemOk (s.fenceLane k t a b) := .ite h.finish h.parkAt
theorem MemOk.refetch (h : MemOk s) : MemOk (s.refetch n) := h

theorem MemOk.cacheLane {acc a} (h : MemOk s) : MemOk (s.cacheLane k t acc n a) := h.access fun _ _ => .ite h.parkAt h.finish

theorem OutOk.execMrsw {d a b} (h : MemOk s) : OutOk (execMrsw d a b s) :=
  .eachLane h fun h => h.access fun _ _ => .ite h.parkAt h.finish

theorem OutOk.execMrsf {d a b} (h : MemOk s) : OutOk (execMrsf d a b s) := by
  refine .eachLane h fun h => h.access fun _ _ => .ite h.parkAt (.ite h.parkAt ?_)
  dsimp only
  split
  · exact h.containBad
  · exact .ite h.trap h.finish

theorem MemOk.writeReg {o r v} (h : MemOk s) : MemOk (s.writeReg k i t o r v).1 := by
  unfold State.writeReg
  split
  · exact h.writeF
  · exact h

theorem MemOk.dropRead (h : MemOk s) : MemOk (s.dropRead k n) := h.modCluster
theorem MemOk.dropReads (h : MemOk s) : MemOk (s.dropReads k) := .foldl (fun _ h => h.dropRead) h

theorem MemOk.restoreStreams {l} (h : MemOk s) : MemOk (s.restoreStreams k t l) :=
  .putThread (.foldl (fun _ h => h.dropRead) h)

theorem MemOk.countAccess {o} (h : MemOk s) : MemOk (s.countAccess k o) := h

theorem OutOk.execLoadPerformed (h : MemOk s) : OutOk (execLoadPerformed k i s) := by
  unfold Machine.execLoadPerformed
  split
  · exact h
  split
  · exact h
  refine .ite h ?_
  split
  · exact h.containLink
  split
  · exact h.containBad
  have h' : ∀ {keys o}, MemOk ((s.farRequest (s.partNo (keyCl k)) 0 keys []).countAccess k o) := h.farRequest.countAccess
  dsimp only
  split
  · exact h'.writeReg.putThread
  · exact h'.putThread
  · exact h'.restoreStreams
  · exact h'.putThread
  · exact h'

theorem MemOk.refusedRecord {c} (h : MemOk s) : MemOk (refusedRecord s k c va pc) := h.sendRecord
theorem MemOk.landBytes {o} (h : MemOk s) : MemOk (s.landBytes k o) := .ite h.refusedRecord h.writeFrom

theorem MemOk.landCache {o} (h : MemOk s) : MemOk (s.landCache n o) := .ite h (.ite h.writeMem h)

theorem MemOk.landAppend {b o} (h : MemOk s) : MemOk (s.landAppend k i t n b va o) := by
  unfold State.landAppend
  split
  · exact h
  refine .ite h ?_
  split
  · refine .ite h ?_
    split
    · exact h.containLink
    · exact .ite h.putThread h.putThread.countAccess.landBytes.walkReads
  · exact h.containKey
  · exact h.putThread
  · exact h.enterFbf
  · exact h

theorem OutOk.execStorePerformed (h : MemOk s) : OutOk (execStorePerformed k i s) := by
  unfold Machine.execStorePerformed
  split
  · exact h
  split
  · exact h
  refine .ite h ?_
  split
  · exact h.containLink
  split
  · split
    · exact h
    · exact h.putThread.countAccess.landBytes
  · exact h.putThread.countAccess.landCache
  · exact h.landAppend
  · exact h

/-! ### Atomics -/

theorem MemOk.atomicLane {op o sc dst x e} (h : MemOk s) : MemOk (s.atomicLane k t t' op n o sc va dst x e) :=
  h.orMigrate (.ite h.trap (h.access fun _ _ => .ite h.trap (.ite h.parkAt h.nextWrite.finish)))

theorem OutOk.atomicW {d a b z o sc} (h : MemOk s) : OutOk (atomicW s i d a b z o sc) := .eachLane h (·.atomicLane)
theorem OutOk.atomicF {d a b o sc} (h : MemOk s) : OutOk (atomicF s i n d a b o sc) :=
  .eachLane h fun h => h.withF fun _ => h.atomicLane

theorem MemOk.atomicResult {o op dst old e} (h : MemOk s) : MemOk (s.atomicResult k i t o op n dst old e).1 := by
  unfold State.atomicResult
  split
  · exact h.writeReg
  · exact h

theorem MemOk.landAtomic (h : MemOk s) : MemOk (s.landAtomic k i) := by
  unfold State.landAtomic
  split
  · exact h
  split
  · exact h
  split
  · exact h.atomicResult.putThread.countAccess.atomicFrom
  · exact h

theorem OutOk.execAtomicPerformed (h : MemOk s) : OutOk (execAtomicPerformed k i s) := by
  unfold Machine.execAtomicPerformed
  split
  · exact h
  refine .ite ?_ h
  split
  · exact h.containLink
  split
  · exact h.containBad
  · exact h.foldl fun _ h => h.landAtomic

/-! ### Arithmetic -/

theorem OutOk.wOp {d f} (h : MemOk s) : OutOk (wOp s d f) := .regOp h
theorem OutOk.wOp2 {d a b f} (h : MemOk s) : OutOk (wOp2 s d a b f) := .regOp h
theorem OutOk.pOp {d f} (h : MemOk s) : OutOk (pOp s d f) := .regOp h

theorem OutOk.execEloop {a b st d off} (h : MemOk s) : OutOk (execEloop a b st d off s) :=
  .eachLane h fun h => .ite h.finishAt h.finishAt

theorem OutOk.shuffleW {d a b f} (h : MemOk s) : OutOk (shuffleW s d a b f) := .eachLane h (·.finish)
theorem OutOk.shuffleF {d a b f} (h : MemOk s) : OutOk (shuffleF s d a b f) := .eachLane h fun h => h.withF fun _ => h.finishF

theorem MemOk.finishJob {x} (h : MemOk s) : MemOk (s.finishJob k t t' x) := h.finishF
theorem OutOk.runJob {x y} (h : MemOk s) : OutOk (runJob s x y) := .eachLane h fun h => h.withF fun _ => .ite h.parkAt h.finishJob
theorem OutOk.fOp {l d f} (h : MemOk s) : OutOk (fOp s l d f) := .eachLane h fun h => h.withF fun _ => h.finishF
theorem OutOk.signOp {d a b f g} (h : MemOk s) : OutOk (signOp s d a b f g) := .fOp h
theorem OutOk.cmpOp {d a b f x g} (h : MemOk s) : OutOk (cmpOp s d a b f x g) := .eachLane h fun h => h.withF fun _ => h.finish

theorem OutOk.execCvt {d a b x y z} (h : MemOk s) : OutOk (execCvt d a b x y z s) := by
  unfold Machine.execCvt
  split
  · exact h.illegal
  · exact .eachLane h fun h => h.withF fun _ => h.finishF

theorem OutOk.execCvti {d a x y z} (h : MemOk s) : OutOk (execCvti d a x y z s) := by
  unfold Machine.execCvti
  split
  · exact h.illegal
  · exact .eachLane h fun h => h.withF fun _ => h.finishF
  · exact .eachLane h fun h => h.withF fun _ => h.finish

theorem OutOk.runNarrow {e b f x} (h : MemOk s) : OutOk (runNarrow s e b f x) := by
  unfold Machine.runNarrow
  split
  · exact h.illegal
  · exact .runJob h

theorem OutOk.execPfx {x y z} (h : MemOk s) : OutOk (execPfx x y z s) := .ite h h.illegal

theorem OutOk.execSubnormalAssistComplete (h : MemOk s) : OutOk (execSubnormalAssistComplete k s) := by
  unfold Machine.execSubnormalAssistComplete
  split
  · exact h
  split
  · split
    · exact h
    · have hp : ∀ c, MemOk { s with cur := c } := fun _ => h
      exact (hp _).withF fun _ => (hp _).finishJob
  · exact h

end Sys2Proof.Safety
end

section
/-! Memory stays canonical, third part: queues, messages and threads; slots, grants and waits. -/

namespace Sys2Proof.Safety

open Machine

variable {s u : State} {cl core slot k i j n p q : Nat} {t t' : Thread} {va pc : Word}

/-! ### Queues -/

theorem MemOk.putFifo {f} (h : MemOk s) : MemOk (s.putFifo cl q f) := h.modCluster

theorem MemOk.withQueue {w f} (h : MemOk s) (hf : ∀ cl q, MemOk (f cl q)) : MemOk (s.withQueue k t w f) := by
  unfold State.withQueue
  split
  · exact h.trap
  · exact .ite h.trap (.ite h.parkAt (.ite h.trap (hf _ _)))

theorem OutOk.execQpush {a b} (h : MemOk s) : OutOk (execQpush a b s) :=
  .eachLane h fun h => h.withQueue fun _ _ => .ite h.parkAt (.ite h.send.finish (.ite h.parkAt (.parkAt (.putFifo h))))

theorem OutOk.execQpop {d a} (h : MemOk s) : OutOk (execQpop d a s) :=
  .eachLane h fun h => h.withQueue fun _ _ => .ite h.parkAt h.send.parkAt

theorem OutOk.execQtry {d a} (h : MemOk s) : OutOk (execQtry d a s) :=
  .eachLane h fun h => h.withQueue fun _ _ => .ite h.parkAt h.send.finish

theorem OutOk.execQlen {d a} (h : MemOk s) : OutOk (execQlen d a s) :=
  .eachLane h fun h => h.withQueue fun _ _ => .ite h.parkAt h.finish

theorem MemOk.loseQueue (h : MemOk s) : MemOk (s.loseQueue k) := h.modAway

theorem MemOk.givePop {d e} (h : MemOk s) : MemOk (s.givePop k d e) := by
  unfold State.givePop
  dsimp only
  split
  · exact h.finishAt
  · exact h.modAway

theorem MemOk.placeWaiting (h : MemOk s) : MemOk (s.placeWaiting cl q) := by
  unfold State.placeWaiting
  dsimp only
  split
  · refine .ite ?_ h
    split
    · exact h.putFifo.finishAt
    · exact h.putFifo.modAway
  · exact h

theorem MemOk.servePops (h : MemOk s) : MemOk (s.servePops cl q) := by
  unfold State.servePops
  dsimp only
  split
  · exact h.putFifo.givePop
  · exact h

theorem MemOk.settleQueue (h : MemOk s) : MemOk (s.settleQueue cl q n) := by
  induction n generalizing s with
  | zero => exact h
  | succ n ih => exact ih h.servePops.placeWaiting

theorem MemOk.lowerSt (h : MemOk s) : MemOk (s.lowerSt k n) := by
  unfold State.lowerSt
  split
  · exact .ite h.putThread h
  · exact h

theorem OutOk.execQueuePushPlace (h : MemOk s) : OutOk (execQueuePushPlace i s) := by
  unfold Machine.execQueuePushPlace
  split
  · exact .ite h (.ite h.landFlight.lowerSt h.landFlight.lowerSt.putFifo.settleQueue)
  · exact h

theorem MemOk.answerTry {d e} (h : MemOk s) : MemOk (s.answerTry k d e) := by
  unfold State.answerTry
  split
  · exact h
  split
  · exact h
  split
  · exact h.putThread
  · exact h.putThread

theorem OutOk.execQueuePopServe (h : MemOk s) : OutOk (execQueuePopServe i s) := by
  unfold Machine.execQueuePopServe
  split
  · refine .ite h (.ite (.ite h.landFlight.answerTry ?_) ?_)
    · split
      · exact MemOk.trap h
      · exact h.landFlight.loseQueue
    · split
      · exact .settleQueue (.ite h.landFlight.putFifo.answerTry h.landFlight.putFifo.givePop)
      · exact .ite h.landFlight.answerTry h.landFlight.putFifo
  · exact h

theorem OutOk.execQueuePopComplete (h : MemOk s) : OutOk (execQueuePopComplete k i s) := by
  unfold Machine.execQueuePopComplete
  split
  · exact h
  split
  · exact .ite h.putThread h
  · exact h

theorem OutOk.execWlpush {a b} (h : MemOk s) : OutOk (execWlpush a b s) :=
  h.scOnly fun h => h.forLanes fun h => .ite h.modCore.finish h.finish

theorem OutOk.execWlpop {d} (h : MemOk s) : OutOk (execWlpop d s) := by
  refine h.scOnly fun h => h.forLanes fun h => ?_
  split
  · exact h.finish
  · exact h.modCore.finish

theorem OutOk.execWlpopComplete (h : MemOk s) : OutOk (execWlpopComplete k i s) := by
  unfold Machine.execWlpopComplete
  split
  · exact h
  split
  · exact .ite h.putThread h
  · exact h

theorem OutOk.execRqpush {a b} (h : MemOk s) : OutOk (execRqpush a b s) :=
  h.scOnly fun h => h.forLanes fun h => .ite h.trap h.modCore.finish

theorem OutOk.execRqpop {d} (h : MemOk s) : OutOk (execRqpop d s) := by
  refine h.scOnly fun h => h.forLanes fun h => ?_
  dsimp only
  split
  · exact h.finish
  · exact h.modCore.finish

/-! ### Messages -/

theorem MemOk.withName {w f} (h : MemOk s) (hf : ∀ dst, MemOk (f dst)) : MemOk (s.withName k t w f) := by
  unfold State.withName
  split
  · exact h.trap
  · exact .ite (hf _) h.trap

theorem OutOk.execMsend {a b} (h : MemOk s) : OutOk (execMsend a b s) :=
  .eachLane h fun h => h.withName fun _ => .ite h.parkAt h.send.finish

theorem OutOk.execMrecv {d} (h : MemOk s) : OutOk (execMrecv d s) := by
  refine .eachLane h fun h => ?_
  split
  · exact h.parkAt
  · exact .ite h.parkAt (.finish h)

theorem MemOk.endSleep (h : MemOk s) : MemOk (s.endSleep k) := by
  unfold State.endSleep
  split
  · exact .ite h.finishAt h
  · exact h

theorem OutOk.execMessagePlaced (h : MemOk s) : OutOk (execMessagePlaced i s) := by
  unfold Machine.execMessagePlaced
  split
  · have hl : ∀ {src uid}, MemOk ((s.landFlight i).lowerSt src uid) := h.landFlight.lowerSt
    exact .ite h (.endSleep hl)
  · exact h

theorem OutOk.execMrecvComplete (h : MemOk s) : OutOk (execMrecvComplete k i s) := by
  unfold Machine.execMrecvComplete
  split
  · exact h
  split
  · exact .ite h.putThread h
  · exact h

/-! ### Threads -/

theorem MemOk.withWritten {rs} (h : MemOk s) (hu : MemOk u) : MemOk (s.withWritten k t rs u) := by
  unfold State.withWritten
  split
  · exact hu
  · exact h.parkAt

theorem MemOk.makeChild {d a jc} (h : MemOk s) : MemOk (s.makeChild k t d a jc) := .finish (.modCore h)

theorem MemOk.countChild {jc f} (h : MemOk s) (hf : ∀ {u}, MemOk u → MemOk (f u)) : MemOk (s.countChild k t jc f) := by
  refine .ite h.trap (h.counterAccess fun _ _ => .ite h.trap (.ite h.parkAt ?_))
  split
  · exact h.containLink
  · exact .ite h.parkAt (hf h.atomicFrom)

theorem OutOk.execSpawn {d a b} (h : MemOk s) : OutOk (execSpawn d a b s) :=
  h.scOnly fun h => h.forLanes fun h => h.withWritten (.ite h.finish (h.withReleased
    (.ite h.makeChild (h.countChild (·.makeChild)))))

theorem OutOk.execJoin {a} (h : MemOk s) : OutOk (execJoin a s) :=
  .eachLane h fun h => .ite h.trap (h.counterAccess fun _ _ => .farRequest (.ite h.finish h.parkAt))

theorem MemOk.endThread (h : MemOk s) : MemOk (s.endThread k t) := by
  have h1 : ∀ {ws cl core f}, MemOk (State.modCore { (s.dropReads k).dropThread k with wakes := ws } cl core f) := 
    .modCore (.putWakes h.dropReads.dropThread)
  unfold State.endThread
  dsimp only
  split
  · exact .settle (.ite h1 h1.modCore)
  · exact .ite h1 h1.modCore

theorem OutOk.execExit (h : MemOk s) : OutOk (execExit s) := by
  refine .eachLane h fun h => .ite h.trap (.ite h.parkAt ?_)
  split
  · exact h.trapDeferred
  split
  · exact h.send.endThread
  · exact h.endThread

theorem MemOk.freeChild (h : MemOk s) : MemOk (freeChild s cl core n) := h.modCore

theorem MemOk.serveNotice {b c} (h : MemOk s) : MemOk (s.serveNotice i cl core n b c) := by
  have hd : MemOk (Machine.freeChild (s.landFlight i) cl core n) := h.landFlight.freeChild
  unfold State.serveNotice
  refine .ite hd ?_
  split
  · exact hd
  dsimp only
  split
  · refine .ite hd.sendRecord (.ite h ?_)
    split
    · exact h.containLink
    split
    · exact h.containBad
    · exact hd.atomicFrom.walkReads
  · exact h.containKey
  · exact hd.sendRecord
  · exact .ite hd.sendRecord h.enterFbf
  · exact h

theorem OutOk.execExitNotice (h : MemOk s) : OutOk (execExitNotice i s) := by
  unfold Machine.execExitNotice
  split
  · refine .ite h ?_
    split
    · exact h.serveNotice
    · exact h.landFlight
  · exact h

theorem OutOk.execSleep (h : MemOk s) : OutOk (execSleep s) := .eachLane h fun h => .ite (.finish h) h.parkAt

theorem OutOk.execWake {a} (h : MemOk s) : OutOk (execWake a s) :=
  .eachLane h fun h => h.withName fun _ => .ite h.parkAt (h.withReleased h.send.finish)

theorem MemOk.setWake (h : MemOk s) : MemOk (s.setWake k) := by
  unfold State.setWake
  split
  · exact h
  · exact .ite h (.ite h.endSleep h)

theorem OutOk.execWakePlaced (h : MemOk s) : OutOk (execWakePlaced i s) := by
  unfold Machine.execWakePlaced
  split
  · refine .ite h ?_
    split
    · exact h.landFlight.setWake.lowerSt
    · exact h.landFlight.setWake
  · exact h

theorem MemOk.ageZero (h : MemOk s) : MemOk s.ageZero := h.modCore
theorem MemOk.holdYield (h : MemOk s) : MemOk s.holdYield := h.modCore

theorem OutOk.execYield (h : MemOk s) : OutOk (execYield s) :=
  MemOk.holdYield (.forLanes (.ite h.ageZero h) (·.finish))

theorem OutOk.execMigrate {a} (h : MemOk s) : OutOk (execMigrate a s) := by
  refine h.scOnly fun h => h.forLanes fun h => .ite h.trap ?_
  split
  · exact h.depart
  · exact h.finish

theorem OutOk.execMigrationArrival (h : MemOk s) : OutOk (execMigrationArrival i s) := by
  unfold Machine.execMigrationArrival
  generalize Config.heapRoom = room
  split
  · refine .ite h (.ite h.landFlight.modCore (.ite h.landFlight.modCore ?_))
    split
    · exact h
    · exact .ite h.startStop (MemOk.ite h.landFlight.modCore h.landFlight.modCore.sendRecord)
  · exact h

theorem OutOk.execCellarMove (h : MemOk s) : OutOk (execCellarMove cl core s) := .ite h h.modCore

/-! ### Slots -/

theorem MemOk.seat (h : MemOk s) : MemOk (s.seat cl core slot n t) := .modCore h
theorem MemOk.noteStarted (h : MemOk s) : MemOk (s.noteStarted p n) := h.modPart

theorem MemOk.startPending (h : MemOk s) : MemOk (s.startPending cl core slot q) := by
  unfold State.startPending
  split
  · exact h
  dsimp only
  split
  · exact h.modCore
  · exact .seat (.noteStarted h)

theorem MemOk.seatArrival {m} (h : MemOk s) : MemOk (s.seatArrival cl core slot m) := .ite h.seat.stepTrap h.seat

theorem MemOk.fillSlot {b} (h : MemOk s) : MemOk (s.fillSlot cl core slot b) := by
  unfold State.fillSlot
  dsimp only
  split
  · exact h.modCore.seat
  · exact h.modCore.seatArrival
  · refine .ite h.startPending ?_
    split
    · exact h.startPending
    · exact h

theorem OutOk.execSlotFill (h : MemOk s) : OutOk (execSlotFill cl core slot s) := .ite h.fillSlot h

theorem OutOk.execRotationBoundary (h : MemOk s) : OutOk (execRotationBoundary cl core s) :=
  .ite (MemOk.foldl (fun _ h => h.fillSlot) h.modCluster) h

theorem OutOk.execLaunchedGangStart (h : MemOk s) : OutOk (execLaunchedGangStart cl core s) := by
  unfold Machine.execLaunchedGangStart
  refine .ite h ?_
  split
  · exact MemOk.foldl (fun _ h => h) (.modCore (.noteStarted h))
  · exact h

theorem MemOk.levelCore {s0} (h : MemOk s) : MemOk (levelCore s0 s cl core) := by
  unfold Machine.levelCore
  split
  · exact h
  split
  · exact h
  · exact .foldl (fun _ h => h.send) h.modCore

theorem OutOk.execLoadLevelInterval (h : MemOk s) : OutOk (execLoadLevelInterval s) :=
  .ite h (MemOk.foldl (fun _ h => h.levelCore) h)

theorem OutOk.execWorklistEntryArrives (h : MemOk s) : OutOk (execWorklistEntryArrives i s) := by
  unfold Machine.execWorklistEntryArrives
  split
  · exact .ite h h.landFlight.modCore
  · exact h

/-! ### Accesses of agents -/

/-- A state that an agent's access waits with has canonical memory. -/
def AgentOk : Agent → Prop
  | .wait u => MemOk u
  | _ => True

theorem AgentOk.wait {x : Agent} (h : AgentOk x) (e : x = .wait u) : MemOk u := by
  subst e; exact h

theorem AgentOk.ite {c : Prop} [Decidable c] {x y : Agent} (h : AgentOk x) (h' : AgentOk y) : AgentOk (if c then x else y) := by
  split
  · exact h
  · exact h'

theorem MemOk.agent {e asid b acc} (h : MemOk s) : AgentOk (s.agent cl e asid b acc va n) := by
  unfold State.agent
  split
  · trivial
  refine .ite trivial (.ite h ?_)
  split
  · split
    · exact h.containLink
    refine .ite (.ite h ?_) ?_
    · split
      · exact h.containLink
      · exact .ite trivial (.ite trivial trivial)
    · split
      · exact h.containBad
      · trivial
  · exact h.containKey
  · trivial
  · exact h.enterFbf
  · exact h

theorem MemOk.agentAtomic {e asid b} (h : MemOk s) : AgentOk (s.agentAtomic cl e asid b va n) := by
  unfold State.agentAtomic
  split
  · split
    · exact h.containBad
    · trivial
  · exact h.agent

theorem MemOk.agentPlace {e asid b acc} (h : MemOk s) : AgentOk (s.agentPlace cl e asid b acc va n) := by
  unfold State.agentPlace
  split
  · trivial
  refine .ite trivial (.ite h ?_)
  split
  · exact .ite h trivial
  · exact h.containKey
  · trivial
  · exact h.enterFbf
  · exact h

theorem MemOk.agentAll {e asid b acc l} (h : MemOk s) : AgentOk (s.agentAll cl e asid b acc l) := by
  induction l with
  | nil => trivial
  | cons x l ih =>
    unfold State.agentAll
    split
    · split
      · trivial
      · exact ih
    · exact h.agent

theorem MemOk.fillWindow {bs} (h : MemOk s) : MemOk (s.fillWindow cl core p n bs) := h.writeCells.modCore
theorem MemOk.ensureWindow (h : MemOk s) : MemOk (s.ensureWindow cl core p n) := .ite h h.fillWindow

/-! ### Grants -/

theorem OutOk.execGcall {off} (h : MemOk s) : OutOk (execGcall off s) :=
  h.scOnly fun h => h.forLanes fun h => h.withWritten (.ite h.putThread h.send.putThread)

theorem MemOk.holdCaller {w} (h : MemOk s) : MemOk (s.holdCaller k t w) := h.putThread

theorem MemOk.enterGrant (h : MemOk s) : OptOk (s.enterGrant cl k va) := by
  unfold State.enterGrant
  split
  · exact .some h
  dsimp only
  split
  · exact .ite .none (.some h.putCluster.holdCaller)
  split
  · exact .none
  · exact .some h.putCluster.holdCaller

theorem MemOk.retryGrant (h : MemOk s) : MemOk (s.retryGrant cl) := by
  refine h.foldl fun {u} w h => ?_
  split
  next e => exact MemOk.modCluster (h.enterGrant _ e)
  · exact h

theorem OutOk.execGrantArrival (h : MemOk s) : OutOk (execGrantArrival i s) := by
  unfold Machine.execGrantArrival
  split
  · refine .ite h (.ite h ?_)
    split
    next e => exact h.landFlight.retryGrant.enterGrant _ e
    · exact h.landFlight.retryGrant.modCluster
  · exact h

theorem OutOk.execGrantKeyDeadline (h : MemOk s) : OutOk (execGrantKeyDeadline cl k s) := by
  unfold Machine.execGrantKeyDeadline
  split
  · exact .ite h.modCluster h
  · exact h

theorem OutOk.execGrantPack (h : MemOk s) : OutOk (execGrantPack cl s) := by
  unfold Machine.execGrantPack
  dsimp only
  split
  · exact .ite h (MemOk.retryGrant (.foldl (fun _ h => h.putAt) h.putCluster))
  · exact h

theorem MemOk.startGang {r} (h : MemOk s) : MemOk (s.startGang cl core slot r) := .foldl (fun _ h => h) (.modCore h)

theorem OutOk.execGangStart (h : MemOk s) : OutOk (execGangStart cl s) := by
  unfold Machine.execGangStart
  split
  · split
    · split
      · refine .ite h (MemOk.startGang ?_)
        split
        · exact h.modCluster.ensureWindow
        · exact h.modCluster
      · exact h
    · exact h
  · exact h

theorem OutOk.execGret (h : MemOk s) : OutOk (execGret s) := by
  refine .eachLane h fun h => .ite h.trap (.ite h.parkAt (h.withWritten ?_))
  split
  · exact h.trapDeferred
  refine h.withReleased ?_
  split
  · exact h.send.endThread
  · exact h.endThread

theorem OutOk.execCallerResume (h : MemOk s) : OutOk (execCallerResume i s) := by
  unfold Machine.execCallerResume
  split
  · refine .ite h ?_
    dsimp only
    split
    · exact h.landFlight.finishAt
    · exact h.landFlight
  · exact h

/-! ### Barriers and waits -/

theorem MemOk.withGroup {f} (h : MemOk s) (hf : ∀ p e, MemOk (f p e)) : MemOk (s.withGroup k t n f) := by
  unfold State.withGroup
  split
  · exact hf _ _
  · exact h.trap

theorem MemOk.arrive {e} (h : MemOk s) : MemOk (s.arrive t p n e).1 := h.send

theorem OutOk.execBsync {g} (h : MemOk s) : OutOk (execBsync g s) :=
  .eachLane h fun h => h.withGroup fun _ _ => .ite (.ite h.parkAt h.finish) (.ite h.parkAt (h.withReleased h.arrive.parkAt))

theorem OutOk.execBarv {g} (h : MemOk s) : OutOk (execBarv g s) :=
  .eachLane h fun h => h.withGroup fun _ _ => .ite h.parkAt (h.withReleased h.arrive.finish)

theorem OutOk.execBwait {g} (h : MemOk s) : OutOk (execBwait g s) :=
  .eachLane h fun h => h.withGroup fun _ _ => .ite h.parkAt h.finish

theorem OutOk.execBquery {d g} (h : MemOk s) : OutOk (execBquery d g s) := .eachLane h fun h => h.withGroup fun _ _ => h.finish

theorem OutOk.execBarrierArrival {g} (h : MemOk s) : OutOk (execBarrierArrival i g s) := by
  unfold Machine.execBarrierArrival
  split
  · refine .ite h ?_
    split
    · exact h.landFlight
    · exact .ite h (.ite h.landFlight h.landFlight.modPart.settle)
  · exact h

theorem OutOk.execWait {a b c d} (h : MemOk s) : OutOk (execWait a b c d s) := by
  refine .eachLane h fun h => ?_
  split
  · exact h.trapDeferred
  · exact .ite h.finish h.parkAt

theorem OutOk.execPwait {a} (h : MemOk s) : OutOk (execPwait a s) := by
  refine .eachLane h fun h => ?_
  dsimp only
  split
  · exact h
  split
  · split
    · exact h.finish.walkReads
    · exact h.trap.walkReads
  · exact h.checkStop

theorem OutOk.execStallLimitExpiry (h : MemOk s) : OutOk (execStallLimitExpiry k s) := by
  have ha : MemOk (if clusterRuns s (keyCl k) then s.stallOffCore k else s) := .ite h.stallOffCore h
  unfold Machine.execStallLimitExpiry
  dsimp only
  split
  · exact ha
  · exact .ite ha (.ite h.withdraw.withdrawArrival.trapWaiting.retryGrant h.withdraw.trapWaiting.retryGrant)

end Sys2Proof.Safety
end

section
/-! Memory stays canonical, fourth part: the copy engine, what engine commands share, and the matrix engine. -/

namespace Sys2Proof.Safety

open Machine

variable {s u : State} {cl core slot k i j n p q : Nat} {t t' : Thread} {va pc : Word} {c : Cmd} {r : Running}

/-! ### Copies: posting and grant -/

theorem MemOk.located {f} (h : MemOk s) (hf : ∀ key, MemOk (f key)) : MemOk (s.located k t va f) := by
  unfold State.located
  split
  · exact h
  split
  · exact (hf _).walkReads
  · exact h.checkStop

theorem OutOk.execPquery {a b x} (h : MemOk s) : OutOk (execPquery a b x s) := .eachLane h fun h => h.located fun _ => h.finish
theorem OutOk.execLquery {a b} (h : MemOk s) : OutOk (execLquery a b s) := .eachLane h fun h => h.located fun _ => h.finish

/-- A state that locating a range waits with has canonical memory. -/
def LocatedOk : Located → Prop
  | .wait u => MemOk u
  | _ => True

theorem LocatedOk.wait {x : Located} (h : LocatedOk x) (e : x = .wait u) : MemOk u := by
  subst e; exact h

theorem MemOk.locate {e acc l} (h : MemOk s) : LocatedOk (s.locate cl e c acc l) := by
  induction l with
  | nil => trivial
  | cons x l ih =>
    unfold State.locate
    split
    next e => exact h.agentPlace.wait e
    · trivial
    · split
      · trivial
      · exact ih

theorem MemOk.grantCopy (h : MemOk s) : OptOk (s.grantCopy cl c) := by
  unfold State.grantCopy
  refine .ite .none ?_
  rintro u hu
  obtain ⟨rlt, -, rfl⟩ := Option.map_eq_some_iff.1 hu
  exact MemOk.modCluster (.ite (.foldl (fun _ h => h.modCluster) h) h)

theorem MemOk.grantPosted (h : MemOk s) : MemOk (s.grantPosted cl c) := .ite (.getD h.grantCopy h) h

theorem MemOk.postCopy {fn a b} (h : MemOk s) : MemOk (s.postCopy k t fn a b) :=
  .ite h.trap (.ite h.parkAt (.grantPosted (.finish (.modCluster h))))

theorem MemOk.grantFirst {l held} (h : MemOk s) : MemOk (s.grantFirst cl l held) := by
  induction l generalizing held with
  | nil => exact h
  | cons c l ih =>
    unfold State.grantFirst
    refine .ite ih ?_
    split
    next e => exact h.grantCopy _ e
    · exact ih

theorem OutOk.execCpeGrant (h : MemOk s) : OutOk (execCpeGrant cl s) := .ite h.grantFirst h

/-! ### Copies: progress -/

/-- A state that a copy waits with has canonical memory. -/
def CopyOk : CopyNext → Prop
  | .wait u => MemOk u
  | _ => True

theorem CopyOk.wait {x : CopyNext} (h : CopyOk x) (e : x = .wait u) : MemOk u := by
  subst e; exact h

theorem CopyOk.ite {c : Prop} [Decidable c] {x y : CopyNext} (h : CopyOk x) (h' : CopyOk y) : CopyOk (if c then x else y) := by
  split
  · exact h
  · exact h'

theorem MemOk.copyRead (h : MemOk s) : AgentOk (copyRead s cl c va n) := by
  unfold Machine.copyRead
  split
  next e =>
    split
    · trivial
    · exact h.agent.wait e
  · exact h.agent

theorem MemOk.listEntry {e} (h : MemOk s) (he : listEntry s cl c i = .error e) : CopyOk e := by
  unfold Machine.listEntry at he
  dsimp only at he
  split at he
  · cases he; trivial
  split at he
  next hw => cases he; exact h.copyRead.wait hw
  · cases he; trivial
  · split at he
    · cases he; trivial
    · cases he

theorem MemOk.takeElems {b room} (h : MemOk s) : CopyOk (takeElems s cl c b n i room) := by
  cases n with
  | zero => trivial
  | succ n =>
    unfold Machine.takeElems
    split
    next he => exact h.listEntry he
    · refine .ite (.ite trivial h) ?_
      split <;> trivial

theorem MemOk.copyChecks (h : MemOk s) : ∀ x ∈ copyChecks s cl c, CopyOk x := by
  intro x hx
  unfold Machine.copyChecks at hx
  split at hx
  · cases hx
  split at hx
  next hw => cases hx; exact h.locate.wait hw
  · cases hx; trivial
  · split at hx
    next hw => cases hx; exact h.locate.wait hw
    · cases hx; trivial
    · split at hx
      · cases hx; trivial
      · cases hx

theorem MemOk.moveNext (h : MemOk s) : CopyOk (moveNext s cl c va i n) := by
  unfold Machine.moveNext
  split
  next hw => exact h.copyRead.wait hw
  · trivial
  split
  next hw => exact h.agent.wait hw
  · trivial
  · trivial

theorem MemOk.scatterNext (h : MemOk s) : CopyOk (scatterNext s cl c va i n) := by
  unfold Machine.scatterNext
  split
  next hw => exact h.copyRead.wait hw
  · trivial
  refine .ite trivial ?_
  split
  next hw => exact h.agent.wait hw
  · trivial
  · exact .ite trivial (.ite trivial trivial)

theorem MemOk.copyNext (h : MemOk s) : CopyOk (copyNext s cl i r) := by
  unfold Machine.copyNext
  refine .ite trivial (.ite ?_ ?_)
  · split
    next x e =>
      split at e
      · exact h.copyChecks _ e
      · cases e
    · exact h.moveNext
  · split
    · exact h.takeElems
    · exact .ite h.moveNext h.scatterNext

theorem MemOk.registerRanges (h : MemOk s) : OptOk (s.registerRanges cl i r) := .ite (.some h) (.ite .none (.some h.modCluster))

theorem MemOk.present (h : MemOk s) : MemOk (s.present c i n) := by
  refine h.foldl fun {u} l h => ?_
  split
  · exact h.modCluster
  · exact h

theorem MemOk.putCopy (h : MemOk s) : MemOk (s.putCopy cl i r) := h.modCluster
theorem MemOk.passCopy (h : MemOk s) : MemOk (s.passCopy cl i r n) := .ite h.modCluster.putCopy.present h.modCluster.putCopy
theorem MemOk.copyWalks (h : MemOk s) : MemOk (s.copyWalks cl r) := h.agentWalks.agentWalks

theorem OutOk.execCpeLineWritten (h : MemOk s) : OutOk (execCpeLineWritten cl i s) := by
  unfold Machine.execCpeLineWritten
  split
  · exact h
  refine .ite h ?_
  split
  · exact h
  next e =>
    have h0 := h.registerRanges _ e
    split
    · exact h0.copyWalks.farRequest.writeFrom.passCopy
    · exact h0.copyWalks.atomicFrom.passCopy
    · exact h0.copyWalks.agentReads.modCluster.putCopy
    next hw => exact h0.copyNext.wait hw
    · exact h
    · exact h

theorem MemOk.endCopy (h : MemOk s) : MemOk (s.endCopy cl i r) := .foldl (fun _ h => h.putAt) h.modCluster

theorem OutOk.execCpeCommandComplete (h : MemOk s) : OutOk (execCpeCommandComplete cl i s) := by
  unfold Machine.execCpeCommandComplete
  split
  · exact h
  · exact .ite h.endCopy h

theorem MemOk.cancelCopies (h : MemOk s) : MemOk (s.cancelCopies cl k) := h.modCluster.putAt

theorem MemOk.putClusters {l} (h : MemOk s) : MemOk { s with clusters := l } := h

theorem MemOk.failCopy (h : MemOk s) : MemOk (s.failCopy cl i r n va) := h.endCopy.cancelCopies.putClusters.putAt

theorem OutOk.execCpeCommandFail (h : MemOk s) : OutOk (execCpeCommandFail cl i s) := by
  unfold Machine.execCpeCommandFail
  split
  · exact h
  refine .ite h ?_
  split
  · exact h.failCopy
  · exact h

/-! ### What engine commands share -/

theorem MemOk.post {l} (h : MemOk s) : MemOk (s.post n c l) :=
  .ite (.forLanes h (·.parkAt)) (.forLanes (.modCluster h) (·.finish))

theorem MemOk.onlyLanes {f} (h : MemOk s) : MemOk (s.onlyLanes f) := h

theorem MemOk.trapLanes {b f} (h : MemOk s) (hf : ∀ {u}, MemOk u → MemOk (f u)) : MemOk (s.trapLanes b n f) := by
  have ht : MemOk ((s.onlyLanes b).forLanes fun s k t => s.trap k t n 0) := .forLanes h.onlyLanes (·.trap)
  exact .ite ht.putCur (hf ht.putCur)

theorem MemOk.lowerTl (h : MemOk s) : MemOk (s.lowerTl c) := .foldl (fun _ h => h.putAt) h
theorem MemOk.clearBusy {l} (h : MemOk s) : MemOk (s.clearBusy c l) := .foldl (fun _ h => h.putAt) h
theorem MemOk.defer {l} (h : MemOk s) : MemOk (s.defer c l i n va) := .foldl (fun _ h => h.putAt) h
theorem MemOk.unlock (h : MemOk s) : MemOk (s.unlock cl n c) := h.modCluster
theorem MemOk.retireAll (h : MemOk s) : MemOk s.retireAll := h.forLanes (·.finish)

/-! ### The matrix engine: posting -/

theorem MemOk.putMxCtx {f} (h : MemOk s) : MemOk (s.putMxCtx cl n f) := h.modCluster

theorem OutOk.execMcfg {a x y} (h : MemOk s) : OutOk (execMcfg a x y s) := by
  unfold Machine.execMcfg
  split
  · exact h
  dsimp only
  split
  · exact MemOk.ite h.putMxCtx.retireAll h.illegal
  · exact MemOk.ite h.putMxCtx.retireAll h.illegal
  · exact MemOk.ite h.putMxCtx.retireAll h.illegal
  · exact h.retireAll

theorem OutOk.execMsel {a x} (h : MemOk s) : OutOk (execMsel a x s) := by
  unfold Machine.execMsel
  split
  · exact h
  · exact MemOk.ite h.illegal h.putMxCtx.retireAll

theorem MemOk.postMxe {x b a l m d busy} (h : MemOk s) : MemOk (s.postMxe n x t b a l m d busy) := h.post

theorem OutOk.execMlds {a b x} (h : MemOk s) : OutOk (execMlds a b x s) := by
  unfold Machine.execMlds
  split
  · exact h
  · exact MemOk.ite h.illegal (.ite h.illegal h.postMxe)

theorem OutOk.execMswp {x} (h : MemOk s) : OutOk (execMswp x s) := by
  unfold Machine.execMswp
  split
  · exact h
  · exact h.postMxe

theorem MemOk.withScales {w f} (h : MemOk s) (hf : ∀ {u}, MemOk u → MemOk (f u)) : MemOk (s.withScales w f) := by
  have h1 : MemOk ((scaleLanes s w).foldl (fun s x => s.withF x.1 x.2 (scaleRegs w) none fun t => s.putThread x.1 t) s) :=
    .foldl (fun _ h => h.withF fun _ => h.putThread) h
  exact .ite h.trapAll (.ite (hf h1) (.ite h1 (hf h1.putCur)))

theorem MemOk.postRows {a b x y} (h : MemOk s) : MemOk (postRows a b x y s) := by
  unfold Machine.postRows
  split
  · exact h
  · exact h.postMxe

theorem OutOk.postPass {a b x y} (h : MemOk s) : OutOk (postPass a b x y s) := by
  unfold Machine.postPass
  split
  · exact h
  · exact MemOk.ite h.illegal (.ite h.trapAll (.ite h.illegal (.ite (h.withScales (·.postRows)) h.postRows)))

theorem OutOk.execMzero {b x} (h : MemOk s) : OutOk (execMzero b x s) := by
  unfold Machine.execMzero
  split
  · exact h
  · exact MemOk.ite h.illegal h.postMxe

theorem OutOk.postDrain {a b x} (h : MemOk s) : OutOk (postDrain n a b x s) := by
  unfold Machine.postDrain
  split
  · exact h
  · exact MemOk.ite h.illegal (.ite h.trapAll h.postMxe)

theorem OutOk.postElement {a b x} (h : MemOk s) : OutOk (postElement n a b x s) := by
  refine h.trapLanes fun h => ?_
  split
  · exact h
  · exact h.postMxe

/-! ### The matrix engine: standing at the arbiter, grant -/

/-- A state that a posted command waits with has canonical memory. -/
def EligOk : Elig → Prop
  | .wait u => MemOk u
  | _ => True

theorem EligOk.wait {x : Elig} (h : EligOk x) (e : x = .wait u) : MemOk u := by
  subst e; exact h

theorem EligOk.ite {c : Prop} [Decidable c] {x y : Elig} (h : EligOk x) (h' : EligOk y) : EligOk (if c then x else y) := by
  split
  · exact h
  · exact h'

theorem MemOk.readRows {l e} (h : MemOk s) (he : readRows s cl c n l = .error e) : EligOk e := by
  induction l generalizing e with
  | nil => cases he
  | cons x l ih =>
    unfold Machine.readRows at he
    split at he
    · cases he; trivial
    split at he
    next hw => cases he; exact h.agent.wait hw
    · cases he; trivial
    · cases hr : Machine.readRows s cl c n l with
      | error e' => rw [hr] at he; cases he; exact ih hr
      | ok l' => rw [hr] at he; cases he

theorem MemOk.passElig (h : MemOk s) : EligOk (passElig s cl c) := by
  unfold Machine.passElig
  refine .ite trivial ?_
  split
  next he => exact h.readRows he
  · exact .ite trivial (.ite trivial trivial)

theorem swapElig_ok {m} : EligOk (swapElig m c) := .ite trivial (.ite trivial trivial)

theorem placedElig_ok {acc x y z} : EligOk (placedElig s cl c r acc x y z) := by
  unfold Machine.placedElig
  refine .ite trivial ?_
  split <;> trivial

theorem MemOk.loadElig (h : MemOk s) : EligOk (loadElig s cl c) := by
  unfold Machine.loadElig
  split
  · trivial
  split
  next hw => exact h.agentAll.wait hw
  · trivial
  split
  next hw => exact h.locate.wait hw
  · trivial
  · exact placedElig_ok

theorem MemOk.drainElig (h : MemOk s) : EligOk (drainElig s cl c) := by
  unfold Machine.drainElig
  refine .ite trivial (.ite trivial (.ite trivial ?_))
  split
  next hw => exact h.agentAll.wait hw
  · trivial
  refine .ite trivial ?_
  dsimp only
  split
  · refine .ite trivial ?_
    split
    · exact h.containBad
    · trivial
  · exact placedElig_ok

theorem MemOk.mxEligible {l} (h : MemOk s) : EligOk (mxEligible s cl l c) :=
  .ite trivial (.ite h.passElig (.ite swapElig_ok (.ite h.loadElig (.ite h.drainElig (.ite trivial trivial)))))

theorem MemOk.standings {b} (h : MemOk s) : ∀ e ∈ standings s cl b, EligOk e.2 := by
  intro e he
  obtain ⟨x, -, rfl⟩ := List.mem_map.1 he
  exact h.mxEligible

theorem MemOk.grantMxe {l} (h : MemOk s) : MemOk (s.grantMxe cl c r n l) := .ite h.modCluster.putMxCtx h.modCluster

theorem MemOk.passReads (h : MemOk s) : MemOk (s.passReads cl c) := by
  refine .ite h (h.foldl fun {u} x h => ?_)
  split
  · exact h.agentReads.agentWalks
  · exact h

theorem OutOk.execMxeGrant (h : MemOk s) : OutOk (execMxeGrant cl n s) := by
  unfold Machine.execMxeGrant
  refine .ite h ?_
  dsimp only
  split
  next u hu =>
    obtain ⟨e, he, hw⟩ := List.exists_of_findSome?_eq_some hu
    split at hw
    next hs =>
      split at hw
      · cases hw; exact (h.standings e he).wait hs
      · cases hw
    · cases hw
  · split
    · exact .ite h (.ite h h.passReads.walkReads.grantMxe)
    · exact h

/-! ### The matrix engine: completion and failure -/

theorem MemOk.endMxe (h : MemOk s) : MemOk (s.endMxe cl i c) := h.modCluster.unlock.lowerTl
theorem MemOk.mxFlags {f} (h : MemOk s) : MemOk (s.mxFlags cl n f) := h.putMxCtx
theorem OutOk.execMxePassComplete (h : MemOk s) : OutOk (execMxePassComplete cl i s) := by
  unfold Machine.execMxePassComplete
  split
  · exact h
  split
  · exact h
  · exact .ite h (h.guardAm h.putTile.mxFlags.putMxCtx.endMxe)

theorem MemOk.placeReady (h : MemOk s) : AgentOk (placeReady s cl i r) := by
  unfold Machine.placeReady
  refine .ite h ?_
  split
  · exact h.containLink
  refine .ite h (.ite h ?_)
  split
  · exact h.containBad
  · trivial

theorem OutOk.execMxePlaneLoadComplete (h : MemOk s) : OutOk (execMxePlaneLoadComplete cl i s) := by
  unfold Machine.execMxePlaneLoadComplete
  split
  · exact h
  refine .ite h ?_
  split
  next hw => exact h.placeReady.wait hw
  · exact h
  · exact h.farRequest.modCluster.endMxe

theorem MemOk.readElements (h : MemOk s) : MemOk (s.readElements cl c) := .foldl (fun _ h => h.putAt) h

theorem OutOk.execMxeTileOpComplete (h : MemOk s) : OutOk (execMxeTileOpComplete cl i s) := by
  unfold Machine.execMxeTileOpComplete
  split
  · exact h
  dsimp only
  split
  · exact h.endMxe
  · exact h.putTile.endMxe
  · exact MemOk.foldr (fun _ hu => h.guardAm hu) h.readElements.endMxe
  · exact MemOk.endMxe (.foldl (fun _ h => h.putTile) h)
  · exact h

theorem MemOk.addTile {b rows l} (h : MemOk s) : MemOk (s.addTile b rows l) := h.writeCells
theorem MemOk.markDrain {b} (h : MemOk s) : MemOk (s.markDrain cl n b) := h.modCluster
theorem MemOk.putReductions {l} (h : MemOk s) : MemOk { s with reductions := l } := h

theorem MemOk.applyStaged (h : MemOk s) : MemOk (s.applyStaged k n) := by
  induction n generalizing s with
  | zero => exact h
  | succ n ih =>
    unfold State.applyStaged
    split
    · exact h
    refine .ite h ?_
    split
    · exact h
    · exact .ite h (ih h.addTile.markDrain.putReductions)

theorem MemOk.applyAll (h : MemOk s) : MemOk s.applyAll := .foldl (fun _ h => h.applyStaged) h

theorem OutOk.execMxeDrainComplete (h : MemOk s) : OutOk (execMxeDrainComplete cl i s) := by
  unfold Machine.execMxeDrainComplete
  split
  · exact h
  refine .ite (.ite h.endMxe h.applyAll) (.ite h ?_)
  split
  next hw => exact h.placeReady.wait hw
  · exact h
  · exact .ite h.addTile.endMxe h.writeFrom.mxFlags.endMxe

theorem MemOk.failMxe (h : MemOk s) : MemOk (s.failMxe cl c n va) :=
  .defer (.foldl (fun _ h => .ite h.clearBusy h) (.foldl (fun _ h => h.unlock.lowerTl) h.modCluster))

theorem OutOk.execMdrnoContributionArrival (h : MemOk s) : OutOk (execMdrnoContributionArrival cl i s) := by
  unfold Machine.execMdrnoContributionArrival
  split
  · exact h.applyAll
  refine .ite h ?_
  split
  next hw => exact h.placeReady.wait hw
  · exact h
  · exact .ite h.failMxe (.ite h.putReductions.failMxe h.markDrain.putReductions.applyStaged)

theorem OutOk.execMxeCommandFail (h : MemOk s) : OutOk (execMxeCommandFail cl i s) := by
  unfold Machine.execMxeCommandFail
  refine .ite h ?_
  split
  · refine .ite h ?_
    split
    · exact h.failMxe
    · exact .ite h.failMxe h
    · exact h
  · split
    · exact h
    split
    · exact h.failMxe
    · exact h

end Sys2Proof.Safety
end

section
/-! Memory stays canonical, fifth part: the neuron engine, launches, the search-tree engine and streams. -/

namespace Sys2Proof.Safety

open Machine

variable {s u : State} {cl core slot k i j n p q : Nat} {t t' : Thread} {va pc : Word} {c : Cmd} {r : Running}

/-! ### The neuron engine: posting and events -/

theorem MemOk.modEnb {f} (h : MemOk s) : MemOk (s.modEnb cl f) := h.modCluster
theorem MemOk.putEnbCtx {f} (h : MemOk s) : MemOk (s.putEnbCtx cl n f) := h.modEnb

theorem OutOk.execNcfg {a x y} (h : MemOk s) : OutOk (execNcfg a x y s) := by
  unfold Machine.execNcfg
  split
  · exact h
  · exact MemOk.ite h.illegal (.ite h.trapAll (.ite (.ite h.trapAll h.post) h.putEnbCtx.retireAll))

theorem MemOk.busyLowest {s0 a} (h : MemOk s) : MemOk (s.busyLowest s0 k a) := .ite h h.putAt

theorem OutOk.execNld {a b x} (h : MemOk s) : OutOk (execNld a b x s) := by
  unfold Machine.execNld
  split
  · exact h
  · exact MemOk.ite h.illegal h.post

theorem OutOk.execNrd {a b x y} (h : MemOk s) : OutOk (execNrd a b x y s) := by
  unfold Machine.execNrd
  split
  · exact h
  · exact h.post.busyLowest

theorem OutOk.execNspk {a b x} (h : MemOk s) : OutOk (execNspk a b x s) := by
  unfold Machine.execNspk
  split
  · exact h
  · exact h.post.busyLowest

theorem OutOk.execNinj {a b} (h : MemOk s) : OutOk (execNinj a b s) := by
  unfold Machine.execNinj
  split
  · exact h
  · exact MemOk.ite h.trapAll (.ite (h.forLanes (·.parkAt)) (h.modEnb.send.forLanes (·.finish)))

theorem MemOk.addCalendar {b z} (h : MemOk s) : MemOk (s.addCalendar cl n b i z) := h.guardKeys h.writeNum

theorem MemOk.placeEvent {w0 w1} (h : MemOk s) : MemOk (s.placeEvent w0 w1) :=
  .ite h.modEnb.sendRecord (.ite h.modEnb.sendRecord (.ite h.modEnb.sendRecord (.ite h.modEnb.sendRecord
    (.ite h.modEnb.putAm h.modEnb.addCalendar))))

theorem OutOk.execNeuronEventArrival (h : MemOk s) : OutOk (execNeuronEventArrival i s) := by
  unfold Machine.execNeuronEventArrival
  split
  · exact .ite h (h.guardAm (.foldl (fun _ h => h.putAt) h.landFlight.placeEvent))
  · exact h

/-! ### The neuron engine: commands -/

theorem MemOk.endEnb (h : MemOk s) : MemOk (s.endEnb cl c) := h.modEnb.unlock.lowerTl

theorem MemOk.failEnb (h : MemOk s) : MemOk (s.failEnb cl c n va) :=
  .defer (.foldl (fun _ h => .ite h.clearBusy h) (.foldl (fun _ h => h.endEnb) h))

theorem MemOk.enbResult (h : MemOk s) : MemOk (s.enbResult c va) := by
  unfold State.enbResult
  split
  · exact h
  · exact h.putAt

theorem MemOk.loadNeurons {bs} (h : MemOk s) : MemOk (s.loadNeurons cl n i bs) := .foldl (fun _ h => h.putAm) h

theorem MemOk.copyNeurons {l} (h : MemOk s) : MemOk (s.copyNeurons cl c l) := by
  unfold State.copyNeurons
  split
  next hw => exact h.agentAll.wait hw
  · exact h.failEnb
  · exact h.farRequest.agentWalks.loadNeurons.endEnb

theorem MemOk.runNld (h : MemOk s) : MemOk (s.runNld cl c) := by
  unfold State.runNld
  refine .ite h.failEnb (.ite h.failEnb (.ite ?_ h.copyNeurons))
  split
  next hw => exact h.locate.wait hw
  · exact h.failEnb
  split
  · exact h
  · exact h.copyNeurons
  · exact h.modCluster

theorem OutOk.execEnbCommandExecute (h : MemOk s) : OutOk (execEnbCommandExecute cl s) := by
  unfold Machine.execEnbCommandExecute
  split
  · exact h
  refine .ite h ?_
  split
  · exact h.runNld
  · exact h.guardAm h.enbResult.endEnb
  · exact h.enbResult.endEnb
  · exact h

theorem MemOk.enterNeuronMode (h : MemOk s) : MemOk (s.enterNeuronMode cl n c va) := by
  have h5 : ∀ {cells l x f g}, MemOk (((((s.writeAm cells).writeCells l).putEnbCtx cl n x).modEnb cl f).modCluster cl g) :=
    h.writeAm.writeCells.putEnbCtx.modEnb.modCluster
  exact .ite h5.modEnb h5

/-- Bytes of accumulator memory written, whatever else changes. -/
theorem MemOk.writeAmCells {cells} (h : MemOk s) : MemOk { s with am := memWriteAll s.am cells } := h.writeAm

theorem MemOk.leaveNeuronMode (h : MemOk s) : MemOk (s.leaveNeuronMode cl n va) := h.writeAmCells.putEnbCtx.modCluster

theorem OutOk.execNeuronModeSwitch (h : MemOk s) : OutOk (execNeuronModeSwitch cl i s) := by
  unfold Machine.execNeuronModeSwitch
  split
  · exact h
  · exact .ite h (.ite h.putEnbCtx.endEnb (.ite h.leaveNeuronMode.endEnb (.ite h h.enterNeuronMode.endEnb)))

/-! ### The neuron engine: ticks -/

theorem MemOk.awaitTick (h : MemOk s) : MemOk (s.awaitTick n) := .forLanes h fun h => .ite h.trap (.ite h.finish h.parkAt)
theorem MemOk.arriveTick (h : MemOk s) : MemOk (s.arriveTick p n) := .ite (.forLanes h (·.parkAt)) (.forLanes h.send (·.parkAt))

theorem OutOk.execNtick {a x} (h : MemOk s) : OutOk (execNtick a x s) := by
  unfold Machine.execNtick
  split
  · exact h
  refine MemOk.ite h.trapAll ?_
  split
  · exact h.trapAll
  · exact .ite h.trapAll (.ite h.awaitTick (.ite h.arriveTick h.onlyLanes.awaitTick.putCur.arriveTick.putCur))

theorem MemOk.refuseTick (h : MemOk s) : MemOk (s.refuseTick k) := by
  unfold State.refuseTick
  split
  · exact h
  split
  · exact h.trapWaiting
  · exact h.putThread

theorem MemOk.putFlights {l} (h : MemOk s) : MemOk { s with flights := l } := h

theorem OutOk.execNtickArrival (h : MemOk s) : OutOk (execNtickArrival k s) := by
  unfold Machine.execNtickArrival
  dsimp only
  split
  · split
    · exact MemOk.foldl (fun _ h => h.refuseTick) h.putFlights
    · exact .ite h (.ite (MemOk.foldl (fun _ h => h.refuseTick) h.putFlights) h.putFlights.modPart.modEnb)
  · exact h

theorem OutOk.execTickRecvGather (h : MemOk s) : OutOk (execTickRecvGather p n s) := by
  unfold Machine.execTickRecvGather
  split
  · exact h
  split
  · exact h
  · exact .ite h (MemOk.foldl (fun _ h => h.modEnb) h.modPart)

/-- A state that a fan-out read is contained with has canonical memory. -/
def FanOk : FanRead → Prop
  | .bad u => MemOk u
  | _ => True

theorem FanOk.bad {x : FanRead} (h : FanOk x) (e : x = .bad u) : MemOk u := by
  subst e; exact h

theorem MemOk.fanRead {x} (h : MemOk s) : FanOk (fanRead s cl x va) := by
  unfold Machine.fanRead
  split
  · trivial
  split
  · split
    · exact h.containLink
    split
    · exact h.containBad
    · trivial
  · exact h.containKey
  · trivial
  · trivial

theorem MemOk.emit {x} (h : MemOk s) : OptOk (s.emit cl x i n va) := by
  induction n generalizing s va with
  | zero =>
    unfold State.emit
    split
    · exact .none
    · exact .some h.sendRecord
    next hb => exact .some (h.fanRead.bad hb)
    · exact .ite (.some (.ite h.agentReads.agentWalks.sendRecord h.agentReads.agentWalks.modEnb.send))
        (.some (.sendRecord (.ite h.agentReads.agentWalks.sendRecord h.agentReads.agentWalks.modEnb.send)))
  | succ n ih =>
    unfold State.emit
    split
    · exact .none
    · exact .some h.sendRecord
    next hb => exact .some (h.fanRead.bad hb)
    · exact .ite (.some (.ite h.agentReads.agentWalks.sendRecord h.agentReads.agentWalks.modEnb.send))
        (ih (.ite h.agentReads.agentWalks.sendRecord h.agentReads.agentWalks.modEnb.send))

theorem MemOk.stepNeuron (h : MemOk s) : OptOk (s.stepNeuron cl i n j) :=
  .ite (.some h) (.ite (.some h.putAm) (.ite (.some h.putAm.modEnb) h.putAm.modEnb.emit))

theorem MemOk.foldCalendar (h : MemOk s) : MemOk (s.foldCalendar cl n i) := .foldl (fun _ h => .ite h h.putAm.writeNum) h

theorem OptOk.foldlBind {α : Type} {l : List α} {f : α → State → Option State} {o : Option State}
    (hf : ∀ {u} x, MemOk u → OptOk (f x u)) (ho : OptOk o) : OptOk (l.foldl (fun o x => o.bind (f x)) o) := by
  induction l generalizing o with
  | nil => exact ho
  | cons x l ih =>
    refine ih ?_
    cases o with
    | none => exact .none
    | some u => exact hf x (ho u rfl)

theorem OutOk.execTickStep (h : MemOk s) : OutOk (execTickStep cl s) := by
  unfold Machine.execTickStep
  split
  · exact h
  refine .ite h ?_
  dsimp only
  split
  · exact h
  next e =>
    have h2 := OptOk.foldlBind (fun _ h => h.stepNeuron) (.some h.modEnb) _ e
    exact MemOk.foldr (fun _ hu => h.guardAm (h.guardKeys hu)) (.foldl (fun _ h => h.foldCalendar) h2.modEnb)

/-! ### Launches: acceptance and start -/

theorem OutOk.execLaunch {d a} (h : MemOk s) : OutOk (execLaunch d a s) :=
  .eachLane h fun h => .ite h.trap (h.counterAccess fun _ _ => h.withReleased h.send.parkAt)

theorem MemOk.launchRecord (h : MemOk s) : MemOk (s.launchRecord p cl n va) := h.sendRecord
theorem MemOk.tableReads {l} (h : MemOk s) : MemOk (s.tableReads l p n) :=
  .foldl (fun _ h => h.agentReads.agentWalks) h.agentReads.agentWalks
theorem MemOk.putLaunch {l} (h : MemOk s) : MemOk (s.putLaunch p n l) := h.modPart
theorem MemOk.failLaunch {l} (h : MemOk s) : MemOk (s.failLaunch p n l i) := h.putLaunch

/-- A state that loading the group table waits with has canonical memory. -/
def LoadedOk : Loaded → Prop
  | .wait u => MemOk u
  | _ => True

theorem LoadedOk.wait {x : Loaded} (h : LoadedOk x) (e : x = .wait u) : MemOk u := by
  subst e; exact h

theorem LoadedOk.ite {c : Prop} [Decidable c] {x y : Loaded} (h : LoadedOk x) (h' : LoadedOk y) : LoadedOk (if c then x else y) := by
  split
  · exact h
  · exact h'

theorem MemOk.loadGroup {l x bs g} (h : MemOk s) : LoadedOk (loadGroup s l p n x i bs g) := by
  unfold Machine.loadGroup
  refine .ite trivial (.ite trivial ?_)
  split
  next hw => exact h.agentAll.wait hw
  · trivial
  split
  · trivial
  · exact .ite trivial trivial

theorem LoadedOk.foldl {α : Type} {l : List α} {f : Loaded → α → Loaded} {x : Loaded} (hf : ∀ {x} a, LoadedOk x → LoadedOk (f x a))
    (h : LoadedOk x) : LoadedOk (l.foldl f x) := by
  induction l generalizing x with
  | nil => exact h
  | cons a l ih => exact ih (hf a h)

theorem MemOk.loadGroups {l x} (h : MemOk s) : LoadedOk (loadGroups s l p n x) := by
  unfold Machine.loadGroups
  refine .ite trivial ?_
  split
  next hw => exact h.agentAll.wait hw
  · trivial
  generalize List.range 256 = records
  refine .foldl (fun {x} _ hx => ?_) trivial
  split
  · exact h.loadGroup
  · exact hx

theorem MemOk.readGroups {x l} (h : MemOk s) : MemOk (s.readGroups p n x l) := by
  unfold State.readGroups
  split
  next hw => exact h.loadGroups.wait hw
  · exact h.failLaunch
  · exact h.tableReads.modPart.putLaunch

theorem MemOk.startLaunch {x l} (h : MemOk s) : MemOk (s.startLaunch p n x l) := by
  have ha : AgentOk (if l.r.csz = 0 then Agent.ok []
      else s.agent l.cl (launchAgent p n) l.asid l.sup .read l.r.const l.r.csz) := .ite trivial h.agent
  unfold State.startLaunch
  refine .ite h.failLaunch (.ite h.readGroups ?_)
  split
  next hw => exact ha.wait hw
  · exact h.failLaunch
  · exact h.agentReads.agentWalks.putLaunch.readGroups

theorem MemOk.tryCounter {x l} (h : MemOk s) : MemOk (s.tryCounter p n x l) := by
  unfold State.tryCounter
  refine .ite h.startLaunch ?_
  split
  next hw => exact h.agent.wait hw
  · exact h.failLaunch
  · exact .ite h.agentReads.agentWalks.putLaunch.startLaunch h.agentReads.agentWalks

theorem MemOk.tryStart (h : MemOk s) : MemOk (s.tryStart p n) := by
  unfold State.tryStart
  split
  · exact h
  split
  · exact h
  refine .ite h (.ite h.tryCounter ?_)
  split
  next hw => exact h.agent.wait hw
  · exact h.failLaunch
  · exact .ite h.failLaunch h.agentReads.agentWalks.putLaunch.tryCounter

theorem OutOk.execLaunchDepctrRead (h : MemOk s) : OutOk (execLaunchDepctrRead p n s) := by
  unfold Machine.execLaunchDepctrRead
  split
  · exact .ite h.tryStart h
  · exact h

theorem MemOk.giveSerial {x} (h : MemOk s) : MemOk (s.giveSerial x n) := by
  unfold State.giveSerial
  split
  · exact h
  split
  · exact h.finishAt
  · exact h

theorem MemOk.accept {x qu asid b rec iss} (h : MemOk s) : MemOk (s.accept p cl x qu asid b rec iss) :=
  .ite h.modPart.giveSerial.tryStart h.modPart.giveSerial

theorem MemOk.halt (h : MemOk s) : MemOk (s.halt p q) := h.modPart.putFlights
theorem MemOk.modQueue {f} (h : MemOk s) : MemOk (s.modQueue p q f) := h.modPart

theorem MemOk.storeHead {asid b} (h : MemOk s) : MemOk (s.storeHead p q asid b) := by
  unfold State.storeHead
  split
  · exact h
  dsimp only
  split
  next hw => exact h.agent.wait hw
  · exact h.launchRecord.halt.modQueue
  · exact h.writeFrom.agentWalks.modQueue

theorem MemOk.acceptRead {x qu asid b rec iss} (h : MemOk s) : MemOk (s.acceptRead i p cl x qu asid b rec iss) := by
  unfold State.acceptRead
  split
  · exact h.landFlight.accept
  · exact h.landFlight.modQueue.accept.storeHead

theorem OutOk.execLaunchAccept (h : MemOk s) : OutOk (execLaunchAccept i s) := by
  have hg : ∀ {cl addrs asid b acc l p x qu rec iss},
      MemOk (((s.agentReads cl addrs).agentWalks cl asid b acc l).acceptRead i p cl x qu asid b rec iss) :=
    h.agentReads.agentWalks.acceptRead
  unfold Machine.execLaunchAccept
  split
  · dsimp only
    split
    · exact h
    refine .ite h ?_
    split
    next hw => exact h.agent.wait hw
    · split
      · exact h.launchRecord.halt
      · split
        · exact hg
        · exact h.landFlight.putCur.trap
        · exact h.landFlight
      · exact h.landFlight
    · exact hg
  · exact h

theorem MemOk.readTail {x} (h : MemOk s) : MemOk (s.readTail p q x) := by
  unfold State.readTail
  dsimp only
  split
  next hw => exact h.agent.wait hw
  · exact h.launchRecord.halt
  · exact .ite h.halt (.ite h.launchRecord.halt h.agentReads.agentWalks.modPart.putFlights)

theorem OutOk.execLaunchQueueWake (h : MemOk s) : OutOk (execLaunchQueueWake p q s) := by
  unfold Machine.execLaunchQueueWake
  split
  · exact .ite h (.ite h.storeHead (.ite h h.readTail))
  · exact h

/-! ### Launches: placement and completion -/

theorem OutOk.execLaunchPlace (h : MemOk s) : OutOk (execLaunchPlace p n s) := by
  unfold Machine.execLaunchPlace
  split
  · exact h
  split
  · exact h
  refine .ite h ?_
  dsimp only
  split
  · exact h
  · exact h.ensureWindow.modCore.putLaunch

theorem MemOk.revokeLaunch {l} (h : MemOk s) : MemOk (s.revokeLaunch p n l) := h.putClusters.failLaunch

theorem MemOk.revokeLaunches {x} (h : MemOk s) : MemOk (s.revokeLaunches p x) := by
  refine h.foldl fun {u} e h => ?_
  split
  · exact h
  · exact .ite h.revokeLaunch h

theorem MemOk.noteSignal (h : MemOk s) : MemOk (s.noteSignal p n) := h.modPart

theorem MemOk.signal {l ws} (h : MemOk s) : MemOk (s.signal p n l ws).1 := by
  induction ws generalizing s with
  | nil => exact h
  | cons w ws ih =>
    obtain ⟨va, op, v⟩ := w
    have ha : AgentOk (if op.isSome then s.agentAtomic l.cl (launchAgent p n) l.asid l.sup va 8
        else s.agent l.cl (launchAgent p n) l.asid l.sup .write va 8) := .ite h.agentAtomic h.agent
    unfold State.signal
    split
    next hw => exact ha.wait hw
    · exact ih h.launchRecord.modCluster.noteSignal
    · dsimp only
      split
      · exact ih h.agentWalks.writeFrom.noteSignal
      · split
        · exact ih h.launchRecord.noteSignal
        · exact ih h.agentWalks.atomicFrom.noteSignal

theorem MemOk.complete {l} (h : MemOk s) : MemOk (s.complete p n l i) := by
  have hr : MemOk (if l.r.signal.toNat % 16 ≠ 0 then (s.launchRecord p l.cl 4 l.r.signal, true)
      else s.signal p n l ((signalWrites l i).drop l.signals)).1 := by
    split
    · exact h.launchRecord
    · exact h.signal
  exact .ite hr.modPart.putLaunch hr

theorem OutOk.execLaunchComplete (h : MemOk s) : OutOk (execLaunchComplete p n s) := by
  unfold Machine.execLaunchComplete
  split
  · exact .ite h h.complete
  · exact h

/-! ### The search-tree engine: posting -/

theorem OutOk.execTcfg {a x y} (h : MemOk s) : OutOk (execTcfg a x y s) := by
  unfold Machine.execTcfg
  split
  · exact h
  · exact MemOk.ite h.illegal h.modCluster.retireAll

theorem MemOk.withSteRoom (h : MemOk s) (hu : MemOk u) : MemOk (s.withSteRoom k t u) := .ite h.parkAt hu

theorem MemOk.postSte {x a b d f} (h : MemOk s) (hf : ∀ {u t'}, MemOk u → MemOk (f u t')) : MemOk (s.postSte k t n x a b d f) :=
  h.withSteRoom (hf (.modCluster h))

theorem OutOk.steOp {x d l f g} (h : MemOk s) : OutOk (steOp n x d l f g s) := .eachLane h fun h => h.postSte (·.finish)

theorem OutOk.execTback {a b x} (h : MemOk s) : OutOk (execTback a b x s) :=
  .eachLane h fun h => h.withSteRoom (h.withF fun _ => h.postSte (·.finish))

theorem OutOk.execTexp {a b x} (h : MemOk s) : OutOk (execTexp a b x s) :=
  .eachLane h fun h => .ite h.trap (h.postSte (·.parkAt))

/-! ### The search-tree engine: the parts of a command -/

/-- Whatever a part of a command comes to, its state has canonical memory, and a value it answers satisfies `P`. -/
def SteOk {α : Type} (P : α → Prop) : SteRun α → Prop
  | .ok a u => P a ∧ MemOk u
  | .fail _ _ u => MemOk u
  | .wait u => MemOk u

/-- A part of a command of whose value nothing is asked. -/
abbrev SteMem {α : Type} (r : SteRun α) : Prop := SteOk (fun _ => True) r

section
variable {α β : Type} {P : α → Prop} {Q : β → Prop}

theorem SteOk.ok {x : SteRun α} {a} (h : SteOk P x) (e : x = .ok a u) : P a ∧ MemOk u := by subst e; exact h
theorem SteOk.fail {x : SteRun α} {d v} (h : SteOk P x) (e : x = .fail d v u) : MemOk u := by subst e; exact h
theorem SteOk.wait {x : SteRun α} (h : SteOk P x) (e : x = .wait u) : MemOk u := by subst e; exact h

theorem MemOk.ste {a : α} (h : MemOk s) : SteMem (.ok a s) := ⟨trivial, h⟩

theorem SteOk.ite {c : Prop} [Decidable c] {x y : SteRun α} (h : SteOk P x) (h' : SteOk P y) : SteOk P (if c then x else y) := by
  split
  · exact h
  · exact h'

theorem SteOk.then {x : SteRun α} {f : α → State → SteRun β} (h : SteOk P x) (hf : ∀ {a u}, P a → MemOk u → SteOk Q (f a u)) :
    SteOk Q (steThen x f) := by
  cases x with
  | ok a u => exact hf h.1 h.2
  | fail => exact h
  | wait => exact h

theorem SteOk.each {f : α → State → SteRun Unit} {l : List α} (h : MemOk s) (hf : ∀ {a u}, MemOk u → SteMem (f a u)) :
    SteMem (steEach f l s) := by
  induction l generalizing s with
  | nil => exact h.ste
  | cons a l ih => exact (hf h).then fun _ => ih

theorem SteOk.node {x} {f : State → SteRun α} (h : MemOk s) (hf : ∀ {u}, MemOk u → SteOk P (f u)) : SteOk P (steNode x n s f) :=
  .ite h (hf h)

end

theorem MemOk.steAccess {acc} (h : MemOk s) : SteMem (steAccess cl c acc va n s) := by
  unfold Machine.steAccess
  split
  next hw => exact h.agent.wait hw
  · exact h
  split
  · exact h
  · exact h
  · exact h.ste

theorem MemOk.steRead (h : MemOk s) : SteMem (steRead cl c va s) := h.steAccess.then fun _ h => h.agentReads.agentWalks.ste
theorem MemOk.steWrite {v} (h : MemOk s) : SteMem (steWrite cl c va v s) := h.steAccess.then fun _ h => h.writeFrom.agentWalks.ste
theorem MemOk.steUpdate {f} (h : MemOk s) : SteMem (steUpdate cl c va f s) :=
  h.steRead.then fun _ h => h.steWrite.then fun _ h => h.ste

theorem MemOk.steTree (h : MemOk s) : SteMem (steTree cl c s) :=
  h.steRead.then fun _ h => .ite h (h.steRead.then fun _ h => h.ste)

theorem MemOk.bestChild {x l o} (h : MemOk s) : SteMem (bestChild cl c x n l o s) := by
  induction l generalizing s o with
  | nil => exact h.ste
  | cons y l ih =>
    exact .node h fun h => h.steRead.then fun _ h => h.steRead.then fun _ h => h.steRead.then fun _ h => ih h

theorem MemOk.raiseVl {x} (h : MemOk s) : SteMem (raiseVl cl c x n s) := h.steRead.then fun _ h => .ite h h.steWrite

theorem MemOk.descend {x l} (h : MemOk s) : SteMem (descend cl c x n l i s) := by
  induction n generalizing s l i with
  | zero => exact h.steRead.then fun _ h => h.steRead.then fun _ h => h.ste
  | succ n ih =>
    exact h.steRead.then fun _ h => h.steRead.then fun _ h => .ite h.ste
      (h.steRead.then fun _ h => h.bestChild.then fun _ h => h.raiseVl.then fun _ h => ih h)

theorem MemOk.runTdesc (h : MemOk s) : SteMem (runTdesc cl c s) := by
  unfold Machine.runTdesc
  dsimp only
  split
  · exact h
  · refine .ite h (h.steTree.then fun _ h => h.steRead.then fun _ h => .node h fun h => h.steRead.then fun _ h => .ite h
      (h.raiseVl.then fun _ h => h.descend.then fun _ h => (SteOk.each h fun h => h.steWrite).then fun _ h => h.ste))

theorem MemOk.pushRun {x} (h : MemOk s) : SteMem (pushRun cl c x i n s) :=
  h.steRead.then fun _ h => h.steRead.then fun _ h => h.steWrite.then fun _ h => h.steWrite

theorem MemOk.takeRun {x} (h : MemOk s) : SteMem (takeRun cl c x n s) :=
  h.steRead.then fun _ h => .ite
    (.node h fun h => h.steRead.then fun _ h => h.steWrite.then fun _ h => h.ste)
    (h.steRead.then fun _ h => .ite (h.steWrite.then fun _ h => h.ste) h.ste)

theorem MemOk.fillRun {x} (h : MemOk s) : SteMem (fillRun cl c x i j n s) :=
  (SteOk.each h fun h => .node h fun h => h.steRead.then fun _ h => .each h fun h => h.steWrite).then fun _ h =>
    h.steUpdate.then fun _ h => h.steUpdate.then fun _ h => h.steUpdate.then fun _ h => h.ste

theorem MemOk.undoPart {x} (h : MemOk s) (hx : SteMem x) : SteMem (undoPart x s) := by
  unfold Machine.undoPart
  split
  · exact h.ste
  · exact hx

theorem MemOk.undoExpansion {x f} (h : MemOk s) : SteMem (undoExpansion cl c x i n f j va s) := by
  refine (h.undoPart (h.steUpdate.then fun _ h => h.ste)).then fun _ h => ?_
  split
  · exact h
  · exact (h.undoPart h.pushRun).then fun _ h => h

theorem MemOk.runTexp (h : MemOk s) : SteMem (runTexp cl c s) := by
  refine h.steTree.then fun _ h => .node h fun h => h.steRead.then fun _ h => .ite h.ste (h.steWrite.then fun _ h => ?_)
  split
  next e => exact h.takeRun.wait e
  next e => exact (h.takeRun.fail e).undoExpansion
  next e => exact (h.takeRun.ok e).2.steUpdate.then fun _ h => h.ste
  next e =>
    have h := (h.takeRun.ok e).2
    split
    next e => exact h.fillRun.wait e
    next e => exact (h.fillRun.fail e).undoExpansion
    next e => exact (h.fillRun.ok e).2.ste

theorem MemOk.readPath (h : MemOk s) : SteMem (readPath cl c va s) := by
  refine .ite h (h.steRead.then fun _ h => .ite h ?_)
  split
  next hw => exact h.agent.wait hw
  · exact h
  · exact h.agentReads.agentWalks.ste

theorem MemOk.runTback (h : MemOk s) : SteMem (runTback cl c s) := by
  unfold Machine.runTback
  split
  · exact h
  · exact h.readPath.then fun _ h => h.steTree.then fun _ h => .each h fun h => .node h fun h =>
      h.steUpdate.then fun _ h => h.steUpdate.then fun _ h => h.ste

theorem MemOk.runTvl (h : MemOk s) : SteMem (runTvl cl c s) :=
  h.readPath.then fun _ h => h.steTree.then fun _ h => .each h fun h => .node h fun h => h.steUpdate.then fun _ h => h.ste

theorem MemOk.walkStep {x e l} (h : MemOk s) : SteMem (walkStep cl c x e l n s) :=
  .ite (h.pushRun.then fun _ h => h.ste) (.ite h (.node h fun h => h.steRead.then fun _ h =>
    .ite h.ste (h.steRead.then fun _ h => h.ste)))

theorem MemOk.runTroot (h : MemOk s) : SteMem (runTroot cl c s) :=
  h.steTree.then fun _ h => h.steRead.then fun _ h => .node h fun h => .node h fun h => h.steRead.then fun _ h =>
    h.steRead.then fun _ h => h.steRead.then fun _ h => .ite h (h.steWrite.then fun _ h => h.steUpdate.then fun _ h =>
      h.steWrite.then fun _ h => h.ste)

theorem MemOk.runTrdn (h : MemOk s) : SteMem (runTrdn cl c s) := h.steTree.then fun _ h => .node h fun h => h.steRead

/-! ### The search-tree engine: begin, completion and failure -/

theorem MemOk.waitState {s1} (h : MemOk s) : MemOk (waitState s s1 cl) := by
  have h1 : ∀ {x y}, MemOk { s with collectors := x, parts := y } := h
  exact h1.modCluster.walkReads

theorem MemOk.pathRange (h : MemOk s) : SteMem (pathRange cl c s) := by
  unfold Machine.pathRange
  split
  · exact h.ste
  · exact h.ste
  · exact h.ste
  · exact h.ste
  refine .ite h.ste ?_
  split
  next e => exact (h.steRead.ok e).2.ste
  next e => exact (h.steRead.fail e).ste
  next e => exact h.steRead.wait e

theorem OutOk.execSteCommandBegin (h : MemOk s) : OutOk (execSteCommandBegin cl i s) := by
  unfold Machine.execSteCommandBegin
  dsimp only
  split
  · exact h
  refine .ite h ?_
  split
  next hw => exact h.pathRange.wait hw
  · exact h
  · exact h.modCluster
  · split
    next hw => exact h.locate.wait hw
    · exact h.modCluster
    · refine MemOk.getD ?_ h
      rintro u hu
      obtain ⟨l, -, rfl⟩ := Option.map_eq_some_iff.1 hu
      exact h.modCluster

theorem MemOk.endSte (h : MemOk s) : MemOk (s.endSte cl c) := h.modCluster.unlock.lowerTl
theorem MemOk.steResult (h : MemOk s) : MemOk (s.steResult c va) := h.putAt

theorem MemOk.endTexp {x} (h : MemOk s) : MemOk (s.endTexp c x) := by
  unfold State.endTexp
  dsimp only
  split
  · exact h
  split
  · exact h.finishAt
  · exact h.trapWaiting

theorem MemOk.modSte {f} (h : MemOk s) : MemOk (s.modSte cl c f) := h.modCluster

theorem MemOk.stepTroot (h : MemOk s) : SteOk MemOk (stepTroot cl c s) := by
  unfold Machine.stepTroot
  split
  · exact ⟨h.endSte, h⟩
  · exact h.steTree.then fun _ h => h.walkStep.then fun _ h => ⟨h.modSte, h⟩
  · exact h.runTroot.then fun _ h => ⟨h.modSte, h⟩

theorem MemOk.steDone (h : MemOk s) : SteOk MemOk (steDone cl c s) := by
  unfold Machine.steDone
  split
  · exact h.runTdesc.then fun _ h => ⟨h.endSte.steResult, h⟩
  · exact h.runTexp.then fun _ h => ⟨h.endSte.endTexp, h⟩
  · exact h.runTback.then fun _ h => ⟨h.endSte, h⟩
  · exact .ite h.stepTroot h
  · exact h.runTrdn.then fun _ h => ⟨h.endSte.steResult, h⟩
  · exact h.runTvl.then fun _ h => ⟨h.endSte, h⟩

theorem OutOk.execSteCommandComplete (h : MemOk s) : OutOk (execSteCommandComplete cl i s) := by
  unfold Machine.execSteCommandComplete
  split
  · exact h
  split
  next e => exact (h.steDone.ok e).1
  · exact h.waitState
  · exact h

theorem MemOk.trapTexp (h : MemOk s) : MemOk (s.trapTexp c n va k) := by
  unfold State.trapTexp
  split
  · exact h
  · exact h.takeTrap

theorem MemOk.failSte (h : MemOk s) : MemOk (s.failSte cl c n va) :=
  .foldl (fun _ h => h.trapTexp) (.defer (.foldl (fun _ h => .ite h.clearBusy h) (.foldl (fun _ h => h.endSte) h)))

theorem OutOk.execSteCommandFail (h : MemOk s) : OutOk (execSteCommandFail cl i s) := by
  unfold Machine.execSteCommandFail
  split
  · exact h
  split
  next e => exact (h.steDone.fail e).failSte
  · exact h

/-! ### Streams -/

theorem OutOk.execScfg {a b x} (h : MemOk s) : OutOk (execScfg a b x s) := .eachLane h fun h => .ite h.trap (.ite h.trap h.finish)
theorem OutOk.execSon {x} (h : MemOk s) : OutOk (execSon x s) := .eachLane h fun h => .ite h.trap h.finish
theorem OutOk.execSoff {x} (h : MemOk s) : OutOk (execSoff x s) := .eachLane h fun h => h.dropRead.finish

theorem MemOk.readAhead {f} (h : MemOk s) (hf : ∀ {u g}, MemOk u → MemOk (f u g)) : MemOk (s.readAhead cl i t n f) := by
  unfold State.readAhead
  dsimp only
  split
  next hw => exact h.agent.wait hw
  · exact .ite h (hf h.agentReads.agentWalks)
  · exact hf h

theorem OutOk.execStreamElementRead (h : MemOk s) : OutOk (execStreamElementRead k n s) := by
  have ha : ∀ {u : Thread}, MemOk (if readsAhead u n
      then s.readAhead (keyCl k) (awayKey u.uid) u n fun s f => s.modAway u.uid f else s) := .ite (h.readAhead (·.modAway)) h
  unfold Machine.execStreamElementRead
  refine .ite h ?_
  split
  · refine .ite (h.readAhead (·.putThread)) ?_
    cases offAt (s.cluster (keyCl k)) k with
    | none => exact h
    | some u => exact ha
  · exact ha
  · exact h

end Sys2Proof.Safety
end

section
/-! Memory stays canonical, sixth part: system registers and the host's ring; faults and records; stops, switches and racking; the SMC;
bring-up and links. -/

namespace Sys2Proof.Safety

open Machine

variable {s u : State} {cl core slot k i j n p q : Nat} {t t' : Thread} {va pc : Word} {c : Cmd} {r : Running}

/-! ### System registers -/

theorem MemOk.putQueue {f} (h : MemOk s) : MemOk (s.putQueue p f) := h.modPart

theorem MemOk.registerQueue {x} (h : MemOk s) : MemOk (s.registerQueue p x va) := by
  have h1 : ∀ {y z}, MemOk { s with flights := y, clusters := z } := h
  exact h1.putQueue

theorem MemOk.haltAfterRead {x} (h : MemOk s) : MemOk (s.haltAfterRead p x va) := h.putFlights.putQueue
theorem MemOk.putLqcfg {x} (h : MemOk s) : MemOk (s.putLqcfg p x va) := .ite h.registerQueue h.haltAfterRead

theorem MemOk.pinRoutes {x} (h : MemOk s) : MemOk (s.pinRoutes p x) := .ite h h

theorem MemOk.putSys {x} (h : MemOk s) : MemOk (s.putSys t p x n va).1 := by
  unfold State.putSys
  split
  · exact h
  · exact h
  · exact h
  · exact h
  · exact h.refetch
  · exact h.modPart
  · exact h.modPart
  · exact h.modPart
  · exact h.putQueue
  · exact h.putLqcfg
  · exact h
  · exact h
  · exact h
  · exact h
  · exact h
  · exact h.pinRoutes.modPart
  · exact h.pinRoutes.modPart
  · exact h.modPart
  · exact h
  · exact h

theorem MemOk.applySys {x f d a} (h : MemOk s) : MemOk (s.applySys k t p x i n f d a) := h.putSys.finishAt

theorem MemOk.sysLane {x d a} (h : MemOk s) : MemOk (s.sysLane k t n x d a) := by
  unfold State.sysLane
  split
  · exact .ite h.finish (.ite h.trap (.ite h.parkAt h.applySys))
  · exact h.trap

theorem OutOk.execSysrd {d x} (h : MemOk s) : OutOk (execSysrd d x s) := by
  refine .eachLane h fun h => ?_
  split
  · exact h.finish
  · exact h.trap

theorem OutOk.applyParked {l f} (h : MemOk s) : OutOk (applyParked k l f s) := by
  unfold Machine.applyParked
  split
  · exact h
  split
  · refine .ite h ?_
    split
    · exact .ite h.trap h.applySys
    · exact h
  · exact h

theorem OutOk.execTimer {a} (h : MemOk s) : OutOk (execTimer a s) := h.scOnly fun h => h.forLanes fun h => h.modCore.finish

theorem OutOk.execTimerExpiry (h : MemOk s) : OutOk (execTimerExpiry cl core s) := by
  unfold Machine.execTimerExpiry
  split
  · exact .ite h.modCore h
  · exact h

theorem MemOk.interrupt (h : MemOk s) : MemOk (s.interrupt k t n) :=
  .ite (.ite h.endSleep h.endSleep.asyncTrap) (.ite h.withdraw.asyncTrap.retryGrant h.asyncTrap)

theorem OutOk.execTimerTrapTaken (h : MemOk s) : OutOk (execTimerTrapTaken k s) := by
  unfold Machine.execTimerTrapTaken
  split
  · exact h
  · exact .ite h.modCore.interrupt h

theorem OutOk.execMessageInterruptTrap (h : MemOk s) : OutOk (execMessageInterruptTrap k s) := by
  unfold Machine.execMessageInterruptTrap
  split
  · exact h
  · exact .ite h.interrupt h

/-! ### The host's ring -/

theorem MemOk.ringAccess {x y acc f} (h : MemOk s) (hf : ∀ addrs, MemOk (f addrs)) : MemOk (s.ringAccess k t p x y acc va n f) := by
  unfold State.ringAccess
  dsimp only
  split
  · split
    · exact h.containLink
    refine .ite h.parkAt (.ite h.trap (.ite h.trap ?_))
    split
    · exact h.containBad
    · exact .ite (hf _).walkReads (hf _).walkReads.farRequest
  · exact h.containKey
  · exact h.trap
  · exact h.parkAt.enterFbf
  · exact h.parkAt

theorem MemOk.writeRequest {x y} (h : MemOk s) : MemOk (s.writeRequest k t p x y i) :=
  .ite h.parkAt (h.ringAccess fun _ => h.ringAccess fun _ => h.writeFrom.parkAt)

theorem MemOk.askHost {x y} (h : MemOk s) : MemOk (s.askHost k t p x y) := by
  unfold State.askHost
  split
  · exact h.writeRequest
  refine .ite h.parkAt (h.ringAccess fun _ => ?_)
  dsimp only
  split
  · exact h.containBad
  · exact h.atomicFrom.putThread.writeRequest

theorem MemOk.svcLane {l b} (h : MemOk s) : MemOk (s.svcLane l b k t) := by
  unfold State.svcLane
  split
  · exact h
  split
  · exact h.askHost
  · exact .ite h.parkAt (.ite h.parkAt h.putThread.askHost)

theorem OutOk.execSvc (h : MemOk s) : OutOk (execSvc s) := .ite h.trapAll (.eachLane h (·.svcLane))

theorem OutOk.execBrk (h : MemOk s) : OutOk (execBrk s) := by
  unfold Machine.execBrk
  split
  · exact .ite h.startStop h.trapAll
  · exact h

theorem OutOk.execRft (h : MemOk s) : OutOk (execRft s) :=
  h.supOnly fun h => h.forLanes fun h => .ite h.trap (.ite h.stepTrap h.putThread)

theorem OutOk.execWfi (h : MemOk s) : OutOk (execWfi s) :=
  h.supOnly fun h => h.forLanes fun h => .ite h.putWakes.finish (.ite h.finish h.parkAt)

/-! ### Control words and banks -/

theorem OutOk.ctlStore {f} (h : MemOk s) (hf : ∀ {u cl v}, MemOk u → MemOk (f u cl v)) : OutOk (ctlStore k i n f s) := by
  unfold Machine.ctlStore
  split
  · exact h
  split
  · exact h
  refine .ite h ?_
  split
  · exact .ite (hf h.putThread.countAccess) h
  · exact h

theorem MemOk.dropFifos (h : MemOk s) : MemOk (s.dropFifos cl n) := by
  refine MemOk.foldl (fun {u} k h => ?_) h.modCluster
  split
  · exact h.trapWaiting
  · exact h.loseQueue

theorem MemOk.dropCached (h : MemOk s) : MemOk (s.dropCached cl n) := h

theorem OutOk.execCsmBankSwitchComplete (h : MemOk s) : OutOk (execCsmBankSwitchComplete cl n s) := by
  unfold Machine.execCsmBankSwitchComplete
  split
  · exact h
  · exact .ite h (MemOk.modCluster (.writeMem (.ite h.dropFifos (.ite h.dropCached h))))

/-! ### The fault buffer -/

theorem MemOk.unhold {e} (h : MemOk s) : MemOk (s.unhold cl e) := by
  unfold State.unhold
  split
  · exact h.modCluster
  · exact h.putAt
  · exact h

theorem MemOk.retryEntry {e} (h : MemOk s) : MemOk (s.retryEntry cl e) := by
  unfold State.retryEntry
  split
  · exact h.modCluster.unhold
  · exact h.modCluster.sendRecord

theorem OutOk.execFbfRetryOnInvalidation (h : MemOk s) : OutOk (execFbfRetryOnInvalidation cl i s) := by
  unfold Machine.execFbfRetryOnInvalidation
  split
  · exact .ite h.retryEntry h
  · exact h

theorem OutOk.execFbfEntryFreed (h : MemOk s) : OutOk (execFbfEntryFreed cl s) := by
  unfold Machine.execFbfEntryFreed
  dsimp only
  split
  · exact h
  refine .ite h ?_
  split
  · exact h.putCluster.unhold
  · exact h.putCluster.enterFbf

theorem MemOk.outState {o} (ho : OutOk o) (h : MemOk s) : MemOk (outState o s) := by
  cases o with
  | next u => exact ho
  | fault => exact h
  | refused => exact h

theorem MemOk.firstChange {l} (h : MemOk s) (hl : ∀ f ∈ l, OutOk (f s)) : MemOk (firstChange s l) := by
  induction l with
  | nil => exact h
  | cons f l ih =>
    exact .ite (ih fun g hg => hl g (List.mem_cons_of_mem _ hg)) (h.outState (hl f (List.mem_cons_self ..)))

theorem MemOk.launchSteps {s0} (h : MemOk s) : ∀ f ∈ launchSteps s0 n va, OutOk (f s) := by
  have ha : ∀ l : List (Nat × Flight), ∀ f ∈ l.map fun e => execLaunchAccept e.1, OutOk (f s) := by
    intro l f hf
    obtain ⟨e, -, rfl⟩ := List.mem_map.1 hf
    exact .execLaunchAccept h
  unfold Machine.launchSteps
  dsimp only
  split
  · exact ha _
  · split
    · simpa using OutOk.execLaunchQueueWake h
    · exact ha _
  · simpa using ⟨OutOk.execLaunchDepctrRead h, OutOk.execLaunchComplete h⟩

theorem MemOk.noticeSteps {s0} (h : MemOk s) : ∀ f ∈ noticeSteps s0 n, OutOk (f s) := by
  intro f hf
  obtain ⟨e, -, rfl⟩ := List.mem_map.1 hf
  exact .execExitNotice h

theorem MemOk.abortAppend (h : MemOk s) : MemOk (s.abortAppend n i) := by
  unfold State.abortAppend
  split
  · exact h
  split
  · split
    · exact h.putThread
    · exact h
  · exact h

theorem MemOk.abortSte {e} (h : MemOk s) : MemOk (s.abortSte cl n e) := by
  unfold State.abortSte
  refine .ite ?_ (.modCluster (h.modCluster.firstChange fun f hf => ?_))
  · generalize List.find? _ _ = o
    cases o with
    | none => exact h
    | some x => exact h.failSte
  · obtain ⟨x, -, rfl⟩ := List.mem_map.1 hf
    exact .execSteCommandFail h.modCluster

/-- What a named command changes, if there is one. -/
theorem OptOk.map {α : Type} {o : Option α} {f : α → State} (hf : ∀ a, MemOk (f a)) : OptOk (o.map f) := by
  rintro u hu
  obtain ⟨a, -, rfl⟩ := Option.map_eq_some_iff.1 hu
  exact hf a

theorem MemOk.putReserved {x y} (h : MemOk s) : MemOk { s with collectors := x, reserved := y } := h

theorem MemOk.abortAgent {e id} (h : MemOk s) : MemOk (s.abortAgent cl e id) := by
  unfold State.abortAgent
  dsimp only
  split
  · exact .getD (.map fun _ => h.failMxe) h
  · split
    · exact MemOk.failCopy (.getD (.map fun _ => h.modCluster) h)
    · exact .getD (.map fun _ => h.modCluster) h
  · exact .getD (.map fun _ => h.failEnb) h
  · exact h.abortSte
  · exact h.abortAppend
  · split
    · exact h.putThread
    · exact h.modAway
  · exact h.putReserved
  · refine .modCluster (h.modCluster.firstChange ?_)
    split
    · exact h.modCluster.launchSteps
    split
    · exact h.modCluster.noticeSteps
    · exact nofun

theorem MemOk.abortEntry {e} (h : MemOk s) : MemOk (s.abortEntry cl e) := by
  unfold State.abortEntry
  dsimp only
  split
  · exact h.modCluster.modCluster
  · exact h.modCluster.abortAgent
  · split
    · exact h.modCluster.takeTrap
    · exact h.modCluster
  · exact h.modCluster

theorem OutOk.execCsmctlWrite (h : MemOk s) : OutOk (execCsmctlWrite k i s) := .ctlStore h fun h => .ite h h.modCluster
theorem OutOk.execControlWordWrite (h : MemOk s) : OutOk (execControlWordWrite k i s) := .ctlStore h (·.modCluster)
theorem OutOk.execFbfcmdRetry (h : MemOk s) : OutOk (execFbfcmdRetry k i s) :=
  .ctlStore h fun h => .ite h (.foldl (fun _ h => h.retryEntry) h)
theorem OutOk.execFbfcmdAbort (h : MemOk s) : OutOk (execFbfcmdAbort k i s) :=
  .ctlStore h fun h => .ite (.foldl (fun _ h => h.abortEntry) h) h

/-! ### Records -/

theorem MemOk.recordWake {x w} (h : MemOk s) : MemOk (s.recordWake x w) := by
  unfold State.recordWake
  split
  · exact .ite h.send h
  · exact h

theorem MemOk.writeRecord {x y} (h : MemOk s) : MemOk (s.writeRecord cl n x y i) := by
  unfold State.writeRecord
  refine .ite h ?_
  split
  next hw => exact h.agent.wait hw
  · exact h
  dsimp only
  split
  next hw => exact h.agent.wait hw
  · exact h
  · exact h.agentReads.agentWalks.writeFrom.agentWalks.putReserved.recordWake

theorem OutOk.execRecordDelivery (h : MemOk s) : OutOk (execRecordDelivery n s) := by
  unfold Machine.execRecordDelivery
  split
  · exact h
  split
  · exact h.putReserved
  refine .ite h ?_
  split
  · exact h.writeRecord
  split
  next hw => exact h.agentAtomic.wait hw
  · exact h
  · exact h.atomicFrom.agentWalks.putReserved.writeRecord

/-! ### Stops and switches -/

theorem OutOk.execGangStop (h : MemOk s) : OutOk (execGangStop p s) := by
  unfold Machine.execGangStop
  split
  · exact h
  split
  · exact h.modPart.sendRecord
  · exact h

theorem MemOk.restart {x b} (h : MemOk s) : MemOk (s.restart p x n b) := by
  have h1 : ∀ {y z}, MemOk { s with threads := y, clusters := z } := h
  exact h1.modPart

theorem OutOk.execResumeRestart (h : MemOk s) : OutOk (execResumeRestart p s) := by
  unfold Machine.execResumeRestart
  split
  · exact h
  split
  · exact .ite h.restart h
  · exact h

theorem OutOk.execSwitchOutAtT (h : MemOk s) : OutOk (execSwitchOutAtT p s) := by
  unfold Machine.execSwitchOutAtT
  split
  · exact h
  split
  · exact .ite h.modPart h
  · exact h

theorem OutOk.execSaveComplete (h : MemOk s) : OutOk (execSaveComplete p s) := by
  have h1 : ∀ {y z}, MemOk { s with dirty := y, flights := z } := h
  unfold Machine.execSaveComplete
  split
  · exact h
  split
  · exact .ite h h1.modPart
  · exact h

/-- Some cells of both memories go and others are written (R432, R442), whatever else changes. -/
theorem MemOk.refill {f g : Host.Cell → Bool} {x y} (h : MemOk s) (hm : u.mem = memWriteAll (s.mem.filter f) x)
    (ha : u.am = memWriteAll (s.am.filter g) y) (hc : u.checkpoints = s.checkpoints) : MemOk u := by
  obtain ⟨h1, h2, h3⟩ := h
  refine ⟨hm ▸ ?_, ha ▸ ?_, hc ▸ h3⟩
  · exact memWf_memWriteAll _ _ (memWfFrom_filter _ _ _ h1)
  · exact memWf_memWriteAll _ _ (memWfFrom_filter _ _ _ h2)

theorem MemOk.reload {x m} (h : MemOk s) : MemOk (s.reload p x m) := .modPart (h.refill rfl rfl rfl)

theorem OutOk.execSwitchInRestart (h : MemOk s) : OutOk (execSwitchInRestart p s) := by
  unfold Machine.execSwitchInRestart
  split
  · exact h
  split
  · have h1 : ∀ {x b n} {o : Option SaveImage}, MemOk (((o.map fun m => s.reload p x m).getD s).restart p x n b) :=
      .restart (.getD (.map fun _ => h.reload) h)
    exact .ite (MemOk.sendRecord (.getD (.map fun _ => h1.revokeLaunches) h1)) h
  · exact h

theorem MemOk.renameWaits {l} (h : MemOk s) : MemOk (s.renameWaits l) := h

theorem OutOk.execGangOffCore (h : MemOk s) : OutOk (execGangOffCore cl core slot s) := by
  unfold Machine.execGangOffCore
  dsimp only
  split
  · exact h
  · exact .ite h (MemOk.modCore (.modCluster (.foldl (fun _ h => h.dropThread.putWakes) h.renameWaits)))

/-! ### Replies of the host -/

theorem MemOk.replyAsked {x} (h : MemOk s) : MemOk (s.replyAsked cl x n) := by
  unfold State.replyAsked
  split
  · dsimp only
    split
    · exact h.agentReads.agentWalks.agentReads
    · exact h.agentReads.agentWalks
  · exact h

theorem MemOk.readReply {x} (h : MemOk s) (hu : readReply s cl x n = .error u) : MemOk u := by
  unfold Machine.readReply at hu
  split at hu
  next hw => cases hu; exact h.agent.wait hw
  · cases hu; exact h
  split at hu
  next hw => cases hu; exact h.agent.wait hw
  · cases hu; exact h
  split at hu
  · cases hu
  · cases hu; exact h.replyAsked

theorem MemOk.resumeReplied (h : MemOk s) : MemOk (s.resumeReplied cl core slot) :=
  .ite h (.foldl (fun _ h => .ite h.finishAt h) h)

theorem OutOk.execHostReplyRead (h : MemOk s) : OutOk (execHostReplyRead k s) := by
  unfold Machine.execHostReplyRead
  refine .ite h ?_
  split
  · refine .ite h ?_
    split
    next e => exact h.readReply e
    · exact h.replyAsked.putThread.resumeReplied
  · split
    next e => exact h.readReply e
    · exact h.replyAsked.modCluster
  · exact h.resumeReplied

theorem MemOk.landLane (h : MemOk s) : MemOk (s.landLane k t) := by
  unfold State.landLane
  split
  · exact h
  split
  · exact h.takeTrap
  · exact h.trapWaiting
  · exact .ite h.stepTrap h
  · exact h.trapWaiting
  · exact .ite h.trapWaiting h
  · exact h

theorem OutOk.execGangReturn (h : MemOk s) : OutOk (execGangReturn cl i s) := by
  unfold Machine.execGangReturn
  split
  · exact h
  split
  · exact h
  · exact .ite h (MemOk.foldl (fun _ h => h.landLane)
      (.foldl (fun _ h => h.putThread.putWakes) h.renameWaits.modCluster.modCore))

/-! ### Racking and storage errors -/

theorem OutOk.execRackPage {x} (h : MemOk s) : OutOk (execRackPage x n s) := .ite h h

/-- A page moves (R212): what lay at its destination goes, and its bytes are written there. -/
theorem MemOk.movePage {m} (h : MemOk s) : MemOk (s.movePage m) := by
  obtain ⟨hm, ha, hc⟩ := h
  exact ⟨memWf_memWriteAll _ _ (memWfFrom_filter _ _ _ hm), ha, hc⟩

theorem MemOk.putRacking {l} (h : MemOk s) : MemOk { s with racking := l } := h

theorem OutOk.execRackBlockEnd (h : MemOk s) : OutOk (execRackBlockEnd n s) := by
  unfold Machine.execRackBlockEnd
  dsimp only
  split
  · exact h.putRacking
  refine .ite h ?_
  split
  · exact h.putRacking.containBad
  · exact h.movePage.writeNum

theorem MemOk.markBad (h : MemOk s) : MemOk (s.markBad n i k) := by
  unfold State.markBad
  split
  · exact h
  · exact .ite h.putThread h
  · exact h

theorem OutOk.execUncorrectableError {b} (h : MemOk s) : OutOk (execUncorrectableError n i k b s) := by
  unfold Machine.execUncorrectableError
  split
  · exact h
  split
  · exact h
  · exact .ite h.markBad.sendRecord h.markBad.contain

/-! ### Commands of the SMC -/

/-- The state a command's service comes to has canonical memory. -/
def ServedOk : Served → Prop
  | .done u => MemOk u
  | .wait u => MemOk u
  | .held => True

theorem ServedOk.ite {c : Prop} [Decidable c] {x y : Served} (h : ServedOk x) (h' : ServedOk y) : ServedOk (if c then x else y) := by
  split
  · exact h
  · exact h'

theorem MemOk.putWaiting {l} (h : MemOk s) : MemOk { s with smcWaiting := l } := h

theorem OutOk.smcTurn {args f} (h : MemOk s) (hf : ServedOk (f s)) : OutOk (smcTurn s n i args f) := by
  unfold Machine.smcTurn
  refine .ite h (.ite h.putWaiting ?_)
  split
  next e => rw [e] at hf; exact MemOk.putWaiting hf
  next e => rw [e] at hf; exact MemOk.putWaiting hf
  · exact MemOk.ite h.putWaiting h.putWaiting

theorem OutOk.smc {args f} (h : MemOk s) (hf : MemOk (f s)) : OutOk (smc s n args f) := .smcTurn h hf
theorem OutOk.smcRequest {args f} (h : MemOk s) (hf : ServedOk (f s)) : OutOk (smcRequest s n args f) := .smcTurn h (.ite trivial hf)

theorem MemOk.clearPart {x} (h : MemOk s) : MemOk (s.clearPart p x) := h

theorem MemOk.zeroPart {x} (h : MemOk s) : MemOk (s.zeroPart x) := by
  obtain ⟨hm, ha, hc⟩ := h
  exact ⟨memWfFrom_filter _ _ _ hm, memWfFrom_filter _ _ _ ha, hc⟩

theorem MemOk.putParts {l} (h : MemOk s) : MemOk { s with parts := l } := h

theorem OutOk.execSmcCreatePartition {x y z b} (h : MemOk s) : OutOk (execSmcCreatePartition x y z b s) := by
  refine .smc h ?_
  split
  · exact MemOk.answer (.foldl (fun _ h => h.record) h.clearPart.zeroPart.putParts.record)
  · exact h.answer

theorem OutOk.execSmcDestroyPartition {b} (h : MemOk s) : OutOk (execSmcDestroyPartition p b s) := by
  refine .smc h ?_
  split
  · exact h.answer
  · exact h.answer
  next x _ =>
    have h1 : ∀ {a b c d}, MemOk { (s.clearPart p x).zeroPart x with parts := a, stepping := b, hostBase := c, pfxGrants := d } :=
      h.clearPart.zeroPart
    exact h1.record.answer

theorem MemOk.imageStop (h : MemOk s) : OptOk (imageStop s p n) := by
  unfold Machine.imageStop
  dsimp only
  split
  · exact .some h.containLink
  · exact .some h.containBad
  · exact .none

theorem MemOk.translate {l} (h : MemOk s) : MemOk (s.translate i n l).1 := by
  unfold State.translate
  split <;> exact h

theorem MemOk.storeData {x l} (h : MemOk s) : MemOk (s.storeData p x va l) := .foldl (fun _ h => h.sendRecord) h.writeFrom

end Sys2Proof.Safety
end

section
/-! Memory stays canonical, seventh part: the remaining commands of the SMC, bring-up and links. -/

namespace Sys2Proof.Safety

open Machine

variable {s u : State} {cl core slot k i j n p q : Nat} {t t' : Thread} {va pc : Word} {c : Cmd} {r : Running}

theorem MemOk.installRun {l m} (h : MemOk s) (a b : Nat) :
    MemOk (if n = 0 then s.translate a b l else (s, m)).1 := by
  split
  · exact h.translate
  · exact h

theorem MemOk.install {x rq m l l'} (h : MemOk s) : MemOk (s.install p x rq m l l') := by
  have h2 : ∀ {u y z}, MemOk u → MemOk { u with oldText := y, frames := z } := fun h => h
  have hp : ∀ {u l}, MemOk u → MemOk (pokeLines u l) := fun h => h
  exact .answer (.record (.modPart (.storeData (h2 (hp (.writeFrom (h.installRun _ _)))))))

theorem OutOk.execSmcLoadImage {rq} (h : MemOk s) : OutOk (execSmcLoadImage rq s) := by
  refine .smcTurn h ?_
  dsimp only
  split
  · exact h.answer
  refine .ite h.answer ?_
  split
  next e => exact MemOk.answer (h.imageStop _ e)
  split
  · exact h.answer
  refine .ite h.answer ?_
  split
  · exact h.answer
  split
  · exact h.answer
  refine .ite trivial ?_
  split
  · exact h.answer
  · trivial
  split
  · exact h.containLink.answer
  · exact h.install

theorem MemOk.revokeBelow (h : MemOk s) : MemOk (s.revokeBelow n) := h

theorem MemOk.revokeAll (h : MemOk s) : MemOk s.revokeAll :=
  .foldl (fun _ h => .getD (.map fun _ => h.revokeLaunches) h) h

theorem MemOk.putSecver {v} (h : MemOk s) : MemOk { s with secver := v } := h

theorem OutOk.execSmcRaiseSecver {b} (h : MemOk s) : OutOk (execSmcRaiseSecver n b s) :=
  .smc h (.ite h.answer (.ite h.answer (.ite h.answer h.revokeBelow.revokeAll.putSecver.record.answer)))

theorem OutOk.execSmcStop (h : MemOk s) : OutOk (execSmcStop p s) := by
  refine .smcRequest h ?_
  split
  · exact h.answer
  split
  · exact h.startStop.answer
  · exact .ite h.startStop.answer trivial
  · exact h.modPart.answer
  · exact h.modPart.answer
  · exact h.modPart.answer
  · exact h.answer
  · exact h.answer

theorem OutOk.execSmcResume (h : MemOk s) : OutOk (execSmcResume p n s) := by
  refine .ite h (.smcRequest h ?_)
  split
  · exact h.answer
  split
  · exact h.modPart.answer
  · trivial
  · exact h.answer

theorem MemOk.completeNow (h : MemOk s) : MemOk (s.completeNow p n) := by
  unfold State.completeNow
  split
  · exact h
  split
  · exact h
  · exact h.complete.modPart.putLaunch

theorem MemOk.release {x} (h : MemOk s) : MemOk (s.release p x) :=
  .modPart (.putReserved (.clearPart (.foldl (fun _ h => h.completeNow) h)))

theorem OutOk.execSmcRelease (h : MemOk s) : OutOk (execSmcRelease p s) := by
  refine .smcRequest h ?_
  split
  · exact h.answer
  split
  · exact h.release.answer
  · exact h.release.answer
  · trivial
  · exact h.answer

theorem OutOk.execSmcSwitchOut (h : MemOk s) : OutOk (execSmcSwitchOut p n i s) := by
  refine .smcTurn h ?_
  split
  · exact h.answer
  refine .ite h.answer ?_
  split
  · exact .ite trivial (.ite trivial h.modPart)
  · exact h.answer
  · trivial
  · trivial
  · exact h.answer

theorem OutOk.execSmcSwitchIn (h : MemOk s) : OutOk (execSmcSwitchIn p n s) := by
  refine .ite h (.smcRequest h ?_)
  split
  · exact h.answer
  split
  · exact .ite h.answer h.modPart.answer
  · exact h.answer

theorem MemOk.askOut (h : MemOk s) : MemOk s.askOut := by
  unfold State.askOut
  split
  · exact h.modPart
  · exact h

/-- A checkpoint of canonical memory joins the safe store (R442): it holds what host memory does not, and all of AM. -/
theorem MemOk.checkpoint (h : MemOk s) : MemOk { s with checkpoints := s.checkpoints ++ [snapshot s] } := by
  obtain ⟨hm, ha, hc⟩ := h
  refine ⟨hm, ha, fun c hmem => ?_⟩
  rcases List.mem_append.1 hmem with hold | hnew
  · exact hc c hold
  · obtain rfl := List.mem_singleton.1 hnew
    exact ⟨memWfFrom_filter _ _ _ hm, ha⟩

theorem OutOk.execSmcCheckpoint {b} (h : MemOk s) : OutOk (execSmcCheckpoint b s) :=
  .smcRequest h (.ite h.answer (.ite h.answer (.ite trivial (.ite h.askOut (.ite trivial h.checkpoint.answer)))))

theorem MemOk.restored {x} (h : MemOk s) : MemOk (s.restored x) := by
  obtain ⟨hm, -, hc⟩ := h
  exact ⟨memWf_memWriteAll _ _ (memWfFrom_filter _ _ _ hm), memWf_memWriteAll _ _ rfl, hc⟩

theorem OutOk.execSmcRestore {b} (h : MemOk s) : OutOk (execSmcRestore i b s) := by
  refine .smcRequest h (.ite h.answer ?_)
  split
  · exact h.answer
  · exact .ite h.answer h.restored.revokeBelow.revokeAll.answer

theorem OutOk.execSmcQuote {bs} (h : MemOk s) : OutOk (execSmcQuote bs s) := .smc h (.ite h.answer h.answer)

theorem MemOk.putGrants {l} (h : MemOk s) : MemOk { s with pfxGrants := l } := h
theorem MemOk.putHostBase {l} (h : MemOk s) : MemOk { s with hostBase := l } := h

theorem OutOk.execSmcGrantPfx {a b} (h : MemOk s) : OutOk (execSmcGrantPfx i n p a b s) :=
  .smc h (.ite h.answer (.ite h.answer (.ite h.answer h.putGrants.answer)))

theorem OutOk.execSmcWithdrawPfx {b} (h : MemOk s) : OutOk (execSmcWithdrawPfx i n p b s) :=
  .smc h (.ite h.answer (.ite h.answer h.putGrants.answer))

theorem OutOk.execSmcSetBudget {b} (h : MemOk s) : OutOk (execSmcSetBudget cl i n b s) :=
  .smc h (.ite h.answer (.ite h.answer (.ite h.answer h.modCluster.answer)))

theorem OutOk.execSmcHostWindowBase {b} (h : MemOk s) : OutOk (execSmcHostWindowBase i n b s) :=
  .smc h (.ite h.answer (.ite h.answer (.ite h.answer h.putHostBase.answer)))

theorem OutOk.execSmcInvalidCommand (h : MemOk s) : OutOk (execSmcInvalidCommand n s) := .ite h (.smc h h.answer)

/-! ### Bring-up -/

theorem MemOk.startFirmware {l} (h : MemOk s) : MemOk (s.startFirmware l) := by
  have h1 : ∀ {u : State} {x y z}, MemOk u → MemOk { u with stage := x, fwVersion := y, links := z } := fun h => h
  exact h1 h.record.record

/-- A power-on keeps host memory and the safe store (R401). -/
theorem OutOk.execPowerOn (h : MemOk s) : OutOk (execPowerOn s) := by
  obtain ⟨hm, -, hc⟩ := h
  have h1 : ∀ {u}, u.mem = s.mem.filter (fun c => hostKey c.1) → u.am = [] → u.checkpoints = s.checkpoints → MemOk u := by
    intro u e1 e2 e3
    exact ⟨e1 ▸ memWfFrom_filter _ _ _ hm, e2 ▸ rfl, e3 ▸ hc⟩
  exact MemOk.ite (.startFirmware (h1 rfl rfl rfl)) (h1 rfl rfl rfl)

theorem OutOk.execFirmwareImageReceived {l} (h : MemOk s) : OutOk (execFirmwareImageReceived l s) := MemOk.ite h.startFirmware h
theorem OutOk.execDieRelease (h : MemOk s) : OutOk (execDieRelease n s) := .ite h h
theorem MemOk.stepIn (h : MemOk s) : MemOk s.stepIn := h

theorem OutOk.execFullServiceStep (h : MemOk s) : OutOk (execFullServiceStep n s) := by
  have h1 : ∀ {x y}, MemOk { s with stage := x, ddrGib := y } := h
  have h2 : ∀ {l}, MemOk { s.askOut with stepping := l } := h.askOut
  exact .ite h (.ite h (.ite h2 (.ite h h1.stepIn)))

theorem OutOk.execCoreRailOvercurrent (h : MemOk s) : OutOk (execCoreRailOvercurrent n s) := by
  have h1 : MemOk { s with railScale := n } := h
  exact MemOk.foldl (fun _ h => h.modCluster) h1

/-! ### Links -/

theorem OutOk.execLinkFlitReceive {f} (h : MemOk s) : OutOk (execLinkFlitReceive n f s) :=
  .ite h (.ite h.putLink (.ite h.putLink (.ite h h.putLink)))

theorem OutOk.execLinkReplayRequest (h : MemOk s) : OutOk (execLinkReplayRequest n i s) := by
  unfold Machine.execLinkReplayRequest
  dsimp only
  split
  · exact h
  · exact .ite h (.ite h.putLink h.putLink)

theorem MemOk.dropLink (h : MemOk s) : MemOk (s.dropLink n) := by
  refine MemOk.foldl (fun {u} e h => ?_) h.putLink
  split
  · exact h.containLink
  · exact h

theorem MemOk.respond {x l} (h : MemOk s) : MemOk (s.respond n i x l) := h.postMessage
theorem MemOk.shareLines {l} (h : MemOk s) : MemOk (s.shareLines n l) := .ite h h
theorem MemOk.putAnswered {l} (h : MemOk s) : MemOk { s with answered := l } := h

theorem MemOk.outerAccess {x} (h : MemOk s) : MemOk (s.outerAccess n x) := by
  unfold State.outerAccess
  refine .ite h ?_
  split
  · exact h
  split
  · exact h.containLink
  refine .ite h.respond ?_
  split
  · exact h.containBad
  · exact h.writeNum.putAnswered.farRequest.respond
  · exact .ite h.writeCells.farRequest h.putAnswered.farRequest.shareLines.respond

theorem MemOk.homeAccess {x} (h : MemOk s) : MemOk (s.homeAccess x) := by
  unfold State.homeAccess
  refine .ite h ?_
  split
  · exact h.writeNum
  · exact .ite h.writeCells h

theorem MemOk.readMailbox {x} (h : MemOk s) : MemOk (s.readMailbox x) := .ite h h.putAnswered.respond

theorem OutOk.execHostAccess {x} (h : MemOk s) : OutOk (execHostAccess x s) :=
  .ite h (.ite (MemOk.ite h.homeAccess h) (.ite h (.ite h.readMailbox (.ite h h.outerAccess))))

theorem OutOk.execPfxRemoteAccess {x} (h : MemOk s) : OutOk (execPfxRemoteAccess n p x s) :=
  .ite h (.ite h.respond h.outerAccess)

end Sys2Proof.Safety
end

section
/-! Memory stays canonical: every instruction and event keeps it so, and with them every step. -/

namespace Sys2Proof.Safety

open Machine

variable {s : State}

/-- Every instruction and every event keeps memory canonical. -/
theorem OutOk.exec {i : Instr} (h : MemOk s) : OutOk (exec i s) := by
  cases i <;> dsimp only [Machine.exec]
  case add | sub | mul | mulh | mulhu | div | divu | rem | remu | and | or | xor | andn | sll | srl | sra | ror | min | max | minu |
    maxu | slt | sltu | bfxu | bfxs => exact .wOp2 h
  case clz | ctz | popc | brev | bswap | sel | bfi | addi | andi | ori | xori | slti | slli | srli | srai | rori | slliw | srliw |
    sraiw | roriw | lui | wmovp | vbal | lmask => exact .wOp h
  case ldk | addk | subk | andk | pref | hplace | cstat | feat => exact .eachLane h (·.finish)
  case ldkf | fmov | fmvfw => exact .eachLane h fun h => h.withF fun _ => h.finishF
  case cpeq | cpne | cplt | cpltu | cpge | cpgeu | pand | por | pxor | pmovw | vall | vany => exact .pOp h
  case br | jal | jalr => exact .eachLane h (·.finishAt)
  case fadd | fsub | fmul | fdiv | fsqrt | fmadd | fmsub | fnmadd | fnmsub | fexp2 | flog2 | frsqrt | fsin | fcos => exact .runJob h
  case fmin | fmax | frint => exact .fOp h
  case fsgnj | fsgnjn | fsgnjx => exact .signOp h
  case fceq | fclt | fcle | fcun => exact .cmpOp h
  case fclass | fmvwf => exact .eachLane h fun h => h.withF fun _ => h.finish
  case cvt => exact .execCvt h
  case cvti => exact .execCvti h
  case nadd | nsub | nmul | nfma | nmin | nmax | ndot => exact .runNarrow h
  case pfx => exact .execPfx h
  case ld | ldu | ldIndexed | lduIndexed => exact .loadW h
  case st | stIndexed => exact .storeW h
  case ldf | ldfIndexed => exact .loadF h
  case stf | stfIndexed => exact .storeF h
  case aadd | aand | aor | axor | amin | amax | aminu | amaxu | aswap | acas => exact .atomicW h
  case afaddF32 | afaddBf16 => exact .atomicF h
  case fence => exact .eachLane h (·.fenceLane)
  case ifence => exact .eachLane h fun h => .fenceLane (.ite h.refetch h)
  case cflush | cclean => exact .eachLane h (·.cacheLane)
  case cinval => exact h.supOnly fun h => h.forLanes (·.cacheLane)
  case czero | msvw | msvf => exact .eachLane h (·.storeLane)
  case shfl | shflup | shfldn | shflx => exact .shuffleW h
  case fshfl | fshflup | fshfldn | fshflx => exact .shuffleF h
  case qpush => exact .execQpush h
  case qpop => exact .execQpop h
  case qtry => exact .execQtry h
  case qlen => exact .execQlen h
  case wlpush => exact .execWlpush h
  case wlpop => exact .execWlpop h
  case rqpush => exact .execRqpush h
  case rqpop => exact .execRqpop h
  case msend => exact .execMsend h
  case mrecv => exact .execMrecv h
  case spawn => exact .execSpawn h
  case join => exact .execJoin h
  case exit => exact .execExit h
  case sleep => exact .execSleep h
  case wake => exact .execWake h
  case yield => exact .execYield h
  case migrate => exact .execMigrate h
  case launch => exact .execLaunch h
  case gcall => exact .execGcall h
  case gret => exact .execGret h
  case bsync => exact .execBsync h
  case barv => exact .execBarv h
  case bwait => exact .execBwait h
  case bquery => exact .execBquery h
  case wait => exact .execWait h
  case pwait => exact .execPwait h
  case mcfg => exact .execMcfg h
  case msel => exact .execMsel h
  case mlds => exact .execMlds h
  case mswp => exact .execMswp h
  case mma | mmas => exact .postPass h
  case mzero => exact .execMzero h
  case mdrn | mdrna | mdrno => exact .postDrain h
  case mrdr | mwrr => exact .postElement h
  case mstat => exact .regOp h
  case ccopy | cgath | cscat => exact .eachLane h (·.postCopy)
  case pquery => exact .execPquery h
  case lquery => exact .execLquery h
  case ncfg => exact .execNcfg h
  case nld => exact .execNld h
  case ninj => exact .execNinj h
  case ntick => exact .execNtick h
  case nrd => exact .execNrd h
  case nspk => exact .execNspk h
  case tcfg => exact .execTcfg h
  case tdesc | troot | trdn | tvl => exact .steOp h
  case texp => exact .execTexp h
  case tback => exact .execTback h
  case scfg => exact .execScfg h
  case son => exact .execSon h
  case soff => exact .execSoff h
  case sysrd => exact .execSysrd h
  case syswr | sysset | sysclr => exact .eachLane h (·.sysLane)
  case timer => exact .execTimer h
  case svc => exact .execSvc h
  case brk => exact .execBrk h
  case rft => exact .execRft h
  case wfi => exact .execWfi h
  case mrsw => exact .execMrsw h
  case mrsf => exact .execMrsf h
  case eloop => exact .execEloop h
  case subnormalAssistComplete => exact .execSubnormalAssistComplete h
  case loadPerformed => exact .execLoadPerformed h
  case storePerformed => exact .execStorePerformed h
  case atomicPerformed => exact .execAtomicPerformed h
  case csmctlWrite => exact .execCsmctlWrite h
  case fbfcmdRetry => exact .execFbfcmdRetry h
  case fbfcmdAbort => exact .execFbfcmdAbort h
  case controlWordWrite => exact .execControlWordWrite h
  case gangStop => exact .execGangStop h
  case timerExpiry => exact .execTimerExpiry h
  case timerTrapTaken => exact .execTimerTrapTaken h
  case messageInterruptTrap => exact .execMessageInterruptTrap h
  case messagePlaced => exact .execMessagePlaced h
  case mrecvComplete => exact .execMrecvComplete h
  case wakePlaced => exact .execWakePlaced h
  case stallLimitExpiry => exact .execStallLimitExpiry h
  case queuePushPlace => exact .execQueuePushPlace h
  case queuePopServe => exact .execQueuePopServe h
  case queuePopComplete => exact .execQueuePopComplete h
  case wlpopComplete => exact .execWlpopComplete h
  case rotationBoundary => exact .execRotationBoundary h
  case slotFill => exact .execSlotFill h
  case loadLevelInterval => exact .execLoadLevelInterval h
  case worklistEntryArrives => exact .execWorklistEntryArrives h
  case launchQueueWake => exact .execLaunchQueueWake h
  case launchAccept => exact .execLaunchAccept h
  case launchDepctrRead => exact .execLaunchDepctrRead h
  case launchPlace => exact .execLaunchPlace h
  case launchComplete => exact .execLaunchComplete h
  case launchedGangStart => exact .execLaunchedGangStart h
  case grantArrival => exact .execGrantArrival h
  case grantKeyDeadline => exact .execGrantKeyDeadline h
  case grantPack => exact .execGrantPack h
  case gangStart => exact .execGangStart h
  case callerResume => exact .execCallerResume h
  case migrationArrival => exact .execMigrationArrival h
  case cellarMove => exact .execCellarMove h
  case exitNotice => exact .execExitNotice h
  case barrierArrival => exact .execBarrierArrival h
  case csmBankSwitchComplete => exact .execCsmBankSwitchComplete h
  case syswrAsid | syswrAstb | lqcfgWrite | faultRoutingWrite => exact .applyParked h
  case fbfRetryOnInvalidation => exact .execFbfRetryOnInvalidation h
  case fbfEntryFreed => exact .execFbfEntryFreed h
  case recordDelivery => exact .execRecordDelivery h
  case mxeGrant => exact .execMxeGrant h
  case mxePassComplete => exact .execMxePassComplete h
  case mxePlaneLoadComplete => exact .execMxePlaneLoadComplete h
  case mxeTileOpComplete => exact .execMxeTileOpComplete h
  case mxeDrainComplete => exact .execMxeDrainComplete h
  case mdrnoContributionArrival => exact .execMdrnoContributionArrival h
  case mxeCommandFail => exact .execMxeCommandFail h
  case cpeGrant => exact .execCpeGrant h
  case cpeLineWritten => exact .execCpeLineWritten h
  case cpeCommandComplete => exact .execCpeCommandComplete h
  case cpeCommandFail => exact .execCpeCommandFail h
  case streamElementRead => exact .execStreamElementRead h
  case neuronModeSwitch => exact .execNeuronModeSwitch h
  case enbCommandExecute => exact .execEnbCommandExecute h
  case neuronEventArrival => exact .execNeuronEventArrival h
  case ntickArrival => exact .execNtickArrival h
  case tickRecvGather => exact .execTickRecvGather h
  case tickStep => exact .execTickStep h
  case steCommandBegin => exact .execSteCommandBegin h
  case steCommandComplete => exact .execSteCommandComplete h
  case steCommandFail => exact .execSteCommandFail h
  case rackPage => exact .execRackPage h
  case rackBlockEnd => exact .execRackBlockEnd h
  case switchOutAtT => exact .execSwitchOutAtT h
  case saveComplete => exact .execSaveComplete h
  case switchInRestart => exact .execSwitchInRestart h
  case gangOffCore => exact .execGangOffCore h
  case hostReplyRead => exact .execHostReplyRead h
  case gangReturn => exact .execGangReturn h
  case smcCreatePartition => exact .execSmcCreatePartition h
  case smcDestroyPartition => exact .execSmcDestroyPartition h
  case smcLoadImage => exact .execSmcLoadImage h
  case smcRaiseSecver => exact .execSmcRaiseSecver h
  case smcStop => exact .execSmcStop h
  case smcResume => exact .execSmcResume h
  case smcRelease => exact .execSmcRelease h
  case smcSwitchOut => exact .execSmcSwitchOut h
  case smcSwitchIn => exact .execSmcSwitchIn h
  case smcCheckpoint => exact .execSmcCheckpoint h
  case smcRestore => exact .execSmcRestore h
  case smcQuote => exact .execSmcQuote h
  case smcReadLog => exact .smc h h.answer
  case smcGrantPfx => exact .execSmcGrantPfx h
  case smcWithdrawPfx => exact .execSmcWithdrawPfx h
  case smcSetBudget => exact .execSmcSetBudget h
  case smcHostWindowBase => exact .execSmcHostWindowBase h
  case smcInvalidCommand => exact .execSmcInvalidCommand h
  case powerOn => exact .execPowerOn h
  case firmwareImageReceived => exact .execFirmwareImageReceived h
  case dieRelease => exact .execDieRelease h
  case fullServiceStep => exact .execFullServiceStep h
  case coreRailOvercurrent => exact .execCoreRailOvercurrent h
  case linkFlitReceive => exact .execLinkFlitReceive h
  case linkReplayRequest => exact .execLinkReplayRequest h
  case linkDown | hostSnoopTimeout => exact h.dropLink
  case hostAccess => exact .execHostAccess h
  case pfxRemoteAccess => exact .execPfxRemoteAccess h
  case uncorrectableError => exact .execUncorrectableError h
  case correctableError => exact h
  case illegalInstruction => exact h.illegal
  case resumeRestart => exact .execResumeRestart h

theorem OutOk.step (h : MemOk s) : OutOk (step s) := by
  unfold Machine.step
  have hp := h.plan
  split
  next e => rw [e] at hp; exact hp
  next e => rw [e] at hp; exact .ite (.exec hp) trivial
  next p i t e =>
    rw [e] at hp
    have hx : OutOk (Machine.exec p t) := .exec hp
    split
    next eu => rw [eu] at hx; exact .exec hx
    · exact hx

/-- Settles O60: the plan of a step keeps memory canonical, and so does every instruction and event that it runs. -/
theorem everyStepKeepsMemoryCanonical : Obligations.EveryStepKeepsMemoryCanonical := by
  intro s u h hs
  have := OutOk.step h
  rwa [hs] at this

end Sys2Proof.Safety
end

section
/-! What a performed store writes (R7, R201, R227), and the values of reset. -/

namespace Sys2Proof.Safety

open Machine

/-! ### Bytes read after a write of many -/

/-- A byte written once reads as it was written. -/
theorem memRead_memWriteAll_of_mem {cells : List (Nat × Byte)} (hn : (cells.map (·.1)).Nodup) {c : Nat × Byte} (hc : c ∈ cells)
    (m : Mem) : memRead (memWriteAll m cells) c.1 = c.2 := by
  induction cells generalizing m with
  | nil => cases hc
  | cons e cells ih =>
    rw [List.map_cons, List.nodup_cons] at hn
    rcases List.mem_cons.1 hc with rfl | hc
    · have : ∀ x ∈ cells, x.1 ≠ c.1 := fun x hx he => hn.1 (he ▸ List.mem_map_of_mem hx)
      refine (memRead_memWriteAll_other cells _ _ this).trans ?_
      rw [memRead_memWrite, if_pos rfl]
    · exact ih hn.2 hc _

/-- A byte of this device that a performed write holds once reads as it was written (R201). -/
theorem memRead_writeCells_of_mem (s : State) {cells : List (Nat × Byte)} (hn : (cells.map (·.1)).Nodup) {c : Nat × Byte}
    (hc : c ∈ cells) (hr : c.1 < remoteBase) : memRead (s.writeCells cells).mem c.1 = c.2 := by
  rw [writeCells_mem]
  exact memRead_memWriteAll_of_mem (hn.sublist (List.filter_sublist.map _)) (List.mem_filter.2 ⟨hc, decide_eq_true hr⟩) _

/-! ### What the messages of an access leave as they were -/

@[simp] theorem farRequest_am (s : State) (p kind : Nat) (keys : List Nat) (data : List Byte) :
    (s.farRequest p kind keys data).am = s.am :=
  farRequest_field (·.am) (postMessage_field (·.am) fun _ _ _ _ => rfl) ..
@[simp] theorem farRequest_parts (s : State) (p kind : Nat) (keys : List Nat) (data : List Byte) :
    (s.farRequest p kind keys data).parts = s.parts :=
  farRequest_field (·.parts) (postMessage_field (·.parts) fun _ _ _ _ => rfl) ..
@[simp] theorem farRequest_mail (s : State) (p kind : Nat) (keys : List Nat) (data : List Byte) :
    (s.farRequest p kind keys data).mail = s.mail :=
  farRequest_field (·.mail) (postMessage_field (·.mail) fun _ _ _ _ => rfl) ..

section
variable (s : State) (cl : Nat) (cells : List (Nat × Byte))

@[simp] theorem writeFrom_mem : (s.writeFrom cl cells).mem = (s.writeCells cells).mem := farRequest_mem ..
@[simp] theorem writeFrom_am : (s.writeFrom cl cells).am = s.am := farRequest_am ..
@[simp] theorem writeFrom_threads : (s.writeFrom cl cells).threads = s.threads := farRequest_threads ..
@[simp] theorem writeFrom_thread (k : Nat) : (s.writeFrom cl cells).thread k = s.thread k := congrArg (mget · k) (writeFrom_threads ..)
@[simp] theorem writeFrom_parts : (s.writeFrom cl cells).parts = s.parts := farRequest_parts ..
@[simp] theorem writeFrom_mail : (s.writeFrom cl cells).mail = s.mail := farRequest_mail ..

end

/-! ### A store performed (R227) -/

/-- The state in which a thread's store has left its list and its packet is counted, its bytes still to be written. -/
def storeLeft (s : State) (k i : Nat) (t : Thread) (o : OutOp) : State := (s.putThread k (landStore t i)).countAccess k o

theorem thread_storeLeft (s : State) (k i : Nat) (t : Thread) (o : OutOp) (j : Nat) :
    (storeLeft s k i t o).thread j = if j = k then some (landStore t i) else s.thread j := thread_putThread ..

/-- A store that nothing holds is performed: its bytes are written. -/
theorem exec_storePerformed {s : State} {k i : Nat} {t : Thread} {o : OutOp} (h : Performs s k i t o) (hk : o.kind = .store)
    (hc : ctlOf o = none) (hw : writeReady (t.out.take i) o = true) (ht : translationsDone s k i o.addrs = true)
    (hl : lanesBefore s k o = true) (h1 : farRefused s (s.partNo (keyCl k)) (o.addrs.headD 0) true = false)
    (h2 : farRefused s (s.partNo (keyCl k)) (o.addrs.getLastD 0) true = false) :
    exec (.storePerformed k i) s = .next ((storeLeft s k i t o).writeFrom (keyCl k) (o.addrs.zip o.data)) := by
  obtain ⟨hs, hd, ho, hh⟩ := h
  have hland : (storeLeft s k i t o).landBytes k o = (storeLeft s k i t o).writeFrom (keyCl k) (o.addrs.zip o.data) := by
    have hr : (farRefused s (s.partNo (keyCl k)) (o.addrs.headD 0) true ||
        farRefused s (s.partNo (keyCl k)) (o.addrs.getLastD 0) true) ≠ true := by
      simp only [h1, h2]; decide
    exact if_neg hr
  rw [← hland]
  show execStorePerformed k i s = _
  simp [execStorePerformed, State.drainThread, hs, hd, ho, hh, hk, hc, hw, ht, hl, storeLeft]

/-- Settles O18: the store's bytes are the cells written, and nothing else of the state that the statement names is touched. -/
theorem storePerformedWritesItsBytesAndNoOther : Obligations.StorePerformedWritesItsBytesAndNoOther := by
  rintro s k i t o h hk hc hw ht hl p rfl h1 h2
  refine ⟨_, exec_storePerformed h hk hc hw ht hl h1 h2, ?_, fun j hj => ?_, writeFrom_am .., writeFrom_parts .., writeFrom_mail ..,
    fun a ha => ?_, fun hn hlen j hj hr => ?_, fun hm => ?_⟩
  · exact (writeFrom_thread ..).trans ((thread_storeLeft s k i t o k).trans (if_pos rfl))
  · exact (writeFrom_thread ..).trans ((thread_storeLeft s k i t o j).trans (if_neg hj))
  · rw [writeFrom_mem]
    exact writeCells_other _ _ _ fun c hcell e => ha (e ▸ (List.of_mem_zip hcell).1)
  · have hd : j < o.data.length := hlen ▸ hj
    have hmem : (o.addrs.getD j 0, o.data.getD j 0) ∈ o.addrs.zip o.data := by
      rw [List.getD_eq_getElem _ _ hj, List.getD_eq_getElem _ _ hd, List.mem_iff_getElem]
      exact ⟨j, by simp [hj, hd], List.getElem_zip⟩
    have hkeys : ((o.addrs.zip o.data).map (·.1)).Nodup := by rwa [List.map_fst_zip hlen.le]
    rw [writeFrom_mem]
    exact memRead_writeCells_of_mem _ hkeys hmem hr
  · rw [writeFrom_mem, writeCells_mem]
    exact memWf_memWriteAll _ _ hm

/-! ### Reset -/

/-- Every register of a thread reads zero at reset (R66). -/
theorem readW_readF_zero (r : Reg) : readW Thread.zero r = 0 ∧ readF Thread.zero r = 0 := by
  have hz : ∀ {i : Nat} (hi : i < 32), (Vector.replicate 32 (0 : Word))[i] = 0 := fun _ => Vector.getElem_replicate ..
  refine ⟨?_, hz _⟩
  unfold readW
  split
  · rfl
  · exact hz _

/-- No stream is bound at reset (R48). -/
theorem streamOf_zero_state (n : Nat) : (streamOf Thread.zero n).state = .unbound := by
  have : ∀ x ∈ Thread.zero.streams.toList, x = Stream.reset := by decide
  unfold streamOf
  by_cases hn : n < Thread.zero.streams.toList.length
  · rw [List.getD_eq_getElem _ _ hn, this _ (List.getElem_mem hn)]; rfl
  · rw [List.getD_eq_default _ _ (not_lt.1 hn)]; rfl

theorem memOk_reset : MemOk State.reset := ⟨rfl, rfl, nofun⟩

/-- Settles O55: the values are those of the reset records; the registers and the streams of a thread are read one by one. -/
theorem resetLeavesTheSpecifiedValues : Obligations.ResetLeavesTheSpecifiedValues :=
  ⟨rfl, rfl, rfl, rfl, rfl, fun _ => rfl, memOk_reset, readW_readF_zero, rfl, rfl, streamOf_zero_state, rfl, rfl, rfl, rfl, rfl, rfl,
    rfl, rfl, rfl⟩

end Sys2Proof.Safety
end

section
/-! Encoding and assembly, first part: decoding the word of an instruction (R29 to R37). -/

namespace Sys2Proof.Safety

open Machine

/-! ### Fields of a word written as its parts -/

theorem reserve_true (i : Instr) : reserve true i = .ok i := rfl

/-- The low bits of a word that hold two of its parts. -/
theorem extractLsb'_two_parts {n v m : Nat} (x : BitVec n) (y : BitVec v) (z : BitVec m) :
    (x ++ y ++ z).extractLsb' 0 (v + m) = y ++ z := by
  ext i hi
  simp only [BitVec.getElem_extractLsb', BitVec.getLsbD_append, BitVec.getElem_append, Nat.zero_add]
  by_cases h : i < m
  · simp [h]
  · have : i - m < v := by omega
    simp [h, this]

/-- The function field of `sel` holds its predicate number: eight codes (R84). -/
theorem decode01_sel {w : BitVec 32} {n : BitVec 3} (h : field 0 10 w = 0x7#7 ++ n) :
    decode01 w = .ok (.sel (field 0 3 w) (field 20 5 w) (field 15 5 w) (field 10 5 w)) := by
  have hcode : ∀ n : BitVec 3, (0x7#7 ++ n).toNat ∈ [0x38, 0x39, 0x3a, 0x3b, 0x3c, 0x3d, 0x3e, 0x3f] := by decide
  specialize hcode n
  simp only [← h, List.mem_cons, List.not_mem_nil, or_false] at hcode
  unfold decode01
  rcases hcode with e | e | e | e | e | e | e | e <;> simp only [e]

/-! ### The rows of one opcode after another -/

/-- The rows of opcode 0x01 (R84). -/
theorem decode01_encode {i : Instr} {w : BitVec 32} (h : encode i = some w) (ho : field 25 7 w = 0x1#7) : decode01 w = .ok i := by
  cases i
  case sel n d a b =>
    cases h
    have hd := decode01_sel (w := 0x1#7 ++ d ++ a ++ b ++ 0x7#7 ++ n) (extractLsb'_two_parts ..)
    simpa (disch := decide) only [field, BitVec.extractLsb'_append_eq_of_le, BitVec.extractLsb'_append_eq_of_add_le,
      BitVec.extractLsb'_eq_self, BitVec.reduceExtractLsb', BitVec.reduceToNat, BitVec.reduceEq, Nat.reduceSub, Nat.sub_self] using hd
  all_goals cases h
  all_goals simp (disch := decide) only [decode01, field, BitVec.extractLsb'_append_eq_of_le, BitVec.extractLsb'_append_eq_of_add_le,
    BitVec.extractLsb'_eq_self, BitVec.reduceExtractLsb', BitVec.reduceToNat, BitVec.reduceEq, Nat.reduceSub, Nat.sub_self,
    BitVec.reduceBEq, BitVec.ofNat_eq_ofNat, reserve_true] at ho ⊢

/-- The rows of opcode 0x26, of which the low bit of the function field is the size (R95). -/
theorem decode26_encode {i : Instr} {w : BitVec 32} (h : encode i = some w) (ho : field 25 7 w = 0x26#7) : decode26 w = .ok i := by
  cases i
  case aadd d a b z _ _ | aand d a b z _ _ | aor d a b z _ _ | axor d a b z _ _ | amin d a b z _ _ | amax d a b z _ _ |
      aminu d a b z _ _ | amaxu d a b z _ _ | aswap d a b z _ _ | acas d a b z _ _ =>
    cases h
    obtain rfl | rfl := BitVec.eq_zero_or_eq_one z <;>
      simp (disch := decide) only [decode26, field, extractLsb'_two_parts _ _ (_ : BitVec 1), BitVec.reduceAppend,
        BitVec.extractLsb'_append_eq_of_le, BitVec.extractLsb'_append_eq_of_add_le, BitVec.extractLsb'_eq_self, BitVec.reduceToNat,
        Nat.reduceSub, Nat.sub_self]
  all_goals cases h
  all_goals simp (disch := decide) only [decode26, field, BitVec.extractLsb'_append_eq_of_le, BitVec.extractLsb'_append_eq_of_add_le,
    BitVec.extractLsb'_eq_self, BitVec.reduceExtractLsb', BitVec.reduceToNat, BitVec.reduceEq, Nat.reduceSub, Nat.sub_self] at ho ⊢

/-- The rows of opcode 0x40, the commands of the engines (R101). -/
theorem decode40_encode {i : Instr} {w : BitVec 32} (h : encode i = some w) (ho : field 25 7 w = 0x40#7) : decode40 w = .ok i := by
  cases i <;> cases h
  all_goals simp (disch := decide) only [decode40, field, BitVec.extractLsb'_append_eq_of_le, BitVec.extractLsb'_append_eq_of_add_le,
    BitVec.extractLsb'_eq_self, BitVec.reduceExtractLsb', BitVec.reduceToNat, BitVec.reduceEq, Nat.reduceSub, Nat.sub_self,
    BitVec.ofNat_eq_ofNat, reserve_true, beq_self_eq_true, Bool.and_true] at ho ⊢

/-- The rows of the other opcodes below 0x20: immediates, constants, predicates, control flow and floating point (R85 to R92). -/
theorem decode_encode_low {i : Instr} {w : BitVec 32} (h : encode i = some w) (ho : (field 25 7 w).toNat < 0x20)
    (h01 : field 25 7 w ≠ 0x1#7) : decode w = .ok i := by
  cases i <;> cases h
  all_goals simp (disch := decide) only [decode, decode02, decode03, decode04, decode05, decode06, decode07, decode08, decode09, decode0A,
    decode10, decode11, decode12, decode18, decode19, decode1A, decode1B, decode1C, field, BitVec.extractLsb'_append_eq_of_le,
    BitVec.extractLsb'_append_eq_of_add_le, BitVec.extractLsb'_eq_self, BitVec.reduceExtractLsb', BitVec.reduceToNat, BitVec.reduceEq,
    Nat.reduceSub, Nat.sub_self, Nat.reduceLT, ne_eq, not_true_eq_false, BitVec.reduceBEq, BitVec.ofNat_eq_ofNat, reserve_true,
    Bool.and_true] at ho h01 ⊢

/-- The rows of the other opcodes from 0x20 on: memory, lanes, queues, threads and the system (R93 to R100, R102). -/
theorem decode_encode_high {i : Instr} {w : BitVec 32} (h : encode i = some w) (ho : ¬ (field 25 7 w).toNat < 0x20)
    (h26 : field 25 7 w ≠ 0x26#7) (h40 : field 25 7 w ≠ 0x40#7) : decode w = .ok i := by
  cases i <;> cases h
  all_goals simp (disch := decide) only [decode, decode20, decode21, decode22, decode23, decode24, decode25, decode27, decode28, decode29,
    decode30, decode34, decode35, decode36, decode37, decode38, decode39, decode60, decode61, decode62, decode7E, field,
    BitVec.extractLsb'_append_eq_of_le, BitVec.extractLsb'_append_eq_of_add_le, BitVec.extractLsb'_eq_self, BitVec.reduceExtractLsb',
    BitVec.reduceToNat, BitVec.reduceEq, Nat.reduceSub, Nat.sub_self, Nat.reduceLT, ne_eq, not_true_eq_false, BitVec.ofNat_eq_ofNat,
    reserve_true, beq_self_eq_true, Bool.and_true] at ho h26 h40 ⊢

/-- The word of an instruction, well-formed or not, decodes to it. -/
theorem decode_encode {i : Instr} {w : BitVec 32} (h : encode i = some w) : decode w = .ok i := by
  by_cases h01 : field 25 7 w = 0x1#7
  · rw [← decode01_encode h h01, decode, h01]
    rfl
  by_cases h26 : field 25 7 w = 0x26#7
  · rw [← decode26_encode h h26, decode, h26]
    rfl
  by_cases h40 : field 25 7 w = 0x40#7
  · rw [← decode40_encode h h40, decode, h40]
    rfl
  by_cases ho : (field 25 7 w).toNat < 0x20
  · exact decode_encode_low h ho h01
  · exact decode_encode_high h ho h26 h40

/-- The instructions that have a word are those that are no event, but for the row that stands for every illegal word. -/
theorem encode_isSome {i : Instr} (hi : i ≠ .illegalInstruction) : (encode i).isSome = !isEvent i := by
  cases i
  case illegalInstruction => exact absurd rfl hi
  all_goals rfl

/-- Settles O59: every instruction that is no event has a word, which decodes to it. -/
theorem decodingAnEncodedInstructionGivesItBack : Obligations.DecodingAnEncodedInstructionGivesItBack := by
  intro i _ he hi
  obtain ⟨w, hw⟩ := Option.isSome_iff_exists.1 ((encode_isSome hi).trans (by rw [he]; rfl))
  exact ⟨w, hw, decode_encode hw⟩

/-- Settles O58: the decoder evaluated on each word. -/
theorem wordsOfTheSpecDecode : Obligations.WordsOfTheSpecDecode := ⟨rfl, rfl, rfl, rfl, rfl, rfl, rfl⟩

/-- Settles O1, by the laws of the register writes. -/
theorem registersReadBackWhatIsWritten : Obligations.RegistersReadBackWhatIsWritten :=
  ⟨fun t d a v => ⟨readW_zero t, setW_zero t v, readW_setW t d a v⟩, fun t d a v => ⟨readP_zero t, setP_zero t v, readP_setP t d a v⟩⟩

end Sys2Proof.Safety
end

section
/-! Encoding and assembly, second part: control flow and `pfx` (R53, R57, R77, R317). -/

namespace Sys2Proof.Safety

open Machine Laws

/-- An instruction that retires in every lane, at a PC of its own there. -/
theorem finishAt_effect {s : State} (h : Ready s) (f g : Nat → Thread → Thread) (pc : Nat → Thread → Word)
    (hg : ∀ k t, g k t = retired (f k t) (pc k t)) :
    ∃ u, (s.eachLane fun s k t => s.finishAt k t (f k t) (pc k t)) = .next u ∧ LanesTo s u g := by
  obtain ⟨hn, -, hss⟩ := h
  exact eachLane_effect s hn _ _ fun ts k hk t ht => by rw [finishAt_eq _ _ _ _ _ (hss k hk t ht), hg]

theorem codeOff_eq {n : Nat} (x : BitVec n) : codeOff x = x.signExtend 64 * 4 := rfl

theorem br_effect {s : State} (h : Ready s) (p : PReg) (neg : BitVec 1) (off : BitVec 21) :
    LaneEffect (.br p neg off) s fun _ t =>
      retired t (if ((p = 0 ∨ readP t p = true) ↔ neg = 0) then t.pc + off.signExtend 64 * 4 else t.pc + 4) := by
  refine finishAt_effect h (fun _ t => t) _ _ fun k t => ?_
  have hp : (p = 0 ∨ readP t p = true) ↔ readP t p = true := ⟨fun hp => hp.elim (fun e => e ▸ readP_zero t) id, Or.inr⟩
  simp only [hp, codeOff_eq]
  obtain rfl | rfl := BitVec.eq_zero_or_eq_one neg <;> cases readP t p <;> rfl

theorem eloop_effect {s : State} (h : Ready s) (i n : Reg) (st : BitVec 2) (pd : PReg) (off : BitVec 10) (hst : st ≠ 3)
    (step : Nat) (h0 : st = 0 → step = 32) (h1 : st = 1 → step = 128) (h2 : st = 2 → step = 64) :
    LaneEffect (.eloop i n st pd off) s fun k t =>
        let ix : Nat := if st = 0 then laneOf (keyCore k) (keyThr k) else step - 1
        let t1 := setW t i (readW t i + word step)
        if (readW t1 i).toInt < (readW t1 n).toInt then
          retired (setP t1 pd (decide ((readW t1 i).toInt + ix < (readW t1 n).toInt))) (t.pc + off.signExtend 64 * 4)
        else retired (setP t1 pd false) (t.pc + 4) := by
  have hs : loopStep st = step := by
    have hall : ∀ st : BitVec 2, st = 0 ∨ st = 1 ∨ st = 2 ∨ st = 3 := by decide
    obtain rfl | rfl | rfl | rfl := hall st
    · exact (h0 rfl).symm
    · exact (h1 rfl).symm
    · exact (h2 rfl).symm
    · exact absurd rfl hst
  obtain ⟨hn, -, hss⟩ := h
  refine eachLane_effect s hn _ _ fun ts k hk t ht => ?_
  simp only [hs, BitVec.slt_iff_toInt_lt, codeOff_eq, finishAt_eq _ _ _ _ _ (hss k hk t ht)]
  split <;> rfl

theorem exec_pfx (s : State) (fa fb : BitVec 4) (sel : BitVec 6) :
    exec (.pfx fa fb sel) s = if fa.toNat ≤ 11 ∧ fb.toNat ≤ 11 then .next { s with cur := { s.cur with pfx := some (fa, fb, sel) } }
      else .next (s.trapAll 1) := rfl

/-- Settles O4: each instruction retires in every lane at the PC the rule gives, and `pfx` is a case on its two formats. -/
theorem controlFlowAndPrefixComplete : Obligations.ControlFlowAndPrefixComplete := by
  refine ⟨fun s h p neg off off20 d a => ⟨br_effect h p neg off, finishAt_effect h _ _ _ fun _ _ => rfl,
    finishAt_effect h _ _ _ fun _ _ => rfl, fun i n st pd off10 hst _ _ => eloop_effect h i n st pd off10 hst⟩,
    fun s fa fb sel => ⟨fun ha hb => ?_, fun hf => ?_⟩⟩
  · rw [exec_pfx, if_pos ⟨ha, hb⟩]
  · rw [exec_pfx, if_neg (by omega)]

end Sys2Proof.Safety
end

section
/-! Encoding and assembly, fourth part: stream operands, on `fmov` (R48 to R51, R335, R336). -/

namespace Sys2Proof.Safety

open Machine Laws

variable {s : State} {k n : Nat} {t : Thread} {d a : Reg}

/-! ### Stream registers -/

theorem streamNo_eq_none (h : d.toNat < 28) : streamNo d = none := if_pos h

theorem streamNo_eq_some (h : d.toNat = 28 + n) : streamNo d = some n := by
  unfold streamNo
  rw [if_neg (by omega), h, Nat.add_sub_cancel_left]

theorem regIs_of_lt {st : StreamState} (h : d.toNat < 28) : regIs t st d = false := by
  simp [regIs, streamNo_eq_none h]

theorem regIs_eq {st : StreamState} (h : d.toNat = 28 + n) : regIs t st d = ((streamOf t n).state == st) := by
  simp [regIs, streamNo_eq_some h]

theorem boundSources_of_lt (h : a.toNat < 28) : boundSources t [a] = [] := by
  simp [boundSources, streamNo_eq_none h, dedup]

theorem streamOf_putStream {x : Stream} (h : n < 4) : streamOf (putStream t n x) n = x := by
  unfold streamOf putStream
  simp [List.getD_eq_getElem?_getD, h]

/-- A read-bound source with a plain destination: the next element is consumed (R49). -/
theorem fPrep_readBound (ha : a.toNat = 28 + n) (hd : d.toNat < 28) (hx : (streamOf t n).state = .readBound) :
    fPrep t [a] (some d) = consumeOne t n := by
  have hb : boundSources t [a] = [n] := by simp [boundSources, streamNo_eq_some ha, hx, dedup]
  simp [fPrep, hb, regIs_eq ha, regIs_of_lt hd, hx]

/-- A read-bound destination is refused (R51). -/
theorem fPrep_readBound_dst (hd : d.toNat = 28 + n) (hx : (streamOf t n).state = .readBound) : fPrep t [a] (some d) = .illegal := by
  simp [fPrep, regIs_eq hd, hx]

/-- A write-bound destination with room, and a plain source (R50, R236). -/
theorem fPrep_writeBound (hd : d.toNat = 28 + n) (ha : a.toNat < 28) (hx : (streamOf t n).state = .writeBound)
    (hp : (streamOf t n).pos.toNat < streamCount (streamOf t n)) (hst : t.st < 63) : fPrep t [a] (some d) = .ok t := by
  simp [fPrep, regIs_eq hd, regIs_of_lt ha, hx, streamNo_eq_some hd, not_le.2 hp, not_le.2 hst, boundSources_of_lt ha]

/-! ### `fmov` under the stream rules -/

theorem takeTrap_vectored {p : Nat} {y : Partition} (hv : Vectored s k t p y) (pc tstat : Word) (cause detail : Nat) (step : Bool)
    (value tepc : Word) : s.takeTrap k t pc tstat cause detail step value tepc =
      s.putThread k (trapThread t y.svcbase pc tstat cause detail step value tepc) := by
  obtain ⟨hp, hb, ht⟩ := hv
  simp only [State.takeTrap, hp, hb, ht, Bool.false_eq_true, or_self, if_false]

theorem exec_fmov (h : Lone s k t) : exec (.fmov d a) s =
    .next (s.withF k t [a] (some d) fun t' => s.finishF k t t' d (readF t' a)) :=
  congrArg _ (lone_forLanes s k t h _)

/-- Retirement of a write of a register that is no stream's. -/
theorem finishF_of_lt (h : Lone s k t) (hd : d.toNat < 28) (t' : Thread) (v : Word) :
    s.finishF k t t' d v = s.putThread k (retired (setF t' d v) (t.pc + 4)) := by
  obtain ⟨-, -, hp, hss⟩ := h
  simp only [State.finishF, State.writeF, streamNo_eq_none hd]
  rw [finish_eq _ _ _ _ hss, width_none _ hp]

theorem fmov_consumes (h : Lone s k t) (ha : a.toNat = 28 + n) (hd : d.toNat < 28) (hx : (streamOf t n).state = .readBound)
    {v : Word} {rest : List StreamElem} (hv : (streamOf t n).ahead = .value v :: rest) :
    exec (.fmov d a) s = .next (s.putThread k (retired (setF (putStream (setF t a v) n { streamOf t n with
      pos := (streamOf t n).pos + 1, ahead := rest
      state := if streamCount (streamOf t n) ≤ (streamOf t n).pos.toNat + 1 then .unbound else .readBound }) d v) (t.pc + 4))) := by
  have hr : BitVec.ofNat 5 (28 + n) = a := by rw [← ha]; simp
  have hv' : ∀ x, readF (putStream (setF t a v) n x) a = v := fun _ => (readF_setF ..).trans (if_pos rfl)
  rw [exec_fmov h, State.withF, fPrep_readBound ha hd hx]
  simp only [consumeOne, hv, hr, hx, ge_iff_le]
  rw [hv', finishF_of_lt h hd]

theorem fmov_waits (h : Lone s k t) (ha : a.toNat = 28 + n) (hd : d.toNat < 28) (hx : (streamOf t n).state = .readBound)
    (hv : (streamOf t n).ahead = []) (hp : t.park = none) :
    exec (.fmov d a) s = .next (s.putThread k (waits s t (.stream n))) := by
  rw [exec_fmov h, State.withF, fPrep_readBound ha hd hx]
  simp only [consumeOne, hv, State.parkAt, parked, hp, waits]

theorem fmov_fails (h : Lone s k t) (ha : a.toNat = 28 + n) (hd : d.toNat < 28) (hx : (streamOf t n).state = .readBound)
    {e : Nat} {rest : List StreamElem} (hv : (streamOf t n).ahead = .failed e :: rest) {p : Nat} {y : Partition} (hy : Vectored s k t p y) :
    exec (.fmov d a) s = .next (s.putThread k
      (trapThread t y.svcbase t.pc (xsRead t.xstat) 0x0F e false (elemAddr (streamOf t n) (streamOf t n).pos) t.pc)) := by
  rw [exec_fmov h, State.withF, fPrep_readBound ha hd hx]
  simp only [consumeOne, hv, takeTrap_vectored hy, h.2.2.1, xsSaved]

theorem fmov_refused (h : Lone s k t) (hd : d.toNat = 28 + n) (hx : (streamOf t n).state = .readBound) {p : Nat} {y : Partition}
    (hy : Vectored s k t p y) : exec (.fmov d a) s = .next (s.putThread k (trapped t y 0x12 0)) := by
  rw [exec_fmov h, State.withF, fPrep_readBound_dst hd hx]
  simp only [State.trap, takeTrap_vectored hy, h.2.2.1, xsSaved, trapped]

/-- A write of a write-bound register numbers a write of the core and leaves an append outstanding (R50). -/
theorem writeF_writeBound (hd : d.toNat = 28 + n) (hx : (streamOf t n).state = .writeBound) (hdead : (streamOf t n).dead = false)
    (pc v : Word) : ∃ addrs lines, s.writeF k t pc d v = ((s.nextWrite k).1,
      { putStream (setF t d v) n { streamOf t n with pos := (streamOf t n).pos + 1 } with
        st := t.st + 1
        out := t.out ++ [{ kind := .append n (streamOf t n).bind (elemAddr (streamOf t n) (streamOf t n).pos), addrs := addrs,
                           data := leBytes 8 v.toNat, order := 0, scope := 0, pc := pc, serial := (s.nextWrite k).2, inst := s.free,
                           lines := lines, va := elemAddr (streamOf t n) (streamOf t n).pos }] }) := by
  unfold State.writeF
  simp only [streamNo_eq_some hd, hx, hdead]
  exact ⟨_, _, rfl⟩

theorem fmov_appends (h : Lone s k t) (hn : n < 4) (hd : d.toNat = 28 + n) (ha : a.toNat < 28) (hx : (streamOf t n).state = .writeBound)
    (hp : (streamOf t n).pos.toNat < streamCount (streamOf t n)) (hst : t.st < 63) (hdead : (streamOf t n).dead = false) :
    ∃ u v o, exec (.fmov d a) s = .next u ∧ u.thread k = some v ∧ u.mem = s.mem ∧ v.pc = t.pc + 4 ∧ v.st = t.st + 1 ∧ v.out = t.out ++ [o] ∧
      o.kind = .append n (streamOf t n).bind (elemAddr (streamOf t n) (streamOf t n).pos) ∧ o.data = leBytes 8 (readF t a).toNat ∧
      readF v d = readF t a ∧ (streamOf v n).pos = (streamOf t n).pos + 1 ∧ v.w = t.w ∧ v.p = t.p ∧ v.fflags = t.fflags := by
  obtain ⟨addrs, lines, hw⟩ := writeF_writeBound (s := s) (k := k) hd hx hdead t.pc (readF t a)
  have ⟨_, _, hpfx, hss⟩ := h
  have hexec : exec (.fmov d a) s = .next ((s.finishF k t t d (readF t a))) := by
    rw [exec_fmov h, State.withF, fPrep_writeBound hd ha hx hp hst]
  simp only [State.finishF, hw, finish_eq _ _ _ _ hss, width_none _ (show (s.nextWrite k).1.cur.pfx = none from hpfx)] at hexec
  refine ⟨_, _, _, hexec, (thread_putThread ..).trans (if_pos rfl), rfl, rfl, rfl, rfl, rfl, rfl, (readF_setF ..).trans (if_pos rfl), ?_,
    rfl, rfl, rfl⟩
  · exact congrArg Stream.pos (streamOf_putStream (t := setF t d (readF t a)) hn)

/-- Settles O13: the stream rules let `fmov` through with the element consumed or appended, or stop it as they say. -/
theorem streamOperandsReadAndAppend : Obligations.StreamOperandsReadAndAppend := by
  rintro s k t h n d a x hn rfl
  exact ⟨fun ha hd hx => ⟨fun _ _ hv => fmov_consumes h ha hd hx hv, fun hv hp => fmov_waits h ha hd hx hv hp,
      fun _ _ _ _ hv hy => fmov_fails h ha hd hx hv hy⟩,
    fun _ _ hd _ hx hy => fmov_refused h hd hx hy, fun hd ha hx hp hst hdead => fmov_appends h hn hd ha hx hp hst hdead⟩

end Sys2Proof.Safety
end

section
/-! Encoding and assembly, third part: a step runs the decoded instruction (R79, R136, R287, R288). -/

namespace Sys2Proof.Safety

open Machine

/-! ### The issuing set as the lanes in hand -/

/-- The lanes `lanes` of a slot in hand. -/
def handed (s : State) (cl core slot : Nat) (lanes : List Nat) : State :=
  { s with cur := { cl := cl, core := core, slot := slot, lanes := lanes, pfx := none } }

theorem thread_of_mem_issuingSet {s : State} {cl core slot : Nat} {x : Nat × Thread} (h : x ∈ issuingSet s cl core slot) :
    s.thread (keyOf cl core (thrOf core slot x.1)) = some x.2 := by
  have hr : x ∈ readyLanes s cl core slot := by
    unfold issuingSet at h
    dsimp only at h
    split at h
    · cases h
    · exact List.mem_of_mem_filter h
  obtain ⟨l, -, hl⟩ := List.mem_filterMap.1 hr
  dsimp only at hl
  split at hl
  next t ht =>
    split at hl
    · cases hl; exact ht
    · cases hl
  · cases hl

theorem curThreads_handed {s : State} {cl core slot : Nat} {set : List (Nat × Thread)} (h : issuingSet s cl core slot = set) :
    (handed s cl core slot (set.map (·.1))).curThreads = set.map fun x => (keyOf cl core (thrOf core slot x.1), x.2) := by
  have hs : ∀ x ∈ set, s.thread (keyOf cl core (thrOf core slot x.1)) = some x.2 := fun x hx => thread_of_mem_issuingSet (h ▸ hx)
  clear h
  induction set with
  | nil => rfl
  | cons x set ih =>
    have hx := hs x (List.mem_cons_self ..)
    have ih := ih fun y hy => hs y (List.mem_cons_of_mem _ hy)
    simp only [State.curThreads, State.curKeys, handed, List.map_cons, List.filterMap_cons] at ih ⊢
    have hx' : State.thread { s with cur := { cl := cl, core := core, slot := slot, lanes := x.1 :: set.map (·.1), pfx := none } }
        (keyOf cl core (thrOf core slot x.1)) = some x.2 := hx
    rw [hx']
    exact congrArg _ ih

/-- Lanes that all read one word have fetched it (R55, R79). -/
theorem fetchSet_word {u : State} {off : Word} {w : BitVec 32} {e : Bool} (hn : u.curThreads ≠ [])
    (h : ∀ x ∈ u.curThreads, fetch u u.cur.cl x.2 (x.2.pc + off) = .word w e) : fetchSet u off = .ok (w, e) := by
  obtain ⟨x, l, hx⟩ := List.exists_cons_of_ne_nil hn
  have hall : ((x :: l).map fun x => (x, fetch u u.cur.cl x.2 (x.2.pc + off))).all (fun g => g.2 == .word w e) = true := by
    rw [List.all_eq_true]
    intro g hg
    obtain ⟨y, hy, rfl⟩ := List.mem_map.1 hg
    exact beq_iff_eq.2 (h y (hx ▸ hy))
  have hx0 : fetch u u.cur.cl x.2 (x.2.pc + off) = .word w e := h x (hx ▸ List.mem_cons_self ..)
  unfold fetchSet
  simp only [hx, List.map_cons, hx0] at hall ⊢
  rw [if_pos hall]

theorem fetchSet_handed {s : State} {cl core slot : Nat} {set : List (Nat × Thread)} (h : issuingSet s cl core slot = set) (hn : set ≠ [])
    {off : Word} {w : BitVec 32} {e : Bool}
    (hf : ∀ x ∈ set, fetch (handed s cl core slot (set.map (·.1))) cl x.2 (x.2.pc + off) = .word w e) :
    fetchSet (handed s cl core slot (set.map (·.1))) off = .ok (w, e) := by
  have hc := curThreads_handed h
  refine fetchSet_word (by simpa [hc] using hn) fun y hy => ?_
  obtain ⟨x, hx, rfl⟩ := List.mem_map.1 (hc ▸ hy)
  exact hf x hx

theorem decodeAt_ok {w : BitVec 32} {i : Instr} {e : Bool} (hd : decode w = .ok i) (hw : WellFormed i = true)
    (he : e = true ∨ elpolOnly i = false) : decodeAt w e = some i := by
  unfold decodeAt
  rw [hd]
  rcases he with rfl | he <;> simp_all

/-! ### What time and the note of an issue leave as it was -/

theorem foldl_field {α β : Type} (g : State → β) {f : State → α → State} (hf : ∀ u x, g (f u x) = g u) (l : List α) (s : State) :
    g (l.foldl f s) = g s := by
  induction l generalizing s with
  | nil => rfl
  | cons x l ih => exact (ih _).trans (hf s x)

theorem expireOff_agenda (s : State) (k uid : Nat) : (s.expireOff k uid).agenda = s.agenda :=
  foldl_field (·.agenda) (f := fun u t => State.withdrawArrival u k t) (fun _ _ => rfl) ..

theorem advance_agenda (s : State) : (advance s).agenda = s.agenda :=
  foldl_field (·.agenda) (f := fun u (x : Nat × Nat) => u.expireOff x.1 x.2) (fun _ _ => expireOff_agenda ..) ..

theorem takeTurn_advance {s : State} {t : Turn} {rest : List Turn} (h : s.agenda = t :: rest) :
    takeTurn (advance s) = ({ advance s with agenda := rest }, some t) := by
  unfold takeTurn
  rw [advance_agenda, h]

theorem noteFetch_cur (s : State) (cl n : Nat) : (s.noteFetch cl n).cur = s.cur := by
  have hfar : ∀ (u : State) part kind keys data, (u.farRequest part kind keys data).cur = u.cur :=
    farRequest_field (·.cur) (postMessage_field (·.cur) fun _ _ _ _ => rfl)
  have hwalk : ∀ (u : State) lines, (u.walkReads cl lines).cur = u.cur := fun u lines => walkReads_field (·.cur) hfar u cl lines
  unfold State.noteFetch
  split
  · split
    · dsimp only
      split
      · rw [hfar, hwalk]
      · exact hwalk ..
    · rfl
  · rfl

theorem noteIssue_cur (s : State) (cl core slot : Nat) (pfx : Option (BitVec 4 × BitVec 4 × BitVec 6)) (i : Instr) :
    (s.noteIssue cl core slot pfx i).cur = s.cur := by
  refine Eq.trans (foldl_field (·.cur) (fun u k => ?_) _ _) (noteFetch_cur ..)
  split
  · split <;> rfl
  · rfl

/-! ### The plan of an issue -/

section Issue

variable {s : State} {cl core slot : Nat} {set : List (Nat × Thread)} {w w2 : BitVec 32} {e e2 : Bool} {i j : Instr}

/-- A slot whose lanes read one word plans the instruction it decodes to (R79). -/
theorem planWords_run (h : issuingSet s cl core slot = set) (hn : set ≠ [])
    (hf : ∀ x ∈ set, fetch (handed s cl core slot (set.map (·.1))) cl x.2 x.2.pc = .word w e) (hd : decodeAt w e = some i)
    (hb : setBusy (handed s cl core slot (set.map (·.1))) i = false) (hs : badSource (handed s cl core slot (set.map (·.1))) i = none)
    (hp : ∀ fa fb sel, i ≠ .pfx fa fb sel) :
    planWords s cl core slot = some (.run i (handed s cl core slot (set.map (·.1)))) := by
  have h0 : fetchSet (handed s cl core slot (set.map (·.1))) 0 = .ok (w, e) :=
    fetchSet_handed h hn fun x hx => by simpa using hf x hx
  unfold handed at *
  obtain ⟨x, l, rfl⟩ := List.exists_cons_of_ne_nil hn
  unfold planWords
  simp only [h, h0, hd, hb, hs]
  cases i
  case pfx fa fb sel => exact absurd rfl (hp fa fb sel)
  all_goals rfl

/-- A slot whose lanes read a `pfx` and one word after it plans the pair (R55, R57). -/
theorem planWords_pair {fa fb : BitVec 4} {sel : BitVec 6} (h : issuingSet s cl core slot = set) (hn : set ≠ [])
    (hf : ∀ x ∈ set, fetch (handed s cl core slot (set.map (·.1))) cl x.2 x.2.pc = .word w e) (hd : decodeAt w e = some (.pfx fa fb sel))
    (hb : setBusy (handed s cl core slot (set.map (·.1))) (.pfx fa fb sel) = false)
    (hs : badSource (handed s cl core slot (set.map (·.1))) (.pfx fa fb sel) = none)
    (hf2 : ∀ x ∈ set, fetch (handed s cl core slot (set.map (·.1))) cl x.2 (x.2.pc + 4) = .word w2 e2)
    (hd2 : decodeAt w2 e2 = some j) (ha : acceptsPrefix j = true)
    (hb2 : setBusy { s with cur := ⟨cl, core, slot, set.map (·.1), some (fa, fb, sel)⟩ } j = false)
    (hs2 : badSource { s with cur := ⟨cl, core, slot, set.map (·.1), some (fa, fb, sel)⟩ } j = none) :
    planWords s cl core slot = some (.pair (.pfx fa fb sel) j (handed s cl core slot (set.map (·.1)))) := by
  have h0 : fetchSet (handed s cl core slot (set.map (·.1))) 0 = .ok (w, e) :=
    fetchSet_handed h hn fun x hx => by simpa using hf x hx
  have h4 := fetchSet_handed h hn hf2
  unfold handed at *
  obtain ⟨x, l, rfl⟩ := List.exists_cons_of_ne_nil hn
  unfold planWords
  simp only [h, h0, h4, hd, hd2, hb, hb2, hs, hs2, ha]
  rfl

/-- With no timer or message trap due, an issue is that of the slot its core selects. -/
theorem planIssue_eq (ht : timerExpired s cl core = false)
    (hd : ∀ t, s.thread (keyOf cl core slot) = some t →
      timerTrapDue s (keyOf cl core slot) t = false ∧ messageTrapDue s (keyOf cl core slot) t = false) :
    planIssue s cl core slot = planPicked s cl core slot := by
  unfold planIssue
  dsimp only
  split
  next t _ hk =>
    obtain ⟨h1, h2⟩ := hd t hk
    simp only [ht, h1, h2, Bool.false_eq_true, if_false]
  · rfl

/-- The step of an issue that the agenda names, while no budgeted park has lasted its limit. -/
theorem plan_issue {r : State} {rest : List Turn} (hst : stallDue (advance s) = none) (ha : s.agenda = .issue cl core slot :: rest)
    (hr : r = { advance s with agenda := rest }) (hc : clusterRuns r cl = true) : plan s = planIssue r cl core slot := by
  unfold plan
  simp only [hst, takeTurn_advance ha, ← hr, planTurn, hc, if_true]

theorem step_of_run {u : State} (h : plan s = planPicked u cl core slot) (hp : pickSlot u cl core = some slot) {v : State}
    (hw : planWords u cl core slot = some (.run i v)) (hi : WellFormed i = true) :
    step s = exec i (v.noteIssue cl core slot none i) := by
  unfold step
  rw [h, planPicked, if_pos hp, hw]
  exact if_pos hi

theorem step_of_pair {u : State} (h : plan s = planPicked u cl core slot) (hp : pickSlot u cl core = some slot) {v : State}
    {fa fb : BitVec 4} {sel : BitVec 6} (hw : planWords u cl core slot = some (.pair (.pfx fa fb sel) j v))
    (ha : fa.toNat ≤ 11) (hb : fb.toNat ≤ 11) :
    step s = exec j { v.noteIssue cl core slot (some (fa, fb, sel)) j with cur := { v.cur with pfx := some (fa, fb, sel) } } := by
  unfold step
  rw [h, planPicked, if_pos hp, hw]
  dsimp only
  rw [exec_pfx, if_pos ⟨ha, hb⟩, noteIssue_cur]

end Issue

/-- Settles O56: the plan of the turn is the issue of the selected slot, whose words are fetched by every lane of its set. -/
theorem stepRunsTheDecodedInstruction : Obligations.StepRunsTheDecodedInstruction := by
  intro s cl core slot rest r set w e i hst ha hr hc ht hp hdue hset hn u hu hf hd hwf he hb hs
  have hplan := (plan_issue hst ha hr hc).trans (planIssue_eq ht hdue)
  have hd' := decodeAt_ok hd hwf he
  obtain rfl : u = handed r cl core slot (set.map (·.1)) := hu
  refine ⟨fun hi => step_of_run hplan hp (planWords_run hset hn hf hd' hb hs hi) hwf, ?_⟩
  rintro fa fb sel w2 e2 j rfl hf2 hd2 hwf2 he2 hacc hb2 hs2 hfa hfb
  exact step_of_pair hplan hp (planWords_pair hset hn hf hd' hb hs hf2 (decodeAt_ok hd2 hwf2 (.inr he2)) hacc hb2 hs2) hfa hfb

end Sys2Proof.Safety
end

section
/-! Encoding and assembly, fifth part: the events of the copy engine (R208, R249 to R256) and the elements of streams read ahead (R335). -/

namespace Sys2Proof.Safety

open Machine

/-- What one turn of a fold establishes and every turn keeps holds at its end. -/
theorem foldl_establishes {α : Type} {P : State → Prop} {f : State → α → State} (hkeep : ∀ u x, P u → P (f u x)) {y : α} (hy : ∀ u, P (f u y)) :
    ∀ (l : List α) (s : State), y ∈ l → P (l.foldl f s) := by
  have hrest : ∀ (l : List α) (u : State), P u → P (l.foldl f u) := by
    intro l
    induction l with
    | nil => exact fun _ h => h
    | cons x l ih => exact fun u h => ih _ (hkeep u x h)
  intro l
  induction l with
  | nil => exact fun _ h => absurd h List.not_mem_nil
  | cons x l ih =>
    intro s h
    rcases List.mem_cons.1 h with rfl | h
    · exact hrest l _ (hy s)
    · exact ih _ h

variable {s s0 u : State} {cl i k n : Nat} {c : Cmd} {r : Running} {t : Thread}

/-! ### What messages, walks and writes leave of the engines -/

theorem mget_map {α β : Type} (f : α → β) (m : Map α) (k : Nat) : mget (m.map fun e => (e.1, f e.2)) k = (mget m k).map f := by
  induction m with
  | nil => rfl
  | cons e m ih =>
    obtain ⟨j, x⟩ := e
    simp only [List.map_cons, mget_cons, ih]
    split <;> rfl

theorem agentWalks_field {α : Type} (g : State → α) (h : ∀ s part kind keys data, g (State.farRequest s part kind keys data) = g s) (s : State)
    (cl : Nat) (asid : BitVec 16) (sup : Bool) (acc : Access) (l : List (Word × Nat)) : g (s.agentWalks cl asid sup acc l) = g s := by
  unfold State.agentWalks
  split
  · rfl
  · split
    · rfl
    · exact walkReads_field g h ..

theorem copyWalks_field {α : Type} (g : State → α) (h : ∀ s part kind keys data, g (State.farRequest s part kind keys data) = g s) (s : State)
    (cl : Nat) (r : Running) : g (s.copyWalks cl r) = g s :=
  (agentWalks_field g h ..).trans (agentWalks_field g h ..)

@[simp] theorem copyWalks_mem : (s.copyWalks cl r).mem = s.mem := copyWalks_field (·.mem) farRequest_mem ..
@[simp] theorem copyWalks_threads : (s.copyWalks cl r).threads = s.threads := copyWalks_field (·.threads) farRequest_threads ..
@[simp] theorem copyWalks_clusters : (s.copyWalks cl r).clusters = s.clusters := copyWalks_field (·.clusters) farRequest_clusters ..

/-- A cluster whose fault buffers have seen lines invalidated. -/
def pokedBy (lines : List Nat) (c : Cluster) : Cluster :=
  { c with fbf := c.fbf.map fun x => { x with poked := x.poked || x.lines.any lines.contains } }

/-- A field of a cluster that no fault buffer holds is as it was after an invalidation. -/
theorem pokeLines_cluster {α : Type} (g : Cluster → α) (h : ∀ c fbf, g { c with fbf := fbf } = g c) (s : State) (lines : List Nat)
    (cl : Nat) : g ((pokeLines s lines).cluster cl) = g (s.cluster cl) := by
  have hm : mget (pokeLines s lines).clusters cl = (mget s.clusters cl).map (pokedBy lines) := mget_map (pokedBy lines) ..
  unfold State.cluster
  rw [hm]
  cases mget s.clusters cl with
  | none => rfl
  | some c => exact h c _

/-- The same after a write. -/
theorem writeCells_cluster {α : Type} (g : Cluster → α) (h : ∀ c fbf, g { c with fbf := fbf } = g c) (s : State) (cells : List (Nat × Byte))
    (cl : Nat) : g ((s.writeCells cells).cluster cl) = g (s.cluster cl) :=
  pokeLines_cluster g h (plainFrames s _) _ cl

theorem cluster_of_clusters (h : u.clusters = s.clusters) (cl : Nat) : u.cluster cl = s.cluster cl := by
  unfold State.cluster
  rw [h]

@[simp] theorem writeFrom_cluster_cpeRun (cells : List (Nat × Byte)) (j : Nat) :
    ((s.writeFrom cl cells).cluster j).cpeRun = (s.cluster j).cpeRun :=
  (congrArg Cluster.cpeRun (cluster_of_clusters (farRequest_clusters ..) j)).trans (writeCells_cluster _ (fun _ _ => rfl) s cells j)

@[simp] theorem atomicFrom_cluster_cpeRun (op : Nat) (addrs : List Nat) (new : Nat) (x e : Word) (j : Nat) :
    ((s.atomicFrom cl op addrs new x e).cluster j).cpeRun = (s.cluster j).cpeRun :=
  (congrArg Cluster.cpeRun (cluster_of_clusters (farRequest_clusters ..) j)).trans (writeCells_cluster _ (fun _ _ => rfl) s _ j)

@[simp] theorem atomicFrom_threads (op : Nat) (addrs : List Nat) (new : Nat) (x e : Word) :
    (s.atomicFrom cl op addrs new x e).threads = s.threads := farRequest_threads ..

@[simp] theorem atomicFrom_mem (op : Nat) (addrs : List Nat) (new : Nat) (x e : Word) :
    (s.atomicFrom cl op addrs new x e).mem = (s.writeNum addrs new).mem := farRequest_mem ..

theorem writeCells_mem_congr (h : u.mem = s.mem) (cells : List (Nat × Byte)) : (u.writeCells cells).mem = (s.writeCells cells).mem := by
  rw [writeCells_mem, writeCells_mem, h]

/-- The ranges of a running command are registered in the table of its cluster, and nothing else changes (R253). -/
theorem registerRanges_some (h : s.registerRanges cl i r = some s0) :
    s0.mem = s.mem ∧ s0.threads = s.threads ∧ (s0.cluster cl).cpeRun = (s.cluster cl).cpeRun := by
  unfold State.registerRanges at h
  dsimp only at h
  split at h
  · cases h; exact ⟨rfl, rfl, rfl⟩
  · split at h
    · cases h
    · cases h
      exact ⟨rfl, rfl, by rw [cluster_modCluster, if_pos rfl]⟩

/-! ### Grant (R208, R249) -/

/-- The presence of a command's lines at its grant. -/
def markAbsent (s : State) (q : Nat) (lines : List (Nat × Nat)) : State :=
  lines.foldl (fun s l => s.modCluster l.1 fun x => { x with presence := mset x.presence l.2 (.absent q) }) s

theorem markAbsent_cluster {α : Type} (g : Cluster → α) (h : ∀ c p, g { c with presence := p } = g c) (s : State) (q : Nat)
    (lines : List (Nat × Nat)) (j : Nat) : g ((markAbsent s q lines).cluster j) = g (s.cluster j) := by
  refine foldl_field (fun s => g (s.cluster j)) (fun u l => ?_) lines s
  simp only [cluster_modCluster]
  split
  next e => rw [h, e]
  · rfl

theorem markAbsent_mem (s : State) (q : Nat) (lines : List (Nat × Nat)) : (markAbsent s q lines).mem = s.mem := by
  refine foldl_field (·.mem) (fun _ _ => ?_) lines s
  rfl

theorem markAbsent_threads (s : State) (q : Nat) (lines : List (Nat × Nat)) : (markAbsent s q lines).threads = s.threads := by
  refine foldl_field (·.threads) (fun _ _ => ?_) lines s
  rfl

theorem markAbsent_presence (s : State) {q : Nat} {lines : List (Nat × Nat)} {l : Nat × Nat} (hl : l ∈ lines) :
    mget ((markAbsent s q lines).cluster l.1).presence l.2 = some (.absent q) := by
  refine foldl_establishes (P := fun u => mget (u.cluster l.1).presence l.2 = some (.absent q)) (fun u x hu => ?_) (fun u => ?_) lines s hl
  · simp only [cluster_modCluster]
    split
    next e =>
      simp only [mget_mset, ← e, hu]
      split <;> rfl
    · exact hu
  · simp only [cluster_modCluster, if_true, mget_mset]

theorem grantCopy_intoScratch (hc : intoScratch c = true)
    (hl : ∀ l ∈ filledLines s cl c, bankBusy (s.cluster l.1) (l.2 / 2048) = false ∧ ∀ q, mget (s.cluster l.1).presence l.2 ≠ some (.absent q)) :
    s.grantCopy cl c = some ((markAbsent s c.seq (filledLines s cl c)).modCluster cl fun x =>
      { x with cpe := x.cpe.erase c, cpeRun := x.cpeRun ++ [runOf c], rlt := x.rlt ++ [] }) := by
  have hnone : copyEntries s cl c = [] := if_pos hc
  unfold State.grantCopy
  dsimp only
  split
  next hheld =>
    simp only [hc, Bool.true_and, List.any_eq_true] at hheld
    obtain ⟨l, hm, hx⟩ := hheld
    obtain ⟨hb, hp⟩ := hl l hm
    rw [hb, Bool.false_or] at hx
    split at hx
    next q hq => exact absurd hq (hp q)
    · cases hx
  · rw [hnone]
    rfl

theorem cpeGrant_effect (hr : clusterRuns s cl = true) (hq : (s.cluster cl).cpe = [c]) (hc : intoScratch c = true)
    (hl : ∀ l ∈ filledLines s cl c, bankBusy (s.cluster l.1) (l.2 / 2048) = false ∧ ∀ q, mget (s.cluster l.1).presence l.2 ≠ some (.absent q)) :
    ∃ u, exec (.cpeGrant cl) s = .next u ∧ (u.cluster cl).cpe = [] ∧
      (u.cluster cl).cpeRun.map (·.cmd) = (s.cluster cl).cpeRun.map (·.cmd) ++ [c] ∧ u.mem = s.mem ∧ u.threads = s.threads ∧
      ∀ l ∈ filledLines s cl c, mget (u.cluster l.1).presence l.2 = some (.absent c.seq) := by
  have hexec : exec (.cpeGrant cl) s = .next ((s.grantCopy cl c).getD s) := by
    show execCpeGrant cl s = _
    simp only [execCpeGrant, hr, hq, State.grantFirst, List.contains_nil]
    cases s.grantCopy cl c <;> rfl
  rw [grantCopy_intoScratch hc hl] at hexec
  refine ⟨_, hexec, ?_, ?_, markAbsent_mem .., markAbsent_threads .., fun l hm => ?_⟩
  · simp only [Option.getD_some, cluster_modCluster, if_true, markAbsent_cluster (·.cpe) (fun _ _ => rfl), hq]
    exact List.erase_cons_head ..
  · simp only [Option.getD_some, cluster_modCluster, if_true, markAbsent_cluster (·.cpeRun) (fun _ _ => rfl), List.map_append]
    rfl
  · have hp := markAbsent_presence s (q := c.seq) hm
    simp only [Option.getD_some, cluster_modCluster]
    split
    next e => subst e; exact hp
    · exact hp

/-! ### Progress (R251 to R253) -/

/-- A field that no presence of a line is part of is as it was when lines become present. -/
theorem present_field {α : Type} (g : State → α) (h : ∀ s cl (p : Map Presence → Map Presence), g (State.modCluster s cl fun x => { x with presence := p x.presence }) = g s)
    (s : State) (c : Cmd) (m n : Nat) : g (s.present c m n) = g s := by
  refine foldl_field g (fun u l => ?_) _ s
  split
  next j off _ => exact h u j fun p => mdel p (off / 64)
  · rfl

/-- The lines of its scratch destination that a command has passed are present (R208). -/
theorem present_presence {m n j off cl : Nat} (hm : ((copyDst c).toNat + m) / 64 ≤ j)
    (hn : 64 * (j + 1) ≤ (copyDst c).toNat + n ∨ copyTotal c ≤ n ∧ 64 * j < (copyDst c).toNat + n)
    (hs : spotOf (j * 64) = some (.scratch cl off)) : mget ((s.present c m n).cluster cl).presence (off / 64) = none := by
  refine foldl_establishes (P := fun u => mget (u.cluster cl).presence (off / 64) = none) (y := j * 64) (fun u l hu => ?_) (fun u => ?_) _ s ?_
  · split
    · simp only [cluster_modCluster]
      split
      next e =>
        simp only [mget_mdel, ← e, hu]
        split <;> rfl
      · exact hu
    · exact hu
  · simp only [hs, cluster_modCluster, if_true, mget_mdel]
  · have hlast : j < if copyTotal c ≤ n then ((copyDst c).toNat + n + 63) / 64 else ((copyDst c).toNat + n) / 64 := by
      split <;> omega
    refine List.mem_map.2 ⟨j - ((copyDst c).toNat + m) / 64, List.mem_range.2 (by omega), ?_⟩
    rw [Nat.add_sub_cancel' hm]

/-- A running command that has passed `m` bytes (R251 to R253). -/
def passed (r : Running) (m : Nat) : Running :=
  { r with done := m, elems := if r.cmd.fn = 0 ∨ m % elemSize r.cmd = 0 then r.elems.drop 1 else r.elems }

theorem passCopy_field {α : Type} (g : State → α) (h : ∀ s cl f, g (State.modCluster s cl f) = g s) (s : State) (cl i : Nat) (r : Running)
    (m : Nat) : g (s.passCopy cl i r m) = g s := by
  unfold State.passCopy
  dsimp only
  split
  · rw [present_field g fun _ _ _ => h .., State.putCopy, h, h]
  · rw [State.putCopy, h, h]

theorem passCopy_run (hr : (u.cluster cl).cpeRun[i]? = some r) (m : Nat) :
    ((u.passCopy cl i r m).cluster cl).cpeRun[i]? = some (passed r m) := by
  have hkeep : ∀ (v : State) j (p : Map Presence → Map Presence),
      ((v.modCluster j fun x => { x with presence := p x.presence }).cluster cl).cpeRun = (v.cluster cl).cpeRun := by
    intro v j p
    rw [cluster_modCluster]
    split
    next e => rw [e]
    · rfl
  have hi : i < (u.cluster cl).cpeRun.length := (List.getElem?_eq_some_iff.1 hr).1
  unfold State.passCopy
  dsimp only
  split
  · rw [present_field (fun v => (v.cluster cl).cpeRun) hkeep]
    simp only [State.putCopy, cluster_modCluster, if_true, setAt, List.getElem?_set_self hi, passed, Bool.or_eq_true, decide_eq_true_eq]
  · simp only [State.putCopy, cluster_modCluster, if_true, setAt, List.getElem?_set_self hi, passed, Bool.or_eq_true, decide_eq_true_eq]

theorem passCopy_presence {m j off d : Nat} (hc : intoScratch r.cmd = true) (hm : ((copyDst r.cmd).toNat + r.done) / 64 ≤ j)
    (hn : 64 * (j + 1) ≤ (copyDst r.cmd).toNat + m ∨ copyTotal r.cmd ≤ m ∧ 64 * j < (copyDst r.cmd).toNat + m)
    (hs : spotOf (j * 64) = some (.scratch d off)) : mget ((u.passCopy cl i r m).cluster d).presence (off / 64) = none := by
  unfold State.passCopy
  dsimp only
  rw [if_pos hc]
  exact present_presence hm hn hs

/-- A command that goes on, in a cluster that runs and with its issuer's earlier accesses performed, has its ranges registered (R228, R253). -/
theorem cpeLineWritten_eq (hc : clusterRuns s cl = true) (hr : (s.cluster cl).cpeRun[i]? = some r) (hd : issuerDone s r.cmd = true)
    (h0 : s.registerRanges cl i r = some s0) :
    (∀ reads cells m, copyNext s0 cl i r = .write reads cells m → exec (.cpeLineWritten cl i) s =
      .next ((((s0.copyWalks cl r).farRequest (s.partNo cl) 0 reads []).writeFrom cl cells).passCopy cl i r m)) ∧
    (∀ addrs op new operand m, copyNext s0 cl i r = .adds addrs op new operand m → exec (.cpeLineWritten cl i) s =
      .next (((s0.copyWalks cl r).atomicFrom cl op addrs new operand 0).passCopy cl i r m)) ∧
    (∀ elems rlt reads, copyNext s0 cl i r = .taken elems rlt reads → exec (.cpeLineWritten cl i) s =
      .next ((((s0.copyWalks cl r).agentReads cl reads).modCluster cl fun x => { x with rlt := x.rlt ++ rlt }).putCopy cl i
        { r with elems := elems })) := by
  have hruns : copyRuns s cl r = true := by rw [copyRuns, hc]; rfl
  refine ⟨fun reads cells m h => ?_, fun addrs op new operand m h => ?_, fun elems rlt reads h => ?_⟩ <;>
    show execCpeLineWritten cl i s = _ <;>
    simp only [execCpeLineWritten, hr, hruns, hd, h0, h, Bool.not_true, Bool.or_self, Bool.false_eq_true, if_false]

section Line

variable (hc : clusterRuns s cl = true) (hr : (s.cluster cl).cpeRun[i]? = some r) (hd : issuerDone s r.cmd = true)
  (h0 : s.registerRanges cl i r = some s0)
include hc hr hd h0

theorem cpeLineWritten_write {reads : List Nat} {cells : List (Nat × Byte)} {m : Nat} (h : copyNext s0 cl i r = .write reads cells m) :
    ∃ u, exec (.cpeLineWritten cl i) s = .next u ∧ (u.cluster cl).cpeRun[i]? = some (passed r m) ∧
      u.threads = s.threads ∧ u.mem = (s.writeCells cells).mem ∧ (∀ a, a ∉ cells.map (·.1) → memRead u.mem a = memRead s.mem a) ∧
      (intoScratch r.cmd = true → ∀ j c off, ((copyDst r.cmd).toNat + r.done) / 64 ≤ j →
        (64 * (j + 1) ≤ (copyDst r.cmd).toNat + m ∨ copyTotal r.cmd ≤ m ∧ 64 * j < (copyDst r.cmd).toNat + m) →
        spotOf (j * 64) = some (.scratch c off) → mget (u.cluster c).presence (off / 64) = none) := by
  obtain ⟨hmem, hthreads, hrun⟩ := registerRanges_some h0
  have hm : ∀ u : State, (u.passCopy cl i r m).mem = u.mem := fun u => passCopy_field (·.mem) (fun _ _ _ => rfl) ..
  have hw : (((s0.copyWalks cl r).farRequest (s.partNo cl) 0 reads []).writeCells cells).mem = (s.writeCells cells).mem :=
    writeCells_mem_congr (by simp [hmem]) cells
  refine ⟨_, (cpeLineWritten_eq hc hr hd h0).1 reads cells m h, passCopy_run ?_ m, ?_, ?_, fun a ha => ?_,
    fun hs j c off hj hm hspot => passCopy_presence hs hj hm hspot⟩
  · rw [writeFrom_cluster_cpeRun, cluster_of_clusters (farRequest_clusters ..), cluster_of_clusters copyWalks_clusters, hrun, hr]
  · rw [passCopy_field (·.threads) fun _ _ _ => rfl]
    simp [hthreads]
  · rw [hm, writeFrom_mem, hw]
  · rw [hm, writeFrom_mem, hw]
    exact writeCells_other _ _ _ fun x hx e => ha (e ▸ List.mem_map_of_mem hx)

theorem cpeLineWritten_adds {addrs : List Nat} {op new m : Nat} {operand : Word} (h : copyNext s0 cl i r = .adds addrs op new operand m) :
    ∃ u, exec (.cpeLineWritten cl i) s = .next u ∧ (u.cluster cl).cpeRun[i]? = some (passed r m) ∧
      u.threads = s.threads ∧ u.mem = (s.writeNum addrs new).mem ∧ ∀ a, a ∉ addrs → memRead u.mem a = memRead s.mem a := by
  obtain ⟨hmem, hthreads, hrun⟩ := registerRanges_some h0
  have hm : ∀ u : State, (u.passCopy cl i r m).mem = u.mem := fun u => passCopy_field (·.mem) (fun _ _ _ => rfl) ..
  have hw : ((s0.copyWalks cl r).writeNum addrs new).mem = (s.writeNum addrs new).mem := writeCells_mem_congr (by simp [hmem]) _
  refine ⟨_, (cpeLineWritten_eq hc hr hd h0).2.1 addrs op new operand m h, passCopy_run ?_ m, ?_, ?_, fun a ha => ?_⟩
  · rw [atomicFrom_cluster_cpeRun, cluster_of_clusters copyWalks_clusters, hrun, hr]
  · rw [passCopy_field (·.threads) fun _ _ _ => rfl]
    simp [hthreads]
  · rw [hm, atomicFrom_mem, hw]
  · rw [hm, atomicFrom_mem, hw]
    exact writeCells_other _ _ _ fun x hx e => ha (e ▸ (List.of_mem_zip hx).1)

theorem cpeLineWritten_taken {elems : List (Nat × Word)} {rlt : List RltEntry} {reads : List Nat}
    (h : copyNext s0 cl i r = .taken elems rlt reads) :
    ∃ u, exec (.cpeLineWritten cl i) s = .next u ∧ (u.cluster cl).cpeRun[i]? = some { r with elems := elems } ∧
      (u.cluster cl).rlt = (s0.cluster cl).rlt ++ rlt ∧ u.threads = s.threads ∧ u.mem = s.mem := by
  obtain ⟨hmem, hthreads, hrun⟩ := registerRanges_some h0
  have hcl : ((s0.copyWalks cl r).agentReads cl reads).cluster cl = s0.cluster cl :=
    (cluster_of_clusters (farRequest_clusters ..) cl).trans (cluster_of_clusters copyWalks_clusters cl)
  have hi : i < (s0.cluster cl).cpeRun.length := hrun ▸ (List.getElem?_eq_some_iff.1 hr).1
  refine ⟨_, (cpeLineWritten_eq hc hr hd h0).2.2 elems rlt reads h, ?_, ?_, ?_, ?_⟩
  · simp only [State.putCopy, cluster_modCluster, if_true, hcl, setAt, List.getElem?_set_self hi]
  · simp only [State.putCopy, cluster_modCluster, if_true, hcl]
  · exact (farRequest_threads ..).trans (copyWalks_threads.trans hthreads)
  · exact (farRequest_mem ..).trans (copyWalks_mem.trans hmem)

end Line

/-! ### Completion and failure (R249, R255, R256) -/

theorem endCopy_lone (hk : r.cmd.keys = [k]) (ht : s.thread k = some t) : s.endCopy cl i r =
    (s.modCluster cl fun x => { x with cpeRun := dropAt x.cpeRun i, rlt := x.rlt.filter fun e => !(e.engine == 1 && e.seq == r.cmd.seq) }).putThread k
      { t with cp := t.cp - 1 } := by
  unfold State.endCopy
  simp only [hk, List.foldl_cons, List.foldl_nil, thread_modCluster, ht]

theorem cpeCommandComplete_effect (hc : clusterRuns s cl = true) (hr : (s.cluster cl).cpeRun[i]? = some r) (hd : copyTotal r.cmd ≤ r.done)
    (hk : r.cmd.keys = [k]) (ht : s.thread k = some t) :
    ∃ u, exec (.cpeCommandComplete cl i) s = .next u ∧ (u.cluster cl).cpeRun = dropAt (s.cluster cl).cpeRun i ∧
      u.thread k = some { t with cp := t.cp - 1 } ∧ (∀ j, j ≠ k → u.thread j = s.thread j) ∧ u.mem = s.mem := by
  have hexec : exec (.cpeCommandComplete cl i) s = .next (s.endCopy cl i r) := by
    show execCpeCommandComplete cl i s = _
    simp only [execCpeCommandComplete, hr, hc, hd, decide_true, Bool.and_self, if_true]
  rw [endCopy_lone hk ht] at hexec
  refine ⟨_, hexec, ?_, ?_, fun j hj => ?_, rfl⟩
  · rw [cluster_putThread, cluster_modCluster, if_pos rfl]
  · rw [thread_putThread, if_pos rfl]
  · rw [thread_putThread, if_neg hj, thread_modCluster]

/-- The later commands of an issuer are cancelled: only its cp falls (R256). -/
theorem cancelCopies_eq (ht : s.thread k = some t) : s.cancelCopies cl k =
    (s.modCluster cl fun x => { x with cpe := x.cpe.filter fun c => !c.keys.contains k }).putThread k
      { t with cp := t.cp - ((s.cluster cl).cpe.filter fun c => c.keys.contains k).length } := by
  unfold State.cancelCopies
  simp only [thread_modCluster, ht]

theorem failCopy_thread {v : Thread} {d : Nat} {va : Word} (hk : r.cmd.keys = [k])
    (hv : ((s.endCopy cl i r).cancelCopies cl k).thread k = some v) :
    (s.failCopy cl i r d va).mem = ((s.endCopy cl i r).cancelCopies cl k).mem ∧ ∀ j, (s.failCopy cl i r d va).thread j =
      if j = k then some { v with deferred := v.deferred ++ [{ engine := 1, detail := d, value := va, pc := r.cmd.pc }] }
      else ((s.endCopy cl i r).cancelCopies cl k).thread j := by
  have hhead : r.cmd.keys.headD 0 = k := by rw [hk]; rfl
  have hmap : ∀ (u : State) (cs : Map Cluster) (j : Nat), State.thread { u with clusters := cs } j = u.thread j := fun _ _ _ => rfl
  unfold State.failCopy
  simp only [hhead, hmap, hv]
  refine ⟨rfl, fun j => ?_⟩
  rw [thread_putThread, hmap]

theorem failCopy_lone {d : Nat} {va : Word} (hk : r.cmd.keys = [k]) (ht : s.thread k = some t) :
    ∃ m, (s.failCopy cl i r d va).mem = s.mem ∧ ∀ j, (s.failCopy cl i r d va).thread j =
      if j = k then some { t with cp := t.cp - 1 - m, deferred := t.deferred ++ [{ engine := 1, detail := d, value := va, pc := r.cmd.pc }] }
      else s.thread j := by
  have hend : (s.endCopy cl i r).thread k = some { t with cp := t.cp - 1 } := by
    rw [endCopy_lone hk ht, thread_putThread, if_pos rfl]
  have hcancel := cancelCopies_eq (cl := cl) hend
  obtain ⟨hmem, hth⟩ := failCopy_thread (d := d) (va := va) hk (by rw [hcancel, thread_putThread, if_pos rfl])
  refine ⟨(((s.endCopy cl i r).cluster cl).cpe.filter fun c => c.keys.contains k).length, ?_, fun j => ?_⟩
  · rw [hmem, hcancel, endCopy_lone hk ht]
    rfl
  · rw [hth]
    by_cases hj : j = k
    · rw [if_pos hj, if_pos hj]
    · rw [if_neg hj, if_neg hj, hcancel, thread_putThread, if_neg hj, thread_modCluster, endCopy_lone hk ht, thread_putThread, if_neg hj,
        thread_modCluster]

theorem cpeCommandFail_effect {d : Nat} {va : Word} (hc : clusterRuns s cl = true) (hr : (s.cluster cl).cpeRun[i]? = some r)
    (hd : issuerDone s r.cmd = true) (h : copyNext s cl i r = .fail d va) (hk : r.cmd.keys = [k]) (ht : s.thread k = some t) :
    ∃ u v, exec (.cpeCommandFail cl i) s = .next u ∧ u.thread k = some v ∧ v.cp ≤ t.cp - 1 ∧ v.pc = t.pc ∧ v.w = t.w ∧ v.f = t.f ∧ v.p = t.p ∧
      u.mem = s.mem ∧ (∀ j, j ≠ k → u.thread j = s.thread j) ∧
      v.deferred = t.deferred ++ [{ engine := 1, detail := d, value := va, pc := r.cmd.pc }] := by
  have hexec : exec (.cpeCommandFail cl i) s = .next (s.failCopy cl i r d va) := by
    show execCpeCommandFail cl i s = _
    simp only [execCpeCommandFail, hr, hc, hd, h, Bool.not_true, Bool.or_self, Bool.false_eq_true, if_false]
  obtain ⟨m, hmem, hth⟩ := failCopy_lone (d := d) (va := va) hk ht
  exact ⟨_, _, hexec, (hth k).trans (if_pos rfl), Nat.sub_le .., rfl, rfl, rfl, rfl, hmem, fun j hj => (hth j).trans (if_neg hj), rfl⟩

/-! ### The elements of a bound stream (R49, R335) -/

theorem streamElementRead_effect {n : Nat} {addrs : List Nat} (hkey : keyCl k = cl) (hc : clusterRuns s cl = true) (ht : s.thread k = some t)
    (hbound : (streamOf t n).state = .readBound) (hroom : (streamOf t n).ahead.length < 8)
    (hleft : ((streamOf t n).pos + word (streamOf t n).ahead.length).toNat < streamCount (streamOf t n))
    (hout : ∀ o ∈ t.out, outAcquires o = false) (happend : appendDue t = false)
    (hagent : s.agent cl (streamAgent k n) t.asid (xsSUP t.xstat) .read
      (elemAddr (streamOf t n) ((streamOf t n).pos + word (streamOf t n).ahead.length)) 8 = .ok addrs)
    (hready : readReady t.out (opOf s t (.load (.f 0) false)
      (elemAddr (streamOf t n) ((streamOf t n).pos + word (streamOf t n).ahead.length)) addrs [] [] 0 0 0) = true) :
    exec (.streamElementRead k n) s = .next (((s.agentReads cl addrs).agentWalks cl t.asid (xsSUP t.xstat) .read
      [(elemAddr (streamOf t n) ((streamOf t n).pos + word (streamOf t n).ahead.length), 8)]).putThread k (putStream t n
      { streamOf t n with ahead := (streamOf t n).ahead ++ [.value (word (leNat (addrs.map (s.seen t.out))))] })) := by
  have hahead : readsAhead t n = true := by
    have hnone : t.out.any outAcquires = false := by simpa using hout
    simp only [readsAhead, hbound, hroom, hleft, hnone, happend, beq_self_eq_true, decide_true, Bool.not_false, Bool.and_self]
  show execStreamElementRead k n s = _
  simp only [execStreamElementRead, hkey, hc, ht, hahead, Bool.not_true, Bool.false_eq_true, if_false, if_true]
  have hread := hready
  simp only [opOf] at hread
  simp only [State.readAhead, hagent, hread, Bool.not_true, Bool.false_eq_true, if_false]

/-- Settles O38: each event of the copy engine by the branch of its row that the clause's premises choose. The cells, the threads and the
presence of lines are followed through the registration of ranges and the reads, which change none of them. -/
theorem copyEngineEventsComplete : Obligations.CopyEngineEventsComplete := by
  intro s cl hc
  refine ⟨fun c hcpe hs hfree => cpeGrant_effect hc hcpe hs hfree, fun i r s0 hr hd h0 ahead hahead => ?_,
    fun i r k t hr hd hk ht => cpeCommandComplete_effect hc hr hd hk ht,
    fun i r k t d va hr hd h hk ht => cpeCommandFail_effect hc hr hd h hk ht, ?_⟩
  · obtain rfl : ahead = passed r := funext hahead
    exact ⟨fun reads cells m h => cpeLineWritten_write hc hr hd h0 h, fun addrs op new operand m h => cpeLineWritten_adds hc hr hd h0 h,
      fun elems rlt reads h => cpeLineWritten_taken hc hr hd h0 h⟩
  · rintro k t n _ addrs hkey ht rfl hbound hroom hleft hout happend hagent hready
    exact streamElementRead_effect hkey hc ht hbound hroom hleft hout happend hagent hready

end Sys2Proof.Safety
end

section
/-! Opcode map, first part: the forms an instruction refuses trap at their own address with no other effect (R80, R103, R242, R246,
R261, R328). -/

namespace Sys2Proof.Safety

open Machine Laws

variable {s : State} {k n p : Nat} {t t' : Thread} {x : Partition} {va : Word}

/-! ### Taking a trap alone -/

theorem eachLane_lone (h : Lone s k t) (f : State → Nat → Thread → State) : s.eachLane f = .next (f s k t) :=
  congrArg _ (lone_forLanes s k t h f)

/-- A precise trap of a lone thread with a vector changes that thread alone (R80, R413). -/
theorem trap_vectored (h : Lone s k t) (hv : Vectored s k t p x) (cause : Nat) (value : Word) :
    s.trap k t cause value = s.putThread k (trapped t x cause value) := by
  obtain ⟨-, -, hpfx, -⟩ := h
  simp only [State.trap, takeTrap_vectored hv, hpfx, xsSaved, trapped]

/-! ### Who may issue (R103, R104, R246) -/

theorem supOnly_refused (h : Lone s k t) (hsup : xsSUP t.xstat = false) (f : State → State) : s.supOnly f = s.trap k t 4 0 := by
  have hlanes : s.curThreads = [(k, t)] := by simp [State.curThreads, h.1, h.2.1]
  have hall : s.curThreads.all (fun x => xsSUP x.2.xstat) = false := by simp [hlanes, hsup]
  rw [State.supOnly, hall, if_neg Bool.false_ne_true]
  exact lone_forLanes s k t h _

theorem scOnly_refused (h : Lone s k t) (hgc : isSC s.cur.core = false) (f : State → State) : s.scOnly f = s.trap k t 0x12 0 := by
  have hon : s.onGC = true := by simp [State.onGC, hgc]
  rw [State.scOnly, if_pos hon]
  exact lone_forLanes s k t h _

/-! ### Atomics (R242) -/

theorem orMigrate_stays (h : Stays s k t va) (f : State) : s.orMigrate k t va f = f := by
  unfold Stays at h
  simp only [State.orMigrate, h]

theorem atomicLane_misaligned (h : Stays s k t va) (hva : va.toNat % n ≠ 0) (op : Nat) (order : BitVec 2) (scope : BitVec 3)
    (dst : RegRef) (operand expected : Word) : s.atomicLane k t t' op n order scope va dst operand expected = s.trap k t 2 va := by
  rw [State.atomicLane, orMigrate_stays h, if_pos hva]

theorem atomicW_misaligned (h : Lone s k t) {d a b : Reg} {z : BitVec 1} {ord : BitVec 2} {scope : BitVec 3}
    (hstay : Stays s k t (readW t a)) (hva : (readW t a).toNat % (if z = 1 then 8 else 4) ≠ 0) (i : Nat) :
    atomicW s i d a b z ord scope = .next (s.trap k t 2 (readW t a)) := by
  rw [atomicW, eachLane_lone h, atomicLane_misaligned hstay hva]

theorem atomicF_misaligned (h : Lone s k t) (hu : Unbound t) {d a b : Reg} {ord : BitVec 2} {scope : BitVec 3}
    (hstay : Stays s k t (readW t a)) (hva : (readW t a).toNat % n ≠ 0) (op : Nat) :
    atomicF s op n d a b ord scope = .next (s.trap k t 2 (readW t a)) := by
  rw [atomicF, eachLane_lone h, withF_unbound _ _ _ hu, atomicLane_misaligned hstay hva]

/-! ### Handles and groups (R261, R328) -/

theorem withQueue_refused {h : Word} (hq : queueOf h = none) (f : Nat → Nat → State) : s.withQueue k t h f = s.trap k t 0x14 0 := by
  simp only [State.withQueue, hq]

theorem withGroup_refused {g : Nat} (hg : s.groupFor k t g = none) (f : Nat → Group → State) :
    s.withGroup k t g f = s.trap k t 0x12 0 := by
  simp only [State.withGroup, hg]

/-! ### The refused forms -/

theorem cinval_refused (h : Lone s k t) (hsup : xsSUP t.xstat = false) (a : Reg) : exec (.cinval a) s = .next (s.trap k t 4 0) :=
  congrArg _ (supOnly_refused h hsup _)

/-- Each integer atomic is `atomicW` with its operation's number (Table 3.13). -/
theorem integerAtomic_misaligned (h : Lone s k t) {d a b : Reg} {z : BitVec 1} {ord : BitVec 2} {scope : BitVec 3}
    (hstay : Stays s k t (readW t a)) (hva : (readW t a).toNat % (if z = 1 then 8 else 4) ≠ 0) :
    ∀ i ∈ [Instr.aadd d a b z ord scope, .aand d a b z ord scope, .aor d a b z ord scope, .axor d a b z ord scope,
      .amin d a b z ord scope, .amax d a b z ord scope, .aminu d a b z ord scope, .amaxu d a b z ord scope,
      .aswap d a b z ord scope, .acas d a b z ord scope], exec i s = .next (s.trap k t 2 (readW t a)) := by
  have hrow : ∀ j, atomicW s j d a b z ord scope = .next (s.trap k t 2 (readW t a)) := atomicW_misaligned h hstay hva
  simp only [List.forall_mem_cons, List.not_mem_nil, false_implies, implies_true, and_true]
  exact ⟨hrow 0, hrow 1, hrow 2, hrow 3, hrow 4, hrow 5, hrow 6, hrow 7, hrow 8, hrow 9⟩

theorem queueInstr_refused (h : Lone s k t) {d a b : Reg} (hq : queueOf (readW t a) = none) :
    ∀ i ∈ [Instr.qpush a b, .qpop d a, .qtry d a, .qlen d a], exec i s = .next (s.trap k t 0x14 0) := by
  have hrow : ∀ f : State → Nat → Thread → Nat → Nat → State,
      (s.eachLane fun s k t => s.withQueue k t (readW t a) (f s k t)) = .next (s.trap k t 0x14 0) := fun _ =>
    (eachLane_lone h _).trans (congrArg _ (withQueue_refused hq _))
  simp only [List.forall_mem_cons, List.not_mem_nil, false_implies, implies_true, and_true]
  exact ⟨hrow _, hrow _, hrow _, hrow _⟩

theorem scInstr_refused (h : Lone s k t) (hgc : isSC s.cur.core = false) (d a b : Reg) (e : BitVec 4) (off : BitVec 20) :
    ∀ i ∈ [Instr.spawn d a b, .migrate a, .gcall off, .wlpush a b, .wlpop e, .rqpush a b, .rqpop d, .timer a],
      exec i s = .next (s.trap k t 0x12 0) := by
  have hrow : ∀ f : State → State, (.next (s.scOnly f) : Out) = .next (s.trap k t 0x12 0) :=
    fun f => congrArg _ (scOnly_refused h hgc f)
  simp only [List.forall_mem_cons, List.not_mem_nil, false_implies, implies_true, and_true]
  exact ⟨hrow _, hrow _, hrow _, hrow _, hrow _, hrow _, hrow _, hrow _⟩

theorem barrierInstr_refused (h : Lone s k t) {g : BitVec 8} (hg : s.groupFor k t g.toNat = none) (d : Reg) :
    ∀ i ∈ [Instr.bsync g, .barv g, .bwait g, .bquery d g], exec i s = .next (s.trap k t 0x12 0) := by
  have hrow : ∀ f : State → Nat → Thread → Nat → Group → State,
      (s.eachLane fun s k t => s.withGroup k t g.toNat (f s k t)) = .next (s.trap k t 0x12 0) := fun _ =>
    (eachLane_lone h _).trans (congrArg _ (withGroup_refused hg _))
  simp only [List.forall_mem_cons, List.not_mem_nil, false_implies, implies_true, and_true]
  exact ⟨hrow _, hrow _, hrow _, hrow _⟩

/-- Settles O22: each refused form is the precise trap of its rule (`cinval_refused`, `integerAtomic_misaligned` and the others), and that
trap changes its own thread alone (`trap_vectored`). -/
theorem refusedFormsTrapWithNoOtherEffect : Obligations.RefusedFormsTrapWithNoOtherEffect := by
  have htrap : ∀ {s k t p x}, Lone s k t → s.partOf (keyCl k) = some (p, x) → x.svcbase ≠ 0 → tcV t.tcause = false →
      ∀ cause value, (.next (s.trap k t cause value) : Out) =
        .next (s.putThread k (trapped t x cause value)) :=
    fun h hp hb hv cause value => congrArg _ (trap_vectored h ⟨hp, hb, hv⟩ cause value)
  refine ⟨fun s k t p x h hsup hp hb hv a => (cinval_refused h hsup a).trans (htrap h hp hb hv ..), ?_,
    fun s k t p x h hp hb hv d a b hq i hi => (queueInstr_refused h hq i hi).trans (htrap h hp hb hv ..),
    fun s k t p x h hgc hp hb hv d a b e off i hi => (scInstr_refused h hgc d a b e off i hi).trans (htrap h hp hb hv ..),
    fun s k t p x h hp hb hv g d hg i hi => (barrierInstr_refused h hg d i hi).trans (htrap h hp hb hv ..)⟩
  rintro s k t p x h hp hb hv d a b z ord scope hstay _ rfl
  exact ⟨fun hva i hi => (integerAtomic_misaligned h hstay hva i hi).trans (htrap h hp hb hv ..),
    fun hu hva => (atomicF_misaligned h hu hstay hva 20).trans (htrap h hp hb hv ..),
    fun hu hva => (atomicF_misaligned h hu hstay hva 21).trans (htrap h hp hb hv ..)⟩

end Sys2Proof.Safety
end

section
/-! Opcode map, second part: a fence that waits for earlier stores waits for the append a load is still to make (R50, R221, R243). -/

namespace Sys2Proof.Safety

open Machine

variable {s : State} {k : Nat} {t : Thread} {o : OutOp}

theorem parkOver_fence_of_makesAppend (ho : o ∈ t.out) (ha : makesAppend t o = true) (ld : Bool) :
    parkOver s k t (.fence ld true) = false := by
  refine List.all_eq_false.2 ⟨o, ho, ?_⟩
  simp [ha]

/-- A fence of stores behind a load into a write-bound f register parks: that load's append is an earlier store still to be performed. -/
theorem fence_parks_of_makesAppend (h : Lone s k t) (ho : o ∈ t.out) (ha : makesAppend t o = true) {pairs : BitVec 4}
    (hst : (pairs.getLsbD 1 || pairs.getLsbD 0) = true) (scope : BitVec 3) :
    exec (.fence pairs scope) s = .next (s.parkAt k t (.fence (pairs.getLsbD 3 || pairs.getLsbD 2 || pairs.getLsbD 1) true)) := by
  refine (eachLane_lone h _).trans (congrArg _ ?_)
  rw [hst, State.fenceLane, parkOver_fence_of_makesAppend ho ha, if_neg Bool.false_ne_true]

theorem parked_pc (t : Thread) (why : ParkWhy) (cyc : Nat) : (parked t why cyc).pc = t.pc := by
  unfold parked
  split
  · split <;> rfl
  · rfl

/-- A lane that the instruction leaves at its own PC has not retired there. -/
theorem not_laneEffect_retired_of_parkAt (h : Lone s k t) {i : Instr} {why : ParkWhy} (hi : exec i s = .next (s.parkAt k t why)) :
    ¬ LaneEffect i s fun _ t => retired t (t.pc + 4) := by
  rintro ⟨u, hu, -, -, hlanes⟩
  obtain ⟨hkeys, ht, -, -⟩ := h
  obtain rfl : s.parkAt k t why = u := by simpa using hi.symm.trans hu
  have hk := hlanes k (by simp [hkeys])
  rw [ht, State.parkAt, thread_putThread, if_pos rfl] at hk
  have hpc : t.pc = t.pc + 4 := by simpa [parked_pc, retired] using congrArg (Option.map Thread.pc) hk
  bv_omega

theorem ready_of_lone (h : Lone s k t) : Ready s := by
  obtain ⟨hkeys, ht, hpfx, hss⟩ := h
  refine ⟨by simp [hkeys], hpfx, fun j hj v hv => ?_⟩
  obtain rfl : j = k := by simpa [hkeys] using hj
  obtain rfl : t = v := Option.some.inj (ht.symm.trans hv)
  exact hss

/-! ### A load outstanding into f28, bound for appends -/

/-- An `ldf` of eight bytes into f28, still to be performed. -/
def appendingLoad : OutOp :=
  { kind := .load (.f 28) false, addrs := List.range 8, data := [], order := 0, scope := 0, pc := 0x10000, serial := 0, inst := 0,
    lines := [], va := 0 }

/-- The thread after that `ldf`, with f28 bound to a stream it appends to. -/
def appendingThread : Thread :=
  { Thread.zero with
    pc := 0x10004
    streams := Thread.zero.streams.set 0 { Stream.reset with state := .writeBound, cfg := true }
    ld := 1
    out := [appendingLoad]
    busy := [.f 28] }

/-- That thread alone in slot 0 of core 0 of cluster 0, issuing. -/
def appendingState : State :=
  { State.reset with threads := [(0, appendingThread)], cur := { cl := 0, core := 0, slot := 0, lanes := [0], pfx := none } }

theorem appendingState_lone : Lone appendingState 0 appendingThread := ⟨rfl, rfl, rfl, rfl⟩

/-- Refutes O19, by its clause on `fence`: a store-store fence whose only earlier operation is a load into the write-bound f28. That load
writes no memory itself, as the clause asks, but its append is still to be made (R50), and the fence parks. -/
theorem not_prefetchFencesAndCacheOperationsComplete : ¬ Obligations.PrefetchFencesAndCacheOperationsComplete := by
  intro h
  obtain ⟨-, hfence, -⟩ := h appendingState (ready_of_lone appendingState_lone) 0 0 0 0 1 0
  have hparks := fence_parks_of_makesAppend (pairs := 1) appendingState_lone (List.mem_singleton_self appendingLoad) rfl rfl 0
  refine not_laneEffect_retired_of_parkAt appendingState_lone hparks (hfence fun k hk t ht o ho => ?_)
  obtain rfl : k = 0 := List.mem_singleton.1 hk
  obtain rfl : appendingThread = t := Option.some.inj ht
  obtain rfl : o = appendingLoad := List.mem_singleton.1 ho
  exact ⟨fun hld => absurd hld (by decide), fun _ => rfl⟩

end Sys2Proof.Safety
end

section
/-! Arithmetic formats: signed zeros, the invalid product, the tie of mode 0, and the values a backup and a score read (R118, R123, R366,
R369). -/

namespace Sys2Proof.Safety

open Machine

/-! ### Zeros of opposite sign (R123, R148) -/

theorem minMax_min_zero_negZero (e1 e2 : Int) : minMax false (.fin false 0 e1) (.fin true 0 e2) = (1, {}) := by
  have hlt : ∀ n1 n2 e1 e2, ltV (.fin n1 0 e1) (.fin n2 0 e2) = false := fun _ _ _ _ => by simp [ltV, scaled]
  have hbefore : beforeV (.fin true 0 e2) (.fin false 0 e1) = true := by simp [beforeV, eqV, hlt, isNan, negOf]
  simp [minMax, hbefore, isNan, isSig]

theorem addV_zero_negZero (rm : Nat) (e1 e2 : Int) : addV rm (.fin false 0 e1) (.fin true 0 e2) = ⟨.fin (rm == 2) 0 0, {}⟩ := rfl

theorem mulV_zero_inf (n b : Bool) (e : Int) : mulV (.fin n 0 e) (.inf b) = invalid := rfl

/-! ### Rounding (R118) -/

theorem roundTo_zero {f : Fmt} {p : FpPar} (hp : fpPar f = some p) (scale rm : Nat) (sat : Bool) (draw : Nat) (neg : Bool) (e : Int) :
    roundTo f scale rm sat draw (.fin neg 0 e) = ⟨signed p neg 0, noFlags⟩ := by
  simp only [roundTo, hp, roundFp, if_true]

theorem roundExact_zero {f : Fmt} {p : FpPar} (hp : fpPar f = some p) (sm : Bool) (rm : Nat) (sat neg : Bool) (e : Int) (flags : Flags) :
    (roundExact sm f rm sat ⟨.fin neg 0 e, flags⟩).bits = signed p neg 0 := by
  simp [roundExact, roundFlush, hp, roundTo_zero hp]

/-- A magnitude at or above its quantum is a multiple of it. -/
theorem roundUnits_exact {e q : Int} (h : q ≤ e) (rm : Nat) (neg : Bool) (m draw : Nat) :
    roundUnits rm neg m e q draw = (m * 2 ^ (e - q).toNat, false) := by
  simp [roundUnits, inUnits, h]

/-- Half a quantum past the multiple `n`, mode 0 takes whichever of `n` and `n + 1` is even. -/
theorem roundUnits_tie (neg : Bool) (n : Nat) (e : Int) (draw : Nat) :
    roundUnits 0 neg (2 * n + 1) e (e + 1) draw = (n + n % 2, true) := by
  have hunits : inUnits (2 * n + 1) e (e + 1) = (n, 1, 2) := by
    simp [inUnits, show ¬ e + 1 ≤ e by omega]
    omega
  rcases Nat.mod_two_eq_zero_or_one n with hn | hn <;> simp [roundUnits, hunits, roundsUp, hn, bit01]

/-- 2^25 − 1 lies half way between two codes of FP32 (their quantum is 2), and the even one is that of 2^25. -/
theorem roundTo_f32_tie : (roundTo .f32 0 0 false 0 (.fin false (2 ^ 25 - 1) 0)).bits = 0x4C000000 := by
  have hq : quantum ⟨23, 8, 127⟩ (2 ^ 25 - 1) 0 = 0 + 1 := by decide
  have hr : roundUnits 0 false (2 ^ 25 - 1) 0 (0 + 1) 0 = (2 ^ 24, true) := roundUnits_tie false (2 ^ 24 - 1) 0 0
  simp only [roundTo, fpPar, roundFp, hq, hr]
  decide

/-! ### Values of FP32 words (R109, R110) -/

theorem f32Val_one (neg : Bool) : f32Val (signed ⟨23, 8, 127⟩ neg 0x3F800000) = .fin neg (2 ^ 23) (-23) := by
  cases neg <;> decide

theorem f32Val_zero (neg : Bool) : f32Val (signed ⟨23, 8, 127⟩ neg 0) = .fin neg 0 (-149) := by
  cases neg <;> decide

theorem f32Val_inf (neg : Bool) : f32Val (signed ⟨23, 8, 127⟩ neg 0x7F800000) = .inf neg := by
  cases neg <;> decide

theorem f32Val_canonicalNaN : f32Val (canonicalNaN .f32) = .nan false := by decide

/-! ### Backed-up values and scores (R366, R369) -/

theorem backupValue_nan {bits : Nat} {sig : Bool} (h : f32Val bits = .nan sig) : backupValue bits = none := by
  simp only [backupValue, h]

theorem backupValue_inf {bits : Nat} {neg : Bool} (h : f32Val bits = .inf neg) :
    backupValue bits = some (if neg then -(2 ^ 63) else 2 ^ 63 - 1) := by
  simp only [backupValue, h]

/-- A value that is a multiple of 2^−30 is backed up without rounding. -/
theorem backupValue_fin {bits m : Nat} {neg : Bool} {e : Int} (h : f32Val bits = .fin neg m e) (he : -30 ≤ e) :
    backupValue bits = some (max (-(2 ^ 63)) (min (2 ^ 63 - 1)
      (if neg then -((m * 2 ^ (e + 30).toNat : Nat) : Int) else (m * 2 ^ (e + 30).toNat : Nat)))) := by
  simp only [backupValue, h, roundUnits_exact (show 0 ≤ e + 30 by omega), Int.sub_zero]

theorem steBetter_of_isNan_left {x : Nat} (hx : isNan (f32Val x) = true) (y : Nat) : steBetter x y = false := by
  simp [steBetter, hx]

theorem steBetter_of_isNan_right {x y : Nat} (hx : isNan (f32Val x) = false) (hy : isNan (f32Val y) = true) : steBetter x y = true := by
  simp [steBetter, hx, hy]

/-- Settles O12: each corner is its operation's law (`minMax_min_zero_negZero`, `roundUnits_tie`, `backupValue_fin` and the others) at the
values of the words named. -/
theorem arithmeticCornersHaveTheirValues : Obligations.ArithmeticCornersHaveTheirValues := by
  have hz : valueOf .f32 0 0 = .fin false 0 (-149) := f32Val_zero false
  have hnz : valueOf .f32 0 0x80000000 = .fin true 0 (-149) := f32Val_zero true
  have hinf : valueOf .f32 0 0x7F800000 = .inf false := f32Val_inf false
  have hsum : ∀ rm, (roundExact false .f32 rm false (addV rm (valueOf .f32 0 0) (valueOf .f32 0 0x80000000))).bits =
      signed ⟨23, 8, 127⟩ (rm == 2) 0 := fun rm => by
    rw [hz, hnz, addV_zero_negZero, roundExact_zero rfl]
  refine ⟨⟨?_, hsum 0, hsum 2, ?_, roundTo_f32_tie⟩, backupValue_fin (f32Val_one false) (by decide),
    backupValue_fin (f32Val_one true) (by decide), backupValue_inf (f32Val_inf false), backupValue_inf (f32Val_inf true),
    backupValue_nan f32Val_canonicalNaN, fun x y hx => steBetter_of_isNan_left hx y, fun x y => steBetter_of_isNan_right⟩
  · simp only [minMaxBits, flushBits, Bool.false_and, Bool.false_eq_true, if_false, hz, hnz, minMax_min_zero_negZero]
  · rw [hz, hinf, mulV_zero_inf, invalid]

end Sys2Proof.Safety
end

section
/-! Arithmetic instructions, first part: whatever issues is a set of distinct ready lanes at one PC (R136, R287, R289). -/

namespace Sys2Proof.Safety

open Machine

/-! ### Keys of thread positions (R24) -/

theorem keyThr_keyOf (cl core : Nat) {thr : Nat} (h : thr < 256) : keyThr (keyOf cl core thr) = thr := by
  unfold keyThr keyOf
  omega

theorem keyCore_keyOf (cl : Nat) {core thr : Nat} (hc : core < 20) (h : thr < 256) : keyCore (keyOf cl core thr) = core := by
  unfold keyCore keyOf
  omega

/-! ### Ready lanes and the issuing set -/

section

variable {s : State} {cl core slot : Nat}

theorem lt_of_mem_slotLanes {l : Nat} (h : l ∈ slotLanes s cl core slot) : l < 32 ∧ (isSC core = true → l = 0) := by
  unfold slotLanes at h
  split at h
  next hc => simp_all
  next hc =>
    split at h
    · cases h
    · exact ⟨List.mem_range.1 (List.mem_of_mem_filter h), fun hs => absurd hs hc⟩

theorem slotLanes_nodup : (slotLanes s cl core slot).Nodup := by
  unfold slotLanes
  split
  · exact List.nodup_singleton 0
  · split
    · exact List.nodup_nil
    · exact List.nodup_range.filter _

theorem mem_readyLanes {x : Nat × Thread} (h : x ∈ readyLanes s cl core slot) :
    x.1 ∈ slotLanes s cl core slot ∧ isReady s (keyOf cl core (thrOf core slot x.1)) x.2 = true := by
  obtain ⟨l, hl, h⟩ := List.mem_filterMap.1 h
  dsimp only at h
  split at h
  · split at h
    next hr =>
      cases h
      exact ⟨hl, (Bool.and_eq_true _ _ ▸ hr).1⟩
    · cases h
  · cases h

theorem readyLanes_nodup : ((readyLanes s cl core slot).map (·.1)).Nodup := by
  unfold readyLanes
  rw [List.map_filterMap]
  refine slotLanes_nodup.filterMap fun l l' n hn hn' => ?_
  have hlane : ∀ {l}, n ∈ (match s.thread (keyOf cl core (thrOf core slot l)) with
      | some t => if isReady s (keyOf cl core (thrOf core slot l)) t && !yielding s cl core slot l then some (l, t) else none
      | none => none).map (fun x : Nat × Thread => x.1) → l = n := by
    intro l h
    split at h
    · split at h
      · exact Option.some.inj h
      · cases h
    · cases h
  exact (hlane hn).trans (hlane hn').symm

/-- The issuing set is the ready lanes that stand at its PC. -/
theorem issuingSet_eq_filter (h : issuingSet s cl core slot ≠ []) :
    ∃ pc, issuingSet s cl core slot = (readyLanes s cl core slot).filter fun x => x.2.pc == pc := by
  unfold issuingSet at h ⊢
  dsimp only at h ⊢
  split
  next hm => simp [hm] at h
  next m _ => exact ⟨m.2.pc, rfl⟩

/-- A planned instruction runs in the issuing set of its slot, and nothing else of the state has changed. -/
theorem planWords_handed {i : Instr} {t : State}
    (h : planWords s cl core slot = some (.run i t) ∨ ∃ p, planWords s cl core slot = some (.pair p i t)) :
    issuingSet s cl core slot ≠ [] ∧ t = handed s cl core slot ((issuingSet s cl core slot).map (·.1)) := by
  unfold planWords at h
  split at h
  · simp at h
  next hne =>
    refine ⟨hne, ?_⟩
    dsimp only at h
    unfold handed
    repeat' split at h
    all_goals simp_all

theorem thread_handed (s : State) (cl core slot : Nat) (lanes : List Nat) (k : Nat) :
    (handed s cl core slot lanes).thread k = s.thread k := rfl

theorem laneOf_keyOf_thrOf (hc : core < 20) (hs : slot < if isSC core then 16 else 8) {l : Nat} (hl : l ∈ slotLanes s cl core slot) :
    laneOf (keyCore (keyOf cl core (thrOf core slot l))) (keyThr (keyOf cl core (thrOf core slot l))) = l := by
  obtain ⟨hlt, h0⟩ := lt_of_mem_slotLanes hl
  unfold thrOf laneOf
  split
  next h =>
    rw [if_pos h] at hs
    rw [keyCore_keyOf cl hc (by omega), if_pos h, h0 h]
  next h =>
    rw [if_neg h] at hs
    rw [keyCore_keyOf cl hc (by omega), if_neg h, keyThr_keyOf cl core (by omega)]
    omega

end

/-- Settles O57: the lanes are those of the issuing set, which filters the ready lanes of the slot by one PC. -/
theorem anIssuingSetIsReadyLanesAtOnePc : Obligations.AnIssuingSetIsReadyLanesAtOnePc := by
  intro s cl core slot i t hcore hslot hplan
  obtain ⟨hne, rfl⟩ := planWords_handed hplan
  obtain ⟨pc, hset⟩ := issuingSet_eq_filter hne
  have hmem : ∀ k ∈ (handed s cl core slot ((issuingSet s cl core slot).map (·.1))).curKeys, ∃ x ∈ issuingSet s cl core slot,
      k = keyOf cl core (thrOf core slot x.1) := by
    intro k hk
    obtain ⟨l, hl, rfl⟩ := List.mem_map.1 hk
    obtain ⟨x, hx, rfl⟩ := List.mem_map.1 hl
    exact ⟨x, hx, rfl⟩
  have hready : ∀ x ∈ issuingSet s cl core slot, x ∈ readyLanes s cl core slot ∧ x.2.pc = pc := fun x hx => by
    rw [hset, List.mem_filter] at hx
    exact ⟨hx.1, beq_iff_eq.1 hx.2⟩
  have hlanes : (handed s cl core slot ((issuingSet s cl core slot).map (·.1))).curKeys.map (fun k => laneOf (keyCore k) (keyThr k)) =
      (issuingSet s cl core slot).map (·.1) := by
    simp only [State.curKeys, handed, List.map_map]
    refine List.map_congr_left fun x hx => ?_
    exact laneOf_keyOf_thrOf hcore hslot (mem_readyLanes (hready x hx).1).1
  have hdistinct : DistinctLanes (handed s cl core slot ((issuingSet s cl core slot).map (·.1))) := by
    unfold DistinctLanes
    rw [hlanes, hset]
    exact readyLanes_nodup.sublist (List.filter_sublist.map _)
  refine ⟨hdistinct.of_map, hdistinct, fun k hk => ?_, rfl, rfl, rfl, pc, fun k hk y hy => ?_⟩
  · obtain ⟨x, hx, rfl⟩ := hmem k hk
    rw [thread_handed, thread_of_mem_issuingSet hx]
    rfl
  · obtain ⟨x, hx, rfl⟩ := hmem k hk
    obtain ⟨hx', hpc⟩ := hready x hx
    rw [thread_handed, thread_of_mem_issuingSet hx, Option.some.injEq] at hy
    subst hy
    exact ⟨hpc, (mem_readyLanes hx').2⟩

end Sys2Proof.Safety
end

section
/-! Arithmetic instructions, second part: scalar floating point, packed narrow arithmetic, conversions and the special functions (R89 to R92,
R124 to R127, R148 to R160). -/

namespace Sys2Proof.Safety

open Machine Laws

/-! ### An instruction that runs a job -/

section

variable {s : State}

/-- A job that meets no subnormal under SM = 0 is its instruction's effect (R127, R148). -/
theorem laneF_runJob (h : ReadyPair s) (hu : AllUnbound s) (j : FpJob) {i : Instr} (hi : exec i s = runJob s j i) {r : Thread → Rounded}
    (hr : j.result = r) (hn : NoAssist s j.subs) : LaneF i s j.dst r := by
  subst hr
  unfold LaneF LaneEffect
  rw [hi]
  exact runJob_effect s h hu j i hn

/-- An operation of f registers that takes no assist is its instruction's effect. -/
theorem laneF_fOp (h : Ready s) (hu : AllUnbound s) (srcs : List Reg) (d : Reg) {r : Thread → Rounded} {i : Instr}
    (hi : exec i s = fOp s srcs d r) : LaneF i s d r := by
  unfold LaneF LaneEffect
  rw [hi]
  exact fOp_effect s (readyPair_of_ready s h) hu srcs d r

end

/-- Settles O7: each instruction runs the job whose result is one rounding of its exact value. -/
theorem floatArithmeticCompletes : Obligations.FloatArithmeticCompletes := by
  rintro s h hu d a b p _ rfl round x y z hround hx hy hz
  obtain rfl : round = fun t e => roundExact (xsSM t.xstat) (precFmt p) (rmOf t) false e := funext₂ hround
  obtain rfl : x = fun t => operandV (precFmt p) t a := funext hx
  obtain rfl : y = fun t => operandV (precFmt p) t b := funext hy
  obtain rfl : z = fun t => operandV (precFmt p) t d := funext hz
  have hp := readyPair_of_ready s h
  refine ⟨laneF_runJob hp hu (fsqrtJob d a p) rfl rfl, fun hn => ⟨?_, ?_, ?_, ?_⟩, fun hn => ⟨?_, ?_, ?_, ?_⟩⟩
  · exact laneF_runJob hp hu (faddJob d a b p) rfl rfl hn
  · exact laneF_runJob hp hu (fsubJob d a b p) rfl rfl hn
  · exact laneF_runJob hp hu (fmulJob d a b p) rfl rfl hn
  · exact laneF_runJob hp hu (fdivJob d a b p) rfl rfl hn
  · exact laneF_runJob hp hu (fmaddJob d a b p) rfl rfl hn
  · exact laneF_runJob hp hu (fmsubJob d a b p) rfl rfl hn
  · exact laneF_runJob hp hu (fnmaddJob d a b p) rfl rfl hn
  · exact laneF_runJob hp hu (fnmsubJob d a b p) rfl rfl hn

/-! ### Packed narrow arithmetic (R158 to R160) -/

section

variable {s : State} {e : BitVec 4} {dot : Bool} {F : Fmt} {job : Fmt → FpJob} {i : Instr}

theorem runNarrow_some (h : narrowFmt e dot s.cur.pfx = some F) : runNarrow s e dot job i = runJob s (job F) i := by
  simp only [runNarrow, h]

theorem runNarrow_none (h : narrowFmt e dot s.cur.pfx = none) : runNarrow s e dot job i = .next (s.trapAll 1) := by
  simp only [runNarrow, h]
  rfl

/-- A packed instruction of a format it supports runs its job. -/
theorem laneF_runNarrow (h : ReadyPair s) (hu : AllUnbound s) (hF : narrowFmt e dot s.cur.pfx = some F) (job : Fmt → FpJob)
    (hi : exec i s = runNarrow s e dot job i) {r : Thread → Rounded} (hr : (job F).result = r) (hn : NoAssist s (job F).subs) :
    LaneF i s (job F).dst r :=
  laneF_runJob h hu (job F) (hi.trans (runNarrow_some hF)) hr hn

end

/-- Settles O11: each instruction runs the packed job of its format, and without one traps. -/
theorem packedNarrowCompletes : Obligations.PackedNarrowCompletes := by
  intro s h hu d a b e sat
  refine ⟨fun F hF x y z hx hy hz R hR => ?_, fun F hF hn => ?_, fun hF i hi => ?_, fun hF => runNarrow_none hF⟩
  · obtain rfl : x = fun j t => elemV F t j a := funext₂ hx
    obtain rfl : y = fun j t => elemV F t j b := funext₂ hy
    obtain rfl : z = fun j t => elemV F t j d := funext₂ hz
    obtain rfl : R = fun f t => packElems F fun j => roundExact (narrowSM F t) F (rmOf t) (sat == 1) (f t j) := funext₂ hR
    have hab : (fun t => [a, b].any (elemSub F t)) = fun t => elemSub F t a || elemSub F t b := by simp
    have habd : (fun t => [a, b, d].any (elemSub F t)) = fun t => elemSub F t a || elemSub F t b || elemSub F t d := by simp [Bool.or_assoc]
    refine ⟨fun hn => ?_, fun hn => ?_⟩
    · have hn' : NoAssist s fun t => [a, b].any (elemSub F t) := hab ▸ hn
      refine ⟨?_, ?_, ?_, ?_, ?_⟩
      · exact laneF_runNarrow h hu hF (fun f => naddJob f d a b sat) rfl rfl hn'
      · exact laneF_runNarrow h hu hF (fun f => nsubJob f d a b sat) rfl rfl hn'
      · exact laneF_runNarrow h hu hF (fun f => nmulJob f d a b sat) rfl rfl hn'
      · exact laneF_runNarrow h hu hF (fun f => jobNarrowMin f d a b false) rfl rfl hn
      · exact laneF_runNarrow h hu hF (fun f => jobNarrowMin f d a b true) rfl rfl hn
    · have hn' : NoAssist s fun t => [a, b, d].any (elemSub F t) := habd ▸ hn
      exact laneF_runNarrow h hu hF (fun f => nfmaJob f d a b sat) rfl rfl hn'
  · exact laneF_runNarrow h hu hF (fun f => jobDot f d a b sat) rfl rfl hn
  · simp only [List.mem_cons, List.not_mem_nil, or_false] at hi
    obtain rfl | rfl | rfl | rfl | rfl | rfl := hi <;> exact runNarrow_none hF

/-! ### Minimum, maximum, signs, moves, compares, class and integral value (R149 to R152) -/

section

variable {s : State}

/-- With `pfx` clear the next instruction is four bytes on (R55). -/
theorem laneEffect_of_width (h : Ready s) {i : Instr} {g : Thread → Thread}
    (hi : LaneEffect i s fun _ t => retired (g t) (t.pc + s.width)) : LaneEffect i s fun _ t => retired (g t) (t.pc + 4) := by
  rwa [width_none s h.2.1] at hi

/-- An instruction that retires in every lane with the registers `g` gives it, past the stream rules of its f operands. -/
theorem withF_finish_effect (h : ReadyPair s) (hu : AllUnbound s) (srcs : List Reg) (dst : Option Reg) (g : Thread → Thread) {i : Instr}
    (hi : exec i s = s.eachLane fun s k t => s.withF k t srcs dst fun t' => s.finish k t (g t')) :
    LaneEffect i s fun _ t => retired (g t) (t.pc + s.width) := by
  unfold LaneEffect
  rw [hi]
  exact eachLane_effect s h.1 _ _ fun ts k hk t ht => by
    rw [withF_unbound _ _ _ (hu k hk t ht)]
    exact finish_eq _ _ _ _ (h.2 k hk t ht)

/-- The same for one that writes f[d]; `g` leaves the streams as they are. -/
theorem withF_finishF_effect (h : ReadyPair s) (hu : AllUnbound s) (srcs : List Reg) (d : Reg) (g : Thread → Thread)
    (hg : ∀ t, (g t).streams = t.streams) (v : Thread → Word) {i : Instr}
    (hi : exec i s = s.eachLane fun s k t => s.withF k t srcs (some d) fun t' => s.finishF k t (g t') d (v t')) :
    LaneEffect i s fun _ t => retired (setF (g t) d (v t)) (t.pc + s.width) := by
  unfold LaneEffect
  rw [hi]
  exact eachLane_effect s h.1 _ _ fun ts k hk t ht => by
    have hgu : Unbound (g t) := by
      unfold Unbound anyBound
      rw [hg]
      exact hu k hk t ht
    rw [withF_unbound _ _ _ (hu k hk t ht), finishF_unbound _ _ _ _ hgu (h.2 k hk t ht)]
    rfl

end

theorem raise_noFlags (t : Thread) : raise t noFlags = t := by
  have h0 : flagBits noFlags = 0 := rfl
  simp [raise, h0]

theorem natBit_eq_testBit (n v : Nat) : natBit n v = v.testBit n := by
  rw [natBit, Nat.testBit_eq_decide_div_mod_eq, Bool.beq_eq_decide_eq]

/-- FP32 and FP64 elements fill the low bits of their register (R41). -/
theorem opnd_precFmt (p : BitVec 1) (t : Thread) (r : Reg) : opnd (precFmt p) t r = (readF t r).toNat % 2 ^ fmtBits (precFmt p) := by
  simp [opnd, elemBits, natField]

theorem signOf_opnd {p : BitVec 1} {n : Nat} (hn : n + 1 = fmtBits (precFmt p)) (t : Thread) (r : Reg) :
    signOf (precFmt p) (opnd (precFmt p) t r) = (readF t r).getLsbD n := by
  rw [signOf, opnd_precFmt, ← hn, natBit_eq_testBit, Nat.add_sub_cancel, Nat.testBit_mod_two_pow]
  simp [BitVec.getLsbD]

theorem signOp_effect {s : State} (h : Ready s) (hu : AllUnbound s) (d a b : Reg) {p : BitVec 1} {n : Nat}
    (hn : n + 1 = fmtBits (precFmt p)) (g : Bool → Bool → Bool) {i : Instr} (hi : exec i s = signOp s d a b (precFmt p) g) :
    LaneEffect i s fun _ t => retired (setF t d (word (opnd (precFmt p) t a % 2 ^ n +
      bit01 (g ((readF t a).getLsbD n) ((readF t b).getLsbD n)) * 2 ^ n))) (t.pc + 4) := by
  have hf : LaneF i s d fun t =>
      ⟨withSign (precFmt p) (opnd (precFmt p) t a) (g (signOf (precFmt p) (opnd (precFmt p) t a)) (signOf (precFmt p) (opnd (precFmt p) t b))),
        noFlags⟩ := laneF_fOp h hu [a, b] d hi
  simp only [LaneF, raise_noFlags, signOf_opnd hn, withSign, ← hn, Nat.add_sub_cancel, width_none s h.2.1] at hf
  exact hf

theorem ltV_eqV_of_nan {x y : Val} (h : isNan x = true ∨ isNan y = true) : ltV x y = false ∧ eqV x y = false := by
  have hlt : ltV x y = false := by
    cases x <;> cases y <;> simp_all [isNan, ltV]
  have heq : eqV x y = false := by
    unfold eqV
    rcases h with h | h <;> simp [h]
  exact ⟨hlt, heq⟩

/-- Settles O8: each instruction retires in every lane past the stream rules of its operands, and the order of values leaves NaNs out. -/
theorem floatMovesComparesAndClassComplete : Obligations.FloatMovesComparesAndClassComplete := by
  refine ⟨fun s h hu d a b pd p F n h0 h1 => ?_, fun x y => ltV_eqV_of_nan⟩
  obtain ⟨rfl, hn⟩ : F = precFmt p ∧ n + 1 = fmtBits (precFmt p) := by
    obtain rfl | rfl := BitVec.eq_zero_or_eq_one p
    · obtain ⟨rfl, rfl⟩ := h0 rfl; exact ⟨rfl, rfl⟩
    · obtain ⟨rfl, rfl⟩ := h1 rfl; exact ⟨rfl, rfl⟩
  have hp := readyPair_of_ready s h
  have hw : s.width = 4 := width_none s h.2.1
  have hcmp : ∀ (i : Instr) anyNan g, exec i s = cmpOp s pd a b (precFmt p) anyNan g → LaneEffect i s fun _ t =>
      retired (setP (raise t { nv := (if anyNan then isNan (operandV (precFmt p) t a) || isNan (operandV (precFmt p) t b)
        else isSig (operandV (precFmt p) t a) || isSig (operandV (precFmt p) t b)) }) pd
        (g (operandV (precFmt p) t a) (operandV (precFmt p) t b))) (t.pc + 4) := fun i anyNan g hi => by
    refine laneEffect_of_width h ?_
    unfold LaneEffect
    rw [hi]
    exact cmpOp_effect s hp hu pd a b (precFmt p) anyNan g
  refine ⟨?_, ?_, ?_, ?_, ?_, ?_, ?_, ?_, ?_, ?_, ?_, ?_, ?_, ?_⟩
  · exact laneF_fOp h hu [a, b] d (by rfl)
  · exact laneF_fOp h hu [a, b] d (by rfl)
  · exact signOp_effect h hu d a b hn (fun _ y => y) rfl
  · exact signOp_effect h hu d a b hn (fun _ y => !y) rfl
  · exact signOp_effect h hu d a b hn (fun x y => x != y) rfl
  · exact laneEffect_of_width h (withF_finishF_effect hp hu [a] d id (fun _ => rfl) (fun t => readF t a) rfl)
  · exact laneEffect_of_width h (withF_finish_effect hp hu [a] none (fun t => setW t d (readF t a)) rfl)
  · exact laneEffect_of_width h (withF_finishF_effect hp hu [] d id (fun _ => rfl) (fun t => readW t a) rfl)
  · exact hcmp _ false eqV rfl
  · exact hcmp _ true ltV rfl
  · exact hcmp _ true (fun x y => ltV x y || eqV x y) rfl
  · exact hcmp _ false (fun x y => isNan x || isNan y) rfl
  · exact laneEffect_of_width h (withF_finish_effect hp hu [a] none
      (fun t => setW t d (word (2 ^ classBit (precFmt p) (opnd (precFmt p) t a)))) rfl)
  · exact laneF_fOp h hu [a] d (by rfl)

end Sys2Proof.Safety
end

section
/-! Arithmetic instructions, third part: conversions, the special functions and the assist (R115, R116, R125, R153 to R156). -/

namespace Sys2Proof.Safety

open Machine Laws

/-! ### Conversions (R154 to R156) -/

theorem convertOne_streams (t : Thread) (src dst : Fmt) (scale : Nat) (sat : Bool) (bits : Nat) :
    (convertOne t src dst scale sat bits).1.streams = t.streams := by
  unfold convertOne
  dsimp only
  split <;> rfl

theorem convertElems_streams (c : CvtShape) (sat : Bool) (scale : Nat) (a : Word) (t : Thread) (old : Word) :
    (convertElems c sat scale a t old).1.streams = t.streams :=
  List.foldlRecOn (motive := fun acc : Thread × Word => acc.1.streams = t.streams) _ _ rfl
    fun _ h _ _ => (convertOne_streams ..).trans h

section

variable {s : State} {fs ft : BitVec 4} {sat : BitVec 1} {d a b : Reg}

theorem cvt_effect (h : ReadyPair s) (hu : AllUnbound s) {c : CvtShape} (hc : cvtShape b fs ft s.cur.pfx = some c) :
    LaneEffect (.cvt d a b fs ft sat) s fun _ t =>
      let r := convertElems c (sat == 1) ((readF t b).toNat % 256) (readF t a) t
        (if c.merge ∧ cvtCount c < fmtElems c.dst then readF t d else 0)
      retired (setF r.1 d r.2) (t.pc + s.width) := by
  refine withF_finishF_effect h hu ([a] ++ (if c.src = .n4 ∨ c.dst = .n4 then [b] else []) ++
    (if c.merge ∧ cvtCount c < fmtElems c.dst then [d] else [])) d _ (fun t => convertElems_streams ..) _ ?_
  show execCvt d a b fs ft sat s = _
  unfold execCvt
  rw [hc]

theorem cvt_refused (hc : cvtShape b fs ft s.cur.pfx = none) : exec (.cvt d a b fs ft sat) s = .next (s.trapAll 1) := by
  show execCvt d a b fs ft sat s = _
  unfold execCvt
  rw [hc]
  rfl

theorem cvti_from_i32_effect (h : ReadyPair s) (hu : AllUnbound s) {f : Fmt} (hp : cvtiPair fs ft s.cur.pfx = some (.i32, f)) :
    LaneEffect (.cvti d a fs ft sat) s fun _ t =>
      let r := convertOne t .i32 f 0 (sat == 1) ((readW t a).toNat % 2 ^ 32)
      retired (setF r.1 d (word r.2)) (t.pc + s.width) := by
  refine withF_finishF_effect h hu [] d (fun t => (convertOne t .i32 f 0 (sat == 1) ((readW t a).toNat % 2 ^ 32)).1)
    (fun t => convertOne_streams ..) (fun t => word (convertOne t .i32 f 0 (sat == 1) ((readW t a).toNat % 2 ^ 32)).2) ?_
  show execCvti d a fs ft sat s = _
  unfold execCvti
  rw [hp]

theorem cvti_to_i32_effect (h : ReadyPair s) (hu : AllUnbound s) {f : Fmt} (hf : f ≠ .i32) (hp : cvtiPair fs ft s.cur.pfx = some (f, .i32)) :
    LaneEffect (.cvti d a fs ft sat) s fun _ t =>
      let r := convertOne t f .i32 0 (sat == 1) (opnd f t a)
      retired (setW r.1 d (signExt 32 (word r.2))) (t.pc + s.width) := by
  refine withF_finish_effect h hu [a] none (fun t => setW (convertOne t f .i32 0 (sat == 1) (opnd f t a)).1 d
    (signExt 32 (word (convertOne t f .i32 0 (sat == 1) (opnd f t a)).2))) ?_
  show execCvti d a fs ft sat s = _
  unfold execCvti
  rw [hp]
  cases f
  case i32 => exact absurd rfl hf
  all_goals rfl

theorem cvti_refused (hp : cvtiPair fs ft s.cur.pfx = none) : exec (.cvti d a fs ft sat) s = .next (s.trapAll 1) := by
  show execCvti d a fs ft sat s = _
  unfold execCvti
  rw [hp]
  rfl

end

/-- Settles O10: a supported shape retires with the elements converted in every lane, and an unsupported one traps. -/
theorem conversionsComplete : Obligations.ConversionsComplete := fun _ h hu _ _ _ _ _ _ =>
  ⟨fun _ hc => cvt_effect h hu hc, cvt_refused, fun _ hp => cvti_from_i32_effect h hu hp, fun _ hf hp => cvti_to_i32_effect h hu hf hp, cvti_refused⟩

/-! ### The assist (R125, R162) -/

section

variable {s : State} {k : Nat} {t : Thread} {pfx : Option (BitVec 4 × BitVec 4 × BitVec 6)} {i : Instr} {d a b : Reg} {r : Rounded}

/-- The job the assist finishes is the one its instruction runs. -/
theorem exec_of_assistJob {j : FpJob} (h : assistJob i s.cur.pfx = some j) : exec i s = runJob s j i := by
  have hmap : ∀ {e dot job}, (narrowFmt e dot s.cur.pfx).map job = some j → runNarrow s e dot job i = runJob s j i := by
    intro e dot job hm
    obtain ⟨F, hF, rfl⟩ := Option.map_eq_some_iff.1 hm
    exact runNarrow_some hF
  unfold assistJob at h
  split at h
  case h_15 | h_16 | h_17 | h_18 | h_19 | h_20 | h_21 => exact hmap h
  case h_22 => cases h
  all_goals
    cases h
    rfl

/-- `j` is the job of the instruction in the lane: some operand of it is subnormal, and `r` is its result. -/
def HasJob (t : Thread) (pfx : Option (BitVec 4 × BitVec 4 × BitVec 6)) (i : Instr) (d : Reg) (r : Rounded) (j : FpJob) : Prop :=
  assistJob i pfx = some j ∧ j.dst = d ∧ j.subs t = true ∧ j.result t = r

/-- A job with one rounding under SM = 0. -/
theorem hasJob_round {j : FpJob} {F : Fmt} {sat : Bool} {e : Exact} (hsm : xsSM t.xstat = false) (hj : assistJob i pfx = some j)
    (hd : j.dst = d) (hs : j.subs t = true) (hr : j.result t = roundExact (xsSM t.xstat) F (rmOf t) sat e) :
    HasJob t pfx i d (roundExact false F (rmOf t) sat e) j := ⟨hj, hd, hs, hsm ▸ hr⟩

theorem assistedScalar_hasJob (hsm : xsSM t.xstat = false) (h : AssistedScalar t i d a b r) : ∃ j, HasJob t pfx i d r j := by
  obtain ⟨p, _, e, _, _, _, _, rfl, rfl, rfl, rfl, rfl, rfl, h⟩ := h
  obtain ⟨hs, rfl, rfl⟩ | ⟨hs, ⟨rfl, rfl⟩ | ⟨rfl, rfl⟩ | ⟨rfl, rfl⟩ | ⟨rfl, rfl⟩⟩ |
    ⟨hs, ⟨rfl, rfl⟩ | ⟨rfl, rfl⟩ | ⟨rfl, rfl⟩ | ⟨rfl, rfl⟩⟩ := h
  all_goals exact ⟨_, hasJob_round hsm rfl rfl hs rfl⟩

theorem assistedSpecial_hasJob (hsm : xsSM t.xstat = false) (h : AssistedSpecial t i d a r) : ∃ j, HasJob t pfx i d r j := by
  obtain ⟨hs, f, rfl, h⟩ := h
  obtain ⟨rfl, rfl⟩ | ⟨rfl, rfl⟩ | ⟨rfl, rfl⟩ | ⟨rfl, rfl⟩ | ⟨rfl, rfl⟩ := h
  all_goals exact ⟨_, hasJob_round hsm rfl rfl hs rfl⟩

theorem narrowSM_of_xsSM (F : Fmt) (hsm : xsSM t.xstat = false) : narrowSM F t = false := by simp [narrowSM, hsm]

/-- A packed job of R158 under SM = 0. -/
theorem hasJob_narrow {F : Fmt} {reads : List Reg} {sat : BitVec 1} {op : Nat → Val → Val → Val → Exact} (hsm : xsSM t.xstat = false)
    (hj : assistJob i pfx = some (jobNarrow F d a b reads sat op)) (hs : reads.any (elemSub F t) = true) :
    HasJob t pfx i d (packElems F fun j => roundExact false F (rmOf t) (sat == 1) (op (rmOf t) (elemV F t j a) (elemV F t j b) (elemV F t j d)))
      (jobNarrow F d a b reads sat op) := ⟨hj, rfl, hs, by rw [← narrowSM_of_xsSM F hsm]; rfl⟩

theorem assistedPacked_hasJob (hsm : xsSM t.xstat = false) (h : AssistedPacked t pfx i d a b r) : ∃ j, HasJob t pfx i d r j := by
  obtain ⟨e, sat, F, x, y, z, R, hx, hy, hz, hR, h⟩ := h
  obtain rfl : x = fun j => elemV F t j a := funext hx
  obtain rfl : y = fun j => elemV F t j b := funext hy
  obtain rfl : z = fun j => elemV F t j d := funext hz
  obtain rfl : R = fun f => packElems F fun j => roundExact false F (rmOf t) (sat == 1) (f j) := funext hR
  have hn := narrowSM_of_xsSM F hsm
  obtain ⟨hF, hs, h⟩ | ⟨hF, hs, rfl, rfl⟩ | ⟨hF, hs, rfl, rfl⟩ := h
  · have hs' : [a, b].any (elemSub F t) = true := by simpa using hs
    obtain ⟨rfl, rfl⟩ | ⟨rfl, rfl⟩ | ⟨rfl, rfl⟩ | ⟨isMax, rfl, rfl⟩ := h
    · exact ⟨_, hasJob_narrow (op := fun rm x y _ => addV rm x y) hsm (by simp only [assistJob, hF, Option.map_some, naddJob]) hs'⟩
    · exact ⟨_, hasJob_narrow (op := fun rm x y _ => addV rm x (negate y)) hsm (by simp only [assistJob, hF, Option.map_some, nsubJob]) hs'⟩
    · exact ⟨_, hasJob_narrow (op := fun _ x y _ => mulV x y) hsm (by simp only [assistJob, hF, Option.map_some, nmulJob]) hs'⟩
    · refine ⟨jobNarrowMin F d a b isMax, ?_, rfl, hs, by rw [← hn]; rfl⟩
      cases isMax <;> simp [assistJob, hF]
  · have hs' : [a, b, d].any (elemSub F t) = true := by simpa [or_assoc] using hs
    exact ⟨_, hasJob_narrow (op := fmaV) hsm (by simp only [assistJob, hF, Option.map_some, nfmaJob]) hs'⟩
  · exact ⟨jobDot F d a b sat, by simp only [assistJob, hF, Option.map_some], rfl, hs, by rw [← hn]; rfl⟩

/-- What R125 assists has a job. -/
theorem assisted_hasJob (h : Assisted t pfx i d r) : ∃ j, HasJob t pfx i d r j := by
  obtain ⟨hsm, a, b, ⟨-, h | h⟩ | h⟩ := h
  · exact assistedScalar_hasJob hsm h
  · exact assistedSpecial_hasJob hsm h
  · exact assistedPacked_hasJob hsm h

/-- A lane that reads a subnormal under SM = 0 parks for the assist. -/
theorem exec_assisted (hk : s.curKeys = [k]) (ht : s.thread k = some t) (hu : Unbound t) (hp : t.park = none)
    (h : Assisted t s.cur.pfx i d r) :
    exec i s = .next (s.putThread k { t with park := some { why := .assist i s.cur.pfx, since := s.cyc } }) := by
  obtain ⟨j, hj, -, hs, -⟩ := assisted_hasJob h
  rw [exec_of_assistJob hj]
  simp [runJob, State.eachLane, State.forLanes, hk, ht, withF_unbound _ _ _ hu, h.1, hs, State.parkAt, parked, hp]

/-- The assist's end writes the job's result (R125, R127). -/
theorem exec_subnormalAssistComplete {since : Nat} (ht : s.thread k = some t) (hr : clusterRuns s (keyCl k) = true) (hu : Unbound t)
    (hss : xsSS t.xstat = false) (hp : t.park = some { why := .assist i pfx, since := since }) (h : Assisted t pfx i d r) :
    exec (.subnormalAssistComplete k) s = .next (({ s with cur := { s.cur with pfx := pfx } } : State).putThread k
      (retired (setF (raise t r.flags) d (word r.bits)) (t.pc + (if pfx.isSome then 8 else 4)))) := by
  obtain ⟨j, hj, rfl, -, rfl⟩ := assisted_hasJob h
  show execSubnormalAssistComplete k s = _
  unfold execSubnormalAssistComplete
  simp only [hr, if_true, ht, hp, hj, withF_unbound _ _ _ hu, State.finishJob, finishF_unbound _ _ _ _ (unbound_raise _ _ hu) hss]
  rfl

end

/-- Settles O9: each special function runs its job, and the assist ends with the result of the job its instruction would run. -/
theorem specialFunctionsAndAssistComplete : Obligations.SpecialFunctionsAndAssistComplete := by
  refine ⟨fun s h hu d a hn r hr => ?_, fun s k t i d r hk ht _ hu hp ha => exec_assisted hk ht hu hp ha,
    fun s k t since i pfx d r ht hc hu hss hp ha => ⟨_, exec_subnormalAssistComplete ht hc hu hss hp ha, rfl⟩⟩
  obtain rfl : r = fun f t => roundExact (xsSM t.xstat) .f32 (rmOf t) false (f (operandV .f32 t a)) := funext₂ hr
  have hp := readyPair_of_ready s h
  refine ⟨?_, ?_, ?_, ?_, ?_⟩
  · exact laneF_runJob hp hu (jobSpecial d a exp2V) rfl rfl hn
  · exact laneF_runJob hp hu (jobSpecial d a log2V) rfl rfl hn
  · exact laneF_runJob hp hu (jobSpecial d a rsqrtV) rfl rfl hn
  · exact laneF_runJob hp hu (jobSpecial d a sinV) rfl rfl hn
  · exact laneF_runJob hp hu (jobSpecial d a cosV) rfl rfl hn

end Sys2Proof.Safety
end

section
/-! Arithmetic instructions, fourth part: the integer instructions of opcode 0x01, bit by bit (Table 5.1, R141, R142). -/

namespace Sys2Proof.Safety

open Machine Laws

/-! ### Division (R141) -/

theorem remS_eq (x y : Word) : remS x y = if y = 0 then x else x - BitVec.ofInt 64 (x.toInt.tdiv y.toInt) * y := by
  unfold remS
  split
  · rfl
  · rw [Int.tmod_def, Int.sub_eq_add_neg, BitVec.ofInt_add, BitVec.ofInt_neg, BitVec.ofInt_mul, BitVec.ofInt_toInt, BitVec.ofInt_toInt,
      BitVec.mul_comm, ← BitVec.sub_eq_add_neg]

theorem divU_eq (x y : Word) : divU x y = if y = 0 then -1 else x / y := by
  rw [divU, word, BitVec.udiv_def]

theorem remU_eq (x y : Word) : remU x y = if y = 0 then x else x - x / y * y := by
  unfold remU
  split
  · rfl
  · apply BitVec.eq_of_toNat_eq
    have hle : x.toNat / y.toNat * y.toNat ≤ x.toNat := Nat.div_mul_le_self ..
    have hmod := Nat.mod_add_div' x.toNat y.toNat
    have hx := x.isLt
    rw [word, BitVec.toNat_ofNat, BitVec.toNat_sub_of_le] <;>
      simp only [BitVec.le_def, BitVec.toNat_mul, BitVec.toNat_udiv] <;>
      rw [Nat.mod_eq_of_lt (a := x.toNat / y.toNat * y.toNat) (by omega)] <;> omega

/-! ### Counts -/

theorem word_toNat {n : Nat} (h : n < 2 ^ 64) : (word n).toNat = n := by
  rw [word, BitVec.toNat_ofNat, Nat.mod_eq_of_lt h]

/-- The leading one of a nonzero word stands where its logarithm says. -/
theorem leadingZeros_toNat {x : Word} (hx : x ≠ 0) : x.toNat.log2 < 64 ∧ (leadingZeros x).toNat = 63 - x.toNat.log2 := by
  have hn : x.toNat ≠ 0 := fun h => hx (BitVec.eq_of_toNat_eq h)
  have hlog : x.toNat.log2 < 64 := (Nat.log2_lt hn).2 x.isLt
  refine ⟨hlog, ?_⟩
  rw [leadingZeros, if_neg hx, word_toNat (by omega)]

theorem getLsbD_of_lt_leadingZeros {x : Word} {i : Nat} (h : i < (leadingZeros x).toNat) : x.getLsbD (63 - i) = false := by
  by_cases hx : x = 0
  · simp [hx]
  · obtain ⟨hlog, hlz⟩ := leadingZeros_toNat hx
    exact Nat.testBit_lt_two_pow ((Nat.lt_log2_self).trans_le (Nat.pow_le_pow_right (by decide) (by omega)))

theorem getLsbD_leadingZeros {x : Word} (hx : x ≠ 0) : (leadingZeros x).toNat < 64 ∧ x.getLsbD (63 - (leadingZeros x).toNat) = true := by
  obtain ⟨hlog, hlz⟩ := leadingZeros_toNat hx
  have hn : x.toNat ≠ 0 := fun h => hx (BitVec.eq_of_toNat_eq h)
  refine ⟨by omega, ?_⟩
  rw [hlz, show 63 - (63 - x.toNat.log2) = x.toNat.log2 by omega]
  exact Nat.testBit_log2 hn

/-- The lowest one of a nonzero word is the one bit that the word shares with its negation. -/
theorem trailingZeros_toNat {x : Word} (hx : x ≠ 0) :
    ∃ j < 64, (trailingZeros x).toNat = j ∧ x.getLsbD j = true ∧ ∀ i < j, x.getLsbD i = false := by
  have hex : ∃ j, x.getLsbD j = true := by
    by_contra h
    exact hx (BitVec.eq_of_getLsbD_eq fun i _ => by simpa using fun hi => h ⟨i, hi⟩)
  have hj := Nat.find_spec hex
  have hmin : ∀ i < Nat.find hex, x.getLsbD i = false := fun i hi => by simpa using Nat.find_min hex hi
  generalize Nat.find hex = j at hj hmin
  have hlt : j < 64 := BitVec.lt_of_getLsbD hj
  refine ⟨j, hlt, ?_, hj, hmin⟩
  have hand : x &&& -x = BitVec.twoPow 64 j := by
    refine BitVec.eq_of_getLsbD_eq fun i hi => ?_
    rw [BitVec.getLsbD_and, BitVec.getLsbD_neg, BitVec.getLsbD_twoPow]
    rcases Nat.lt_trichotomy i j with h | rfl | h
    · simp [hmin i h, Nat.ne_of_gt h]
    · have hnone : ¬ ∃ k < i, x.getLsbD k = true := fun ⟨k, hk, hxk⟩ => by simp [hmin k hk] at hxk
      simp [hj, hi, hnone]
    · have hsome : ∃ k < i, x.getLsbD k = true := ⟨j, h, hj⟩
      simp [hsome, hi, Nat.ne_of_lt h]
  rw [trailingZeros, if_neg hx, hand, BitVec.toNat_twoPow_of_lt hlt, Nat.log2_two_pow, word_toNat (by omega)]

theorem getLsbD_of_lt_trailingZeros {x : Word} {i : Nat} (h : i < (trailingZeros x).toNat) : x.getLsbD i = false := by
  by_cases hx : x = 0
  · simp [hx]
  · obtain ⟨j, -, hj, -, hmin⟩ := trailingZeros_toNat hx
    exact hmin i (hj ▸ h)

theorem getLsbD_trailingZeros {x : Word} (hx : x ≠ 0) : (trailingZeros x).toNat < 64 ∧ x.getLsbD (trailingZeros x).toNat = true := by
  obtain ⟨j, hlt, rfl, hj, -⟩ := trailingZeros_toNat hx
  exact ⟨hlt, hj⟩

theorem popCount_toNat (x : Word) : (popCount x).toNat = ((List.range 64).filter fun i => x.getLsbD i).length := by
  have hle : (List.range 64).countP x.getLsbD ≤ 64 := by simpa using List.countP_le_length (p := x.getLsbD) (l := List.range 64)
  rw [popCount, word_toNat (by omega), List.countP_eq_length_filter]

/-! ### Reversals -/

/-- Bits shifted in one after another stand in the order reverse to that in which they came. -/
theorem testBit_foldl_shift (f : Nat → Bool) (n j : Nat) :
    ((List.range n).foldl (fun r i => 2 * r + bit01 (f i)) 0).testBit j = (decide (j < n) && f (n - 1 - j)) := by
  induction n generalizing j with
  | zero => simp
  | succ n ih =>
    rw [List.range_succ, List.foldl_append, List.foldl_cons, List.foldl_nil]
    have hb : bit01 (f n) < 2 := by unfold bit01; split <;> decide
    cases j with
    | zero =>
      rw [Nat.testBit_zero, Nat.mul_add_mod, Nat.mod_eq_of_lt hb]
      cases h : f n <;> simp [h, bit01]
    | succ j =>
      rw [Nat.testBit_succ, show (2 * _ + bit01 (f n)) / 2 = _ from by rw [Nat.mul_add_div (by decide), Nat.div_eq_of_lt hb, Nat.add_zero], ih]
      simp [Nat.sub_sub, Nat.add_comm]

theorem getLsbD_bitReverse (x : Word) {i : Nat} (h : i < 64) : (bitReverse x).getLsbD (63 - i) = x.getLsbD i := by
  rw [bitReverse, word, BitVec.getLsbD_ofNat, testBit_foldl_shift]
  have hi : 64 - 1 - (63 - i) = i := by omega
  simp [hi, show 63 - i < 64 by omega]

/-- A byte of the number that little-endian bytes stand for (R1). -/
theorem leNat_div_mod : ∀ (l : List Byte) (k : Nat) (h : k < l.length), leNat l / 256 ^ k % 256 = l[k].toNat
  | b :: l, 0, _ => by
    have := b.isLt
    simp only [leNat, List.getElem_cons_zero]
    omega
  | b :: l, k + 1, h => by
    have := b.isLt
    rw [Nat.pow_succ', ← Nat.div_div_eq_div_mul, leNat, show (b.toNat + 256 * leNat l) / 256 = leNat l by omega]
    exact leNat_div_mod l k (Nat.lt_of_succ_lt_succ h)

theorem length_leBytes (n v : Nat) : (leBytes n v).length = n := by
  induction n generalizing v with
  | zero => rfl
  | succ n ih => rw [leBytes, List.length_cons, ih]

theorem getElem_leBytes : ∀ (n v k : Nat) (h : k < (leBytes n v).length), (leBytes n v)[k] = BitVec.ofNat 8 (v / 256 ^ k)
  | n + 1, v, 0, _ => by simp [leBytes]
  | n + 1, v, k + 1, h => by
    rw [Nat.pow_succ', ← Nat.div_div_eq_div_mul]
    exact getElem_leBytes n (v / 256) k (Nat.lt_of_succ_lt_succ h)

/-- A number of at most 8 bytes as a word. -/
theorem leNat_lt : ∀ l : List Byte, leNat l < 256 ^ l.length
  | [] => by decide
  | b :: l => by
    have := b.isLt
    have := leNat_lt l
    rw [leNat, List.length_cons, Nat.pow_succ]
    omega

theorem extractLsb'_byteSwap (x : Word) {j : Nat} (h : j < 8) : (byteSwap x).extractLsb' (8 * (7 - j)) 8 = x.extractLsb' (8 * j) 8 := by
  have hlen : (leBytes 8 x.toNat).reverse.length = 8 := by rw [List.length_reverse, length_leBytes]
  have hlt := leNat_lt (leBytes 8 x.toNat).reverse
  rw [hlen] at hlt
  have hk : 7 - j < (leBytes 8 x.toNat).reverse.length := by omega
  apply BitVec.eq_of_toNat_eq
  rw [BitVec.extractLsb'_toNat, BitVec.extractLsb'_toNat, byteSwap, word_toNat (by omega), Nat.shiftRight_eq_div_pow, Nat.shiftRight_eq_div_pow,
    Nat.pow_mul, Nat.pow_mul]
  refine (leNat_div_mod _ _ hk).trans ?_
  rw [List.getElem_reverse, getElem_leBytes, BitVec.toNat_ofNat, length_leBytes, show 8 - 1 - (7 - j) = j by omega]

/-! ### Bit fields (R142) -/

theorem getLsbD_maskOf (lo len i : Nat) : (maskOf lo len).getLsbD i = (decide (i < 64) && (decide (lo ≤ i) && decide (i < lo + len))) := by
  rw [maskOf, BitVec.getLsbD_ofNat, Nat.testBit_mul_two_pow, Nat.testBit_two_pow_sub_one]
  by_cases h : lo ≤ i
  · simp [h, show (i - lo < len) = (i < lo + len) from propext (by omega)]
  · simp [h]

theorem fieldLen_eq (y : Word) : fieldLen y = min (y.toNat / 256 % 64) (64 - y.toNat % 64) := rfl

theorem getLsbD_fieldGet (x y : Word) (i : Nat) : (fieldGet x y).getLsbD i = (decide (i < fieldLen y) && x.getLsbD (y.toNat % 64 + i)) := by
  have hlen := fieldLen_eq y
  rw [fieldGet, BitVec.getLsbD_ushiftRight, BitVec.getLsbD_and, fieldMask, getLsbD_maskOf, amount]
  by_cases h : i < fieldLen y
  · simp [h, show y.toNat % 64 + i < 64 by omega]
  · simp [h]

theorem getLsbD_fieldGetS (x y : Word) {i : Nat} (hi : i < 64) :
    (fieldGetS x y).getLsbD i = (decide (0 < fieldLen y) && x.getLsbD (y.toNat % 64 + min i (fieldLen y - 1))) := by
  have hlen := fieldLen_eq y
  unfold fieldGetS
  split
  next h => simp [h]
  next h =>
    have hpos : 0 < fieldLen y := Nat.pos_of_ne_zero h
    rw [signExt, BitVec.getLsbD_signExtend, BitVec.getLsbD_setWidth, BitVec.msb_setWidth, getLsbD_fieldGet]
    by_cases hlt : i < fieldLen y
    · simp [hi, hlt, hpos, show min i (fieldLen y - 1) = i by omega]
    · simp [hi, hlt, hpos, getLsbD_fieldGet, show min i (fieldLen y - 1) = fieldLen y - 1 by omega]

theorem getLsbD_fieldPut (z x y : Word) {i : Nat} (hi : i < 64) : (fieldPut z x y).getLsbD i =
    if y.toNat % 64 ≤ i ∧ i < y.toNat % 64 + fieldLen y then x.getLsbD (i - y.toNat % 64) else z.getLsbD i := by
  simp only [fieldPut, fieldMask, amount, BitVec.getLsbD_or, BitVec.getLsbD_and, BitVec.getLsbD_not, BitVec.getLsbD_shiftLeft,
    getLsbD_maskOf]
  split
  next h => simp [h.1, h.2, hi]
  next h =>
    have hm : (decide (y.toNat % 64 ≤ i) && decide (i < y.toNat % 64 + fieldLen y)) = false := by simpa using h
    simp [hm, hi]

/-! ### What the instructions write -/

section

variable {s : State} {i : Instr} {d : Reg}

/-- An instruction that writes w[d] in each lane from the lane's own registers. -/
theorem laneW_wOp (h : Ready s) {g f : Thread → Word} (hi : exec i s = wOp s d g) (hg : ∀ t, g t = f t) : LaneW i s d f := by
  obtain rfl : g = f := funext hg
  unfold LaneW LaneEffect
  rw [hi]
  exact regOp_effect s h fun t => setW t d (g t)

end

theorem ite_slt (x y u v : Word) : (if x.slt y then u else v) = if x.toInt < y.toInt then u else v := by
  simp only [BitVec.slt_iff_toInt_lt]

theorem ite_ult (x y u v : Word) : (if x.ult y then u else v) = if x.toNat < y.toNat then u else v := by
  simp only [BitVec.ult_iff_toNat_lt]

theorem readP_iff (t : Thread) (n : PReg) : readP t n = true ↔ n = 0 ∨ readP t n = true :=
  ⟨Or.inr, fun h => h.elim (fun e => e ▸ readP_zero t) id⟩

/-- Settles O2: each instruction writes the function of its row, and the functions are known by their bits. -/
theorem integerInstructionsComplete : Obligations.IntegerInstructionsComplete := by
  refine ⟨fun s h d a b => ?_, by decide, fun x y =>
    ⟨fun i => getLsbD_of_lt_leadingZeros, getLsbD_leadingZeros, fun hx => hx ▸ ⟨rfl, rfl⟩, fun i => getLsbD_of_lt_trailingZeros, getLsbD_trailingZeros,
      popCount_toNat x, fun i => getLsbD_bitReverse x, fun j => extractLsb'_byteSwap x, getLsbD_fieldGet x y, fun i => getLsbD_fieldGetS x y,
      fun z i => getLsbD_fieldPut z x y, fieldLen_eq y⟩⟩
  refine ⟨?add, ?sub, ?mul, ?mulh, ?mulhu, ?and, ?or, ?xor, ?andn, ?sll, ?srl, ?sra, ?ror, ?clz, ?ctz, ?popc, ?brev, ?bswap, ?min, ?max,
    ?minu, ?maxu, ?slt, ?sltu, fun n => ?sel, ?bfxu, ?bfxs, ?bfi, ?div, ?rem, ?divu, ?remu⟩
  case min | max => exact laneW_wOp h rfl fun t => ite_slt ..
  case minu | maxu => exact laneW_wOp h rfl fun t => ite_ult ..
  case slt => exact laneW_wOp h rfl fun t => ite_slt ..
  case sltu => exact laneW_wOp h rfl fun t => ite_ult ..
  case sel => exact laneW_wOp h rfl fun t => by simp only [← readP_iff]
  case rem => exact laneW_wOp h rfl fun t => remS_eq ..
  case divu => exact laneW_wOp h rfl fun t => divU_eq ..
  case remu => exact laneW_wOp h rfl fun t => remU_eq ..
  all_goals exact laneW_wOp h rfl fun t => rfl

end Sys2Proof.Safety
end

section
/-! Arithmetic instructions, fifth part: immediates, the constant window, predicates, shuffles and votes (R143 to R147). -/

namespace Sys2Proof.Safety

open Machine Laws

/-! ### Immediates (R143) -/

theorem onLow32_sshiftRight (x : Word) (n : Nat) :
    onLow32 (fun y => y.sshiftRight n) x = ((x.setWidth 32).signExtend 64).sshiftRight n := by
  apply BitVec.eq_of_toInt_eq
  rw [onLow32, BitVec.toInt_signExtend_of_le (by decide), BitVec.toInt_sshiftRight, BitVec.toInt_sshiftRight,
    BitVec.toInt_signExtend_of_le (by decide)]

theorem signExtend_shiftLeft (x : BitVec 20) (n : Nat) : x.signExtend 64 <<< n = BitVec.ofInt 64 (x.toInt * 2 ^ n) := by
  have hp : BitVec.ofInt 64 (2 ^ n) = BitVec.twoPow 64 n := by
    apply BitVec.eq_of_toNat_eq
    rw [show (2 : Int) ^ n = ((2 ^ n : Nat) : Int) by norm_cast, BitVec.ofInt_natCast, BitVec.toNat_ofNat, BitVec.toNat_twoPow]
  rw [BitVec.shiftLeft_eq_mul_twoPow, BitVec.ofInt_mul, hp]
  rfl

theorem slt_imm15 (x : Word) (imm : BitVec 15) : boolWord (x.slt (imm15 imm)) = if x.toInt < imm.toInt then 1 else 0 := by
  rw [boolWord, imm15]
  simp only [BitVec.slt_iff_toInt_lt, BitVec.toInt_signExtend_of_le (show 15 ≤ 64 by decide)]

/-! ### The constant window (R58, R144) -/

theorem constWord_putThreads (s : State) (ts : Map Thread) (k : Nat) (t : Thread) (n : BitVec 8) :
    State.constWord { s with threads := ts } k t n = s.constWord k t n := rfl

theorem constWord_eq (s : State) (k : Nat) (t : Thread) (n : BitVec 8) :
    s.constWord k t n = word (leNat ((List.range 8).map fun i => s.seen t.out (lmAddr (keyCl k) (keyCore k) (8 * n.toNat + i)))) := by
  simp only [State.constWord, constKeys, span, List.map_map, lmAddr, Function.comp_def, Nat.add_assoc]

section

variable {s : State} {i : Instr}

/-- An instruction that writes w[d] in each lane from the lane's registers and its word of the constant window. -/
theorem constOp_effect (h : Ready s) (d : Reg) (n : BitVec 8) (g : Thread → Word → Word)
    (hi : exec i s = s.eachLane fun s k t => s.finish k t (setW t d (g t (s.constWord k t n)))) :
    LaneEffect i s fun k t => retired (setW t d (g t (s.constWord k t n))) (t.pc + 4) := by
  unfold LaneEffect
  rw [hi]
  refine eachLane_effect s h.1 _ _ fun ts k hk t ht => ?_
  rw [finish_eq _ _ _ _ (h.2.2 k hk t ht), width_none _ (by exact h.2.1), constWord_putThreads]

theorem ldkf_effect (h : Ready s) (hu : AllUnbound s) (d : Reg) (n : BitVec 8) :
    LaneEffect (.ldkf d n) s fun k t => retired (setF t d (s.constWord k t n)) (t.pc + 4) := by
  refine eachLane_effect s h.1 _ _ fun ts k hk t ht => ?_
  rw [withF_unbound _ _ _ (hu k hk t ht), finishF_unbound _ _ _ _ (hu k hk t ht) (h.2.2 k hk t ht), width_none _ (by exact h.2.1),
    constWord_putThreads]

/-- An instruction that writes p[d] in each lane from the lane's own registers. -/
theorem laneP_pOp (h : Ready s) {d : PReg} {g f : Thread → Bool} (hi : exec i s = pOp s d g) (hg : ∀ t, g t = f t) : LaneP i s d f := by
  obtain rfl : g = f := funext hg
  unfold LaneP LaneEffect
  rw [hi]
  exact regOp_effect s h fun t => setP t d (g t)

end

/-- Settles O3: each instruction writes one register from its lane's own, and K[n] is the word the lane sees. -/
theorem immediateConstantAndPredicateComplete : Obligations.ImmediateConstantAndPredicateComplete := by
  refine ⟨fun s h d a imm n m j => ?_, fun s h d a n K hK => ?_, fun s h d w a b x y => ?_⟩
  · refine ⟨?addi, ?andi, ?ori, ?xori, ?slti, ?slli, ?srli, ?srai, ?rori, ?slliw, ?srliw, ?sraiw, ?roriw, ?lui⟩
    case slti => exact laneW_wOp h rfl fun t => slt_imm15 ..
    case sraiw => exact laneW_wOp h rfl fun t => onLow32_sshiftRight ..
    case lui => exact laneW_wOp h rfl fun _ => signExtend_shiftLeft j 15
    all_goals exact laneW_wOp h rfl fun t => rfl
  · obtain rfl : K = fun k t => s.constWord k t n := funext₂ fun k t => (hK k t).trans (constWord_eq s k t n).symm
    refine ⟨?_, ?_, ?_, ?_, fun hu => ldkf_effect h hu d n⟩
    · exact constOp_effect h d n (fun _ c => c) rfl
    · exact constOp_effect h d n (fun t c => readW t a + c) rfl
    · exact constOp_effect h d n (fun t c => readW t a - c) rfl
    · exact constOp_effect h d n (fun t c => readW t a &&& c) rfl
  · refine ⟨?cpeq, ?cpne, ?cplt, ?cpltu, ?cpge, ?cpgeu, ?pand, ?por, ?pxor, ?pmovw, laneW_wOp h rfl fun t => rfl⟩
    case cpeq => exact laneP_pOp h rfl fun t => beq_eq_decide ..
    case cpne | pmovw => exact laneP_pOp h rfl fun t => by simp only [bne, beq_eq_decide, ← decide_not, ne_eq]
    case cpge => exact laneP_pOp h rfl fun t => by simp only [BitVec.slt, ← decide_not, Int.not_lt]
    case cpgeu => exact laneP_pOp h rfl fun t => by simp only [BitVec.ult, ← decide_not, Nat.not_lt]
    all_goals exact laneP_pOp h rfl fun t => rfl

/-! ### The threads of the issuing set by lane (R146) -/

section

variable {s : State}

theorem mem_curThreads {x : Nat × Thread} : x ∈ s.curThreads ↔ x.1 ∈ s.curKeys ∧ s.thread x.1 = some x.2 := by
  simp only [State.curThreads, List.mem_filterMap, Option.map_eq_some_iff]
  constructor
  · rintro ⟨k, hk, t, ht, rfl⟩
    exact ⟨hk, ht⟩
  · rintro ⟨hk, ht⟩
    exact ⟨x.1, hk, x.2, ht, rfl⟩

theorem mem_laneThreads {x : Nat × Thread} :
    x ∈ laneThreads s ↔ ∃ k ∈ s.curKeys, s.thread k = some x.2 ∧ laneOf (keyCore k) (keyThr k) = x.1 := by
  simp only [laneThreads, List.mem_map, mem_curThreads]
  constructor
  · rintro ⟨y, ⟨hk, ht⟩, rfl⟩
    exact ⟨y.1, hk, ht, rfl⟩
  · rintro ⟨k, hk, ht, hl⟩
    exact ⟨(k, x.2), ⟨hk, ht⟩, by rw [hl]⟩

theorem laneThreads_nodup (h : DistinctLanes s) : ((laneThreads s).map (·.1)).Nodup := by
  have hkeys : (s.curThreads.map (·.1)).Sublist s.curKeys := by
    have hg : s.curThreads.map (·.1) = s.curKeys.filterMap (Option.guard fun k => (s.thread k).isSome) := by
      rw [State.curThreads, List.map_filterMap]
      refine congrArg (List.filterMap · _) (funext fun k => ?_)
      cases h : s.thread k <;> simp [Option.guard, h]
    rw [hg, List.filterMap_eq_filter]
    exact List.filter_sublist
  have hmap : (laneThreads s).map (·.1) = (s.curThreads.map (·.1)).map fun k => laneOf (keyCore k) (keyThr k) := by
    simp only [laneThreads, List.map_map, Function.comp_def]
  rw [hmap]
  exact List.Nodup.sublist (hkeys.map _) h

/-- Lanes of one number are one lane. -/
theorem laneThreads_unique (h : DistinctLanes s) {x y : Nat × Thread} (hx : x ∈ laneThreads s) (hy : y ∈ laneThreads s) (hl : x.1 = y.1) :
    x = y := List.inj_on_of_nodup_map (laneThreads_nodup h) hx hy hl

/-! ### Shuffles (R146) -/

/-- What a lane's shuffle takes is the value of the lane it names, or its own where that lane is not in the set. -/
theorem fromLane_shuffled (h : DistinctLanes s) (src : Int) (read : Thread → Word) (t : Thread) :
    FromLane s src read (read t) (shuffled (laneThreads s) read t src) := by
  unfold shuffled
  constructor
  · intro k hk u hu hl
    have hmem : (laneOf (keyCore k) (keyThr k), u) ∈ laneThreads s := mem_laneThreads.2 ⟨k, hk, hu, rfl⟩
    split
    next x hx =>
      have hxl : (x.1 : Int) = src := by simpa using List.find?_some hx
      rw [laneThreads_unique h (List.mem_of_find?_eq_some hx) hmem (by exact_mod_cast hxl.trans hl.symm)]
    next hnone => exact absurd hl (by simpa using List.find?_eq_none.1 hnone _ hmem)
  · intro hno
    split
    next x hx =>
      obtain ⟨k, hk, hu, hl⟩ := mem_laneThreads.1 (List.mem_of_find?_eq_some hx)
      have hxl : (x.1 : Int) = src := by simpa using List.find?_some hx
      exact absurd (hl ▸ hxl) (hno k hk x.2 hu)
    next => rfl

/-- The value the lane at a position takes in a shuffle whose source lanes `src` gives. -/
def shuffledAt (s : State) (b : Reg) (src : Nat → Nat → Int) (read : Thread → Word) (k : Nat) : Word :=
  match s.thread k with
  | some t => shuffled (laneThreads s) read t (src (laneOf (keyCore k) (keyThr k)) ((readW t b).toNat % 32))
  | none => 0

theorem shuffledAt_some {b : Reg} {src : Nat → Nat → Int} {read : Thread → Word} {k : Nat} {t : Thread} (ht : s.thread k = some t) :
    shuffledAt s b src read k = shuffled (laneThreads s) read t (src (laneOf (keyCore k) (keyThr k)) ((readW t b).toNat % 32)) := by
  simp only [shuffledAt, ht]

theorem fromLane_shuffledAt (h : DistinctLanes s) (b : Reg) (src : Nat → Nat → Int) (read : Thread → Word) :
    ∀ k ∈ s.curKeys, ∀ t, s.thread k = some t →
      FromLane s (src (laneOf (keyCore k) (keyThr k)) ((readW t b).toNat % 32)) read (read t) (shuffledAt s b src read k) := by
  intro k _ t ht
  rw [shuffledAt_some ht]
  exact fromLane_shuffled h _ read t

theorem shuffleW_effect (h : Ready s) (hd : DistinctLanes s) (d a b : Reg) (src : Nat → Nat → Int) {i : Instr}
    (hi : exec i s = shuffleW s d a b src) :
    ∃ v : Nat → Word, LaneEffect i s (fun k t => retired (setW t d (v k)) (t.pc + 4)) ∧ ∀ k ∈ s.curKeys, ∀ t, s.thread k = some t →
      FromLane s (src (laneOf (keyCore k) (keyThr k)) ((readW t b).toNat % 32)) (readW · a) (readW t a) (v k) := by
  refine ⟨shuffledAt s b src (readW · a), ?_, fromLane_shuffledAt hd b src _⟩
  unfold LaneEffect
  rw [hi]
  refine eachLane_effect s h.1 _ _ fun ts k hk t ht => ?_
  rw [finish_eq _ _ _ _ (h.2.2 k hk t ht), width_none _ (by exact h.2.1), shuffledAt_some ht]

/-- With no stream bound every lane is a source. -/
theorem preparedLanes_eq (hu : AllUnbound s) (d a : Reg) : preparedLanes s d a = laneThreads s := by
  unfold preparedLanes laneThreads
  rw [← List.filterMap_eq_map]
  refine List.filterMap_congr fun x hx => ?_
  obtain ⟨hk, ht⟩ := mem_curThreads.1 hx
  rw [fPrep_unbound _ (hu x.1 hk x.2 ht)]
  rfl

theorem shuffleF_effect (h : Ready s) (hd : DistinctLanes s) (hu : AllUnbound s) (d a b : Reg) (src : Nat → Nat → Int) {i : Instr}
    (hi : exec i s = shuffleF s d a b src) :
    ∃ v : Nat → Word, LaneEffect i s (fun k t => retired (setF t d (v k)) (t.pc + 4)) ∧ ∀ k ∈ s.curKeys, ∀ t, s.thread k = some t →
      FromLane s (src (laneOf (keyCore k) (keyThr k)) ((readW t b).toNat % 32)) (readF · a) (readF t a) (v k) := by
  refine ⟨shuffledAt s b src (readF · a), ?_, fromLane_shuffledAt hd b src _⟩
  unfold LaneEffect
  rw [hi, shuffleF, preparedLanes_eq hu]
  refine eachLane_effect s h.1 _ _ fun ts k hk t ht => ?_
  rw [withF_unbound _ _ _ (hu k hk t ht), finishF_unbound _ _ _ _ (hu k hk t ht) (h.2.2 k hk t ht), width_none _ (by exact h.2.1),
    shuffledAt_some ht]

end

/-- Settles O5: each shuffle reads the lane that its source rule names. -/
theorem shufflesCompleteAcrossTheIssuingSet : Obligations.ShufflesCompleteAcrossTheIssuingSet := fun _ h hd d a b =>
  ⟨shuffleW_effect h hd d a b srcDirect rfl, shuffleW_effect h hd d a b srcUp rfl, shuffleW_effect h hd d a b srcDown rfl,
    shuffleW_effect h hd d a b srcXor rfl, fun hu =>
      ⟨shuffleF_effect h hd hu d a b srcDirect rfl, shuffleF_effect h hd hu d a b srcUp rfl, shuffleF_effect h hd hu d a b srcDown rfl,
        shuffleF_effect h hd hu d a b srcXor rfl⟩⟩

/-! ### Votes and masks (R147) -/

/-- The sum of distinct powers of two has a bit for each of them. -/
theorem getLsbD_sum_twoPow {α : Type} (lane : α → Nat) (f : α → Bool) (l : List α) (h : (l.map lane).Nodup) {n : Nat} (hn : n < 64) :
    (word ((l.map fun x => if f x then 2 ^ lane x else 0).sum)).getLsbD n = true ↔ ∃ x ∈ l, lane x = n ∧ f x = true := by
  induction l generalizing n with
  | nil => simp [word]
  | cons x l ih =>
    obtain ⟨hx, hl⟩ := List.nodup_cons.1 h
    simp only [List.map_cons, List.sum_cons, List.exists_mem_cons_iff, ← ih hl hn]
    by_cases hf : f x = true
    · generalize hr : word ((l.map fun x => if f x then 2 ^ lane x else 0).sum) = r at ih
      have hsum : word (2 ^ lane x + (l.map fun x => if f x then 2 ^ lane x else 0).sum) = BitVec.twoPow 64 (lane x) + r := by
        rw [← hr, word, BitVec.ofNat_add]
        congr 1
        apply BitVec.eq_of_toNat_eq
        rw [BitVec.toNat_ofNat, BitVec.toNat_twoPow]
      have hdisj : BitVec.twoPow 64 (lane x) &&& r = 0 := by
        refine BitVec.eq_of_getLsbD_eq fun i hi => ?_
        rw [BitVec.getLsbD_and, BitVec.getLsbD_twoPow]
        by_cases hli : lane x = i
        · have hri : r.getLsbD i = false := by
            rw [← Bool.not_eq_true, ih hl hi]
            rintro ⟨y, hy, hly, -⟩
            exact hx (hli.trans hly.symm ▸ List.mem_map_of_mem hy)
          simp [hri]
        · simp [hli]
      rw [if_pos hf, hsum, BitVec.add_eq_or_of_and_eq_zero _ _ hdisj, BitVec.getLsbD_or, BitVec.getLsbD_twoPow]
      by_cases hlx : lane x = n
      · simp [hlx, hn, hf]
      · simp [hlx]
    · simp [hf]

section

variable {s : State}

theorem getLsbD_laneMask (h : DistinctLanes s) (f : Thread → Bool) {n : Nat} (hn : n < 64) :
    (laneMask s f).getLsbD n = true ↔
      ∃ k ∈ s.curKeys, ∃ t, s.thread k = some t ∧ laneOf (keyCore k) (keyThr k) = n ∧ f t = true := by
  refine (getLsbD_sum_twoPow (fun x : Nat × Thread => x.1) (fun x => f x.2) (laneThreads s) (laneThreads_nodup h) hn).trans ?_
  simp only [mem_laneThreads]
  constructor
  · rintro ⟨x, ⟨k, hk, ht, hl⟩, hn, hf⟩
    exact ⟨k, hk, x.2, ht, hl.trans hn, hf⟩
  · rintro ⟨k, hk, t, ht, hl, hf⟩
    exact ⟨(n, t), ⟨k, hk, ht, hl⟩, rfl, hf⟩

theorem vall_effect (h : Ready s) (d : PReg) (a : PSrc) :
    ∃ b, LaneEffect (.vall d a) s (fun _ t => retired (setP t d b) (t.pc + 4)) ∧
      (b = true ↔ ∀ k ∈ s.curKeys, ∀ t, s.thread k = some t → readPS t a = true) := by
  refine ⟨s.curThreads.all fun x => readPS x.2 a, laneP_pOp h rfl fun _ => rfl, ?_⟩
  simp only [List.all_eq_true, mem_curThreads]
  exact ⟨fun hall k hk t ht => hall (k, t) ⟨hk, ht⟩, fun hall x hx => hall x.1 hx.1 x.2 hx.2⟩

theorem vany_effect (h : Ready s) (d : PReg) (a : PSrc) :
    ∃ b, LaneEffect (.vany d a) s (fun _ t => retired (setP t d b) (t.pc + 4)) ∧
      (b = true ↔ ∃ k ∈ s.curKeys, ∃ t, s.thread k = some t ∧ readPS t a = true) := by
  refine ⟨s.curThreads.any fun x => readPS x.2 a, laneP_pOp h rfl fun _ => rfl, ?_⟩
  simp only [List.any_eq_true, mem_curThreads]
  exact ⟨fun ⟨x, hx, hp⟩ => ⟨x.1, hx.1, x.2, hx.2, hp⟩, fun ⟨k, hk, t, ht, hp⟩ => ⟨(k, t), ⟨hk, ht⟩, hp⟩⟩

end

/-- Settles O6: the votes range over the threads of the set, and each lane of it has its own bit of a mask. -/
theorem votesAndMasksComplete : Obligations.VotesAndMasksComplete := by
  intro s h hd hfill d w a holds hholds
  obtain rfl : holds = fun t => readPS t a := funext hholds
  refine ⟨vall_effect h d a, vany_effect h d a, ⟨_, laneW_wOp h rfl fun _ => rfl, fun n => getLsbD_laneMask hd _⟩,
    ⟨_, laneW_wOp h rfl fun _ => rfl, fun n hn => (getLsbD_laneMask hd _ hn).trans ?_⟩⟩
  constructor
  · rintro ⟨k, hk, t, -, hl, -⟩
    exact ⟨k, hk, hl⟩
  · rintro ⟨k, hk, hl⟩
    obtain ⟨t, ht⟩ := Option.isSome_iff_exists.1 (hfill k hk)
    exact ⟨k, hk, t, ht, hl, rfl⟩

end Sys2Proof.Safety
end

section
/-! Arithmetic instructions, sixth part: what a lane's work is with other lanes of its slot in hand (R136, R239). -/

namespace Sys2Proof.Safety

open Machine

/-- The state with another issue in hand. -/
def holding (s : State) (c : Issue) : State := { s with cur := c }

/-- Two issues of one slot and one `pfx`: they may differ in their lanes. -/
def SameSlot (c d : Issue) : Prop := c.cl = d.cl ∧ c.core = d.core ∧ c.slot = d.slot ∧ c.pfx = d.pfx

variable {s : State} {c : Issue}

/-! ### What is read of a state does not depend on the lanes in hand -/

@[simp] theorem holding_cur : (holding s c).cur = c := (rfl)
@[simp] theorem holding_threads : (holding s c).threads = s.threads := (rfl)
@[simp] theorem holding_flights : (holding s c).flights = s.flights := (rfl)
@[simp] theorem holding_wakes : (holding s c).wakes = s.wakes := (rfl)
@[simp] theorem holding_mail : (holding s c).mail = s.mail := (rfl)
@[simp] theorem holding_packets : (holding s c).packets = s.packets := (rfl)
@[simp] theorem holding_gtime : (holding s c).gtime = s.gtime := (rfl)
@[simp] theorem holding_cyc : (holding s c).cyc = s.cyc := (rfl)
@[simp] theorem holding_free : (holding s c).free = s.free := (rfl)
@[simp] theorem holding_devno : (holding s c).devno = s.devno := (rfl)
@[simp] theorem holding_nextSeq : (holding s c).nextSeq = s.nextSeq := (rfl)

@[simp] theorem thread_holding (k : Nat) : (holding s c).thread k = s.thread k := (rfl)
@[simp] theorem cluster_holding (cl : Nat) : (holding s c).cluster cl = s.cluster cl := (rfl)
@[simp] theorem core_holding (cl core : Nat) : (holding s c).core cl core = s.core cl core := (rfl)
@[simp] theorem part_holding (p : Nat) : (holding s c).part p = s.part p := (rfl)
@[simp] theorem partOf_holding (cl : Nat) : (holding s c).partOf cl = s.partOf cl := (rfl)
@[simp] theorem partNo_holding (cl : Nat) : (holding s c).partNo cl = s.partNo cl := (rfl)
@[simp] theorem link_holding (port : Nat) : (holding s c).link port = s.link port := (rfl)
@[simp] theorem mailbox_holding (k : Nat) : (holding s c).mailbox k = s.mailbox k := (rfl)
@[simp] theorem fifo_holding (cl q : Nat) : (holding s c).fifo cl q = s.fifo cl q := (rfl)
@[simp] theorem stampOf_holding (k : Nat) : (holding s c).stampOf k = s.stampOf k := (rfl)
@[simp] theorem inPack_holding (k : Nat) : (holding s c).inPack k = s.inPack k := (rfl)
@[simp] theorem numAt_holding (addrs : List Nat) : (holding s c).numAt addrs = s.numAt addrs := (rfl)
@[simp] theorem slotLanes_holding (cl core slot : Nat) : slotLanes (holding s c) cl core slot = slotLanes s cl core slot := (rfl)
@[simp] theorem clusterRuns_holding (cl : Nat) : clusterRuns (holding s c) cl = clusterRuns s cl := (rfl)
@[simp] theorem badAmong_holding (keys : List Nat) : badAmong (holding s c) keys = badAmong s keys := (rfl)
@[simp] theorem tableDirty_holding (lines : List Nat) : tableDirty (holding s c) lines = tableDirty s lines := (rfl)
@[simp] theorem tableHeld_holding (addrs : List Nat) : tableHeld (holding s c) addrs = tableHeld s addrs := (rfl)
@[simp] theorem linkHeld_holding (w : Bool) (addrs : List Nat) : linkHeld (holding s c) w addrs = linkHeld s w addrs := (rfl)
@[simp] theorem farRefused_holding (p key : Nat) (w : Bool) : farRefused (holding s c) p key w = farRefused s p key w := (rfl)
@[simp] theorem atomicBarred_holding (k op : Nat) (addrs : List Nat) : atomicBarred (holding s c) k op addrs = atomicBarred s k op addrs := (rfl)
@[simp] theorem calendarRefuses_holding (addrs : List Nat) (data : List Byte) :
    calendarRefuses (holding s c) addrs data = calendarRefuses s addrs data := (rfl)
@[simp] theorem homeKey_holding (a : Nat) : homeKey (holding s c) a = homeKey s a := (rfl)
@[simp] theorem tableWord_holding (a : Nat) : tableWord (holding s c) a = tableWord s a := (rfl)
@[simp] theorem tableStop_holding (a n : Nat) : tableStop (holding s c) a n = tableStop s a n := (rfl)
@[simp] theorem ownedLocal_holding (p : Partition) (a : Nat) : ownedLocal (holding s c) p a = ownedLocal s p a := (rfl)
@[simp] theorem leafOut_holding (p : Partition) (level e va : Nat) : leafOut (holding s c) p level e va = leafOut s p level e va := (rfl)
@[simp] theorem leafCause_holding (sup : Bool) (acc : Access) (e key : Nat) : leafCause (holding s c) sup acc e key = leafCause s sup acc e key := (rfl)
@[simp] theorem rackedFrame_holding (addrs : List Nat) : rackedFrame (holding s c) addrs = rackedFrame s addrs := (rfl)
@[simp] theorem presenceCheck_holding (va : Word) (addrs : List Nat) : presenceCheck (holding s c) va addrs = presenceCheck s va addrs := (rfl)
@[simp] theorem spotCheck_holding (eng sup : Bool) (acc : Access) (n : Nat) (va : Word) :
    spotCheck (holding s c) eng sup acc n va = spotCheck s eng sup acc n va := (rfl)

@[simp] theorem walk_holding (p : Partition) (sup : Bool) (acc : Access) (va level table : Nat) (lines : List Nat) :
    walk (holding s c) p sup acc va level table lines = walk s p sup acc va level table lines := by
  induction level generalizing table lines with
  | zero =>
    unfold walk
    simp only [tableWord_holding, tableStop_holding, homeKey_holding, leafOut_holding, leafCause_holding, holding_devno]
  | succ n ih =>
    unfold walk
    simp only [tableWord_holding, tableStop_holding, homeKey_holding, leafOut_holding, leafCause_holding, holding_devno, ownedLocal_holding]
    generalize ownedLocal s p _ = next
    cases next with
    | none => rfl
    | some a => simp only [ih]

/-- (An equation of `translate` itself would have the kernel compute with the address it takes, so it is unfolded as a function.) -/
theorem translate_holding (p : Partition) (asid : BitVec 16) (sup : Bool) (acc : Access) (va : Nat) :
    Machine.translate (holding s c) p asid sup acc va = Machine.translate s p asid sup acc va := by
  generalize hT : @Machine.translate = T
  delta Machine.translate at hT
  subst hT
  beta_reduce
  rw [ownedLocal_holding]
  generalize ownedLocal s p (bitsOf 20 36 p.astb * 2 ^ 20 + 16 * asid.toNat) = table
  cases table with
  | none => rfl
  | some a => simp only [ownedLocal_holding, tableWord_holding, tableStop_holding, homeKey_holding, walk_holding]

@[simp] theorem resolve_holding (p : Partition) (asid : BitVec 16) (sup : Bool) (acc : Access) (va : Word) :
    resolve (holding s c) p asid sup acc va = resolve s p asid sup acc va := by
  unfold resolve
  rw [translate_holding]

@[simp] theorem checkPlace_holding (eng : Bool) (part : Nat) (p : Partition) (asid : BitVec 16) (sup : Bool) (acc : Access) (va : Word) (n : Nat) :
    checkPlace (holding s c) eng part p asid sup acc va n = checkPlace s eng part p asid sup acc va n := by
  simp only [checkPlace, byteKeys, resolve_holding, farRefused_holding, rackedFrame_holding, spotCheck_holding]

@[simp] theorem checkAccess_holding (eng : Bool) (cl part : Nat) (p : Partition) (asid : BitVec 16) (sup : Bool) (acc : Access) (va : Word)
    (n : Nat) : checkAccess (holding s c) eng cl part p asid sup acc va n = checkAccess s eng cl part p asid sup acc va n := by
  simp only [checkAccess, checkPlace_holding, presenceCheck_holding, cluster_holding]
@[simp] theorem checkCounter_holding (part : Nat) (p : Partition) (asid : BitVec 16) (sup : Bool) (acc : Access) (va : Word)
    (n : Nat) : checkCounter (holding s c) part p asid sup acc va n = checkCounter s part p asid sup acc va n := by
  simp only [checkCounter, checkPlace_holding, presenceCheck_holding]
@[simp] theorem joinReads_holding (t : Thread) (addrs lines : List Nat) : joinReads (holding s c) t addrs lines = joinReads s t addrs lines := (rfl)
@[simp] theorem hostCalls_holding (p : Partition) : hostCalls (holding s c) p = hostCalls s p := (rfl)
@[simp] theorem ringWord_holding (p : Partition) (asid : BitVec 16) (base : Word) (off : Nat) :
    ringWord (holding s c) p asid base off = ringWord s p asid base off := by
  simp only [ringWord, resolve_holding, badAmong_holding, numAt_holding]
@[simp] theorem ringRoom_holding (cl : Nat) (x : HostCall) : ringRoom (holding s c) cl x = ringRoom s cl x := by
  simp only [ringRoom, ringFree, partOf_holding, ringWord_holding, hostCalls_holding]
@[simp] theorem ringTurn_holding (k : Nat) (t : Thread) (x : HostCall) : ringTurn (holding s c) k t x = ringTurn s k t x := (rfl)
@[simp] theorem groupFor_holding (k : Nat) (t : Thread) (g : Nat) : (holding s c).groupFor k t g = s.groupFor k t g := (rfl)
@[simp] theorem liveThreads_holding (p : Nat) (e : Group) : liveThreads (holding s c) p e = liveThreads s p e := (rfl)
@[simp] theorem arrivals_holding (p g : Nat) (e : Group) : arrivals (holding s c) p g e = arrivals s p g e := (rfl)
@[simp] theorem pushesTo_holding (cl q : Nat) : pushesTo (holding s c) cl q = pushesTo s cl q := (rfl)
@[simp] theorem tokenOp_holding (t : Thread) (kind : OutKind) : tokenOp (holding s c) t kind = tokenOp s t kind := (rfl)
@[simp] theorem settleGroup_holding (p : Nat) (e : Group) : settleGroup (holding s c) p e = settleGroup s p e := (rfl)
@[simp] theorem filledLines_holding (cl : Nat) (x : Cmd) : filledLines (holding s c) cl x = filledLines s cl x := (rfl)
@[simp] theorem copyEntries_holding (cl : Nat) (x : Cmd) : copyEntries (holding s c) cl x = copyEntries s cl x := by
  simp only [copyEntries, mappedPieces, partOf_holding, resolve_holding]
@[simp] theorem steCtx_holding (cl n : Nat) : steCtx (holding s c) cl n = steCtx s cl n := (rfl)
@[simp] theorem sysValue_holding (k : Nat) (t : Thread) (p : Nat) (x : Partition) (r : Nat) : sysValue (holding s c) k t p x r = sysValue s k t p x r := (rfl)
@[simp] theorem featWord_holding (cl : Nat) (i : Word) : featWord (holding s c) cl i = featWord s cl i := (rfl)
@[simp] theorem joinOver_holding (k : Nat) (t : Thread) (va : Word) : joinOver (holding s c) k t va = joinOver s k t va := by
  simp only [joinOver, partOf_holding, resolve_holding, rackedFrame_holding, badAmong_holding, joinReads_holding]
@[simp] theorem parkOver_holding (k : Nat) (t : Thread) (w : ParkWhy) : parkOver (holding s c) k t w = parkOver s k t w := by
  cases w
  case join => exact joinOver_holding ..
  case ring => simp only [parkOver, ringRoom_holding, ringTurn_holding]
  all_goals rfl

end Sys2Proof.Safety
end

section
/-! Arithmetic instructions, seventh part: the state's operations with other lanes of the slot in hand (R136, R239). -/

namespace Sys2Proof.Safety

open Machine

variable {s : State} {c : Issue}

/-! ### Tables, messages and records -/

@[simp] theorem putThread_holding (k : Nat) (t : Thread) : (holding s c).putThread k t = holding (s.putThread k t) c := (rfl)
@[simp] theorem dropThread_holding (k : Nat) : (holding s c).dropThread k = holding (s.dropThread k) c := (rfl)
@[simp] theorem modCluster_holding (cl : Nat) (f : Cluster → Cluster) : (holding s c).modCluster cl f = holding (s.modCluster cl f) c := (rfl)
@[simp] theorem putCluster_holding (cl : Nat) (x : Cluster) : (holding s c).putCluster cl x = holding (s.putCluster cl x) c := (rfl)
@[simp] theorem modCore_holding (cl i : Nat) (f : Core → Core) : (holding s c).modCore cl i f = holding (s.modCore cl i f) c := (rfl)
@[simp] theorem putFifo_holding (cl q : Nat) (f : Fifo) : (holding s c).putFifo cl q f = holding (s.putFifo cl q f) c := (rfl)
@[simp] theorem dropRead_holding (k n : Nat) : (holding s c).dropRead k n = holding (s.dropRead k n) c := (rfl)
@[simp] theorem send_holding (core : Nat) (f : Flight) : (holding s c).send core f = holding (s.send core f) c := (rfl)
@[simp] theorem sendRecord_holding (cl : Nat) (r : Record) : (holding s c).sendRecord cl r = holding (s.sendRecord cl r) c := (rfl)
@[simp] theorem refetch_holding (uid : Nat) : (holding s c).refetch uid = holding (s.refetch uid) c := (rfl)
@[simp] theorem writeCells_holding (cells : List (Nat × Byte)) : (holding s c).writeCells cells = holding (s.writeCells cells) c := (rfl)
@[simp] theorem sendFar_holding (p : Nat) (runs : List (Nat × List Byte)) (a : Option (Nat × Word × Word)) :
    (holding s c).sendFar p runs a = holding (s.sendFar p runs a) c := (rfl)
@[simp] theorem postPart_holding (port vc : Nat) (l : List Byte) : (holding s c).postPart port vc l = holding (s.postPart port vc l) c := (rfl)
@[simp] theorem nextWrite_holding (k : Nat) : (holding s c).nextWrite k = (holding (s.nextWrite k).1 c, (s.nextWrite k).2) := (rfl)
@[simp] theorem parkAt_holding (k : Nat) (t : Thread) (w : ParkWhy) : (holding s c).parkAt k t w = holding (s.parkAt k t w) c := (rfl)

theorem foldl_holding {α : Type} {f : State → α → State} (h : ∀ u x, f (holding u c) x = holding (f u x) c) (l : List α) :
    l.foldl f (holding s c) = holding (l.foldl f s) c := List.foldl_hom (holding · c) h

@[simp] theorem ite_holding (p : Prop) [Decidable p] (u v : State) : (if p then holding u c else holding v c) = holding (if p then u else v) c :=
  (apply_ite (holding · c) ..).symm

@[simp] theorem postMessage_holding (port vc : Nat) (l : List Byte) : (holding s c).postMessage port vc l = holding (s.postMessage port vc l) c :=
  foldl_holding (fun _ _ => rfl) _

@[simp] theorem farRequest_holding (p kind : Nat) (keys : List Nat) (data : List Byte) :
    (holding s c).farRequest p kind keys data = holding (s.farRequest p kind keys data) c :=
  foldl_holding (fun _ _ => postMessage_holding ..) _

@[simp] theorem walkReads_holding (cl : Nat) (lines : List Nat) : (holding s c).walkReads cl lines = holding (s.walkReads cl lines) c :=
  foldl_holding (fun _ _ => farRequest_holding ..) _

@[simp] theorem dropReads_holding (k : Nat) : (holding s c).dropReads k = holding (s.dropReads k) c :=
  foldl_holding (fun _ _ => rfl) _

@[simp] theorem writeFrom_holding (cl : Nat) (cells : List (Nat × Byte)) : (holding s c).writeFrom cl cells = holding (s.writeFrom cl cells) c := by
  simp [State.writeFrom]

@[simp] theorem atomicFrom_holding (cl op : Nat) (addrs : List Nat) (new : Nat) (x e : Word) :
    (holding s c).atomicFrom cl op addrs new x e = holding (s.atomicFrom cl op addrs new x e) c := by
  simp [State.atomicFrom, State.writeNum]

/-! ### Stops and traps -/

@[simp] theorem modPart_holding (p : Nat) (f : Partition → Partition) : (holding s c).modPart p f = holding (s.modPart p f) c := by
  unfold State.modPart
  rw [show (holding s c).parts = s.parts from rfl]
  cases mget s.parts p <;> rfl

@[simp] theorem stopPart_holding : stopPart (holding s c) = stopPart s := (rfl)

@[simp] theorem startStop_holding (p : Nat) (b : Bool) (r : Record) : (holding s c).startStop p b r = holding (s.startStop p b r) c := by
  simp [State.startStop]

@[simp] theorem contain_holding (p : Nat) (r : Record) : (holding s c).contain p r = holding (s.contain p r) c := by
  unfold State.contain
  rw [part_holding]
  cases s.part p with
  | none => rfl
  | some x =>
    dsimp only
    split <;> simp

@[simp] theorem containLink_holding (p cl core addr : Nat) (pc : Word) :
    (holding s c).containLink p cl core addr pc = holding (s.containLink p cl core addr pc) c := contain_holding ..

@[simp] theorem containBad_holding (p cl core : Nat) (b : Nat × Nat) (pc : Word) :
    (holding s c).containBad p cl core b pc = holding (s.containBad p cl core b pc) c := contain_holding ..

@[simp] theorem containKey_holding (p cl core key : Nat) (pc : Word) :
    (holding s c).containKey p cl core key pc = holding (s.containKey p cl core key pc) c := by
  unfold State.containKey
  rw [badAmong_holding]
  split <;> simp

@[simp] theorem takeTrap_holding (k : Nat) (t : Thread) (pc ts : Word) (cause d : Nat) (step : Bool) (v te : Word) :
    (holding s c).takeTrap k t pc ts cause d step v te = holding (s.takeTrap k t pc ts cause d step v te) c := by
  unfold State.takeTrap
  rw [partOf_holding]
  split <;> simp

@[simp] theorem stepTrap_holding (k : Nat) (t : Thread) : (holding s c).stepTrap k t = holding (s.stepTrap k t) c := by
  unfold State.stepTrap
  split <;> simp

@[simp] theorem finishAt_holding (k : Nat) (t t' : Thread) (pc : Word) : (holding s c).finishAt k t t' pc = holding (s.finishAt k t t' pc) c := by
  simp [State.finishAt]

/-! ### Operations that read the slot or the `pfx` in hand -/

section

variable (h : SameSlot c s.cur)
include h

theorem width_holding : (holding s c).width = s.width := by simp [State.width, h.2.2.2]

theorem onGC_holding : (holding s c).onGC = s.onGC := by simp [State.onGC, h.2.1]

theorem finish_holding (k : Nat) (t t' : Thread) : (holding s c).finish k t t' = holding (s.finish k t t') c := by
  simp [State.finish, width_holding h]

theorem trap_holding (k : Nat) (t : Thread) (cause : Nat) (v : Word) : (holding s c).trap k t cause v = holding (s.trap k t cause v) c := by
  simp [State.trap, h.2.2.2]

theorem trapDeferred_holding (k : Nat) (t : Thread) (d : Deferred) : (holding s c).trapDeferred k t d = holding (s.trapDeferred k t d) c := by
  simp [State.trapDeferred, h.2.2.2]

end

end Sys2Proof.Safety
end

section
/-! Arithmetic instructions, eighth part: the lane operations of memory, queues, threads, trees, system registers and calls with other lanes of
the slot in hand (R136, R239). -/

namespace Sys2Proof.Safety

open Machine

section

variable {s : State} {c : Issue} {k : Nat} {t t' : Thread}

/-! ### Groups and releases -/

@[simp] theorem settle_holding (p : Nat) : (holding s c).settle p = holding (s.settle p) c := by
  simp [State.settle]

@[simp] theorem settleLaunch_holding (core : Nat) (l : Option (Nat × Nat)) (f : Flight) :
    (holding s c).settleLaunch core l f = holding (s.settleLaunch core l f) c := by
  unfold State.settleLaunch
  split <;> simp

theorem withReleased_holding {u u' : State} (hu : u' = holding u c) : (holding s c).withReleased k t u' = holding (s.withReleased k t u) c := by
  simp [State.withReleased, hu]

theorem withWritten_holding {rs : List RegRef} {u u' : State} (hu : u' = holding u c) :
    (holding s c).withWritten k t rs u' = holding (s.withWritten k t rs u) c := by
  unfold State.withWritten
  split
  · exact hu
  · exact parkAt_holding ..

@[simp] theorem enterFbf_holding (cl reason : Nat) (e : FbfEntry) (pc : Word) :
    (holding s c).enterFbf cl reason e pc = holding (s.enterFbf cl reason e pc) c := by
  simp [State.enterFbf]

@[simp] theorem faultPark_holding (acc : Access) (cause reason : Nat) (va : Word) (lines : List Nat) :
    (holding s c).faultPark k t acc cause reason va lines = holding (s.faultPark k t acc cause reason va lines) c := by
  simp [State.faultPark]

@[simp] theorem endThread_holding : (holding s c).endThread k t = holding (s.endThread k t) c := by
  have hw : ∀ (u : State) w, { holding u c with wakes := w } = holding { u with wakes := w } c := fun _ _ => rfl
  unfold State.endThread
  simp only [dropReads_holding, dropThread_holding]
  rw [hw]
  simp only [holding_wakes, modCore_holding, slotLanes_holding, thread_holding, ite_holding, settle_holding]
  split <;> rfl

theorem grantCopy_holding (cl : Nat) (x : Cmd) : (holding s c).grantCopy cl x = (s.grantCopy cl x).map (holding · c) := by
  have hf : ∀ l : List (Nat × Nat), l.foldl (fun u e => u.modCluster e.1 fun y => { y with presence := mset y.presence e.2 (.absent x.seq) }) (holding s c)
      = holding (l.foldl (fun u e => u.modCluster e.1 fun y => { y with presence := mset y.presence e.2 (.absent x.seq) }) s) c :=
    foldl_holding fun _ _ => rfl
  simp only [State.grantCopy, filledLines_holding, cluster_holding, copyEntries_holding, hf, ite_holding, modCluster_holding]
  split
  · rfl
  · simp only [Option.map_map, Function.comp_def]

@[simp] theorem grantPosted_holding (cl : Nat) (x : Cmd) : (holding s c).grantPosted cl x = holding (s.grantPosted cl x) c := by
  unfold State.grantPosted
  rw [clusterRuns_holding, cluster_holding, grantCopy_holding, ← ite_holding]
  congr 1
  cases s.grantCopy cl x <;> rfl

section

variable (h : SameSlot c s.cur)
include h

/-! ### Accesses of a lane -/

theorem checkStop_holding (acc : Access) (x : Check) : (holding s c).checkStop k t acc x = holding (s.checkStop k t acc x) c := by
  unfold State.checkStop
  split <;> simp [trap_holding h]

theorem access_holding {acc : Access} {va : Word} {n : Nat} {f f' : List Nat → List Nat → State} (hf : ∀ a l, f' a l = holding (f a l) c) :
    (holding s c).access k t acc va n f' = holding (s.access k t acc va n f) c := by
  unfold State.access
  rw [partOf_holding]
  cases s.partOf (keyCl k) with
  | none => rfl
  | some px =>
    dsimp only
    rw [checkAccess_holding]
    split
    · simp [hf]
    · exact checkStop_holding h ..

theorem counterAccess_holding {acc : Access} {va : Word} {n : Nat} {f f' : List Nat → List Nat → State}
    (hf : ∀ a l, f' a l = holding (f a l) c) :
    (holding s c).counterAccess k t acc va n f' = holding (s.counterAccess k t acc va n f) c := by
  unfold State.counterAccess
  rw [partOf_holding]
  cases s.partOf (keyCl k) with
  | none => rfl
  | some px =>
    dsimp only
    rw [checkCounter_holding]
    split
    · rw [badAmong_holding]
      split <;> simp [hf]
    · exact checkStop_holding h ..

theorem withF_holding {srcs : List Reg} {dst : Option Reg} {f f' : Thread → State} (hf : ∀ u, f' u = holding (f u) c) :
    (holding s c).withF k t srcs dst f' = holding (s.withF k t srcs dst f) c := by
  unfold State.withF
  split <;> simp [hf, trap_holding h, h.2.2.2]

theorem depart_holding (pc : Word) (target : Nat × Nat) : (holding s c).depart k t pc target = holding (s.depart k t pc target) c := by
  simp [State.depart, trap_holding h]

theorem orMigrate_holding {va : Word} {u u' : State} (hu : u' = holding u c) :
    (holding s c).orMigrate k t va u' = holding (s.orMigrate k t va u) c := by
  unfold State.orMigrate
  rw [partOf_holding]
  split
  · exact depart_holding h ..
  · exact hu

theorem storeLane_holding (order : BitVec 2) (scope : BitVec 3) (va : Word) (data : List Byte) :
    (holding s c).storeLane k t t' order scope va data = holding (s.storeLane k t t' order scope va data) c := by
  refine access_holding h fun addrs lines => ?_
  have hn := finish_holding (s := (s.nextWrite k).1) h
  simp [trap_holding h, hn]

theorem atomicLane_holding (op n : Nat) (order : BitVec 2) (scope : BitVec 3) (va : Word) (dst : RegRef) (x e : Word) :
    (holding s c).atomicLane k t t' op n order scope va dst x e = holding (s.atomicLane k t t' op n order scope va dst x e) c := by
  refine orMigrate_holding h ?_
  rw [trap_holding h, ← ite_holding]
  refine ite_congr rfl (fun _ => rfl) fun _ => access_holding h fun addrs lines => ?_
  have hn := finish_holding (s := (s.nextWrite k).1) h
  simp [trap_holding h, hn]

/-! ### Names, queues and groups -/

theorem withQueue_holding {x : Word} {f f' : Nat → Nat → State} (hf : ∀ cl q, f' cl q = holding (f cl q) c) :
    (holding s c).withQueue k t x f' = holding (s.withQueue k t x f) c := by
  unfold State.withQueue
  split <;> simp [trap_holding h, hf]

theorem withName_holding {x : Word} {f f' : Nat → State} (hf : ∀ dst, f' dst = holding (f dst) c) :
    (holding s c).withName k t x f' = holding (s.withName k t x f) c := by
  unfold State.withName
  split <;> simp [trap_holding h, hf]

theorem withGroup_holding {g : Nat} {f f' : Nat → Group → State} (hf : ∀ p e, f' p e = holding (f p e) c) :
    (holding s c).withGroup k t g f' = holding (s.withGroup k t g f) c := by
  unfold State.withGroup
  rw [groupFor_holding]
  split <;> simp [trap_holding h, hf]

theorem arrive_holding (p g : Nat) (e : Group) : (holding s c).arrive t p g e = (holding (s.arrive t p g e).1 c, (s.arrive t p g e).2) := by
  simp [State.arrive, h.1, h.2.1]

/-! ### Engines -/

theorem postCopy_holding (fn : Nat) (a : Reg) (b : BitVec 4) : (holding s c).postCopy k t fn a b = holding (s.postCopy k t fn a b) c := by
  have hn : ∀ n, { holding s c with nextSeq := n } = holding { s with nextSeq := n } c := fun _ => rfl
  have hf := fun n f => finish_holding (s := { s with nextSeq := n }.modCluster (keyCl k) f) h
  unfold State.postCopy
  rw [hn]
  simp only [trap_holding h, cluster_holding, parkAt_holding, onGC_holding h, holding_nextSeq, holding_cyc, holding_free,
    modCluster_holding, hf, grantPosted_holding, ite_holding]

end

end

end Sys2Proof.Safety
end

section
/-! Arithmetic instructions, ninth part: tree commands, system registers and host calls with other lanes of the slot in hand (R136, R239). -/

namespace Sys2Proof.Safety

open Machine

section

variable {s : State} {c : Issue} {k : Nat} {t t' : Thread}

/-! ### System registers -/

@[simp] theorem putQueue_holding (p : Nat) (f : LaunchQueue → LaunchQueue) : (holding s c).putQueue p f = holding (s.putQueue p f) c :=
  modPart_holding ..

@[simp] theorem registerQueue_holding (p : Nat) (x : Partition) (v : Word) :
    (holding s c).registerQueue p x v = holding (s.registerQueue p x v) c := by
  unfold State.registerQueue
  exact putQueue_holding (s := { s with flights := _, clusters := _ }) ..

@[simp] theorem haltAfterRead_holding (p : Nat) (x : Partition) (v : Word) :
    (holding s c).haltAfterRead p x v = holding (s.haltAfterRead p x v) c := by
  unfold State.haltAfterRead
  exact putQueue_holding (s := { s with flights := _ }) ..

@[simp] theorem putLqcfg_holding (p : Nat) (x : Partition) (v : Word) : (holding s c).putLqcfg p x v = holding (s.putLqcfg p x v) c := by
  simp [State.putLqcfg]

@[simp] theorem pinRoutes_holding (p : Nat) (x : Partition) : (holding s c).pinRoutes p x = holding (s.pinRoutes p x) c := by
  unfold State.pinRoutes
  split <;> rfl

theorem putSys_holding (p : Nat) (x : Partition) (r : Nat) (v : Word) :
    (holding s c).putSys t p x r v = (holding (s.putSys t p x r v).1 c, (s.putSys t p x r v).2) := by
  unfold State.putSys
  split <;> simp

@[simp] theorem applySys_holding (p : Nat) (x : Partition) (fn r : Nat) (f : SysFields) (d : Reg) (a : Word) :
    (holding s c).applySys k t p x fn r f d a = holding (s.applySys k t p x fn r f d a) c := by
  simp [State.applySys, putSys_holding]

/-! ### Host calls -/

/-- What commutes with every change of the lanes in hand leaves them. -/
theorem cur_of_holding {u v : State} (h : u = holding v s.cur) (hu : u = v) : v.cur = s.cur := by
  rw [← hu, h, holding_cur]

theorem atomicFrom_cur (cl op : Nat) (addrs : List Nat) (new : Nat) (x e : Word) : (s.atomicFrom cl op addrs new x e).cur = s.cur :=
  cur_of_holding (atomicFrom_holding (s := s) (c := s.cur) cl op addrs new x e) rfl

theorem ringAccess_holding {p : Nat} {x : Partition} {y : HostCall} {acc : Access} {va : Word} {n : Nat} {f f' : List Nat → State}
    (h : SameSlot c s.cur) (hf : ∀ addrs, f' addrs = holding (f addrs) c) :
    (holding s c).ringAccess k t p x y acc va n f' = holding (s.ringAccess k t p x y acc va n f) c := by
  unfold State.ringAccess
  simp only [checkAccess_holding]
  split
  · simp only [linkHeld_holding, tableHeld_holding, farRefused_holding, badAmong_holding, hf, trap_holding h, parkAt_holding]
    cases linkHeld s (acc == .write) _ with
    | some key => exact containLink_holding ..
    | none =>
      dsimp only
      cases (if acc = .write then none else badAmong s _) with
      | some b => simp only [containBad_holding, ite_holding]
      | none => simp only [walkReads_holding, farRequest_holding, ite_holding]
  all_goals simp [trap_holding h]

theorem writeRequest_holding (h : SameSlot c s.cur) (p : Nat) (x : Partition) (y : HostCall) (i : Nat) :
    (holding s c).writeRequest k t p x y i = holding (s.writeRequest k t p x y i) c := by
  unfold State.writeRequest
  rw [ringRoom_holding, parkAt_holding, ← ite_holding]
  refine ite_congr rfl (fun _ => rfl) fun _ => ringAccess_holding h fun desc => ringAccess_holding h fun addrs => ?_
  simp

theorem askHost_holding (h : SameSlot c s.cur) (p : Nat) (x : Partition) (y : HostCall) :
    (holding s c).askHost k t p x y = holding (s.askHost k t p x y) c := by
  unfold State.askHost
  split
  · exact writeRequest_holding h ..
  · rw [ringTurn_holding, parkAt_holding, ← ite_holding]
    refine ite_congr rfl (fun _ => rfl) fun _ => ringAccess_holding h fun addrs => ?_
    simp only [badAmong_holding, numAt_holding]
    split
    · exact containBad_holding ..
    · rw [atomicFrom_holding, putThread_holding]
      refine writeRequest_holding ?_ ..
      rw [putThread_cur, atomicFrom_cur]
      exact h

theorem svcLane_holding (h : SameSlot c s.cur) (ks : List Nat) (b : Bool) :
    (holding s c).svcLane ks b k t = holding (s.svcLane ks b k t) c := by
  simp only [State.svcLane, partOf_holding]
  cases s.partOf (keyCl k) with
  | none => rfl
  | some px =>
    cases t.call with
    | some y => exact askHost_holding h ..
    | none =>
      have hp := fun y => askHost_holding (k := k) (t := { t with call := some y }) (s := s.putThread k { t with call := some y }) h px.1 px.2 y
      simp only [putThread_holding, parkAt_holding, hp, ite_holding]

section

variable (h : SameSlot c s.cur)
include h

theorem sysLane_holding (fn : Nat) (r : BitVec 12) (d : Reg) (a : Word) :
    (holding s c).sysLane k t fn r d a = holding (s.sysLane k t fn r d a) c := by
  unfold State.sysLane
  rw [partOf_holding]
  split <;> simp [finish_holding h, trap_holding h]

/-! ### Tree commands -/

theorem withSteRoom_holding {u u' : State} (hu : u' = holding u c) : (holding s c).withSteRoom k t u' = holding (s.withSteRoom k t u) c := by
  simp [State.withSteRoom, hu, h.1]

theorem engineCmd_holding (fn : Nat) (ctx : Ctx) (words : List Word) (ops : List (Nat × Word × Word)) (scales : List (List Byte)) (dst : Reg) :
    { engineCmd (holding s c) fn ctx words ops scales dst t with keys := [k] } =
      { engineCmd s fn ctx words ops scales dst t with keys := [k] } := by
  simp [engineCmd, onGC_holding h, h.1, h.2.1, h.2.2.1]

theorem postSte_holding {fn : Nat} {ctx : Ctx} {va vb : Word} {dst : Reg} {go : State → Thread → State}
    (hgo : ∀ u y, SameSlot c u.cur → go (holding u c) y = holding (go u y) c) :
    (holding s c).postSte k t fn ctx va vb dst go = holding (s.postSte k t fn ctx va vb dst go) c := by
  have hn : ∀ n, { holding s c with nextSeq := n } = holding { s with nextSeq := n } c := fun _ => rfl
  refine withSteRoom_holding h ?_
  dsimp only
  rw [hn, engineCmd_holding h, modCluster_holding]
  simp only [holding_cur, h.1, steCtx_holding, holding_nextSeq]
  exact hgo _ _ h

end

end

end Sys2Proof.Safety
end

section
/-! Arithmetic instructions, tenth part: a gang's instruction on memory, queues, waits, trees, registers or traps is its lanes' in ascending
order (R136, R239). -/

namespace Sys2Proof.Safety

open Machine

section

variable {s : State} {c : Issue} {f : State → Nat → Thread → State}

/-- What a lane does is the same whichever lanes of its slot are in hand, and leaves them in hand. -/
def LaneLocal (f : State → Nat → Thread → State) : Prop :=
  ∀ {s : State} {c : Issue} {k : Nat} {t : Thread}, SameSlot c s.cur → f (holding s c) k t = holding (f s k t) c

/-- A lane of an issuing set does its work when its thread exists (the step of `forLanes`). -/
def laneStep (f : State → Nat → Thread → State) (s : State) (k : Nat) : State :=
  match s.thread k with
  | some t => f s k t
  | none => s

/-- The key of a lane of the slot in hand. -/
def laneKey (s : State) (l : Nat) : Nat := keyOf s.cur.cl s.cur.core (thrOf s.cur.core s.cur.slot l)

theorem forLanes_eq_foldl : s.forLanes f = s.curKeys.foldl (laneStep f) s := rfl

theorem laneStep_holding (hf : LaneLocal f) (h : SameSlot c s.cur) (k : Nat) : laneStep f (holding s c) k = holding (laneStep f s k) c := by
  unfold laneStep
  rw [thread_holding]
  cases s.thread k with
  | none => rfl
  | some t => exact hf h

theorem laneStep_cur (hf : LaneLocal f) (k : Nat) : (laneStep f s k).cur = s.cur :=
  cur_of_holding (laneStep_holding hf (c := s.cur) ⟨rfl, rfl, rfl, rfl⟩ k) rfl

theorem foldl_laneStep_holding (hf : LaneLocal f) (ks : List Nat) (h : SameSlot c s.cur) :
    ks.foldl (laneStep f) (holding s c) = holding (ks.foldl (laneStep f) s) c := by
  induction ks generalizing s with
  | nil => rfl
  | cons k ks ih =>
    rw [List.foldl_cons, laneStep_holding hf h, ih (by rwa [laneStep_cur hf]), List.foldl_cons]

theorem foldl_laneStep_cur (hf : LaneLocal f) (ks : List Nat) : (ks.foldl (laneStep f) s).cur = s.cur :=
  cur_of_holding (foldl_laneStep_holding hf ks (c := s.cur) ⟨rfl, rfl, rfl, rfl⟩) rfl

/-- The work of a set's lanes is that of its first lane, then that of the others. -/
theorem forLanes_cons (hf : LaneLocal f) {l : Nat} {ls : List Nat} (hl : s.cur.lanes = l :: ls) :
    s.forLanes f = holding ((holding ((holding s { s.cur with lanes := [l] }).forLanes f) { s.cur with lanes := ls }).forLanes f) s.cur := by
  have hs : ∀ ls, SameSlot { s.cur with lanes := ls } s.cur := fun _ => ⟨rfl, rfl, rfl, rfl⟩
  have hcur := laneStep_cur (s := s) hf (laneKey s l)
  have hone : (holding s { s.cur with lanes := [l] }).forLanes f = holding (laneStep f s (laneKey s l)) { s.cur with lanes := [l] } :=
    laneStep_holding hf (hs _) (laneKey s l)
  have hrest := foldl_laneStep_holding hf (ls.map (laneKey s)) (s := laneStep f s (laneKey s l)) (c := { s.cur with lanes := ls })
    (by rw [hcur]; exact hs _)
  have hall : s.forLanes f = (ls.map (laneKey s)).foldl (laneStep f) (laneStep f s (laneKey s l)) := by
    rw [forLanes_eq_foldl, State.curKeys, hl, List.map_cons, List.foldl_cons]
    rfl
  rw [hone, hall]
  calc _ = holding ((ls.map (laneKey s)).foldl (laneStep f) (laneStep f s (laneKey s l))) s.cur := by
        rw [← hcur, ← foldl_laneStep_cur hf (ls.map (laneKey s))]
        rfl
    _ = _ := (congrArg (holding · s.cur) hrest).symm

/-- An instruction on the lanes `l :: ls` of a state is the one on `l`, then the one on `ls`. -/
def LaneThenLanes (i : Instr) (s : State) (l : Nat) (ls : List Nat) : Prop :=
  ∃ u v, exec i { s with cur := { s.cur with lanes := [l] } } = .next u ∧
    exec i { u with cur := { s.cur with lanes := ls } } = .next v ∧ exec i s = .next { v with cur := s.cur }

/-- An instruction is the work of each lane of the set in turn. -/
def LaneByLane (i : Instr) : Prop := ∃ f, LaneLocal f ∧ ∀ s, exec i s = s.eachLane f

theorem LaneByLane.laneThenLanes {i : Instr} (hi : LaneByLane i) {l : Nat} {ls : List Nat} (hl : s.cur.lanes = l :: ls) :
    LaneThenLanes i s l ls := by
  obtain ⟨f, hf, he⟩ := hi
  exact ⟨_, _, he _, he _, (he s).trans (congrArg _ (forLanes_cons hf hl))⟩

theorem arrive_cur (t : Thread) (p g : Nat) (e : Group) : (s.arrive t p g e).1.cur = s.cur :=
  cur_of_holding (congrArg Prod.fst (arrive_holding (c := s.cur) ⟨rfl, rfl, rfl, rfl⟩ p g e)) rfl

/-! ### Memory -/

theorem laneByLane_storeW {d : Reg} {sz ord : BitVec 2} {scope : BitVec 3} {va : Thread → Word} {i : Instr}
    (hi : ∀ s, exec i s = storeW s d sz ord scope va) : LaneByLane i :=
  ⟨_, fun h => orMigrate_holding h (storeLane_holding h ..), hi⟩

theorem laneByLane_storeF {d : Reg} {sz ord : BitVec 2} {scope : BitVec 3} {va : Thread → Word} {i : Instr}
    (hi : ∀ s, exec i s = storeF s d sz ord scope va) : LaneByLane i :=
  ⟨_, fun h => withF_holding h fun _ => orMigrate_holding h (storeLane_holding h ..), hi⟩

theorem laneByLane_atomicW {n : Nat} {d a b : Reg} {z : BitVec 1} {ord : BitVec 2} {scope : BitVec 3} {i : Instr}
    (hi : ∀ s, exec i s = atomicW s n d a b z ord scope) : LaneByLane i :=
  ⟨_, fun h => atomicLane_holding h .., hi⟩

theorem laneByLane_atomicF {op n : Nat} {d a b : Reg} {ord : BitVec 2} {scope : BitVec 3} {i : Instr}
    (hi : ∀ s, exec i s = atomicF s op n d a b ord scope) : LaneByLane i :=
  ⟨_, fun h => withF_holding h fun _ => atomicLane_holding h .., hi⟩

theorem laneByLane_czero (a : Reg) : LaneByLane (.czero a) := ⟨_, fun h => storeLane_holding h .., fun _ => rfl⟩

theorem laneByLane_msvw (d a b : Reg) : LaneByLane (.msvw d a b) := ⟨_, fun h => storeLane_holding h .., fun _ => rfl⟩

theorem laneByLane_msvf (d a b : Reg) : LaneByLane (.msvf d a b) := ⟨_, fun h => storeLane_holding h .., fun _ => rfl⟩

theorem laneByLane_ccopy (a : Reg) (b : BitVec 4) : LaneByLane (.ccopy a b) := ⟨_, fun h => postCopy_holding h .., fun _ => rfl⟩

theorem laneByLane_cgath (a : Reg) (b : BitVec 4) : LaneByLane (.cgath a b) := ⟨_, fun h => postCopy_holding h .., fun _ => rfl⟩

theorem laneByLane_cscat (a : Reg) (b : BitVec 4) : LaneByLane (.cscat a b) := ⟨_, fun h => postCopy_holding h .., fun _ => rfl⟩

theorem laneByLane_soff (n : BitVec 2) : LaneByLane (.soff n) := by
  refine ⟨_, fun {s c k t} h => ?_, fun _ => rfl⟩
  rw [dropRead_holding]
  exact finish_holding (s := s.dropRead k n.toNat) h ..

/-! ### Queues and messages -/

theorem laneByLane_qpush (a b : Reg) : LaneByLane (.qpush a b) := by
  refine ⟨_, fun {s c k t} h => withQueue_holding h fun cl q => ?_, fun _ => rfl⟩
  have hp : { holding s c with packets := countPacket s.packets (coreNo k) (some (cl * 20)) } =
    holding { s with packets := countPacket s.packets (coreNo k) (some (cl * 20)) } c := rfl
  have hf := fun x => finish_holding (s := s.send (coreNo k) x) (k := k) (t := t) h
  dsimp only
  rw [holding_packets, hp]
  simp only [parkAt_holding, fifo_holding, pushesTo_holding, stampOf_holding, send_holding, hf, putFifo_holding, ite_holding]

theorem laneByLane_qpop (d a : Reg) : LaneByLane (.qpop d a) := by
  refine ⟨_, fun {s c k t} h => withQueue_holding h fun cl q => ?_, fun _ => rfl⟩
  simp only [parkAt_holding, send_holding, ite_holding]

theorem laneByLane_qtry (d a : Reg) : LaneByLane (.qtry d a) := by
  refine ⟨_, fun {s c k t} h => withQueue_holding h fun cl q => ?_, fun _ => rfl⟩
  have hf := fun x => finish_holding (s := s.send (coreNo k) x) (k := k) (t := t) h
  simp only [parkAt_holding, send_holding, tokenOp_holding, hf, ite_holding]

theorem laneByLane_qlen (d a : Reg) : LaneByLane (.qlen d a) := by
  refine ⟨_, fun {s c k t} h => withQueue_holding h fun cl q => ?_, fun _ => rfl⟩
  simp only [parkAt_holding, tokenOp_holding, finish_holding h, ite_holding]

theorem laneByLane_msend (a b : Reg) : LaneByLane (.msend a b) := by
  refine ⟨_, fun {s c k t} h => withName_holding h fun dst => ?_, fun _ => rfl⟩
  have hf := fun x => finish_holding (s := s.send (coreNo k) x) (k := k) (t := t) h
  simp only [parkAt_holding, send_holding, stampOf_holding, hf, ite_holding]

theorem laneByLane_mrecv (d : Reg) : LaneByLane (.mrecv d) := by
  refine ⟨_, fun {s c k t} h => ?_, fun _ => rfl⟩
  have hm : ∀ x, { holding s c with mail := x } = holding { s with mail := x } c := fun _ => rfl
  have hf := fun x => finish_holding (s := { s with mail := x }) (k := k) (t := t) h
  rw [mailbox_holding]
  split
  · exact parkAt_holding ..
  · rw [hm, hf, tokenOp_holding, parkAt_holding, ite_holding]
    rfl

/-! ### Waits, groups and threads -/

theorem laneByLane_exit : LaneByLane .exit := by
  refine ⟨_, fun {s c k t} h => ?_, fun _ => rfl⟩
  simp only [inPack_holding, parkOver_holding, trap_holding h, parkAt_holding]
  cases t.deferred with
  | cons d ds => simp only [trapDeferred_holding h, ite_holding]
  | nil => cases t.child <;> simp only [send_holding, endThread_holding, ite_holding]

theorem laneByLane_sleep : LaneByLane .sleep := by
  refine ⟨_, fun {s c k t} h => ?_, fun _ => rfl⟩
  have hw : ∀ x, { holding s c with wakes := x } = holding { s with wakes := x } c := fun _ => rfl
  have hf := fun x => finish_holding (s := { s with wakes := x }) (k := k) (t := t) h
  rw [hw, hf, parkAt_holding, ite_holding]
  rfl

theorem laneByLane_wake (a : Reg) : LaneByLane (.wake a) := by
  refine ⟨_, fun {s c k t} h => withName_holding h fun dst => ?_, fun _ => rfl⟩
  rw [parkAt_holding, send_holding, ← ite_holding]
  exact ite_congr rfl (fun _ => rfl) fun _ => withReleased_holding (finish_holding (s := s.send (coreNo k) _) h ..)

theorem laneByLane_join (a : Reg) : LaneByLane (.join a) := by
  refine ⟨_, fun {s c k t} h => ?_, fun _ => rfl⟩
  dsimp only
  rw [trap_holding h, ← ite_holding]
  refine ite_congr rfl (fun _ => rfl) fun _ => counterAccess_holding h fun addrs lines => ?_
  simp only [joinReads_holding, finish_holding h, parkAt_holding, ite_holding, farRequest_holding, partNo_holding]

theorem laneByLane_bsync (g : BitVec 8) : LaneByLane (.bsync g) := by
  refine ⟨_, fun {s c k t} h => withGroup_holding h fun p e => ?_, fun _ => rfl⟩
  dsimp only
  rw [arrive_holding h, withReleased_holding (parkAt_holding ..)]
  simp only [parkAt_holding, finish_holding h, ite_holding]

theorem laneByLane_barv (g : BitVec 8) : LaneByLane (.barv g) := by
  refine ⟨_, fun {s c k t} h => withGroup_holding h fun p e => ?_, fun _ => rfl⟩
  have hs : SameSlot c (s.arrive t p g.toNat e).1.cur := by rwa [arrive_cur]
  dsimp only
  rw [arrive_holding h, withReleased_holding (finish_holding (s := (s.arrive t p g.toNat e).1) hs ..)]
  simp only [parkAt_holding, ite_holding]

theorem laneByLane_bwait (g : BitVec 8) : LaneByLane (.bwait g) := by
  refine ⟨_, fun {s c k t} h => withGroup_holding h fun p e => ?_, fun _ => rfl⟩
  simp only [parkAt_holding, finish_holding h, ite_holding]

theorem laneByLane_bquery (d : Reg) (g : BitVec 8) : LaneByLane (.bquery d g) := by
  refine ⟨_, fun {s c k t} h => withGroup_holding h fun p e => ?_, fun _ => rfl⟩
  simp only [liveThreads_holding, arrivals_holding, finish_holding h]

theorem laneByLane_wait (ld st cp tl : BitVec 4) : LaneByLane (.wait ld st cp tl) := by
  refine ⟨_, fun {s c k t} h => ?_, fun _ => rfl⟩
  cases waitDeferred t ld.toNat st.toNat cp.toNat tl.toNat with
  | some d => exact trapDeferred_holding h ..
  | none => simp only [finish_holding h, parkAt_holding, ite_holding]

theorem laneByLane_pwait (a : Reg) : LaneByLane (.pwait a) := by
  refine ⟨_, fun {s c k t} h => ?_, fun _ => rfl⟩
  dsimp only
  rw [partOf_holding]
  cases s.partOf (keyCl k) with
  | none => rfl
  | some px =>
    dsimp only
    rw [checkAccess_holding]
    split
    · split <;> simp only [finish_holding h, trap_holding h, walkReads_holding]
    · exact checkStop_holding h ..

theorem laneByLane_launch (d a : Reg) : LaneByLane (.launch d a) := by
  refine ⟨_, fun {s c k t} h => ?_, fun _ => rfl⟩
  dsimp only
  rw [trap_holding h, ← ite_holding]
  refine ite_congr rfl (fun _ => rfl) fun _ => counterAccess_holding h fun _ _ => withReleased_holding ?_
  simp only [send_holding, partNo_holding, parkAt_holding]

theorem laneByLane_gret : LaneByLane .gret := by
  refine ⟨_, fun {s c k t} h => ?_, fun _ => rfl⟩
  rw [inPack_holding, parkOver_holding, trap_holding h, parkAt_holding, ← ite_holding, ← ite_holding]
  refine ite_congr rfl (fun _ => rfl) fun _ => ite_congr rfl (fun _ => rfl) fun _ => withWritten_holding ?_
  cases t.deferred with
  | cons d ds => exact trapDeferred_holding h ..
  | nil =>
    refine withReleased_holding ?_
    cases t.caller <;> simp only [send_holding, endThread_holding]

/-! ### Trees -/

theorem laneByLane_steOp {fn : Nat} {x : Ctx} {dst : Reg} {busy : List RegRef} {va vb : Thread → Word} {i : Instr}
    (hi : ∀ s, exec i s = steOp fn x dst busy va vb s) : LaneByLane i :=
  ⟨_, fun h => postSte_holding h fun _ _ hu => finish_holding hu .., hi⟩

theorem laneByLane_texp (a b : Reg) (x : Ctx) : LaneByLane (.texp a b x) := by
  refine ⟨_, fun {s c k t} h => ?_, fun _ => rfl⟩
  dsimp only
  rw [trap_holding h, ← ite_holding]
  exact ite_congr rfl (fun _ => rfl) fun _ => postSte_holding h fun _ _ _ => parkAt_holding ..

theorem laneByLane_tback (a b : Reg) (x : Ctx) : LaneByLane (.tback a b x) :=
  ⟨_, fun h => withSteRoom_holding h (withF_holding h fun _ => postSte_holding h fun _ _ hu => finish_holding hu ..), fun _ => rfl⟩

/-! ### System registers -/

theorem laneByLane_sysrd (d : Reg) (r : BitVec 12) : LaneByLane (.sysrd d r) := by
  refine ⟨_, fun {s c k t} h => ?_, fun _ => rfl⟩
  rw [partOf_holding]
  split
  · rw [sysValue_holding, finish_holding h]
  · exact trap_holding h ..

theorem laneByLane_syswr (a : Reg) (r : BitVec 12) : LaneByLane (.syswr a r) := ⟨_, fun h => sysLane_holding h .., fun _ => rfl⟩

theorem laneByLane_sysset (d a : Reg) (r : BitVec 12) : LaneByLane (.sysset d a r) := ⟨_, fun h => sysLane_holding h .., fun _ => rfl⟩

theorem laneByLane_sysclr (d a : Reg) (r : BitVec 12) : LaneByLane (.sysclr d a r) := ⟨_, fun h => sysLane_holding h .., fun _ => rfl⟩

theorem laneByLane_feat (d a : Reg) : LaneByLane (.feat d a) := by
  refine ⟨_, fun {s c k t} h => ?_, fun _ => rfl⟩
  rw [featWord_holding, finish_holding h]

end

end Sys2Proof.Safety
end

section
/-! Arithmetic instructions, eleventh part: the instructions of a gang whose lanes must all be supervisor's, or all be in a call already
(R136, R239). -/

namespace Sys2Proof.Safety

open Machine

section

variable {s u : State} {k : Nat} {t t' : Thread}

/-! ### A lane's work leaves the threads of the others -/

/-- The threads other than the one of key `k` are the same in both states. -/
def KeepsOthers (k : Nat) (s u : State) : Prop := ∀ j, j ≠ k → u.thread j = s.thread j

theorem KeepsOthers.refl : KeepsOthers k s s := fun _ _ => rfl

theorem KeepsOthers.of_threads {v : State} (h : KeepsOthers k s u) (hv : v.threads = u.threads) : KeepsOthers k s v := fun j hj =>
  (congrArg (mget · j) hv).trans (h j hj)

theorem KeepsOthers.putThread (h : KeepsOthers k s u) : KeepsOthers k s (u.putThread k t) := fun j hj =>
  (thread_putThread ..).trans ((if_neg hj).trans (h j hj))

theorem modPart_threads (p : Nat) (f : Partition → Partition) : (s.modPart p f).threads = s.threads := by
  unfold State.modPart
  split <;> rfl

theorem KeepsOthers.modPart {p : Nat} {f : Partition → Partition} (h : KeepsOthers k s u) : KeepsOthers k s (u.modPart p f) :=
  h.of_threads (modPart_threads ..)

theorem KeepsOthers.startStop {p : Nat} {b : Bool} {r : Record} (h : KeepsOthers k s u) : KeepsOthers k s (u.startStop p b r) := h.modPart

theorem KeepsOthers.sendRecord {cl : Nat} {r : Record} (h : KeepsOthers k s u) : KeepsOthers k s (u.sendRecord cl r) := h

theorem KeepsOthers.parkAt {w : ParkWhy} (h : KeepsOthers k s u) : KeepsOthers k s (u.parkAt k t w) := h.putThread

theorem KeepsOthers.takeTrap {pc ts v te : Word} {cause d : Nat} {b : Bool} (h : KeepsOthers k s u) :
    KeepsOthers k s (u.takeTrap k t pc ts cause d b v te) := by
  unfold State.takeTrap
  split
  · exact h
  · split
    · exact h.putThread.startStop
    · exact h.putThread

theorem KeepsOthers.trap {cause : Nat} {v : Word} (h : KeepsOthers k s u) : KeepsOthers k s (u.trap k t cause v) := h.takeTrap

theorem KeepsOthers.stepTrap (h : KeepsOthers k s u) : KeepsOthers k s (u.stepTrap k t) := by
  unfold State.stepTrap
  split <;> exact h.takeTrap

theorem KeepsOthers.finish (h : KeepsOthers k s u) : KeepsOthers k s (u.finish k t t') := by
  unfold State.finish State.finishAt
  dsimp only
  split
  · exact h.stepTrap
  · exact h.putThread

theorem KeepsOthers.contain {p : Nat} {r : Record} (h : KeepsOthers k s u) : KeepsOthers k s (u.contain p r) := by
  unfold State.contain
  split
  · exact h
  · split
    · exact h.modPart
    · exact h.startStop
    · exact h.modPart
    · exact h.modPart.sendRecord
    · exact h.modPart.sendRecord
    · exact h.modPart.sendRecord
    · exact h.sendRecord

theorem KeepsOthers.containBad {p cl core : Nat} {b : Nat × Nat} {pc : Word} (h : KeepsOthers k s u) :
    KeepsOthers k s (u.containBad p cl core b pc) := h.contain

theorem KeepsOthers.containLink {p cl core a : Nat} {pc : Word} (h : KeepsOthers k s u) :
    KeepsOthers k s (u.containLink p cl core a pc) := h.contain

theorem KeepsOthers.containKey {p cl core key : Nat} {pc : Word} (h : KeepsOthers k s u) :
    KeepsOthers k s (u.containKey p cl core key pc) := by
  unfold State.containKey
  split <;> exact h.contain

theorem KeepsOthers.walkReads {cl : Nat} {lines : List Nat} (h : KeepsOthers k s u) : KeepsOthers k s (u.walkReads cl lines) :=
  h.of_threads (walkReads_threads ..)

theorem KeepsOthers.farRequest {p kind : Nat} {keys : List Nat} {data : List Byte} (h : KeepsOthers k s u) :
    KeepsOthers k s (u.farRequest p kind keys data) := h.of_threads (farRequest_threads ..)

theorem KeepsOthers.enterFbf {cl reason : Nat} {e : FbfEntry} {pc : Word} (h : KeepsOthers k s u) :
    KeepsOthers k s (u.enterFbf cl reason e pc) := by
  unfold State.enterFbf
  refine KeepsOthers.walkReads ?_
  split <;> exact h

/-! ### Host calls -/

theorem KeepsOthers.ringAccess {p : Nat} {x : Partition} {y : HostCall} {acc : Access} {va : Word} {n : Nat} {f : List Nat → State}
    (h : KeepsOthers k s u) (hf : ∀ addrs, KeepsOthers k s (f addrs)) : KeepsOthers k s (u.ringAccess k t p x y acc va n f) := by
  unfold State.ringAccess
  dsimp only
  split
  · split
    · exact h.containLink
    · split
      · exact h.parkAt
      · split
        · exact h.trap
        · split
          · exact h.trap
          · split
            · exact h.containBad
            · split
              · exact (hf _).walkReads
              · exact (hf _).walkReads.farRequest
  · exact h.containKey
  · exact h.trap
  · exact h.parkAt.enterFbf
  · exact h.parkAt

theorem KeepsOthers.writeRequest {p : Nat} {x : Partition} {y : HostCall} {i : Nat} (h : KeepsOthers k s u) :
    KeepsOthers k s (u.writeRequest k t p x y i) := by
  unfold State.writeRequest
  split
  · exact h.parkAt
  · exact h.ringAccess fun _ => h.ringAccess fun _ => (h.of_threads (writeFrom_threads ..)).parkAt

theorem KeepsOthers.askHost {p : Nat} {x : Partition} {y : HostCall} (h : KeepsOthers k s u) : KeepsOthers k s (u.askHost k t p x y) := by
  unfold State.askHost
  split
  · exact h.writeRequest
  · split
    · exact h.parkAt
    · refine h.ringAccess fun _ => ?_
      dsimp only
      split
      · exact h.containBad
      · exact (h.of_threads (atomicFrom_threads ..)).putThread.writeRequest

theorem KeepsOthers.svcLane {ks : List Nat} {b : Bool} (h : KeepsOthers k s u) : KeepsOthers k s (u.svcLane ks b k t) := by
  unfold State.svcLane
  split
  · exact h
  · split
    · exact h.askHost
    · split
      · exact h.parkAt
      · split
        · exact h.parkAt
        · exact h.putThread.askHost

end

/-! ### Sets whose lanes all meet a condition -/

section

variable {s : State} {f g : State → Nat → Thread → State} {P : Thread → Prop} {i : Instr} {l : Nat} {ls : List Nat}

/-- The lanes in hand are distinct and their threads meet a condition. -/
def AllLanes (P : Thread → Prop) (s : State) : Prop := s.curKeys.Nodup ∧ ∀ k ∈ s.curKeys, ∀ t, s.thread k = some t → P t

theorem laneStep_keepsOthers (hk : ∀ s k t, KeepsOthers k s (f s k t)) (k : Nat) : KeepsOthers k s (laneStep f s k) := by
  unfold laneStep
  split
  · exact hk _ _ _
  · exact .refl

theorem foldl_laneStep_congr (hk : ∀ s k t, KeepsOthers k s (g s k t)) (he : ∀ s k t, P t → f s k t = g s k t) (ks : List Nat) (hn : ks.Nodup)
    (hP : ∀ k ∈ ks, ∀ t, s.thread k = some t → P t) : ks.foldl (laneStep f) s = ks.foldl (laneStep g) s := by
  induction ks generalizing s with
  | nil => rfl
  | cons k ks ih =>
    obtain ⟨hnot, hn⟩ := List.nodup_cons.mp hn
    have hstep : laneStep f s k = laneStep g s k := by
      unfold laneStep
      split
      · exact he _ _ _ (hP k List.mem_cons_self _ ‹_›)
      · rfl
    rw [List.foldl_cons, List.foldl_cons, hstep]
    refine ih hn fun j hj t ht => hP j (List.mem_cons_of_mem _ hj) t ?_
    rwa [← laneStep_keepsOthers hk k j fun hjk => hnot (hjk ▸ hj)]

theorem AllLanes.forLanes_congr (h : AllLanes P s) (hk : ∀ s k t, KeepsOthers k s (g s k t)) (he : ∀ s k t, P t → f s k t = g s k t) :
    s.forLanes f = s.forLanes g := foldl_laneStep_congr hk he _ h.1 h.2

theorem AllLanes.laneThenLanes (h : AllLanes P s) (hf : LaneLocal f) (hk : ∀ s k t, KeepsOthers k s (f s k t))
    (he : ∀ u, SameSlot u.cur s.cur → AllLanes P u → exec i u = u.eachLane f) (hl : s.cur.lanes = l :: ls) : LaneThenLanes i s l ls := by
  obtain ⟨hn, hP⟩ := h
  have hkeys : s.curKeys = laneKey s l :: ls.map (laneKey s) := by
    rw [State.curKeys, hl]
    rfl
  have hall := he s ⟨rfl, rfl, rfl, rfl⟩ ⟨hn, hP⟩
  rw [hkeys] at hn hP
  obtain ⟨hnot, hn⟩ := List.nodup_cons.mp hn
  have hone : AllLanes P (holding s { s.cur with lanes := [l] }) :=
    ⟨List.nodup_singleton _, fun k hk => hP k (List.mem_cons.mpr (.inl (List.mem_singleton.mp hk)))⟩
  have hrest : AllLanes P (holding ((holding s { s.cur with lanes := [l] }).forLanes f) { s.cur with lanes := ls }) := by
    refine ⟨hn, fun k hk' t ht => hP k (List.mem_cons_of_mem _ hk') t ?_⟩
    have := laneStep_keepsOthers (s := holding s { s.cur with lanes := [l] }) hk (laneKey s l) k fun hkl => hnot (hkl ▸ hk')
    exact this.symm.trans ht
  exact ⟨_, _, he _ ⟨rfl, rfl, rfl, rfl⟩ hone, he _ ⟨rfl, rfl, rfl, rfl⟩ hrest, hall.trans (congrArg _ (forLanes_cons hf hl))⟩

/-! ### Supervisor's instructions and host calls -/

theorem AllLanes.supOnly {f : State → State} (h : AllLanes (fun t => xsSUP t.xstat = true) s) : s.supOnly f = f s := by
  refine if_pos (List.all_eq_true.mpr fun x hx => ?_)
  obtain ⟨k, hk, hx⟩ := List.mem_filterMap.mp hx
  obtain ⟨t, ht, rfl⟩ := Option.map_eq_some_iff.mp hx
  exact h.2 k hk t ht

theorem AllLanes.wfi_laneThenLanes (h : AllLanes (fun t => xsSUP t.xstat = true) s) (hl : s.cur.lanes = l :: ls) :
    LaneThenLanes .wfi s l ls := by
  refine h.laneThenLanes (fun {s c k t} hc => ?_) (fun s k t => ?_) (fun u _ hu => congrArg _ hu.supOnly) hl
  · have hw : ∀ x, { holding s c with wakes := x } = holding { s with wakes := x } c := fun _ => rfl
    have hf := fun x => finish_holding (s := { s with wakes := x }) (k := k) (t := t) hc
    rw [hw, hf, parkAt_holding, finish_holding hc, parkOver_holding, ite_holding, ite_holding]
    rfl
  · split
    · exact KeepsOthers.finish (u := { s with wakes := s.wakes.erase k }) .refl
    · split
      · exact KeepsOthers.refl.finish
      · exact KeepsOthers.refl.parkAt

theorem AllLanes.rft_laneThenLanes (h : AllLanes (fun t => xsSUP t.xstat = true) s) (hl : s.cur.lanes = l :: ls) :
    LaneThenLanes .rft s l ls := by
  refine h.laneThenLanes (fun {s c k t} hc => ?_) (fun s k t => ?_) (fun u _ hu => congrArg _ hu.supOnly) hl
  · simp only [trap_holding hc, stepTrap_holding, putThread_holding, ite_holding]
  · split
    · exact KeepsOthers.refl.trap
    · split
      · exact KeepsOthers.refl.stepTrap
      · exact KeepsOthers.refl.putThread

/-- A lane already in a call asks whatever the other lanes are. -/
theorem svcLane_of_call {ks : List Nat} {b : Bool} {k : Nat} {t : Thread} (h : t.call.isSome = true) :
    s.svcLane ks b k t = s.svcLane [] true k t := by
  obtain ⟨y, hy⟩ := Option.isSome_iff_exists.mp h
  simp only [State.svcLane, hy]

theorem AllLanes.exec_svc (h : AllLanes (fun t => t.call.isSome = true) s) (hc : isSC s.cur.core = false) :
    exec .svc s = s.eachLane fun s k t => s.svcLane [] true k t := by
  have hon : s.onGC = true := by simp [State.onGC, hc]
  show execSvc s = _
  simp only [execSvc, hon, Bool.not_true, Bool.false_eq_true, if_false]
  exact congrArg Host.Outcome.next (h.forLanes_congr (fun _ _ _ => KeepsOthers.refl.svcLane) fun _ _ _ => svcLane_of_call)

theorem AllLanes.svc_laneThenLanes (h : AllLanes (fun t => t.call.isSome = true) s) (hc : isSC s.cur.core = false)
    (hl : s.cur.lanes = l :: ls) : LaneThenLanes .svc s l ls :=
  h.laneThenLanes (fun hs => svcLane_holding hs ..) (fun _ _ _ => KeepsOthers.refl.svcLane)
    (fun _ hu hall => hall.exec_svc (hu.2.1 ▸ hc)) hl

end

/-- Settles O16: what a lane does commutes with the choice of the lanes in hand, so a set's work is its first lane's, then the others'. -/
theorem instructionsOfAGangRunLaneByLane : Obligations.InstructionsOfAGangRunLaneByLane := by
  intro s l ls hl d a b h c i2 r off sz ord z rel scope i hi
  rcases hi with hi | ⟨rfl | rfl, hsup⟩ | ⟨rfl, hc, hcall⟩
  · refine LaneByLane.laneThenLanes ?_ hl
    revert i
    simp only [List.forall_mem_cons, List.not_mem_nil, false_imp_iff, implies_true, and_true]
    exact ⟨laneByLane_storeW fun _ => rfl, laneByLane_storeF fun _ => rfl, laneByLane_storeW fun _ => rfl, laneByLane_storeF fun _ => rfl,
      laneByLane_czero .., laneByLane_msvw .., laneByLane_msvf .., laneByLane_atomicW fun _ => rfl,
      laneByLane_atomicW fun _ => rfl, laneByLane_atomicW fun _ => rfl, laneByLane_atomicW fun _ => rfl, laneByLane_atomicW fun _ => rfl,
      laneByLane_atomicW fun _ => rfl, laneByLane_atomicW fun _ => rfl, laneByLane_atomicW fun _ => rfl, laneByLane_atomicW fun _ => rfl,
      laneByLane_atomicW fun _ => rfl, laneByLane_atomicF fun _ => rfl, laneByLane_atomicF fun _ => rfl, laneByLane_qpush ..,
      laneByLane_qpop .., laneByLane_qtry .., laneByLane_qlen .., laneByLane_msend ..,
      laneByLane_mrecv .., laneByLane_exit, laneByLane_sleep, laneByLane_wake ..,
      laneByLane_join .., laneByLane_bsync .., laneByLane_barv .., laneByLane_bwait ..,
      laneByLane_wait .., laneByLane_pwait .., laneByLane_ccopy .., laneByLane_cgath ..,
      laneByLane_cscat .., laneByLane_texp .., laneByLane_sysrd .., laneByLane_syswr ..,
      laneByLane_sysset .., laneByLane_sysclr .., laneByLane_feat .., laneByLane_launch ..,
      laneByLane_soff .., laneByLane_gret, laneByLane_bquery .., laneByLane_steOp fun _ => rfl,
      laneByLane_steOp fun _ => rfl, laneByLane_steOp fun _ => rfl, laneByLane_steOp fun _ => rfl, laneByLane_tback ..⟩
  · exact AllLanes.wfi_laneThenLanes hsup hl
  · exact AllLanes.rft_laneThenLanes hsup hl
  · exact AllLanes.svc_laneThenLanes hcall hc hl

end Sys2Proof.Safety
end

section
/-! Slots and lists, first part: the slot arbiter and the threads that fill slots (R284 to R286, R301). -/

namespace Sys2Proof.Safety

open Machine

variable {s : State} {cl core slot q p : Nat} {b : Bool} {t : Thread}

/-! ### The queue the arbiter serves (R285) -/

/-- A scan that replaces its best only by what is better ends at the greatest, the first among equals: here `f` measures, and the places
scanned rise. -/
theorem foldl_first_greatest {α : Type} [LinearOrder α] {f : Nat → α} {better : Nat → Nat → Prop} [DecidableRel better] :
    ∀ (rest : List Nat) (q : Nat), (q :: rest).Pairwise (· < ·) →
      (∀ x ∈ q :: rest, ∀ y ∈ q :: rest, better x y ↔ f x < f y) →
      let best := rest.foldl (fun best r => if better best r then r else best) q
      best ∈ q :: rest ∧ ∀ r ∈ q :: rest, f r ≤ f best ∧ (r < best → f r < f best) := by
  intro rest
  induction rest with
  | nil => exact fun q _ _ => ⟨List.mem_singleton_self q, fun r hr => by simp_all⟩
  | cons r rest ih =>
    intro q hrise hbetter
    obtain ⟨hq, hrise'⟩ := List.pairwise_cons.1 hrise
    have hqr : q < r := hq r List.mem_cons_self
    rw [List.foldl_cons]
    by_cases hlt : better q r
    · rw [if_pos hlt]
      have hf : f q < f r := (hbetter _ List.mem_cons_self _ (List.mem_cons_of_mem _ List.mem_cons_self)).1 hlt
      obtain ⟨hmem, hbest⟩ := ih r hrise' fun x hx y hy => hbetter x (List.mem_cons_of_mem _ hx) y (List.mem_cons_of_mem _ hy)
      refine ⟨List.mem_cons_of_mem _ hmem, fun x hx => ?_⟩
      rcases List.mem_cons.1 hx with rfl | hx
      · have := hf.trans_le (hbest r List.mem_cons_self).1
        exact ⟨this.le, fun _ => this⟩
      · exact hbest x hx
    · rw [if_neg hlt]
      have hf : f r ≤ f q := not_lt.1 fun h => hlt ((hbetter _ List.mem_cons_self _ (List.mem_cons_of_mem _ List.mem_cons_self)).2 h)
      have hsub : ∀ x ∈ q :: rest, x ∈ q :: r :: rest := fun x hx => by
        rcases List.mem_cons.1 hx with rfl | hx <;> simp [*]
      obtain ⟨hmem, hbest⟩ := ih q (hrise.sublist (by simp)) fun x hx y hy => hbetter x (hsub x hx) y (hsub y hy)
      have hqbest := hbest q List.mem_cons_self
      refine ⟨hsub _ hmem, fun x hx => ?_⟩
      rcases List.mem_cons.1 hx with rfl | hx
      · exact hqbest
      rcases List.mem_cons.1 hx with rfl | hx
      · exact ⟨hf.trans hqbest.1, fun h => hf.trans_lt (hqbest.2 (hqr.trans h))⟩
      · exact hbest x (List.mem_cons_of_mem _ hx)

theorem pendingQueues_rising : (pendingQueues s cl core).Pairwise (· < ·) := List.pairwise_lt_range.filter _

/-- Of the queues with a pending thread that own no slot, the arbiter serves the one of greatest weight. -/
theorem arbiterQueue_of_unowned {r : Nat} {rest : List Nat} (h : ((pendingQueues s cl core).filter fun q => ownedBy s cl core q = 0) = r :: rest)
    (hq : arbiterQueue s cl core = some q) : q ∈ r :: rest ∧
      ∀ x ∈ r :: rest, weightOf (s.cluster cl) x ≤ weightOf (s.cluster cl) q ∧ (x < q → weightOf (s.cluster cl) x < weightOf (s.cluster cl) q) := by
  unfold arbiterQueue at hq
  simp only [h, Option.some.injEq] at hq
  subst hq
  exact foldl_first_greatest rest r (h ▸ pendingQueues_rising.filter _) fun _ _ _ _ => Iff.rfl

/-- Where every queue with a pending thread owns a slot, it serves the one of greatest weight for each slot owned. -/
theorem arbiterQueue_of_owned (h : ∀ r ∈ pendingQueues s cl core, ownedBy s cl core r ≠ 0) (hq : arbiterQueue s cl core = some q) :
    q ∈ pendingQueues s cl core ∧ ∀ r ∈ pendingQueues s cl core,
      ownedBy s cl core q * weightOf (s.cluster cl) r ≤ ownedBy s cl core r * weightOf (s.cluster cl) q ∧
      (r < q → ownedBy s cl core q * weightOf (s.cluster cl) r < ownedBy s cl core r * weightOf (s.cluster cl) q) := by
  have hnone : ((pendingQueues s cl core).filter fun q => ownedBy s cl core q = 0) = [] := List.filter_eq_nil_iff.2 fun r hr => by simp [h r hr]
  unfold arbiterQueue at hq
  simp only [hnone] at hq
  cases hqs : pendingQueues s cl core with
  | nil => simp [hqs] at hq
  | cons r rest =>
    simp only [hqs, Option.some.injEq] at hq
    subst hq
    have hpos : ∀ x ∈ r :: rest, (0 : ℚ) < ownedBy s cl core x := fun x hx => by exact_mod_cast Nat.pos_of_ne_zero (h x (hqs ▸ hx))
    obtain ⟨hmem, hbest⟩ := foldl_first_greatest (f := fun x => (weightOf (s.cluster cl) x : ℚ) / ownedBy s cl core x)
      (better := fun best r => ownedBy s cl core r * weightOf (s.cluster cl) best < ownedBy s cl core best * weightOf (s.cluster cl) r)
      rest r (hqs ▸ pendingQueues_rising) fun x hx y hy => by
        rw [div_lt_div_iff₀ (hpos x hx) (hpos y hy), mul_comm (weightOf _ x : ℚ), mul_comm (weightOf _ y : ℚ)]
        exact_mod_cast Iff.rfl
    refine ⟨hmem, fun x hx => ?_⟩
    obtain ⟨hle, hlt⟩ := hbest x hx
    rw [div_le_div_iff₀ (hpos x hx) (hpos _ hmem), mul_comm, mul_comm (weightOf _ _ : ℚ)] at hle
    refine ⟨by exact_mod_cast hle, fun hr => ?_⟩
    have := hlt hr
    rw [div_lt_div_iff₀ (hpos x hx) (hpos _ hmem), mul_comm, mul_comm (weightOf _ _ : ℚ)] at this
    exact_mod_cast this

theorem arbiterQueue_serves (hq : arbiterQueue s cl core = some q) : q ∈ pendingQueues s cl core ∧
    (ownedBy s cl core q = 0 → ∀ r ∈ pendingQueues s cl core, ownedBy s cl core r = 0 →
      weightOf (s.cluster cl) r ≤ weightOf (s.cluster cl) q ∧ (r < q → weightOf (s.cluster cl) r < weightOf (s.cluster cl) q)) ∧
    (ownedBy s cl core q ≠ 0 → ∀ r ∈ pendingQueues s cl core, ownedBy s cl core r ≠ 0 ∧
      ownedBy s cl core q * weightOf (s.cluster cl) r ≤ ownedBy s cl core r * weightOf (s.cluster cl) q ∧
      (r < q → ownedBy s cl core q * weightOf (s.cluster cl) r < ownedBy s cl core r * weightOf (s.cluster cl) q)) := by
  cases h : (pendingQueues s cl core).filter fun q => ownedBy s cl core q = 0 with
  | cons r rest =>
    obtain ⟨hmem, hbest⟩ := arbiterQueue_of_unowned h hq
    have hin : ∀ x, x ∈ r :: rest ↔ x ∈ pendingQueues s cl core ∧ ownedBy s cl core x = 0 := fun x => by
      rw [← h, List.mem_filter, decide_eq_true_iff]
    obtain ⟨hpend, hown⟩ := (hin q).1 hmem
    exact ⟨hpend, fun _ x hx h0 => hbest x ((hin x).2 ⟨hx, h0⟩), fun hne => absurd hown hne⟩
  | nil =>
    have howned : ∀ x ∈ pendingQueues s cl core, ownedBy s cl core x ≠ 0 := fun x hx => by
      simpa using List.filter_eq_nil_iff.1 h x hx
    obtain ⟨hmem, hbest⟩ := arbiterQueue_of_owned howned hq
    exact ⟨hmem, fun h0 => absurd h0 (howned q hmem), fun _ x hx => ⟨howned x hx, hbest x hx⟩⟩

theorem arbiterQueue_of_none (h : pendingQueues s cl core = []) : arbiterQueue s cl core = none := by
  simp [arbiterQueue, h]

end Sys2Proof.Safety
end

section
/-! Slots and lists, second part: the threads that fill slots, and levelling (R174, R285, R286, R301, R304). -/

namespace Sys2Proof.Safety

open Machine

variable {s : State} {cl core slot q p k : Nat} {b : Bool} {t : Thread}

/-! ### A thread takes a slot -/

theorem mem_freeSlots (h : slot ∈ freeSlots s cl core) : slot < 16 ∧ s.thread (keyOf cl core slot) = none := by
  obtain ⟨hlt, hfree⟩ := List.mem_filter.1 h
  obtain ⟨hnone, -⟩ := Bool.and_eq_true_iff.1 hfree
  exact ⟨List.mem_range.1 hlt, Option.isNone_iff_eq_none.1 hnone⟩

@[simp] theorem thread_seat (j : Nat) : (s.seat cl core slot q t).thread j = if j = keyOf cl core slot then some t else s.thread j :=
  thread_putThread ..

/-- The core whose slot is taken: the slot is its queue's, and holds no yield any more. -/
def seated (c : Core) (slot tq : Nat) : Core :=
  { c with owner := c.owner.setIfInBounds slot tq, yields := c.yields.filter fun y => y.slot != slot }

@[simp] theorem core_seat : (s.seat cl core slot q t).core cl core = seated (s.core cl core) slot q := by
  unfold State.seat
  rw [core_modCore, if_pos ⟨rfl, rfl⟩]
  rfl

theorem seated_owner (c : Core) (h : slot < 16) : (seated c slot q).owner.toList.getD slot 0 = q := by
  simp [seated, h]

/-- A field of the state that no thread, core, partition or name is part of is as it was when a slot is filled. -/
theorem fillSlot_field {α : Type} (g : State → α) (hthread : ∀ s k t, g (State.putThread s k t) = g s)
    (hcore : ∀ s cl i f, g (State.modCore s cl i f) = g s) (hpart : ∀ s p f, g (State.modPart s p f) = g s)
    (hwakes : ∀ (s : State) l, g { s with wakes := l } = g s)
    (huid : ∀ (s : State) n, g { s with nextUid := n } = g s) (s : State) : g (s.fillSlot cl core slot b) = g s := by
  have hseat : ∀ (u : State) q t, g (u.seat cl core slot q t) = g u := by
    intro u q t
    unfold State.seat
    exact (hcore ..).trans ((hwakes (u.putThread _ t) _).trans (hthread ..))
  have htrap : ∀ (u : State) k t pc ts c d b v te, g (u.takeTrap k t pc ts c d b v te) = g u := by
    intro u k t pc ts c d b v te
    unfold State.takeTrap
    split
    · rfl
    · split
      · exact (hpart ..).trans (hthread ..)
      · exact hthread ..
  have hstep : ∀ (u : State) k t, g (u.stepTrap k t) = g u := by
    intro u k t
    unfold State.stepTrap
    split <;> exact htrap ..
  have hpend : ∀ q, g (s.startPending cl core slot q) = g s := by
    intro q
    unfold State.startPending
    split
    · rfl
    · dsimp only
      split
      · exact hcore ..
      · exact (hseat ..).trans ((hpart ..).trans ((huid ..).trans (hcore ..)))
  unfold State.fillSlot
  dsimp only
  split
  · exact (hseat ..).trans (hcore ..)
  · unfold State.seatArrival
    dsimp only
    split
    · exact (hstep ..).trans ((hseat ..).trans (hcore ..))
    · exact (hseat ..).trans (hcore ..)
  · split
    · exact hpend _
    · split
      · exact hpend _
      · rfl

@[simp] theorem fillSlot_mem : (s.fillSlot cl core slot b).mem = s.mem :=
  fillSlot_field (·.mem) (fun _ _ _ => rfl) (fun _ _ _ _ => rfl) (fun _ _ _ => by unfold State.modPart; split <;> rfl) (fun _ _ => rfl)
    (fun _ _ => rfl) s

theorem cluster_modPart (f : Partition → Partition) (j : Nat) : (s.modPart p f).cluster j = s.cluster j := by
  unfold State.modPart
  split <;> rfl

/-- The engines of a cluster are as they were when a slot is filled. -/
@[simp] theorem fillSlot_mxe (j : Nat) : ((s.fillSlot cl core slot b).cluster j).mxe = (s.cluster j).mxe := by
  refine fillSlot_field (fun u => (u.cluster j).mxe) (fun _ _ _ => rfl) (fun u c i f => ?_) (fun u p f => ?_) (fun _ _ => rfl) (fun _ _ => rfl) s
  · rw [State.modCore, cluster_modCluster]
    split
    next e => rw [e]
    · rfl
  · rw [cluster_modPart]

theorem KeepsOthers.seat {u : State} (h : KeepsOthers (keyOf cl core slot) s u) : KeepsOthers (keyOf cl core slot) s (u.seat cl core slot q t) :=
  h.putThread (t := t)

theorem KeepsOthers.startPending (q : Nat) : KeepsOthers (keyOf cl core slot) s (s.startPending cl core slot q) := by
  unfold State.startPending
  split
  · exact .refl
  · dsimp only
    split
    · exact .refl
    · exact (KeepsOthers.modPart .refl).seat

/-- Filling a slot touches no thread but the slot's. -/
theorem fillSlot_keepsOthers : KeepsOthers (keyOf cl core slot) s (s.fillSlot cl core slot b) := by
  unfold State.fillSlot
  dsimp only
  split
  · exact KeepsOthers.refl.seat
  · unfold State.seatArrival
    dsimp only
    split
    · exact KeepsOthers.refl.seat.stepTrap
    · exact KeepsOthers.refl.seat
  · split
    · exact .startPending _
    · split
      · exact .startPending _
      · exact .refl

/-! ### Which thread it is (R285, R286, R301) -/

theorem fillSlot_waiting {rest : List Thread} (hw : (s.core cl core).waiting = t :: rest) :
    s.fillSlot cl core slot b = (s.modCore cl core fun c => { c with waiting := rest }).seat cl core slot t.tq t := by
  simp only [State.fillSlot, hw]

theorem fillSlot_arrival {m : MigCtx} {rest : List MigCtx} (hw : (s.core cl core).waiting = []) (ha : (s.core cl core).arrivals = m :: rest)
    (hm : m.stepped = false) :
    s.fillSlot cl core slot b = (s.modCore cl core fun c => { c with arrivals := rest }).seat cl core slot m.tq (resumedThread s m) := by
  simp only [State.fillSlot, hw, ha, State.seatArrival, hm]
  rfl

/-- The queue of the slot's owner when it has a pending thread and no boundary is being served, else the arbiter's. -/
theorem fillSlot_pending (hw : (s.core cl core).waiting = []) (ha : (s.core cl core).arrivals = [])
    (hown : b = false → (s.core cl core).owner.toList.getD slot 0 ∈ pendingQueues s cl core → q = (s.core cl core).owner.toList.getD slot 0)
    (harb : b = true ∨ (s.core cl core).owner.toList.getD slot 0 ∉ pendingQueues s cl core → arbiterQueue s cl core = some q) :
    s.fillSlot cl core slot b = s.startPending cl core slot q := by
  simp only [State.fillSlot, hw, ha]
  by_cases hc : b = false ∧ (s.core cl core).owner.toList.getD slot 0 ∈ pendingQueues s cl core
  · obtain ⟨hb, hin⟩ := hc
    rw [if_pos (by simpa [hb] using hin), ← hown hb hin]
  · have hserve := harb (by cases b <;> simp_all)
    rw [if_neg (by simpa using hc), hserve]

theorem fillSlot_none (hw : (s.core cl core).waiting = []) (ha : (s.core cl core).arrivals = []) (hq : pendingQueues s cl core = []) :
    s.fillSlot cl core slot b = s := by
  simp [State.fillSlot, hw, ha, hq, arbiterQueue_of_none hq]

/-- The oldest pending thread of a queue takes the slot. -/
theorem startPending_effect {pend : Pending} (hslot : slot < 16) (hf : ((s.core cl core).pending.find? fun x => x.tq == q) = some pend)
    (ht : pendingThread s pend s.nextUid 0 false = some t) :
    (s.startPending cl core slot q).thread (keyOf cl core slot) = some t ∧
      ((s.startPending cl core slot q).core cl core).owner.toList.getD slot 0 = q ∧
      ((s.startPending cl core slot q).core cl core).pending = (s.core cl core).pending.erase pend := by
  simp only [State.startPending, hf, ht, thread_seat, if_true, core_seat, seated_owner _ hslot, true_and]
  simp only [seated, State.noteStarted, State.core, cluster_modPart]
  simp [State.cluster, State.modCore, State.modCluster, State.putCluster, coreIn]

theorem resumedThread_w (m : MigCtx) (i : Fin 8) : readW (resumedThread s m) (BitVec.ofNat 5 (8 + i.val)) = m.regs[i] := by
  have hi := i.isLt
  have hreg : (BitVec.ofNat 5 (8 + i.val)).toNat = 8 + i.val := by simp; omega
  have hne : BitVec.ofNat 5 (8 + i.val) ≠ 0 := fun h => by simpa [hreg] using congrArg BitVec.toNat h
  simp only [readW, if_neg hne, resumedThread, Vector.getElem_ofFn, hreg]
  rw [dif_pos ⟨Nat.le_add_right .., by omega⟩]
  simp only [Nat.add_sub_cancel_left]
  rfl

/-! ### The row that fills the lowest free slot (R286) -/

section

variable (hsc : isSC core = true) (hrun : clusterRuns s cl = true) (hfree : (freeSlots s cl core).head? = some slot)
include hsc hrun hfree

theorem exec_slotFill : exec (.slotFill cl core slot) s = .next (s.fillSlot cl core slot false) := by
  show execSlotFill cl core slot s = _
  simp [execSlotFill, hsc, hrun, hfree]

theorem slotFill_waiting {rest : List Thread} (hw : (s.core cl core).waiting = t :: rest) :
    ∃ u, exec (.slotFill cl core slot) s = .next u ∧ u.thread (keyOf cl core slot) = some t ∧
      (u.core cl core).waiting = rest ∧ (u.core cl core).owner.toList.getD slot 0 = t.tq ∧ u.mem = s.mem ∧
      ∀ j, j ≠ keyOf cl core slot → u.thread j = s.thread j := by
  have hslot := (mem_freeSlots (List.mem_of_head? hfree)).1
  have hfill := fillSlot_waiting (slot := slot) (b := false) hw
  refine ⟨_, exec_slotFill hsc hrun hfree, ?_, ?_, ?_, fillSlot_mem, fillSlot_keepsOthers⟩
  · rw [hfill, thread_seat, if_pos rfl]
  · rw [hfill, core_seat, core_modCore, if_pos ⟨rfl, rfl⟩]
    rfl
  · rw [hfill, core_seat, seated_owner _ hslot]

theorem slotFill_arrival {m : MigCtx} {rest : List MigCtx} (hw : (s.core cl core).waiting = []) (ha : (s.core cl core).arrivals = m :: rest)
    (hm : m.stepped = false) :
    ∃ u v, exec (.slotFill cl core slot) s = .next u ∧ u.thread (keyOf cl core slot) = some v ∧ (u.core cl core).arrivals = rest ∧
      v.pc = m.pc ∧ v.xstat = m.xstat ∧ v.fflags = m.fflags ∧ v.asid = m.asid ∧ v.launch = m.launch ∧ u.mem = s.mem ∧
      (∀ j, j ≠ keyOf cl core slot → u.thread j = s.thread j) ∧ ∀ i : Fin 8, readW v (BitVec.ofNat 5 (8 + i.val)) = m.regs[i] := by
  have hfill := fillSlot_arrival (slot := slot) (b := false) hw ha hm
  refine ⟨_, resumedThread s m, exec_slotFill hsc hrun hfree, ?_, ?_, rfl, rfl, rfl, rfl, rfl, fillSlot_mem, fillSlot_keepsOthers,
    resumedThread_w m⟩
  · rw [hfill, thread_seat, if_pos rfl]
  · rw [hfill, core_seat, core_modCore, if_pos ⟨rfl, rfl⟩]
    rfl

theorem slotFill_pending {pend : Pending} (hw : (s.core cl core).waiting = []) (ha : (s.core cl core).arrivals = [])
    (hown : (s.core cl core).owner.toList.getD slot 0 ∈ pendingQueues s cl core → q = (s.core cl core).owner.toList.getD slot 0)
    (harb : (s.core cl core).owner.toList.getD slot 0 ∉ pendingQueues s cl core → arbiterQueue s cl core = some q)
    (hf : ((s.core cl core).pending.find? fun x => x.tq == q) = some pend) (ht : pendingThread s pend s.nextUid 0 false = some t) :
    ∃ u, exec (.slotFill cl core slot) s = .next u ∧ u.thread (keyOf cl core slot) = some t ∧ u.mem = s.mem ∧
      (u.core cl core).owner.toList.getD slot 0 = q ∧ (u.core cl core).pending = (s.core cl core).pending.erase pend ∧
      ∀ j, j ≠ keyOf cl core slot → u.thread j = s.thread j := by
  have hslot := (mem_freeSlots (List.mem_of_head? hfree)).1
  have hfill := fillSlot_pending (slot := slot) (b := false) hw ha (fun _ => hown) fun h => harb (h.resolve_left Bool.false_ne_true)
  obtain ⟨hthread, howner, hpending⟩ := startPending_effect hslot hf ht
  exact ⟨_, exec_slotFill hsc hrun hfree, hfill ▸ hthread, fillSlot_mem, hfill ▸ howner, hfill ▸ hpending, fillSlot_keepsOthers⟩

end

/-- At a boundary the arbiter alone says whose pending thread takes a slot (R285). -/
theorem fillSlot_boundary {pend : Pending} (hslot : slot < 16) (hw : (s.core cl core).waiting = []) (ha : (s.core cl core).arrivals = [])
    (hq : arbiterQueue s cl core = some q) (hf : ((s.core cl core).pending.find? fun x => x.tq == q) = some pend)
    (ht : pendingThread s pend s.nextUid 0 false = some t) :
    (s.fillSlot cl core slot true).thread (keyOf cl core slot) = some t ∧
      ((s.fillSlot cl core slot true).core cl core).owner.toList.getD slot 0 = q ∧
      ((s.fillSlot cl core slot true).core cl core).pending = (s.core cl core).pending.erase pend := by
  rw [fillSlot_pending hw ha (fun h => absurd h (by decide)) fun _ => hq]
  exact startPending_effect hslot hf ht

/-! ### The rotation boundary (R174, R285) -/

/-- The state with the budget charges of a cluster's matrix engine cleared. -/
def chargesCleared (s : State) (cl : Nat) : State :=
  s.modCluster cl fun c => { c with mxe := { c.mxe with qchg := Vector.replicate 16 0 } }

theorem core_chargesCleared (j i : Nat) : (chargesCleared s cl).core j i = s.core j i := by
  unfold State.core chargesCleared
  rw [cluster_modCluster]
  split
  next e => rw [e]; rfl
  · rfl

theorem pendingQueues_chargesCleared : pendingQueues (chargesCleared s cl) cl core = pendingQueues s cl core := by
  simp only [pendingQueues, core_chargesCleared]
  simp only [chargesCleared, cluster_modCluster, if_true]
  rfl

/-- Filling free slots leaves every thread there is where it is. -/
theorem foldl_fillSlot_thread {slots : List Nat} (hfree : ∀ i ∈ slots, s.thread (keyOf cl core i) = none) (u : State)
    (hu : ∀ k t, s.thread k = some t → u.thread k = some t) {k : Nat} {t : Thread} (ht : s.thread k = some t) :
    (slots.foldl (fun z i => z.fillSlot cl core i b) u).thread k = some t := by
  induction slots generalizing u with
  | nil => exact hu k t ht
  | cons i slots ih =>
    obtain ⟨hi, hrest⟩ := List.forall_mem_cons.1 hfree
    refine ih hrest _ fun j x hx => ?_
    have hj : j ≠ keyOf cl core i := fun e => by simp [e, hi] at hx
    exact (fillSlot_keepsOthers j hj).trans (hu j x hx)

theorem rotationBoundary_effect (hsc : isSC core = true) (hrun : clusterRuns s cl = true) (htime : s.gtime % 1024 = 0) :
    ∃ u v, exec (.rotationBoundary cl core) s = .next u ∧ u.mem = s.mem ∧ (u.cluster cl).mxe.qchg = Vector.replicate 16 0 ∧
      v = chargesCleared s cl ∧ u = (freeSlots s cl core).foldl (fun z slot => z.fillSlot cl core slot true) v ∧
      (∀ k t, s.thread k = some t → u.thread k = some t) ∧
      ((s.core cl core).waiting = [] → (s.core cl core).arrivals = [] → pendingQueues s cl core = [] → u.threads = s.threads) := by
  refine ⟨_, _, ?_, ?_, ?_, rfl, rfl, fun k t ht => ?_, fun hw ha hq => ?_⟩
  · show execRotationBoundary cl core s = _
    simp only [execRotationBoundary, hsc, hrun, htime]
    rfl
  · exact foldl_field (·.mem) (fun _ _ => fillSlot_mem) ..
  · rw [foldl_field (fun u => (u.cluster cl).mxe) (fun _ _ => fillSlot_mxe cl), chargesCleared, cluster_modCluster, if_pos rfl]
  · exact foldl_fillSlot_thread (fun i hi => (mem_freeSlots hi).2) _ (fun _ _ h => h) ht
  · rw [List.foldl_fixed' fun i => fillSlot_none (by rwa [core_chargesCleared]) (by rwa [core_chargesCleared])
      (by rwa [pendingQueues_chargesCleared])]
    rfl

/-! ### Levelling (R304) -/

/-- The least of a list is the first that nothing before it equals or undercuts and nothing after it undercuts. -/
theorem leastBy_of_first {α : Type} {f : α → Nat} {pre post : List α} {m : α} (hpre : ∀ o ∈ pre, f m < f o)
    (hpost : ∀ o ∈ post, f m ≤ f o) : leastBy f (pre ++ m :: post) = some m := by
  have hkeep : post.foldl (fun best y => if f y < f best then y else best) m = m := by
    induction post with
    | nil => rfl
    | cons o post ih =>
      obtain ⟨ho, hpost⟩ := List.forall_mem_cons.1 hpost
      rw [List.foldl_cons, if_neg ho.not_gt]
      exact ih hpost
  have hfind : ∀ (l : List α) (x : α), f m < f x → (∀ o ∈ l, f m < f o) →
      (l ++ m :: post).foldl (fun best y => if f y < f best then y else best) x = m := by
    intro l
    induction l with
    | nil => exact fun x hx _ => by rw [List.nil_append, List.foldl_cons, if_pos hx, hkeep]
    | cons o l ih =>
      intro x hx hl
      obtain ⟨ho, hl⟩ := List.forall_mem_cons.1 hl
      rw [List.cons_append, List.foldl_cons]
      refine ih _ ?_ hl
      split
      · exact ho
      · exact hx
  cases pre with
  | nil => exact congrArg some hkeep
  | cons x pre =>
    obtain ⟨hx, hpre⟩ := List.forall_mem_cons.1 hpre
    exact congrArg some (hfind pre x hx hpre)

section

variable {s0 : State} {α : Type}

theorem foldl_send_flights (core : Nat) (f : α → Flight) (l : List α) (s : State) :
    (l.foldl (fun u e => u.send core (f e)) s).flights = s.flights ++ l.map f := by
  induction l generalizing s with
  | nil => exact (List.append_nil _).symm
  | cons e l ih => rw [List.foldl_cons, ih, send_flights, List.append_assoc, List.map_cons, List.singleton_append]

theorem foldl_send_core (core : Nat) (f : α → Flight) (l : List α) (s : State) (c i : Nat) :
    (l.foldl (fun u e => u.send core (f e)) s).core c i = s.core c i :=
  foldl_field (f := fun u e => u.send core (f e)) (fun u => u.core c i) (fun _ _ => rfl) l s

/-- A field that no flight or core is part of is as it was when a core levels its list. -/
theorem levelCore_field (g : State → α) (hsend : ∀ s c f, g (State.send s c f) = g s) (hcore : ∀ s cl i f, g (State.modCore s cl i f) = g s)
    (s : State) : g (levelCore s0 s cl core) = g s := by
  unfold levelCore
  split
  · rfl
  · split
    · rfl
    · exact (foldl_field g (fun _ _ => hsend ..) ..).trans (hcore ..)

theorem levelCore_mem : (levelCore s0 s cl core).mem = s.mem := levelCore_field (·.mem) (fun _ _ _ => rfl) (fun _ _ _ _ => rfl) s
theorem levelCore_threads : (levelCore s0 s cl core).threads = s.threads :=
  levelCore_field (·.threads) (fun _ _ _ => rfl) (fun _ _ _ _ => rfl) s

end

/-- The oldest entries of a list leave for its shortest neighbour (R304). -/
theorem levelCore_effect {s0 : State} {x : Partition} {pre post : List (Nat × Nat)} {m : Nat × Nat} {n : Nat} (hp : s0.partOf cl = some (p, x))
    (hnear : neighbours s0 x cl core = pre ++ m :: post) (hpre : ∀ o ∈ pre, workLen s0 m.1 m.2 < workLen s0 o.1 o.2)
    (hpost : ∀ o ∈ post, workLen s0 m.1 m.2 ≤ workLen s0 o.1 o.2)
    (hn : n = min 16 (min ((workLen s0 cl core - workLen s0 m.1 m.2) / 2) (256 - workLen s0 m.1 m.2 - workOnWay s m.1 m.2)))
    (hle : n ≤ workLen s cl core) :
    ∃ u kept oldest, u = levelCore s0 s cl core ∧ (s.core cl core).work = kept ++ oldest ∧ oldest.length = n ∧
      u.flights = s.flights ++ oldest.map (fun e => .work m.1 m.2 e.1 e.2.1 e.2.2.1 e.2.2.2) ∧
      (u.core cl core).work = kept ∧ (∀ c i, (c, i) ≠ (cl, core) → u.core c i = s.core c i) ∧ u.threads = s.threads ∧ u.mem = s.mem := by
  have hleast := leastBy_of_first (f := fun m : Nat × Nat => workLen s0 m.1 m.2) hpre hpost
  have hlevel : levelCore s0 s cl core = ((s.core cl core).work.drop ((s.core cl core).work.length - n)).foldl
      (fun z e => z.send (cl * 20 + core) (.work m.1 m.2 e.1 e.2.1 e.2.2.1 e.2.2.2))
      (s.modCore cl core fun c => { c with work := (s.core cl core).work.take ((s.core cl core).work.length - n) }) := by
    simp only [levelCore, hp, hnear, hleast, ← hn]
  have hcores : ∀ c i, (levelCore s0 s cl core).core c i = if c = cl ∧ i = core then
      { s.core cl core with work := (s.core cl core).work.take ((s.core cl core).work.length - n) } else s.core c i := by
    intro c i
    rw [hlevel, foldl_send_core, core_modCore]
  refine ⟨_, (s.core cl core).work.take ((s.core cl core).work.length - n), (s.core cl core).work.drop ((s.core cl core).work.length - n), rfl,
    (List.take_append_drop ..).symm, ?_, ?_, ?_, fun c i hc => ?_, levelCore_threads, levelCore_mem⟩
  · rw [List.length_drop]
    exact Nat.sub_sub_self hle
  · rw [hlevel, foldl_send_flights]
    rfl
  · rw [hcores, if_pos ⟨rfl, rfl⟩]
  · rw [hcores, if_neg fun h => hc (by rw [h.1, h.2])]

theorem mem_of_mget {α : Type} {l : Map α} {k : Nat} {x : α} (h : mget l k = some x) : (k, x) ∈ l := by
  induction l with
  | nil => cases h
  | cons e l ih =>
    obtain ⟨j, y⟩ := e
    rw [mget_cons] at h
    split at h
    next e => cases h; exact e ▸ List.mem_cons_self
    · exact List.mem_cons_of_mem _ (ih h)

/-- The SCs of clusters that run whose work lists hold an entry (R304). -/
def busyCores (s : State) : List (Nat × Nat) :=
  s.clusters.flatMap fun c => if clusterRuns s c.1 then (c.2.cores.filter fun x => isSC x.1 && !x.2.work.isEmpty).map fun x => (c.1, x.1) else []

theorem mem_busyCores_of_work (hsc : isSC core = true) (hrun : clusterRuns s cl = true) (hwork : (s.core cl core).work ≠ []) :
    (cl, core) ∈ busyCores s := by
  unfold State.core State.cluster at hwork
  cases hc : mget s.clusters cl with
  | none => simp [hc, coreIn, Cluster.reset, Core.reset] at hwork
  | some c =>
    rw [hc, Option.getD_some, coreIn] at hwork
    cases hi : mget c.cores core with
    | none => simp [hi, Core.reset] at hwork
    | some x =>
      rw [hi, Option.getD_some] at hwork
      refine List.mem_flatMap.2 ⟨(cl, c), mem_of_mget hc, ?_⟩
      rw [if_pos hrun]
      exact List.mem_map.2 ⟨(core, x), List.mem_filter.2 ⟨mem_of_mget hi, by simp [hsc, hwork]⟩, rfl⟩

theorem runs_of_mem_busyCores {c : Nat × Nat} (h : c ∈ busyCores s) : isSC c.2 = true ∧ clusterRuns s c.1 = true := by
  obtain ⟨e, -, he⟩ := List.mem_flatMap.1 h
  split at he
  next hrun =>
    obtain ⟨x, hx, rfl⟩ := List.mem_map.1 he
    exact ⟨(Bool.and_eq_true_iff.1 (List.mem_filter.1 hx).2).1, hrun⟩
  · cases he

theorem loadLevelInterval_effect (htime : s.gtime % 4096 = 0) :
    ∃ u, ∃ cores : List (Nat × Nat), exec .loadLevelInterval s = .next u ∧
      u = cores.foldl (fun z (c : Nat × Nat) => levelCore s z c.1 c.2) s ∧
      (∀ cl core, isSC core = true → clusterRuns s cl = true → (s.core cl core).work ≠ [] → (cl, core) ∈ cores) ∧
      (∀ c ∈ cores, isSC c.2 = true ∧ clusterRuns s c.1 = true) ∧ u.threads = s.threads ∧ u.mem = s.mem :=
  ⟨_, busyCores s, if_neg (not_not.2 htime), rfl, fun _ _ => mem_busyCores_of_work, fun _ => runs_of_mem_busyCores,
    foldl_field (·.threads) (fun _ _ => levelCore_threads) .., foldl_field (·.mem) (fun _ _ => levelCore_mem) ..⟩

/-- An entry that nothing to its list is ahead of is inserted below the others (R304). -/
theorem worklistEntryArrives_effect {i : Nat} {x y : Word} {pc st : Nat} (hf : s.flights[i]? = some (.work cl core x y pc st))
    (hrun : clusterRuns s cl = true) (hfirst : ∀ f ∈ s.flights.take i, ∀ w x y z, f ≠ .work cl core w x y z) :
    exec (.worklistEntryArrives i) s = .next ((arrived s i).modCore cl core fun c => { c with work := c.work ++ [(x, y, pc, st)] }) := by
  show execWorklistEntryArrives i s = _
  simp only [execWorklistEntryArrives, hf, hrun]
  rw [if_neg]
  · rfl
  · simp only [Bool.not_true, Bool.or_false, List.any_eq_true, not_exists, not_and]
    intro f hm hhead
    split at hhead
    next c j w x y z =>
      obtain ⟨rfl, rfl⟩ : c = cl ∧ j = core := by simpa using hhead
      exact hfirst _ hm w x y z rfl
    · cases hhead

/-- Settles O34: a filled slot by what stands first in line for it, the arbiter by its scan of the queues, and levelling by the entries that
leave each list. -/
theorem slotAndListEventsComplete : Obligations.SlotAndListEventsComplete := by
  refine ⟨fun s cl core slot hsc hrun hfree => ⟨fun t rest hw => slotFill_waiting hsc hrun hfree hw,
      fun m rest hw ha hm => slotFill_arrival hsc hrun hfree hw ha hm, ?_, fun hw ha hq => ?_⟩, ?_,
    fun s cl core hsc hrun htime => rotationBoundary_effect hsc hrun htime, ?_, fun s htime => loadLevelInterval_effect htime,
    fun s0 s cl core p x pre m post n hp hnear hpre hpost hn hle => levelCore_effect hp hnear hpre hpost hn hle,
    fun s i cl core x y pc st hf hrun hfirst => worklistEntryArrives_effect hf hrun hfirst⟩
  · rintro _ q pend t hw ha rfl hown harb hf ht
    exact slotFill_pending hsc hrun hfree hw ha hown harb hf ht
  · rw [exec_slotFill hsc hrun hfree, fillSlot_none hw ha hq]
  · intro s cl core q w hweight hq
    obtain rfl : w = weightOf (s.cluster cl) := funext hweight
    exact arbiterQueue_serves hq
  · intro s cl core slot q pend t _ hslot _ hw ha hq hf ht
    obtain ⟨hthread, howner, hpending⟩ := fillSlot_boundary hslot hw ha hq hf ht
    exact ⟨_, rfl, hthread, howner, hpending, fillSlot_keepsOthers⟩

end Sys2Proof.Safety
end

section
/-! Matrix engine, first part: context writes and `mstat` at retirement, and the posting of commands (R163 to R173, R189 to R194). -/

namespace Sys2Proof.Safety

open Machine Laws

variable {s : State} {k engine : Nat} {t : Thread} {a b : Reg} {c : Ctx} {ts : Map Thread}

/-! ### The lanes of the issuing set -/

theorem lowest_eq (h : Lowest s k t) : s.lowest = some (k, t) := by
  obtain ⟨hk, ht⟩ := h
  obtain ⟨ks, hks⟩ := List.head?_eq_some_iff.1 hk
  simp [State.lowest, State.curThreads, hks, ht]

/-- The same threads, however their table lists them, are the same lanes. -/
theorem curThreads_of_mget (hts : ∀ j, mget ts j = s.thread j) : State.curThreads { s with threads := ts } = s.curThreads :=
  List.filterMap_congr fun j _ => congrArg _ (hts j)

/-- The work in each lane on a table that lists the same threads. -/
theorem forLanes_put_of_mget (hts : ∀ j, mget ts j = s.thread j) (hn : s.curKeys.Nodup) {f : State → Nat → Thread → State}
    {g : Nat → Thread → Thread} (hf : ∀ ts, ∀ k ∈ s.curKeys, ∀ t, s.thread k = some t →
      f { s with threads := ts } k t = State.putThread { s with threads := ts } k (g k t)) :
    LanesTo s (State.forLanes { s with threads := ts } f) g := by
  obtain ⟨hrest, hothers, hlanes⟩ := foldl_lanes f g s s.curKeys hn hf ts fun j _ => hts j
  exact ⟨hrest, fun j hj => (hothers j hj).trans (hts j), hlanes⟩

/-- Retirement of every lane at the following instruction. -/
theorem retireAll_effect (h : ReadyPair s) (hpfx : s.cur.pfx = none) : LanesTo s s.retireAll fun _ t => retired t (t.pc + 4) := by
  refine forLanes_put s _ _ h.1 fun ts j hj v hv => ?_
  rw [finish_eq _ _ _ _ (h.2 j hj v hv), width_none _ (by exact hpfx)]

/-- A context write: the context changes and every lane retires (R189). -/
theorem contextWrite_effect (h : ReadyPair s) (hpfx : s.cur.pfx = none) {i : Instr} {n : Nat} {f : MxCtx → MxCtx}
    (hi : exec i s = .next (s.putMxCtx s.cur.cl n f).retireAll) :
    ThenLanes i s (s.putMxCtx s.cur.cl n f) fun _ t => retired t (t.pc + 4) :=
  ⟨_, hi, retireAll_effect h hpfx⟩

/-! ### Posting (R173) -/

theorem postRoom_eq_true (h : TableReady s engine) : s.postRoom engine = true := by
  obtain ⟨hroom, htl⟩ := h
  refine Bool.and_eq_true_iff.2 ⟨hroom, List.all_eq_true.2 fun x hx => decide_eq_true ?_⟩
  obtain ⟨hk, ht⟩ := mem_curThreads.1 hx
  exact htl _ hk _ ht

/-- With room in the table the set posts: the command is last there, and every lane retires with tl raised. -/
theorem post_effect (hts : ∀ j, mget ts j = s.thread j) (h : ReadyPair s) (hroom : TableReady s engine) (cmd : Cmd) (busy : List RegRef) :
    LanesTo (withCommand s engine cmd) (State.post { s with threads := ts } engine cmd busy)
      fun _ t => retired (addBusy { t with tl := t.tl + 1 } busy) (t.pc + s.width) := by
  have hroom' : State.postRoom { s with threads := ts } engine = true := by
    rw [State.postRoom, curThreads_of_mget hts]
    exact postRoom_eq_true hroom
  rw [State.post, hroom']
  exact forLanes_put_of_mget (s := withCommand s engine cmd) hts h.1 fun ts j hj v hv => finish_eq _ _ _ _ (h.2 j hj v hv)

/-- A command of the matrix engine posted for the issuing set, with the context it latched. -/
theorem posts_of_exec {i : Instr} (h : ReadyPair s) (hroom : TableReady s 0) {cmd : Cmd} {busy : List RegRef}
    (hi : exec i s = .next (s.post 0 cmd busy)) : Posts i s 0 cmd fun _ => busy :=
  ⟨_, hi, post_effect (ts := s.threads) (fun _ => rfl) h hroom cmd busy⟩

/-! ### `mrdr` and `mwrr` (R192) -/

/-- With no lane refused, the set goes on as it was. -/
theorem trapLanes_none {bad : Thread → Bool} (hfilled : Filled s) (hlow : Lowest s k t)
    (hbad : ∀ j ∈ s.curKeys, ∀ x, s.thread j = some x → bad x = false)
    (cause : Nat) (f : State → State) : s.trapLanes bad cause f = f s := by
  have hlane : ∀ l ∈ s.cur.lanes, ∃ x, s.thread (keyOf s.cur.cl s.cur.core (thrOf s.cur.core s.cur.slot l)) = some x ∧ bad x = false := by
    intro l hl
    have hj := List.mem_map_of_mem (f := fun l => keyOf s.cur.cl s.cur.core (thrOf s.cur.core s.cur.slot l)) hl
    obtain ⟨x, hx⟩ := Option.isSome_iff_exists.1 (hfilled _ hj)
    exact ⟨x, hx, hbad _ hj x hx⟩
  have hnone : s.onlyLanes bad = { s with cur := { s.cur with lanes := [] } } := by
    rw [State.onlyLanes, List.filter_eq_nil_iff.2 fun l hl => ?_]
    obtain ⟨x, hx, hb⟩ := hlane l hl
    simp [hx, hb]
  have hall : s.onlyLanes (!bad ·) = s := by
    rw [State.onlyLanes, List.filter_eq_self.2 fun l hl => ?_]
    obtain ⟨x, hx, hb⟩ := hlane l hl
    simp [hx, hb]
  have hsome : s.cur.lanes.isEmpty = false := by
    obtain ⟨ks, hks⟩ := List.head?_eq_some_iff.1 hlow.1
    cases hl : s.cur.lanes with
    | nil => simp [State.curKeys, hl] at hks
    | cons l ls => rfl
  rw [State.trapLanes, hnone, hall]
  show (if s.cur.lanes.isEmpty = true then s else f s) = f s
  rw [hsome, if_neg Bool.false_ne_true]

/-! ### The scale registers of `mmas` (R172) -/

theorem mem_curThreads_of_scaleLanes {w : Word} {x : Nat × Thread} (h : x ∈ scaleLanes s w) : x ∈ s.curThreads := by
  unfold scaleLanes at h
  split at h
  · exact List.mem_of_mem_take h
  · exact h

/-- Registers of no stream are read as they stand: every thread stays as it was. -/
theorem foldl_withF_unbound (regs : List Reg) : ∀ (lanes : List (Nat × Thread)) (ts : Map Thread),
    (∀ x ∈ lanes, s.thread x.1 = some x.2 ∧ Unbound x.2) → (∀ j, mget ts j = s.thread j) →
    ∃ ts', lanes.foldl (fun u x => u.withF x.1 x.2 regs none fun t => u.putThread x.1 t) { s with threads := ts } = { s with threads := ts' } ∧
      ∀ j, mget ts' j = s.thread j := by
  intro lanes
  induction lanes with
  | nil => exact fun ts _ hts => ⟨ts, rfl, hts⟩
  | cons x lanes ih =>
    intro ts hl hts
    obtain ⟨⟨ht, hu⟩, hrest⟩ := List.forall_mem_cons.1 hl
    rw [List.foldl_cons, withF_unbound _ _ _ hu]
    refine ih (mset ts x.1 x.2) hrest fun j => ?_
    rw [mget_mset_self ts x.1 x.2 ((hts x.1).trans ht)]
    exact hts j

/-- With no stream bound, `mmas` goes on with every lane. -/
theorem withScales_unbound (hu : AllUnbound s) (w : Word) (go : State → State) :
    ∃ ts, s.withScales w go = go { s with threads := ts } ∧ ∀ j, mget ts j = s.thread j := by
  have hlanes : ∀ x ∈ scaleLanes s w, s.thread x.1 = some x.2 ∧ Unbound x.2 := fun x hx =>
    have ⟨hk, ht⟩ := mem_curThreads.1 (mem_curThreads_of_scaleLanes hx)
    ⟨ht, hu _ hk _ ht⟩
  have hprep : ∀ x ∈ scaleLanes s w, scalePrep w x.2 = .ok x.2 := fun x hx => fPrep_unbound _ (hlanes x hx).2 _ _
  obtain ⟨ts, hfold, hts⟩ := foldl_withF_unbound (scaleRegs w) (scaleLanes s w) s.threads hlanes fun _ => rfl
  have hlegal : ((scaleLanes s w).any fun x => scalePrep w x.2 == .illegal) = false :=
    List.any_eq_false.2 fun x hx => by simp [hprep x hx]
  refine ⟨ts, ?_, hts⟩
  unfold State.withScales
  dsimp only
  rw [hlegal, if_neg Bool.false_ne_true, if_pos (List.isEmpty_iff.2 (List.filter_eq_nil_iff.2 fun x hx => by simp [hprep x hx]))]
  exact congrArg go hfold

/-! ### The instructions -/

/-- `mstat` (R193). -/
theorem mstat_effect (h : ReadyPair s) (hpfx : s.cur.pfx = none) :
    LaneW (.mstat a c 0) s a (fun _ => (mxCtx s c).cfg) ∧ LaneW (.mstat a c 1) s a (fun _ => (mxCtx s c).base) ∧
    LaneW (.mstat a c 2) s a (fun _ => (mxCtx s c).sts) ∧
    LaneW (.mstat a c 3) s a (fun _ => mxCount (s.cluster s.cur.cl).mxe c.toNat (mxCtx s c)) := by
  have hready : Ready s := ⟨h.1, hpfx, h.2⟩
  exact ⟨regOp_effect s hready _, regOp_effect s hready _, regOp_effect s hready _, regOp_effect s hready _⟩

/-- A command of the matrix engine carries the configuration and the base of its context as they stand at its posting (R168). -/
theorem posts_of_postMxe (h : ReadyPair s) (hroom : TableReady s 0) {i : Instr} {fn : Nat} {x y : Word}
    {ops : List (Nat × Word × Word)} {scales : List (List Byte)} {dst : Reg} {busy : List RegRef}
    (hi : exec i s = .next (s.postMxe fn c t x y ops scales dst busy)) :
    Posts i s 0 (engineCmd s fn c (mxWords s c x y) ops scales dst t) fun _ => busy :=
  posts_of_exec h hroom hi

/-- No prefix, or one that the class and the latched context allow (R57, R190, R191). -/
theorem pair_accepted {w : Word} {pass : Bool} (hpfx : s.cur.pfx = none ∨ pfxOk w pass = true) :
    (s.cur.pfx.isSome && !pfxOk w pass) = false := by
  rcases hpfx with hp | hp <;> simp [hp]

/-- `mma` and `mmas` (R190): what lets a pass be posted. -/
theorem postPass_eq (hlow : Lowest s k t) (hroom : TableReady s 0) (scaled : Bool) (hw : passOk (readW t b) = true)
    (hpfx : s.cur.pfx = none ∨ pfxOk (s.latchedCfg c) true = true)
    (hfmt : (if scaled then intFmt (cfgFA (s.latchedCfg c)) else cfgFA (s.latchedCfg c) == 10) = false) :
    postPass a b c scaled s =
      .next (if scaled then s.withScales (s.latchedCfg c) (postRows a b c true) else postRows a b c false s) := by
  simp only [postPass, lowest_eq hlow, pair_accepted hpfx, hfmt, hw, postRoom_eq_true hroom]
  cases scaled <;> rfl

section

variable (h : ReadyPair s) (hlow : Lowest s k t)
include h hlow

/-- `mcfg`, `msel` and `mstat` (R188, R189, R193). -/
theorem contextWrites_effect (hpfx : s.cur.pfx = none) :
    (cfgOk (readW t a) = true → ThenLanes (.mcfg a c 0) s (s.putMxCtx s.cur.cl c.toNat fun x => { x with cfg := readW t a })
      fun _ t => retired t (t.pc + 4)) ∧
    (baseOk (readW t a) = true → ThenLanes (.mcfg a c 1) s (s.putMxCtx s.cur.cl c.toNat fun x => { x with base := readW t a })
      fun _ t => retired t (t.pc + 4)) ∧
    (readW t a &&& ~~~ (0x37 : Word) = 0 →
      ThenLanes (.mcfg a c 2) s (s.putMxCtx s.cur.cl c.toNat fun x => { x with sts := x.sts &&& ~~~ readW t a }) fun _ t => retired t (t.pc + 4)) ∧
    LaneEffect (.mcfg a c 3) s (fun _ t => retired t (t.pc + 4)) ∧
    (cfgOk (readW t a) = false → exec (.mcfg a c 0) s = .next (s.trapAll 1)) ∧
    (bitsOf 6 58 (readW t a) = 0 → ThenLanes (.msel a c) s
      (s.putMxCtx s.cur.cl c.toNat fun x => { x with base := putBits x.base 16 6 (readW t a).toNat, sts := 0, cnt := 0 })
      fun _ t => retired t (t.pc + 4)) := by
  have hmcfg : ∀ i, exec (.mcfg a c i) s = execMcfg a c i s := fun _ => rfl
  have hlowest := lowest_eq hlow
  refine ⟨fun hv => ?_, fun hv => ?_, fun hv => ?_, ⟨_, ?_, retireAll_effect h hpfx⟩, fun hv => ?_, fun hv => ?_⟩
  · refine contextWrite_effect h hpfx ?_
    simp only [hmcfg, execMcfg, hlowest, hv]
    rfl
  · refine contextWrite_effect h hpfx ?_
    simp only [hmcfg, execMcfg, hlowest, hv]
    rfl
  · refine contextWrite_effect h hpfx ?_
    simp only [hmcfg, execMcfg, hlowest, stsMask, hv]
    rfl
  · simp only [hmcfg, execMcfg, hlowest]
    rfl
  · simp only [hmcfg, execMcfg, hlowest, hv]
    rfl
  · refine contextWrite_effect h hpfx ?_
    show execMsel a c s = _
    simp only [execMsel, hlowest, hv]
    rfl

variable (hroom : TableReady s 0)
include hroom

/-- `mlds` (R191). -/
theorem mlds_posts (hscale : readsScale (s.latchedCfg c) = decide (b ≠ 0)) (hpfx : s.cur.pfx = none ∨ pfxOk (s.latchedCfg c) false = true) :
    Posts (.mlds a b c) s 0 (engineCmd s 2 c (mxWords s c (readW t b) (readW t a)) [] [] 0 t) fun _ => [] := by
  refine posts_of_postMxe h hroom ?_
  show execMlds a b c s = _
  have hrow : (readsScale (s.latchedCfg c) == (b == 0)) = false := by
    rw [hscale, beq_eq_decide b 0, decide_not]
    cases decide (b = 0) <;> rfl
  simp only [execMlds, lowest_eq hlow, pair_accepted hpfx, hrow]
  rfl

/-- `mma` (R190). -/
theorem mma_posts (hw : passOk (readW t b) = true) (hpfx : s.cur.pfx = none ∨ pfxOk (s.latchedCfg c) true = true)
    (hfmt : cfgFA (s.latchedCfg c) ≠ 10) :
    Posts (.mma a b c) s 0 (engineCmd s 4 c (mxWords s c (readW t b) 0) (laneOps s a b) [] 0 t) fun _ => [] := by
  refine posts_of_postMxe h hroom ((postPass_eq hlow hroom false hw hpfx (beq_eq_false_iff_ne.2 hfmt)).trans ?_)
  simp only [postRows, lowest_eq hlow]
  rfl

/-- `mmas` with no stream bound (R172, R190). -/
theorem mmas_posts (hw : passOk (readW t b) = true) (hpfx : s.cur.pfx = none ∨ pfxOk (s.latchedCfg c) true = true)
    (hfmt : intFmt (cfgFA (s.latchedCfg c)) = false) (hu : AllUnbound s) :
    Posts (.mmas a b c) s 0 (engineCmd s 5 c (mxWords s c (readW t b) 0) (laneOps s a b)
      (s.curThreads.map fun x => scaleBytes (s.latchedCfg c) x.2 t) 0 t) fun _ => [] := by
  obtain ⟨ts, hscales, hts⟩ := withScales_unbound hu (s.latchedCfg c) (postRows a b c true)
  have hthreads := curThreads_of_mget hts
  have hlowest : State.lowest { s with threads := ts } = some (k, t) := (congrArg List.head? hthreads).trans (lowest_eq hlow)
  have hrows : postRows a b c true { s with threads := ts } = State.post { s with threads := ts } 0
      (engineCmd s 5 c (mxWords s c (readW t b) 0) (laneOps s a b)
        (s.curThreads.map fun x => scaleBytes (s.latchedCfg c) x.2 t) 0 t) [] := by
    simp only [postRows, hlowest, laneOps, hthreads]
    rfl
  refine ⟨_, (postPass_eq hlow hroom true hw hpfx hfmt).trans ?_, post_effect hts h hroom _ []⟩
  rw [if_pos rfl, hscales, hrows]

/-- `mzero` (R192). -/
theorem mzero_posts (hw : bitsOf 6 58 (readW t b) = 0) :
    Posts (.mzero b c) s 0 (engineCmd s 6 c (mxWords s c (readW t b) 0) [] [] 0 t) fun _ => [] := by
  refine posts_of_postMxe h hroom ?_
  show execMzero b c s = _
  simp only [execMzero, lowest_eq hlow, hw]
  rfl

/-- `mswp` (R191). -/
theorem mswp_posts : Posts (.mswp c) s 0 (engineCmd s 3 c (mxWords s c 0 0) [] [] 0 t) fun _ => [] := by
  refine posts_of_postMxe h hroom ?_
  show execMswp c s = _
  simp only [execMswp, lowest_eq hlow]

/-- `mdrn`, `mdrna` and `mdrno` (R194). -/
theorem drain_posts {i : Instr} {fn : Nat} (hi : exec i s = postDrain fn a b c s) (hw : drainOk fn (readW t b) = true)
    (hfmt : fn ≠ 7 → drainDF (readW t b) = (if intPair (mxCtx s c).cfg then 11 else 1)) :
    Posts i s 0 (engineCmd s fn c (mxWords s c (readW t b) (readW t a)) [] [] 0 t) fun _ => [] := by
  refine posts_of_postMxe h hroom (hi.trans ?_)
  have hown : (decide (fn ≠ 7) && decide (drainDF (readW t b) ≠ (if intPair (mxCtx s c).cfg then 11 else 1))) = false := by
    by_cases hf : fn = 7
    · simp [hf]
    · simp [hfmt hf]
  simp only [postDrain, lowest_eq hlow, hw, hown]
  rfl

/-- `mrdr` and `mwrr`, no lane of which is refused (R192). -/
theorem element_posts {i : Instr} {fn : Nat} (hfilled : Filled s) (hi : exec i s = postElement fn a b c s)
    (hw : ∀ j ∈ s.curKeys, ∀ x, s.thread j = some x → elementOk (readW x b) = true) :
    Posts i s 0 (engineCmd s fn c (mxWords s c 0 0) (laneOps s a b) [] a t)
      fun _ => if fn = 10 then [.w a] else [] := by
  refine posts_of_postMxe h hroom (hi.trans ?_)
  rw [postElement, trapLanes_none hfilled hlow fun j hj x hx => by simp [hw j hj x hx]]
  simp only [lowest_eq hlow]

end

/-- Settles O35: a context write is the context changed and the set retired; every other instruction is, past its checks, one posting of the
command its context latched, so that what posting does is proved once. -/
theorem matrixInstructionsComplete : Obligations.MatrixInstructionsComplete := by
  rintro s k t h hfilled hlow a b c _ _ _ rfl rfl rfl put hput cmd hcmd
  simp only [hput, hcmd]
  refine ⟨fun hpfx => ?_, fun hroom _ => ?_, fun hroom => ⟨mlds_posts h hlow hroom, fun hw hpfx => ?_⟩⟩
  · obtain ⟨hcfg, hbase, hsts, hnone, hrefused, hsel⟩ := contextWrites_effect (a := a) (c := c) h hlow hpfx
    exact ⟨hcfg, hbase, hsts, hnone, hrefused, hsel, mstat_effect h hpfx⟩
  · exact ⟨mswp_posts h hlow hroom, mzero_posts h hlow hroom, fun hw => drain_posts h hlow hroom rfl hw (absurd rfl),
      fun hfmt => ⟨fun hw => drain_posts h hlow hroom rfl hw fun _ => hfmt, fun hw => drain_posts h hlow hroom rfl hw fun _ => hfmt⟩,
      fun hw => ⟨element_posts h hlow hroom hfilled rfl hw, element_posts h hlow hroom hfilled rfl hw⟩⟩
  · exact ⟨mma_posts h hlow hroom hw hpfx, mmas_posts h hlow hroom hw hpfx⟩

end Sys2Proof.Safety
end

section
/-! Matrix engine, second part: the statement of its events is refuted by an ordered drain that finds the staging area of its partition full (R181, R186). -/

namespace Sys2Proof.Safety

open Machine

variable {s : State} {cl i k detail : Nat} {c : Cmd} {r : Running} {t : Thread} {va : Word} {addrs : List Nat}

/-! ### A command that fails alone in its table (R186) -/

/-- A command of one lane that is in no table: only its own lane's counter falls and its fault is pending there. -/
theorem failMxe_thread_lone (htable : (s.cluster cl).mxe.table = []) (hkeys : c.keys = [k]) (hfn : c.fn ≠ 10) (ht : s.thread k = some t) :
    (s.failMxe cl c detail va).thread k =
      some { t with tl := t.tl - 1, deferred := t.deferred ++ [{ engine := 0, detail := detail, value := va, pc := c.pc }] } := by
  have hdedup : cmdKeys [c] = [k] := by simp [cmdKeys, hkeys, dedup]
  simp only [State.failMxe, htable, List.filter_nil, List.foldl_cons, List.foldl_nil, if_neg hfn, State.defer, hdedup, State.lowerTl, hkeys,
    State.unlock, thread_modCluster, ht, thread_putThread, if_true]

/-- A granted drain that nothing holds may write its bytes (R184). -/
theorem placeReady_of_free (hfn : r.cmd.fn ≠ 2) (hrack : rackedFrame s (placeKeys r) = none) (hrefused : placeRefused s cl r = none)
    (hlink : linkHeld s true (placeKeys r) = none) (htable : tableHeld (s.withoutMxe cl i) (placeKeys r) = false)
    (hbad : badAmong s (placeKeys r) = none) : placeReady s cl i r = .ok (placeKeys r) := by
  have hwrite : (r.cmd.fn != 2) = true := bne_iff_ne.2 hfn
  simp only [placeReady, hrack, hrefused, hwrite, hlink, htable, hbad, ite_self]
  rfl

/-- A contribution out of its turn that finds its coherence point's own storage and the staging area full fails with detail 0x0A (R181). -/
theorem contribution_fails_of_area_full (hr : mxRunning s cl i = some r) (hfn : r.cmd.fn = 9) (hs : r.staged = false)
    (hready : placeReady s cl i r = .ok addrs) (hnone : mget s.reductions (addrs.headD 0) = none)
    (hslice : bitsOf 16 16 (cmdB r.cmd) ≠ 0) (hhere : Config.stagedHere ≤ stagedAt s (addrs.headD 0))
    (harea : Config.stagingRoom ≤ stagedInArea s (s.partNo cl)) :
    ∃ rs, exec (.mdrnoContributionArrival cl i) s = .next ({ s with reductions := rs }.failMxe cl r.cmd 0x0A (cmdA r.cmd)) := by
  refine ⟨mset s.reductions (addrs.headD 0) { n := bitsOf 48 16 (cmdB r.cmd), next := 0, staged := [] }, ?_⟩
  show execMdrnoContributionArrival cl i s = _
  have hfull : (decide (bitsOf 16 16 (cmdB r.cmd) ≠ 0) && decide (Config.stagedHere ≤ stagedAt s (addrs.headD 0))) = true := by
    rw [decide_eq_true hslice, decide_eq_true hhere]
    rfl
  simp only [execMdrnoContributionArrival, hr, hfn, hs, hready, hnone, Option.getD_none, hfull, harea]
  simp

/-! ### A partition whose staging area is full -/

/-- The first byte of bank 0 of cluster 0, in scratch mode. -/
def scratchBase : Nat := 0xFF000000000000

/-- An `mdrno` of FP32 rows into that bank: slice 1 of a reduction of two. -/
def secondSlice : Cmd :=
  { seq := 40000, fn := 9, issuer := (0, 0, 0), keys := [0], gang := false, ctx := 0, words := [0x111, 0, 0x0002000000010100, word scratchBase],
    ops := [], scales := [], dst := 0, pc := 0x10000, asid := 0, sup := false, posted := 0, inst := 0 }

/-- A tile of zeros. -/
def zeroTile : List (BitVec 32) := List.replicate 2048 0

/-- The same granted, each of its rows placed where it is to be written. -/
def grantedSlice : Running :=
  { runOf secondSlice with
    tile := zeroTile
    place := (List.range 32).map fun j => (scratchBase + 256 * j, 256) }

/-- A contribution staged at the next tile of the bank, whose slice 0 has not come. -/
def waitingSlice (area : Bool) (j : Nat) : Contribution :=
  { slice := j + 1, int := false, rows := (List.range 32).map fun x => scratchBase + 8192 + 256 * x, tile := zeroTile, cl := 0,
    seq := j, area := area }

@[simp] theorem waitingSlice_area (area : Bool) (j : Nat) : (waitingSlice area j).area = area := rfl
@[simp] theorem waitingSlice_cl (area : Bool) (j : Nat) : (waitingSlice area j).cl = 0 := rfl

/-- As many contributions as the bank's own storage and the partition's staging area hold. -/
def fullReduction : Reduction :=
  { n := 65535, next := 0
    staged := (List.range Config.stagedHere).map (waitingSlice false) ++
      (List.range Config.stagingRoom).map fun j => waitingSlice true (Config.stagedHere + j) }

/-- The issuer of `secondSlice`, past it. -/
def drainIssuer : Thread := { Thread.zero with pc := 0x10004, tl := 1 }

/-- The drain runs in cluster 0 beside that reduction. -/
def fullAreaState : State :=
  { State.reset with
    parts := [(0, fetchPartition)]
    threads := [(0, drainIssuer)]
    clusters := [(0, { Cluster.reset with csmctl := 1, mxe := { Mxe.reset with running := [grantedSlice] } })]
    reductions := [(scratchBase + 8192, fullReduction)] }

theorem stagedAt_fullAreaState : stagedAt fullAreaState scratchBase = Config.stagedHere := by
  have hpoint : samePoint fullAreaState (scratchBase + 8192) scratchBase = true := by decide +kernel
  have hred : fullAreaState.reductions = [(scratchBase + 8192, fullReduction)] := rfl
  simp [stagedAt, hred, hpoint, fullReduction, List.filter_map, Function.comp_def]

theorem stagedInArea_fullAreaState : stagedInArea fullAreaState 0 = Config.stagingRoom := by
  have hpart : fullAreaState.partNo 0 = 0 := by decide +kernel
  have hred : fullAreaState.reductions = [(scratchBase + 8192, fullReduction)] := rfl
  simp [stagedInArea, hred, hpart, fullReduction, List.filter_map, Function.comp_def]

theorem rows_free_fullAreaState (A : List Nat) :
    tableHeld fullAreaState A = false ∧ snoopDown fullAreaState A = false ∧ badAmong fullAreaState A = none := by
  have hshares : fullAreaState.hostShares = [] := rfl
  refine ⟨rfl, ?_, rfl⟩
  simp [snoopDown, hshares]

theorem portOf_grantedSlice {a : Nat} (ha : a ∈ placeKeys grantedSlice) : portOf a = none := by
  obtain ⟨p, hp, hspan⟩ := List.mem_flatMap.1 ha
  obtain ⟨j, hj, rfl⟩ := List.mem_map.1 hp
  obtain ⟨x, hx, rfl⟩ := List.mem_map.1 hspan
  have hj := List.mem_range.1 hj
  have hx := List.mem_range.1 hx
  have hlow : scratchBase + 256 * j + x < hostSpace := by
    simp only [scratchBase, hostSpace]
    omega
  have hfar : ¬ remoteBase ≤ scratchBase + 256 * j + x := by
    simp only [hostSpace, remoteBase] at hlow ⊢
    omega
  simp [portOf, hfar, hostKey, hlow]

theorem linkHeld_fullAreaState : linkHeld fullAreaState true (placeKeys grantedSlice) = none := by
  have hends : ((placeKeys grantedSlice).take 1 ++ (placeKeys grantedSlice).drop ((placeKeys grantedSlice).length - 1)).find?
      (onDownLink fullAreaState) = none := by
    refine List.find?_eq_none.2 fun a ha => ?_
    have hmem := (List.mem_append.1 ha).elim List.mem_of_mem_take List.mem_of_mem_drop
    simp [onDownLink, portOf_grantedSlice hmem]
  simp [linkHeld, hends, (rows_free_fullAreaState _).2.1]

theorem placeReady_fullAreaState : placeReady fullAreaState 0 0 grantedSlice = .ok (placeKeys grantedSlice) :=
  placeReady_of_free (by decide) (List.find?_eq_none.2 fun _ _ => nofun) (by decide +kernel) linkHeld_fullAreaState rfl rfl

theorem mxRunning_fullAreaState : mxRunning fullAreaState 0 0 = some grantedSlice := by decide +kernel

/-- Refutes O36, by its clause on the arrival of a contribution: it has every thread stay as it was, but a slice out of its turn that finds
the staging area full fails with detail 0x0A (R181), which its issuer's thread is told (R186). -/
theorem not_matrixEngineEventsComplete : ¬ Obligations.MatrixEngineEventsComplete := by
  rintro ⟨-, hruns, -⟩
  obtain ⟨-, -, -, -, -, -, -, hcontribution⟩ := hruns fullAreaState 0 0 grantedSlice mxRunning_fullAreaState
  obtain ⟨u, hu, hthreads, -⟩ := hcontribution _ 2 1 rfl rfl placeReady_fullAreaState rfl (by decide) (by decide) (by decide)
    fun A _ => rows_free_fullAreaState A
  obtain ⟨rs, hfail⟩ := contribution_fails_of_area_full mxRunning_fullAreaState rfl rfl placeReady_fullAreaState rfl (by decide)
    stagedAt_fullAreaState.ge stagedInArea_fullAreaState.ge
  obtain rfl := Host.Outcome.next.inj (hfail.symm.trans hu)
  have hsame : State.thread _ 0 = State.thread fullAreaState 0 := congrArg (mget · 0) hthreads
  rw [failMxe_thread_lone (t := drainIssuer) rfl rfl (by decide) rfl] at hsame
  exact absurd (congrArg (Option.map Thread.tl) hsame) (by decide)

end Sys2Proof.Safety
end

