-- ==== Sys2Proof/Proofs/Atomics.lean ====
section
/-! Ordering and the memory model, first part: an atomic performed (R224, R225, R240, R241). -/

namespace Sys2Proof.Safety

open Machine

variable {s u : State} {k i n op : Nat} {t v : Thread} {o : OutOp} {dst : RegRef} {x e old : Word}

/-! ### Numbers written as bytes and read back -/

theorem leNat_leBytes : ∀ n v : Nat, leNat (leBytes n v) = v % 256 ^ n
  | 0, v => by rw [pow_zero, Nat.mod_one]; rfl
  | n + 1, v => by
    rw [leBytes, leNat, leNat_leBytes n, BitVec.toNat_ofNat, pow_succ' 256 n, Nat.mod_mul]

theorem memRead_writeNum {addrs : List Nat} (hn : addrs.Nodup) (hr : ∀ a ∈ addrs, a < remoteBase) (s : State) (v : Nat) {z : Nat}
    (hz : z < addrs.length) : memRead (s.writeNum addrs v).mem (addrs.getD z 0) = (leBytes addrs.length v).getD z 0 := by
  have hlen := length_leBytes addrs.length v
  have hd : z < (leBytes addrs.length v).length := hlen.symm ▸ hz
  have hmem : (addrs[z], (leBytes addrs.length v)[z]) ∈ addrs.zip (leBytes addrs.length v) := by
    rw [List.mem_iff_getElem]
    exact ⟨z, by simp [hz, hlen], List.getElem_zip⟩
  have hkeys : ((addrs.zip (leBytes addrs.length v)).map (·.1)).Nodup := by rwa [List.map_fst_zip hlen.ge]
  rw [List.getD_eq_getElem _ _ hz, List.getD_eq_getElem _ _ hd]
  exact memRead_writeCells_of_mem s hkeys hmem (hr _ (List.getElem_mem hz))

theorem memRead_writeNum_other {addrs : List Nat} (s : State) (v : Nat) {a : Nat} (ha : a ∉ addrs) :
    memRead (s.writeNum addrs v).mem a = memRead s.mem a :=
  writeCells_other _ _ _ fun _ hc he => ha (he ▸ (List.of_mem_zip hc).1)

/-- A number written at plain memory of the device is what the keys hold from then on. -/
theorem numAt_of_writeNum {addrs : List Nat} (hn : addrs.Nodup) (hr : ∀ a ∈ addrs, a < remoteBase ∧ spotOf a = none) {v : Nat}
    (hu : u.mem = (s.writeNum addrs v).mem) : u.numAt addrs = v % 256 ^ addrs.length := by
  have hbytes : addrs.map u.byteAt = leBytes addrs.length v := by
    refine List.ext_getElem (by rw [List.length_map, length_leBytes]) fun z hz hd => ?_
    rw [List.length_map] at hz
    obtain ⟨hfar, hspot⟩ := hr _ (List.getElem_mem hz)
    have hread := memRead_writeNum hn (fun a ha => (hr a ha).1) s v hz
    rw [List.getD_eq_getElem _ _ hz, List.getD_eq_getElem _ _ hd] at hread
    rw [List.getElem_map, State.byteAt, if_neg hfar.not_ge, hspot]
    exact hu ▸ hread
  rw [State.numAt, hbytes, leNat_leBytes]

/-! ### The new value (Table 3.13) -/

theorem ite_lt {c : Prop} [Decidable c] {a b m : Nat} (ha : a < m) (hb : b < m) : (if c then a else b) < m := by
  split
  · exact ha
  · exact hb

/-- An integer operation's new value fits its location. -/
theorem atomicNew_lt (hop : op < 18) : atomicNew op n old x e < 2 ^ (8 * n) := by
  have hmod : ∀ m : Nat, m % 2 ^ (8 * n) < 2 ^ (8 * n) := fun m => Nat.mod_lt _ (Nat.two_pow_pos _)
  have ho := hmod old.toNat
  have hx := hmod x.toNat
  have hcode : op / 2 < 9 := by omega
  unfold atomicNew
  generalize op / 2 = c at hcode
  match c, hcode with
  | 0, _ => exact hmod _
  | 1, _ => exact Nat.and_lt_two_pow _ hx
  | 2, _ => exact Nat.or_lt_two_pow ho hx
  | 3, _ => exact Nat.xor_lt_two_pow ho hx
  | 4, _ => exact ite_lt hx ho
  | 5, _ => exact ite_lt hx ho
  | 6, _ => exact (Nat.min_le_left _ _).trans_lt ho
  | 7, _ => exact max_lt ho hx
  | 8, _ => exact hx

theorem signExt_full (w : Word) : signExt 64 w = w := by simp [signExt]

theorem signExt_32_toInt (w : Word) : (signExt 32 w).toInt = (w.setWidth 32).toInt :=
  BitVec.toInt_signExtend_of_le (by decide)

/-- Table 3.13 on eight bytes. -/
theorem atomicNew_eight (old x e : Word) :
    atomicNew 1 8 old x e = (old + x).toNat ∧ atomicNew 3 8 old x e = (old &&& x).toNat ∧
    atomicNew 5 8 old x e = (old ||| x).toNat ∧ atomicNew 7 8 old x e = (old ^^^ x).toNat ∧
    atomicNew 9 8 old x e = (if x.toInt < old.toInt then x else old).toNat ∧
    atomicNew 11 8 old x e = (if old.toInt < x.toInt then x else old).toNat ∧
    atomicNew 13 8 old x e = min old.toNat x.toNat ∧ atomicNew 15 8 old x e = max old.toNat x.toNat ∧
    atomicNew 17 8 old x e = x.toNat ∧ atomicNew 19 8 old x e = (if old = e then x else old).toNat := by
  have hcut : ∀ w : Word, w.toNat % 2 ^ (8 * 8) = w.toNat := fun w => Nat.mod_eq_of_lt w.isLt
  simp only [atomicNew, hcut, signExt_full, Nat.reduceDiv, Nat.reduceMul, BitVec.toNat_add, BitVec.toNat_and, BitVec.toNat_or,
    BitVec.toNat_xor, apply_ite BitVec.toNat, ← BitVec.toNat_inj, and_self]

/-- Table 3.13 on four bytes and on two. -/
theorem atomicNew_narrow (old x e : Word) (o y g : BitVec 32) (ho : o = old.setWidth 32) (hy : y = x.setWidth 32) (hg : g = e.setWidth 32) :
    atomicNew 0 4 old x e = (o + y).toNat ∧ atomicNew 2 4 old x e = (o &&& y).toNat ∧ atomicNew 4 4 old x e = (o ||| y).toNat ∧
    atomicNew 6 4 old x e = (o ^^^ y).toNat ∧ atomicNew 8 4 old x e = (if y.toInt < o.toInt then y else o).toNat ∧
    atomicNew 10 4 old x e = (if o.toInt < y.toInt then y else o).toNat ∧ atomicNew 12 4 old x e = min o.toNat y.toNat ∧
    atomicNew 14 4 old x e = max o.toNat y.toNat ∧ atomicNew 16 4 old x e = y.toNat ∧
    atomicNew 18 4 old x e = (if o = g then y else o).toNat ∧
    atomicNew 20 4 old x e = (roundTo .f32 0 0 false 0 (addV 0 (valueOf .f32 0 o.toNat) (valueOf .f32 0 y.toNat)).val).bits ∧
    atomicNew 21 2 old x e = (roundTo .bf16 0 0 false 0
      (addV 0 (valueOf .bf16 0 (old.toNat % 2 ^ 16)) (valueOf .bf16 0 (x.toNat % 2 ^ 16))).val).bits := by
  subst ho hy hg
  simp [atomicNew, signExt_32_toInt, atomicFAdd, apply_ite BitVec.toNat, ← BitVec.toNat_inj]

/-! ### One lane's atomic (R224, R240) -/

/-- `u` is `s` after an atomic of the thread at `k` at some bytes: the thread is `v`, the number `new` is written, and no other thread and
no other byte changed. -/
def AtomicLands (s u : State) (k : Nat) (v : Thread) (addrs : List Nat) (new : Nat) : Prop :=
  u.thread k = some v ∧ (∀ j, j ≠ k → u.thread j = s.thread j) ∧ u.mem = (s.writeNum addrs new).mem

/-- What `landAtomic` does with the thread that `atomicResult` gives. -/
theorem landAtomic_lands (ht : s.thread k = some t) (ho : t.out[i]? = some o) (hk : o.kind = .atomic op dst x e)
    (hold : old = word (s.numAt o.addrs))
    (hv : s.atomicResult k i (unBusy (landLoad t i) (dst :: (if op / 2 = 9 then [.p 1] else []))) o op o.addrs.length dst old e = (s, v)) :
    AtomicLands s (s.landAtomic k i) k v o.addrs (atomicNew op o.addrs.length old x e) := by
  subst hold
  have hland : s.landAtomic k i = ((s.putThread k v).countAccess k o).atomicFrom (keyCl k) op o.addrs
      (atomicNew op o.addrs.length (word (s.numAt o.addrs)) x e) x e := by
    simp only [State.landAtomic, ht, ho, hk, hv]
  have hthread : ∀ j, (s.landAtomic k i).thread j = (s.putThread k v).thread j := fun j =>
    congrArg (mget · j) (hland ▸ atomicFrom_threads ..)
  refine ⟨(hthread k).trans (by simp), fun j hj => (hthread j).trans (by simp [hj]), ?_⟩
  rw [hland, atomicFrom_mem]
  exact writeCells_mem_congr rfl _

theorem atomicResult_w {d : Reg} (hop : op / 2 ≠ 9) :
    s.atomicResult k i t o op n (.w d) old e = (s, setW t d (signExt (8 * n) old)) := by
  simp [State.atomicResult, setReg, hop]

theorem atomicResult_cas {d : Reg} (hop : op / 2 = 9) : s.atomicResult k i t o op n (.w d) old e =
    (s, setP (setW t d (signExt (8 * n) old)) 1 (old.toNat == e.toNat % 2 ^ (8 * n))) := by
  simp [State.atomicResult, setReg, hop]

theorem atomicResult_f {d : Reg} (hu : Unbound t) : s.atomicResult k i t o op n (.f d) old e = (s, setF t d old) := by
  have hnone : (setF t d old).out[t.out.length]? = none := List.getElem?_eq_none le_rfl
  simp only [State.atomicResult, State.writeReg, Laws.writeF_unbound _ _ _ hu, placeLast, hnone]

/-! ### An atomic performed with those of its instruction at its location (R225) -/

/-- An outstanding operation that is read and written at once may be performed now. -/
theorem atomicReady_eq_true (ht : s.thread k = some t) (ho : t.out[i]? = some o) (hr : readReady (t.out.take i) o = true)
    (hw : writeReady (t.out.take i) o = true) (hd : translationsDone s k i o.addrs = true) : atomicReady s k i = true := by
  simp [atomicReady, ht, ho, hr, hw, hd]

theorem exec_atomicPerformed (h : Performs s k i t o) (hk : o.kind = .atomic op dst x e) (hbad : badAmong s o.addrs = none)
    (hself : (k, i) ∈ atomicGroup s k o) (hall : ∀ g ∈ atomicGroup s k o, atomicReady s g.1 g.2 = true) :
    exec (.atomicPerformed k i) s = .next ((atomicGroup s k o).foldl (fun s g => s.landAtomic g.1 g.2) s) := by
  obtain ⟨ht, hdrain, ho, hheld⟩ := h
  have hwrites : outWrites o = true := by simp [outWrites, hk]
  rw [hwrites] at hheld
  have hop : ((s.drainThread k).bind fun t => t.out[i]?) = some o := by simp [State.drainThread, hdrain, ht, ho]
  have hready : (((atomicGroup s k o).contains (k, i)) && (atomicGroup s k o).all fun g => atomicReady s g.1 g.2) = true :=
    Bool.and_eq_true_iff.2 ⟨List.contains_iff_mem.2 hself, List.all_eq_true.2 hall⟩
  show execAtomicPerformed k i s = _
  simp only [execAtomicPerformed, hop, hready, if_true, hheld, hbad]

/-- A lone lane's atomic. -/
theorem atomicPerformed_alone (h : Performs s k i t o) (hk : o.kind = .atomic op dst x e) (hbad : badAmong s o.addrs = none)
    (hready : atomicReady s k i = true) (hgroup : atomicGroup s k o = [(k, i)]) :
    exec (.atomicPerformed k i) s = .next (s.landAtomic k i) := by
  rw [exec_atomicPerformed h hk hbad (by simp [hgroup]) (by simpa [hgroup] using hready), hgroup]
  rfl

/-- The atomics of two lanes, the lower first. -/
theorem atomicPerformed_both {j m : Nat} (h : Performs s k i t o) (hk : o.kind = .atomic op dst x e) (hbad : badAmong s o.addrs = none)
    (hready : atomicReady s k i = true) (hready' : atomicReady s j m = true) (hgroup : atomicGroup s k o = [(k, i), (j, m)]) :
    exec (.atomicPerformed k i) s = .next ((s.landAtomic k i).landAtomic j m) := by
  rw [exec_atomicPerformed h hk hbad (by simp [hgroup]) (by simp [hgroup, hready, hready']), hgroup]
  rfl

/-- What an atomic writes of its thread: w[d], w[d] and p1 of an `acas`, or f[d]. -/
theorem atomicResult_of_dst (h :
      (∃ d, dst = .w d ∧ op < 18 ∧ v = setW (unBusy (landLoad t i) [.w d]) d (signExt (8 * n) old)) ∨
      (∃ d, dst = .w d ∧ (op = 18 ∨ op = 19) ∧ v = setP (setW (unBusy (landLoad t i) [.w d, .p 1]) d (signExt (8 * n) old)) 1
        (old.toNat == e.toNat % 2 ^ (8 * n))) ∨
      (∃ d, dst = .f d ∧ (op = 20 ∨ op = 21) ∧ Unbound t ∧ v = setF (unBusy (landLoad t i) [.f d]) d old)) :
    s.atomicResult k i (unBusy (landLoad t i) (dst :: (if op / 2 = 9 then [.p 1] else []))) o op n dst old e = (s, v) := by
  rcases h with ⟨d, rfl, hop, rfl⟩ | ⟨d, rfl, hop, rfl⟩ | ⟨d, rfl, hop, hu, rfl⟩
  · have hne : op / 2 ≠ 9 := by omega
    rw [if_neg hne, atomicResult_w hne]
  · have heq : op / 2 = 9 := by omega
    rw [if_pos heq, atomicResult_cas heq]
  · have hne : op / 2 ≠ 9 := by omega
    rw [if_neg hne, atomicResult_f (t := unBusy (landLoad t i) [.f d]) hu]

/-- An integer atomic that is no `acas` lands with w[d] the old value, sign-extended. -/
theorem landAtomic_lands_w {d : Reg} (ht : s.thread k = some t) (ho : t.out[i]? = some o) (hk : o.kind = .atomic op (.w d) x e)
    (hop : op < 18) (hold : old = word (s.numAt o.addrs)) :
    AtomicLands s (s.landAtomic k i) k (setW (unBusy (landLoad t i) [.w d]) d (signExt (8 * o.addrs.length) old)) o.addrs
      (atomicNew op o.addrs.length old x e) :=
  landAtomic_lands ht ho hk hold (atomicResult_of_dst (.inl ⟨d, rfl, hop, rfl⟩))

/-- Settles O21: one lane's atomic lands at once, two lanes' land one after the other, and the new values are those of Table 3.13. -/
theorem atomicPerformedReadsAndWritesInOneStep : Obligations.AtomicPerformedReadsAndWritesInOneStep := by
  refine ⟨?_, fun old x e => ?_⟩
  · rintro s k i t o h hbad hr hw hd old landed rfl rfl
    obtain ⟨ht, -, ho, -⟩ := id h
    have hready := atomicReady_eq_true ht ho hr hw hd
    refine ⟨fun hgroup op dst x e hk v hv => ?_, ?_⟩
    · obtain ⟨hthread, hothers, hmem⟩ := landAtomic_lands ht ho hk rfl (atomicResult_of_dst hv)
      exact ⟨_, atomicPerformed_alone h hk hbad hready hgroup, hthread, hothers, hmem, fun a ha =>
        hmem ▸ memRead_writeNum_other s _ ha⟩
    · intro j m r q hgroup hj htj hoj hq hr' hw' hd' hn _ hplain op d x e b y e' hop hk hk' mid hmid
      obtain ⟨hthread, hothers, hmem⟩ := landAtomic_lands_w ht ho hk hop rfl
      have hold : mid = word ((s.landAtomic k i).numAt q.addrs) := by
        rw [hq, numAt_of_writeNum hn hplain hmem, hmid, show 256 = 2 ^ 8 from rfl, ← pow_mul, Nat.mod_eq_of_lt (atomicNew_lt hop)]
      obtain ⟨hthread', hothers', hmem'⟩ := landAtomic_lands_w ((hothers j hj).trans htj) hoj hk' hop hold
      rw [hq] at hthread' hmem'
      have hready' := atomicReady_eq_true htj hoj hr' hw' hd'
      refine ⟨_, atomicPerformed_both h hk hbad hready hready' hgroup, (hothers' k hj.symm).trans hthread, hthread',
        fun z hzk hzj => (hothers' z hzj).trans (hothers z hzk), fun z hz => ?_, fun a ha => ?_⟩
      · rw [hmem']
        exact memRead_writeNum hn (fun a ha => (hplain a ha).1) _ _ hz
      · rw [hmem', memRead_writeNum_other _ _ ha, hmem, memRead_writeNum_other _ _ ha]
  · obtain ⟨h1, h3, h5, h7, h9, h11, h13, h15, h17, h19⟩ := atomicNew_eight old x e
    exact ⟨h1, h3, h5, h7, h9, h11, h13, h15, h17, h19, atomicNew_narrow old x e⟩

end Sys2Proof.Safety
end

