-- ==== Sys2Proof/Proofs/ControlWords.lean ====
section
/-! Ordering and the memory model, second part: control words, bank switches, the fault buffer (R205, R207, R284, R419, R421, R422) and the
collectors of records (R414, R417). -/

namespace Sys2Proof.Safety

open Machine

variable {s u : State} {k i j cl w row : Nat} {t x : Thread} {o : OutOp} {v : Word} {e : FbfEntry} {y : Partition} {r : Record}

/-! ### A store to a control word is performed (R205) -/

theorem storeLeft_cluster (s : State) (k i : Nat) (t : Thread) (o : OutOp) (cl : Nat) :
    (storeLeft s k i t o).cluster cl = s.cluster cl := rfl

theorem storeLeft_thread (s : State) (k i : Nat) (t : Thread) (o : OutOp) : (storeLeft s k i t o).thread k = some (storeDone t i) :=
  (thread_storeLeft s k i t o k).trans (if_pos rfl)

theorem storeLeft_thread_other (s : State) (k i : Nat) (t : Thread) (o : OutOp) (h : j ≠ k) :
    (storeLeft s k i t o).thread j = s.thread j :=
  (thread_storeLeft s k i t o j).trans (if_neg h)

/-- The store leaves its thread, and the word's own effect follows. -/
theorem ctlStore_eq (h : CtlStore s k i t o cl w v) (f : State → Nat → Word → State) :
    ctlStore k i w f s = .next (f (storeLeft s k i t o) cl v) := by
  obtain ⟨ht, hdrain, ho, hready, hlanes, hkind, hctl, rfl⟩ := h
  simp [ctlStore, State.drainThread, hdrain, ht, ho, hready, hlanes, hkind, hctl, storeLeft]

/-! ### CSMCTL and TQWGT (R207, R284) -/

theorem putModes_switching {c : Cluster} {b : Nat} (hb : b < 16) (hne : bankMode c b ≠ bitsOf (2 * b) 2 v) :
    (b, bankMode c b) ∈ (putModes c v).switching :=
  List.mem_append_right _ <| List.mem_map_of_mem (f := fun b => (b, bankMode c b)) <|
    List.mem_filter.2 ⟨List.mem_range.2 hb, decide_eq_true hne.symm⟩

theorem exec_csmctlWrite (h : CtlStore s k i t o cl 0 v) (hcal : ∀ b, b < 16 → isCalendar s cl b = false) :
    exec (.csmctlWrite k i) s = .next ((storeLeft s k i t o).modCluster cl fun c => putModes c v) := by
  have hnone : ((List.range 16).any fun b => isCalendar (storeLeft s k i t o) cl b &&
      bitsOf (2 * b) 2 v != bankMode ((storeLeft s k i t o).cluster cl) b) = false :=
    List.any_eq_false.2 fun b hb => by
      rw [show isCalendar (storeLeft s k i t o) cl b = isCalendar s cl b from rfl, hcal b (List.mem_range.1 hb)]
      exact Bool.false_ne_true
  show execCsmctlWrite k i s = _
  rw [execCsmctlWrite, ctlStore_eq h, hnone, if_neg Bool.false_ne_true]

/-- A store to CSMCTL sets the modes and starts the switch of every bank that changes. -/
theorem csmctlWrite_effect (h : CtlStore s k i t o cl 0 v) (hcal : ∀ b, b < 16 → isCalendar s cl b = false) :
    ∃ u, exec (.csmctlWrite k i) s = .next u ∧ u.thread k = some (storeDone t i) ∧ (u.cluster cl).csmctl = v &&& 0xFFFFFFFF ∧
      u.mem = s.mem ∧ (∀ j, j ≠ k → u.thread j = s.thread j) ∧
      ∀ b, b < 16 → bankMode (s.cluster cl) b ≠ bitsOf (2 * b) 2 v → (b, bankMode (s.cluster cl) b) ∈ (u.cluster cl).switching := by
  have hcluster : ((storeLeft s k i t o).modCluster cl fun c => putModes c v).cluster cl = putModes (s.cluster cl) v :=
    (cluster_modCluster ..).trans (if_pos rfl)
  refine ⟨_, exec_csmctlWrite h hcal, storeLeft_thread s k i t o, ?_, rfl,
    fun j hj => storeLeft_thread_other s k i t o hj, fun b hb hne => ?_⟩
  · rw [hcluster]
    rfl
  · rw [hcluster]
    exact putModes_switching hb hne

/-! ### The end of a bank's switch (R207) -/

/-- The state with the bytes at some keys holding the free values numbered `n`. -/
def bytesUndefined (s : State) (n : Nat) (keys : List Nat) : State :=
  { s with mem := memWriteAll s.mem (keys.map fun a => (a, Config.freeByte n a)) }

theorem bytesUndefined_threads (s : State) (n : Nat) (keys : List Nat) : (bytesUndefined s n keys).threads = s.threads := rfl
theorem bytesUndefined_cluster (s : State) (n : Nat) (keys : List Nat) (j : Nat) : (bytesUndefined s n keys).cluster j = s.cluster j := rfl

theorem memRead_bytesUndefined (s : State) (n : Nat) {keys : List Nat} {a : Nat} (ha : a ∉ keys) :
    memRead (bytesUndefined s n keys).mem a = memRead s.mem a := by
  refine memRead_memWriteAll_other _ _ a fun c hc => ?_
  obtain ⟨b, hb, rfl⟩ := List.mem_map.1 hc
  exact fun he => ha (he ▸ hb)

theorem bounds_of_mem_span {a n b : Nat} (h : b ∈ span a n) : a ≤ b ∧ b < a + n := by
  obtain ⟨i, hi, rfl⟩ := List.mem_map.1 h
  have hi := List.mem_range.1 hi
  omega

/-- The keys of a CSM bank. -/
def bankKeys (cl bank : Nat) : List Nat := span (scratchAddr cl (bank * 0x20000)) 0x20000

/-- The cluster with a switch of a bank ended: every line present, its queues empty. -/
def switchEnded (bank : Nat) (e : Nat × Nat) (c : Cluster) : Cluster :=
  { c with
    switching := c.switching.erase e
    presence := c.presence.filter fun p => p.1 / 2048 != bank
    fifos := c.fifos.filter fun f => f.1 / 16 != bank }

/-- What a bank's old mode has it give up before it ends: entries of a FIFO, written lines of a cache. -/
def modeLeft (s : State) (cl bank old : Nat) : State :=
  if old = 2 then s.dropFifos cl bank else if old = 0 then s.dropCached cl bank else s

/-- With no push and no pop waiting at the bank, giving up its entries wakes no thread. -/
theorem dropFifos_idle {bank : Nat} (h : ∀ q ∈ (s.cluster cl).fifos, q.1 / 16 = bank → q.2.pushes = [] ∧ q.2.pops = []) :
    s.dropFifos cl bank = s.modCluster cl fun c => { c with fifos := c.fifos.filter fun e => e.1 / 16 != bank } := by
  have hgone : (((s.cluster cl).fifos.filter fun e => e.1 / 16 == bank).flatMap fun e =>
      e.2.pushes.map (·.1) ++ e.2.pops.map (·.1)) = [] :=
    List.flatMap_eq_nil_iff.2 fun q hq => by
      obtain ⟨hmem, hbank⟩ := List.mem_filter.1 hq
      obtain ⟨hpush, hpop⟩ := h q hmem (beq_iff_eq.1 hbank)
      rw [hpush, hpop]
      rfl
  simp only [State.dropFifos, hgone, List.foldl_nil]

/-- Leaving a mode at an idle bank changes no thread, no byte and no switch. -/
theorem modeLeft_keeps {bank old : Nat}
    (h : old = 2 → ∀ q ∈ (s.cluster cl).fifos, q.1 / 16 = bank → q.2.pushes = [] ∧ q.2.pops = []) :
    (modeLeft s cl bank old).threads = s.threads ∧ (modeLeft s cl bank old).mem = s.mem ∧
      ((modeLeft s cl bank old).cluster cl).switching = (s.cluster cl).switching := by
  unfold modeLeft
  split
  next hold =>
    rw [dropFifos_idle (h hold), cluster_modCluster, if_pos rfl]
    exact ⟨rfl, rfl, rfl⟩
  next => split <;> exact ⟨rfl, rfl, rfl⟩

/-- The state at the end of a bank's switch from mode `old`. -/
def bankSwitched (s : State) (cl bank old : Nat) : State :=
  (bytesUndefined (modeLeft s cl bank old) s.free (bankKeys cl bank)).modCluster cl (switchEnded bank (bank, old))

theorem exec_csmBankSwitchComplete {bank old : Nat} (hs : (s.cluster cl).switching = [(bank, old)]) (hf : clusterFinishes s cl = true)
    (hu : bankInUse s cl bank = false) : exec (.csmBankSwitchComplete cl bank) s = .next (bankSwitched s cl bank old) := by
  have hfind : ((s.cluster cl).switching.find? fun e => e.1 == bank) = some (bank, old) := by simp [hs]
  show execCsmBankSwitchComplete cl bank s = _
  simp only [execCsmBankSwitchComplete, hfind, hf, hu, Bool.not_true, Bool.or_self, Bool.false_eq_true, if_false]
  rfl

/-- At the end of its switch a bank has no absent line and no queue, and no byte outside it has changed. -/
theorem csmBankSwitchComplete_effect {bank old : Nat} (hs : (s.cluster cl).switching = [(bank, old)]) (hf : clusterFinishes s cl = true)
    (hu : bankInUse s cl bank = false)
    (hq : old = 2 → ∀ q ∈ (s.cluster cl).fifos, q.1 / 16 = bank → q.2.pushes = [] ∧ q.2.pops = []) :
    ∃ u, exec (.csmBankSwitchComplete cl bank) s = .next u ∧ (u.cluster cl).switching = [] ∧ u.threads = s.threads ∧
      (∀ q ∈ (u.cluster cl).presence, q.1 / 2048 ≠ bank) ∧ (∀ q ∈ (u.cluster cl).fifos, q.1 / 16 ≠ bank) ∧
      ∀ a, ¬ (scratchAddr cl (bank * 0x20000) ≤ a ∧ a < scratchAddr cl (bank * 0x20000) + 0x20000) → memRead u.mem a = memRead s.mem a := by
  obtain ⟨hthreads, hmem, hswitch⟩ := modeLeft_keeps hq
  have hcluster : (bankSwitched s cl bank old).cluster cl = switchEnded bank (bank, old) ((modeLeft s cl bank old).cluster cl) := by
    rw [bankSwitched, cluster_modCluster, if_pos rfl, bytesUndefined_cluster]
  refine ⟨_, exec_csmBankSwitchComplete hs hf hu, ?_, ?_, ?_, ?_, fun a ha => ?_⟩
  · rw [hcluster, switchEnded, hswitch, hs, List.erase_cons_head]
  · rw [bankSwitched, State.modCluster, putCluster_threads, bytesUndefined_threads, hthreads]
  · rw [hcluster]
    exact fun q hq => bne_iff_ne.1 (List.mem_filter.1 hq).2
  · rw [hcluster]
    exact fun q hq => bne_iff_ne.1 (List.mem_filter.1 hq).2
  · have hout : a ∉ bankKeys cl bank := fun h => ha (bounds_of_mem_span h)
    rw [bankSwitched, State.modCluster, putCluster_mem, memRead_bytesUndefined _ _ hout, hmem]

/-! ### Entries of the fault buffer (R419, R421, R422) -/

theorem unhold_thread (hk : e.key = some j) (he : e.engine = none) (ht : s.thread j = some x) (cl : Nat) :
    s.unhold cl e = s.putThread j { x with park := none } := by
  simp only [State.unhold, hk, he, ht]

/-- An entry of a thread's access that meets no fault any more leaves, and its thread executes the access again. -/
theorem retryEntry_thread (hr : refault s cl e = none) (hk : e.key = some j) (he : e.engine = none) (ht : s.thread j = some x) :
    s.retryEntry cl e = (s.modCluster cl fun c => { c with fbf := c.fbf.erase e }).putThread j { x with park := none } := by
  simp only [State.retryEntry, hr]
  exact unhold_thread (s := s.modCluster cl _) hk he ht cl

/-- An entry of a thread's access that is ended leaves, and its thread takes the protection fault (R421). -/
theorem abortEntry_thread {p : Nat} (hk : e.key = some j) (he : e.engine = none) (ht : s.thread j = some x) (hv : Vectored s j x p y) :
    s.abortEntry cl e = (s.modCluster cl fun c => { c with fbf := c.fbf.erase e }).putThread j
      (trapThread x y.svcbase x.pc (xsSaved x.xstat none) 4 0 false e.va 0) := by
  have ht' : (s.modCluster cl fun c => { c with fbf := c.fbf.erase e }).thread j = some x := ht
  simp only [State.abortEntry, he, hk, ht']
  exact takeTrap_vectored (s := s.modCluster cl _) hv ..

theorem fbfNamed_lone {c : Cluster} (hc : c.fbf = [e]) (ha : e.asid.toNat = bitsOf 0 16 v) (hp : e.vpn = bitsOf 16 40 v) :
    fbfNamed c v = [e] := by
  simp [fbfNamed, hc, ha, hp]

/-- FBFCMD with ABORT = 0 retries the one entry it names. -/
theorem exec_fbfcmdRetry (h : CtlStore s k i t o cl 2 v) (hn : fbfNamed (s.cluster cl) v = [e]) (hb : natBit 56 v.toNat = false) :
    exec (.fbfcmdRetry k i) s = .next ((storeLeft s k i t o).retryEntry cl e) := by
  show execFbfcmdRetry k i s = _
  rw [execFbfcmdRetry, ctlStore_eq h, storeLeft_cluster, hn, hb]
  rfl

/-- FBFCMD with ABORT = 1 ends it. -/
theorem exec_fbfcmdAbort (h : CtlStore s k i t o cl 2 v) (hn : fbfNamed (s.cluster cl) v = [e]) (hb : natBit 56 v.toNat = true) :
    exec (.fbfcmdAbort k i) s = .next ((storeLeft s k i t o).abortEntry cl e) := by
  show execFbfcmdAbort k i s = _
  rw [execFbfcmdAbort, ctlStore_eq h, storeLeft_cluster, hn, hb]
  rfl

/-- `u` is `s` with the thread at `k` standing as `t`, that at `j` as `z`, and the cluster's fault buffer empty; no
byte and no other thread changed. -/
def EntryEnded (s u : State) (cl k : Nat) (t : Thread) (j : Nat) (z : Thread) : Prop :=
  (u.cluster cl).fbf = [] ∧ u.thread j = some z ∧ u.thread k = some t ∧ u.mem = s.mem ∧ ∀ l, l ≠ j → l ≠ k → u.thread l = s.thread l

theorem entryEnded_of_store (hf : (s.cluster cl).fbf = [e]) (hj : j ≠ k) (z : Thread) :
    EntryEnded s (((storeLeft s k i t o).modCluster cl fun c => { c with fbf := c.fbf.erase e }).putThread j z) cl k (storeDone t i) j
      z := by
  refine ⟨?_, by simp, ?_, rfl, fun l hl hlk => ?_⟩
  · rw [cluster_putThread, cluster_modCluster, if_pos rfl, storeLeft_cluster]
    dsimp only
    rw [hf, List.erase_cons_head]
  · rw [thread_putThread, if_neg hj.symm]
    exact storeLeft_thread s k i t o
  · rw [thread_putThread, if_neg hl]
    exact storeLeft_thread_other s k i t o hlk

theorem fbfcmdRetry_effect (h : CtlStore s k i t o cl 2 v) (hf : (s.cluster cl).fbf = [e]) (hn : fbfNamed (s.cluster cl) v = [e])
    (hk : e.key = some j) (he : e.engine = none) (hj : j ≠ k) (hx : s.thread j = some x) (hb : natBit 56 v.toNat = false)
    (hr : refault (storeLeft s k i t o) cl e = none) :
    ∃ u, exec (.fbfcmdRetry k i) s = .next u ∧ EntryEnded s u cl k (storeDone t i) j { x with park := none } := by
  refine ⟨_, exec_fbfcmdRetry h hn hb, ?_⟩
  rw [retryEntry_thread hr hk he ((storeLeft_thread_other s k i t o hj).trans hx)]
  exact entryEnded_of_store hf hj _

theorem fbfcmdAbort_effect {p : Nat} (h : CtlStore s k i t o cl 2 v) (hf : (s.cluster cl).fbf = [e])
    (hn : fbfNamed (s.cluster cl) v = [e]) (hk : e.key = some j) (he : e.engine = none) (hj : j ≠ k) (hx : s.thread j = some x)
    (hb : natBit 56 v.toNat = true) (hv : Vectored s j x p y) :
    ∃ u, exec (.fbfcmdAbort k i) s = .next u ∧
      EntryEnded s u cl k (storeDone t i) j (trapThread x y.svcbase x.pc (xsSaved x.xstat none) 4 0 false e.va 0) := by
  refine ⟨_, exec_fbfcmdAbort h hn hb, ?_⟩
  rw [abortEntry_thread hk he ((storeLeft_thread_other s k i t o hj).trans hx) hv]
  exact entryEnded_of_store hf hj _

/-- An entry freed lets the oldest access that waits for one go on, when it meets no fault any more (R422). -/
theorem exec_fbfEntryFreed {rest : List FbfEntry} (hr : clusterRuns s cl = true) (hw : (s.cluster cl).fbfWait = e :: rest)
    (hroom : (s.cluster cl).fbf.length < 256) (hf : refault s cl e = none) (hk : e.key = some j) (he : e.engine = none)
    (hx : s.thread j = some x) : exec (.fbfEntryFreed cl) s =
      .next ((s.putCluster cl { s.cluster cl with fbfWait := rest }).putThread j { x with park := none }) := by
  have hx' : (s.putCluster cl { s.cluster cl with fbfWait := rest }).thread j = some x := hx
  show execFbfEntryFreed cl s = _
  simp [execFbfEntryFreed, hw, hr, hf, hroom.not_ge, unhold_thread hk he hx']

/-! ### The collectors of records (R414, R417) -/

@[simp] theorem farRequest_flights (s : State) (p kind : Nat) (keys : List Nat) (data : List Byte) :
    (s.farRequest p kind keys data).flights = s.flights :=
  farRequest_field (·.flights) (postMessage_field (·.flights) fun _ _ _ _ => rfl) ..
@[simp] theorem farRequest_collectors (s : State) (p kind : Nat) (keys : List Nat) (data : List Byte) :
    (s.farRequest p kind keys data).collectors = s.collectors :=
  farRequest_field (·.collectors) (postMessage_field (·.collectors) fun _ _ _ _ => rfl) ..

/-- The state in which a collector has taken an index of the ring at RESV, by an atomic of its own (R417). -/
def indexTaken (s : State) (cl row : Nat) (base cfg : Word) (resv : List Nat) : State :=
  { (s.atomicFrom cl 1 resv (s.numAt resv + 1) 1 0).agentWalks cl (cfg.setWidth 16) true .write [(ringBase base + 0x40, 8)] with
    reserved := mset s.reserved row (s.numAt resv) }

theorem indexTaken_field {α : Type} (g : State → α) (hwrite : ∀ s cells, g (State.writeCells s cells) = g s)
    (hsend : ∀ s p runs a, g (State.sendFar s p runs a) = g s)
    (hfar : ∀ s part kind keys data, g (State.farRequest s part kind keys data) = g s)
    (hres : ∀ (s : State) m, g { s with reserved := m } = g s) (s : State) (cl row : Nat) (base cfg : Word) (resv : List Nat) :
    g (indexTaken s cl row base cfg resv) = g s :=
  (hres ..).trans <| (agentWalks_field g hfar ..).trans <| (hfar ..).trans <| (hsend ..).trans (hwrite ..)

@[simp] theorem indexTaken_threads (base cfg : Word) (resv : List Nat) : (indexTaken s cl row base cfg resv).threads = s.threads :=
  indexTaken_field (·.threads) (fun _ _ => rfl) (fun _ _ _ _ => rfl) farRequest_threads (fun _ _ => rfl) ..
@[simp] theorem indexTaken_flights (base cfg : Word) (resv : List Nat) : (indexTaken s cl row base cfg resv).flights = s.flights :=
  indexTaken_field (·.flights) (fun _ _ => rfl) (fun _ _ _ _ => rfl) farRequest_flights (fun _ _ => rfl) ..
@[simp] theorem indexTaken_collectors (base cfg : Word) (resv : List Nat) :
    (indexTaken s cl row base cfg resv).collectors = s.collectors :=
  indexTaken_field (·.collectors) (fun _ _ => rfl) (fun _ _ _ _ => rfl) farRequest_collectors (fun _ _ => rfl) ..

/-- While its EN is 0 a record waits (R414). -/
theorem exec_recordDelivery_disabled {rest : List Record} (hc : mget s.collectors row = some (r :: rest)) (hy : s.part r.part = some y)
    (hen : natBit 16 (recordRoute y r).2.toNat = false) : exec (.recordDelivery row) s = .next s := by
  show execRecordDelivery row s = _
  simp [execRecordDelivery, hc, hy, fhEnabled, hen]

/-- With no index reserved the collector takes one, and goes on to the entry. -/
theorem exec_recordDelivery_enabled {rest : List Record} {base cfg : Word} {resv : List Nat} (hc : mget s.collectors row = some (r :: rest))
    (hy : s.part r.part = some y) (hroute : recordRoute y r = (base, cfg)) (hen : natBit 16 cfg.toNat = true)
    (hnone : mget s.reserved row = none)
    (hresv : s.agentAtomic (rowCluster y row) (8, row) (cfg.setWidth 16) true (ringBase base + 0x40) 8 = .ok resv) :
    exec (.recordDelivery row) s = .next ((indexTaken s (rowCluster y row) row base cfg resv).writeRecord (rowCluster y row) row y r
      (s.numAt resv)) := by
  show execRecordDelivery row s = _
  simp only [execRecordDelivery, hc, hy, hroute, fhEnabled, hen, hnone, hresv, Option.getD_some, Bool.not_true,
    Bool.false_eq_true, if_false]
  rfl

theorem writeRecord_busy {base cfg : Word} {n : Nat} (hroute : recordRoute y r = (base, cfg))
    (hfree : ringFree s y (cfg.setWidth 16) (ringBase base) n = false) : s.writeRecord cl row y r n = s := by
  simp [State.writeRecord, hroute, hfree]

/-- The address of entry `n` of the fault ring whose descriptor lies at some keys. -/
def faultEntry (s : State) (desc : List Nat) (n : Nat) : Word :=
  word (s.numAt (desc.take 8)) + word (n % 2 ^ (s.numAt ((desc.drop 8).take 8) % 32) * 32)

/-- The state in which a collector has read the ring's descriptor and written its first record's entry. -/
def entryWritten (s : State) (cl : Nat) (base cfg : Word) (desc addrs : List Nat) (n : Nat) (r : Record) : State :=
  (((s.agentReads cl desc).agentWalks cl (cfg.setWidth 16) true .read [(ringBase base, 24)]).writeFrom cl
    (addrs.zip (wordsBytes (recordWords r)))).agentWalks cl (cfg.setWidth 16) true .write [(faultEntry s desc n, 32)]

theorem entryWritten_field {α : Type} (g : State → α) (hwrite : ∀ s cells, g (State.writeCells s cells) = g s)
    (hsend : ∀ s p runs a, g (State.sendFar s p runs a) = g s)
    (hfar : ∀ s part kind keys data, g (State.farRequest s part kind keys data) = g s) (base cfg : Word) (desc addrs : List Nat)
    (n : Nat) : g (entryWritten s cl base cfg desc addrs n r) = g s :=
  (agentWalks_field g hfar ..).trans <| (hfar ..).trans <| (hsend ..).trans <| (hwrite ..).trans <|
    (agentWalks_field g hfar ..).trans (hfar ..)

theorem entryWritten_mem (base cfg : Word) (desc addrs : List Nat) (n : Nat) :
    (entryWritten s cl base cfg desc addrs n r).mem = (s.writeCells (addrs.zip (wordsBytes [r.w0, r.w1, r.w2, r.w3]))).mem :=
  (agentWalks_field (·.mem) farRequest_mem ..).trans <| (writeFrom_mem ..).trans <|
    writeCells_mem_congr ((agentWalks_field (·.mem) farRequest_mem ..).trans (farRequest_mem ..)) _

/-- A collector's first record has left it, and its index is free. -/
def recordGone (s : State) (row : Nat) : State :=
  { s with collectors := mset s.collectors row (((mget s.collectors row).getD []).drop 1), reserved := mdel s.reserved row }

/-- With its entry free a record is written there and leaves its collector; the wake of FHCFG follows. -/
theorem writeRecord_free {base cfg : Word} {n : Nat} {desc addrs : List Nat} (hroute : recordRoute y r = (base, cfg))
    (hfree : ringFree s y (cfg.setWidth 16) (ringBase base) n = true)
    (hdesc : s.agent cl (8, row) (cfg.setWidth 16) true .read (ringBase base) 24 = .ok desc)
    (haddrs : s.agent cl (8, row) (cfg.setWidth 16) true .write (faultEntry s desc n) 32 = .ok addrs) :
    s.writeRecord cl row y r n = (recordGone (entryWritten s cl base cfg desc addrs n r) row).recordWake y cfg := by
  unfold faultEntry at haddrs
  simp only [State.writeRecord, hroute, hfree, hdesc, haddrs, Bool.not_true, Bool.false_eq_true, if_false]
  rfl

theorem recordWake_silent {cfg : Word} (h : natBit 17 cfg.toNat = true) : s.recordWake y cfg = s := by
  simp [State.recordWake, h]

theorem recordWake_sends {cfg : Word} {dst : Nat} (h : natBit 17 cfg.toNat = false) (hn : nameKey (word (bitsOf 19 22 cfg)) = some dst)
    (hy : y.halfDies.getLsbD (halfDieOf (keyCl dst)) = true) : s.recordWake y cfg = s.send 0 (.wake none dst) := by
  simp [State.recordWake, h, hn, hy]

/-- A wake, if any, changes the channels and the packet counts alone. -/
theorem recordWake_field {α : Type} (g : State → α) (h : ∀ s core f, g (State.send s core f) = g s) (s : State) (y : Partition)
    (cfg : Word) : g (s.recordWake y cfg) = g s := by
  unfold State.recordWake
  split
  · split
    · exact h ..
    · rfl
  · rfl

/-- Settles O48: each event of a control word, of the fault buffer and of a collector does what its lemma above says. -/
theorem controlWordFaultAndRecordEventsComplete : Obligations.ControlWordFaultAndRecordEventsComplete := by
  refine ⟨⟨?_, ?_, ?_, ?_⟩, ?_⟩
  · rintro s k i t o cl w v _ h rfl
    refine ⟨?_, ?_, fun e j x hw hf ha hp hk he hj hx => ?_⟩
    · rintro rfl hcal
      exact csmctlWrite_effect h hcal
    · rintro rfl
      exact ctlStore_eq h fun s cl v => s.modCluster cl fun c => { c with tqwgt := v }
    · subst hw
      have hn : fbfNamed (s.cluster cl) v = [e] := fbfNamed_lone hf ha hp
      refine ⟨fun hb hr => fbfcmdRetry_effect h hf hn hk he hj hx hb hr, fun p y hb hv => ?_⟩
      obtain ⟨u, hu, hfbf, hthread, hrest⟩ := fbfcmdAbort_effect h hf hn hk he hj hx hb hv
      exact ⟨u, _, hu, hfbf, hthread, rfl, rfl, rfl, show bitsOf 0 6 (tcauseWord 4 0 false) = 4 by decide, hrest⟩
  · exact fun s cl bank old _ hs hf hu hq => csmBankSwitchComplete_effect hs hf hu hq
  · intro s cl i e j x hrun hi hp hr hk he hx
    rw [← retryEntry_thread hr hk he hx]
    show execFbfRetryOnInvalidation cl i s = _
    simp [execFbfRetryOnInvalidation, hi, hp, hrun]
  · intro s cl e rest j x hrun hw hroom hr hk he hx
    refine ⟨_, exec_fbfEntryFreed hrun hw hroom hr hk he hx, ?_, by simp, rfl, fun l hl => by simp [hl]⟩
    rw [cluster_putThread, cluster_putCluster, if_pos rfl]
  · rintro s row r rest x _ base cfg hc hx rfl hroute
    refine ⟨fun hen => exec_recordDelivery_disabled hc hx (by rwa [hroute]), ?_⟩
    rintro resv _ _ hen hnone hresv rfl rfl
    have hexec := exec_recordDelivery_enabled hc hx hroute hen hnone hresv
    refine ⟨fun hfree => hexec.trans (congrArg _ (writeRecord_busy hroute hfree)), fun desc addrs hfree hdesc haddrs => ?_⟩
    have hwritten := hexec.trans (congrArg _ (writeRecord_free hroute hfree hdesc haddrs))
    have hflights : (entryWritten (indexTaken s (rowCluster x row) row base cfg resv) (rowCluster x row) base cfg desc addrs
        (s.numAt resv) r).flights = s.flights :=
      (entryWritten_field (·.flights) (fun _ _ => rfl) (fun _ _ _ _ => rfl) farRequest_flights ..).trans (indexTaken_flights ..)
    refine ⟨_, hwritten, ?_, ?_, ?_, ?_, fun hquiet => ?_, fun dst hwake hdst hown => ?_⟩
    · exact (recordWake_field (·.mem) (fun _ _ _ => rfl) ..).trans (entryWritten_mem ..)
    · rw [recordWake_field (·.collectors) (fun _ _ _ => rfl), recordGone,
        entryWritten_field (·.collectors) (fun _ _ => rfl) (fun _ _ _ _ => rfl) farRequest_collectors, indexTaken_collectors, mget_mset,
        if_pos rfl, hc]
      rfl
    · rw [recordWake_field (·.reserved) (fun _ _ _ => rfl), recordGone, mget_mdel, if_pos rfl]
    · exact (recordWake_field (·.threads) (fun _ _ _ => rfl) ..).trans <|
        (entryWritten_field (·.threads) (fun _ _ => rfl) (fun _ _ _ _ => rfl) farRequest_threads ..).trans (indexTaken_threads ..)
    · rw [recordWake_silent hquiet]
      exact hflights
    · rw [recordWake_sends hwake hdst hown, send_flights]
      exact congrArg (· ++ _) hflights

end Sys2Proof.Safety
end

