-- ==== Sys2Proof/Proofs/OffCore.lean ====
section
/-! Ordering and the memory model, third part: gangs off-core (R434, R436, R470), racking (R212) and errors (R437, R438). -/

namespace Sys2Proof.Safety

open Machine

variable {s u : State} {k cl core slot l : Nat} {t t' : Thread} {a b : Word} {c : HostCall} {i : Nat}

/-! ### The lanes of a gang slot -/

theorem mset_mset {α : Type} (m : Map α) (k : Nat) (v w : α) : mset (mset m k v) k w = mset m k w := by
  induction m with
  | nil => simp [mset]
  | cons e m ih =>
    obtain ⟨j, x⟩ := e
    simp only [mset]
    split
    · simp [mset]
    · split
      · simp [mset]
      · simp [mset, *]

theorem putThread_putThread (s : State) (k : Nat) (t t' : Thread) : (s.putThread k t).putThread k t' = s.putThread k t' :=
  congrArg (fun m => { s with threads := m }) (mset_mset s.threads k t t')

theorem slotLanes_congr (h : u.clusters = s.clusters) : slotLanes u cl core slot = slotLanes s cl core slot := by
  unfold slotLanes State.core
  rw [cluster_of_clusters h]

/-- Where one lane's thread is replaced, the lanes of a slot are the same but for that one. -/
theorem gangLanes_putThread (ht : s.thread k = some t) (t' : Thread) : gangLanes (s.putThread k t') cl core slot =
    (gangLanes s cl core slot).map fun x => if keyOf cl core (thrOf core slot x.1) = k then (x.1, t') else x := by
  unfold gangLanes
  rw [slotLanes_congr (s := s) rfl, List.map_filterMap]
  refine List.filterMap_congr fun l _ => ?_
  rw [thread_putThread]
  split
  next h => simp [h, ht]
  next h => cases s.thread (keyOf cl core (thrOf core slot l)) <;> simp [h]

theorem gangLanes_congr (hc : u.clusters = s.clusters) (ht : u.threads = s.threads) :
    gangLanes u cl core slot = gangLanes s cl core slot := by
  unfold gangLanes State.thread
  rw [slotLanes_congr hc, ht]

/-! ### A host's reply is read (R436) -/

theorem waitsOnHost_iff : waitsOnHost t = true ↔ t.park.map (·.why) = some .host := beq_iff_eq

theorem waitsOnHost_eq_false {w : ParkWhy} {n : Nat} (h : t.park = some { why := w, since := n }) (hw : w ≠ .host) :
    waitsOnHost t = false := by
  simp [waitsOnHost, h, hw]

/-- A field that no message changes is as it was after the reads of a reply. -/
theorem replyAsked_field {α : Type} (g : State → α) (h : ∀ s part kind keys data, g (State.farRequest s part kind keys data) = g s)
    (s : State) (cl : Nat) (c : HostCall) (i : Nat) : g (s.replyAsked cl c i) = g s := by
  unfold State.replyAsked
  split
  · split
    · exact (h ..).trans <| (agentWalks_field g h ..).trans (h ..)
    · exact (agentWalks_field g h ..).trans (h ..)
  · rfl

@[simp] theorem replyAsked_threads : (s.replyAsked cl c i).threads = s.threads := replyAsked_field (·.threads) farRequest_threads ..
@[simp] theorem replyAsked_clusters : (s.replyAsked cl c i).clusters = s.clusters := replyAsked_field (·.clusters) farRequest_clusters ..

/-- The state with the reply of the lane at `k` read into it. -/
def replyTaken (s : State) (k : Nat) (c : HostCall) (i : Nat) (a b : Word) (t : Thread) : State :=
  (s.replyAsked (keyCl k) c i).putThread k (repliedLane s.cyc a b t)

theorem gangLanes_replyTaken (ht : s.thread k = some t) : gangLanes (replyTaken s k c i a b t) cl core slot =
    (gangLanes s cl core slot).map fun x => if keyOf cl core (thrOf core slot x.1) = k then (x.1, repliedLane s.cyc a b t) else x := by
  have ht' : (s.replyAsked (keyCl k) c i).thread k = some t := (congrArg (mget · k) replyAsked_threads).trans ht
  rw [replyTaken, gangLanes_putThread ht', gangLanes_congr replyAsked_clusters replyAsked_threads]

theorem exec_hostReplyRead {since : Nat} (ht : s.thread k = some t) (hp : t.park = some { why := .host, since := since })
    (hc : t.call = some c) (hi : c.index = some i) (hrun : clusterRuns s (keyCl k) = true)
    (hstay : gangLeaves s (keyCl k) (keyCore k) (slotOf (keyCore k) (keyThr k)) = false) (hr : readReply s (keyCl k) c i = .ok (a, b)) :
    exec (.hostReplyRead k) s = .next ((replyTaken s k c i a b t).resumeReplied (keyCl k) (keyCore k) (slotOf (keyCore k) (keyThr k))) := by
  have hwait : hostWait t = some (c, i) := by simp [hostWait, waitsOnHost, hp, hc, hi]
  have hlane : ((s.thread k).bind fun t => (hostWait t).map fun c => (t, c)) = some (t, c, i) := by simp [ht, hwait]
  show execHostReplyRead k s = _
  simp only [execHostReplyRead, hrun, hlane, hstay, hr, Bool.not_true, Bool.false_eq_true, if_false]
  rfl

/-- While a lane of the slot still has a request, no lane retires. -/
theorem resumeReplied_waits {x : Nat × Thread} (hx : x ∈ gangLanes s cl core slot) (hcall : x.2.call.isSome = true) :
    s.resumeReplied cl core slot = s :=
  if_pos (List.any_eq_true.2 ⟨x, hx, hcall⟩)

/-- A lone lane whose reply has been read retires its `svc`. -/
theorem resumeReplied_lone {since : Nat} (hlanes : gangLanes s cl core slot = [(l, t)]) (hc : t.call = none)
    (hp : t.park = some { why := .replied, since := since }) (hss : xsSS t.xstat = false) :
    s.resumeReplied cl core slot = s.putThread (keyOf cl core (thrOf core slot l)) (retired t t.pc) := by
  simp [State.resumeReplied, hlanes, hc, hp, State.finishAt, hss]

/-- The reply of a lane is read into it, and it waits for the others' (R436). -/
theorem hostReplyRead_waits {since : Nat} (ht : s.thread k = some t) (hp : t.park = some { why := .host, since := since })
    (hc : t.call = some c) (hi : c.index = some i) (hrun : clusterRuns s (keyCl k) = true)
    (hstay : gangLeaves s (keyCl k) (keyCore k) (slotOf (keyCore k) (keyThr k)) = false) (hr : readReply s (keyCl k) c i = .ok (a, b))
    (hother : ∃ x ∈ gangLanes s (keyCl k) (keyCore k) (slotOf (keyCore k) (keyThr k)),
      keyOf (keyCl k) (keyCore k) (thrOf (keyCore k) (slotOf (keyCore k) (keyThr k)) x.1) ≠ k ∧ x.2.call.isSome = true) :
    exec (.hostReplyRead k) s = .next (replyTaken s k c i a b t) := by
  obtain ⟨x, hx, hne, hcall⟩ := hother
  have hx' : x ∈ gangLanes (replyTaken s k c i a b t) (keyCl k) (keyCore k) (slotOf (keyCore k) (keyThr k)) := by
    rw [gangLanes_replyTaken ht]
    exact List.mem_map.2 ⟨x, hx, if_neg hne⟩
  rw [exec_hostReplyRead ht hp hc hi hrun hstay hr, resumeReplied_waits hx' hcall]

/-- The reply of the one lane of a gang is read, and its `svc` retires (R436). -/
theorem hostReplyRead_retires {since : Nat} (ht : s.thread k = some t) (hp : t.park = some { why := .host, since := since })
    (hc : t.call = some c) (hi : c.index = some i) (hrun : clusterRuns s (keyCl k) = true)
    (hstay : gangLeaves s (keyCl k) (keyCore k) (slotOf (keyCore k) (keyThr k)) = false) (hr : readReply s (keyCl k) c i = .ok (a, b))
    (hlanes : gangLanes s (keyCl k) (keyCore k) (slotOf (keyCore k) (keyThr k)) = [(l, t)])
    (hk : k = keyOf (keyCl k) (keyCore k) (thrOf (keyCore k) (slotOf (keyCore k) (keyThr k)) l)) (hss : xsSS t.xstat = false) :
    exec (.hostReplyRead k) s = .next ((s.replyAsked (keyCl k) c i).putThread k
      { retired (setW (setW t 10 a) 11 b) (t.pc + 4) with call := none }) := by
  have hlanes' : gangLanes (replyTaken s k c i a b t) (keyCl k) (keyCore k) (slotOf (keyCore k) (keyThr k)) =
      [(l, repliedLane s.cyc a b t)] := by
    rw [gangLanes_replyTaken ht, hlanes, List.map_singleton, if_pos hk.symm]
  have hss' : xsSS (repliedLane s.cyc a b t).xstat = false := by simp [repliedLane, hss]
  rw [exec_hostReplyRead ht hp hc hi hrun hstay hr, resumeReplied_lone hlanes' rfl rfl hss', ← hk, replyTaken, putThread_putThread]
  rfl

/-- The reply of a lane held off-core is read into it (R436). -/
theorem hostReplyRead_off {uid : Nat} (ht : s.thread k = none) (hrun : clusterRuns s (keyCl k) = true)
    (ho : offWaiting (s.cluster (keyCl k)) k = some (uid, c, i)) (hr : readReply s (keyCl k) c i = .ok (a, b)) :
    exec (.hostReplyRead k) s = .next ((s.replyAsked (keyCl k) c i).modCluster (keyCl k) (modOff uid (repliedLane s.cyc a b))) := by
  show execHostReplyRead k s = _
  simp [execHostReplyRead, hrun, ht, ho, hr]

/-! ### A gang leaves its slot and returns to one (R434, R436) -/

/-- A cluster whose banks' waits stand under other names. -/
def renamedBanks (names : List (Nat × Nat)) (c : Cluster) : Cluster :=
  let renamed (k : Nat) : Nat := ((names.find? fun x => x.1 == k).map (·.2)).getD k
  { c with fifos := c.fifos.map fun (x : Nat × Fifo) => (x.1, { x.2 with
      pushes := x.2.pushes.map fun y => (renamed y.1, y.2)
      pops := x.2.pops.map fun y => (renamed y.1, y.2) }) }

/-- Every other part of a cluster is as it was. -/
theorem renameWaits_cluster {α : Type} (g : Cluster → α) (h : ∀ c f, g { c with fifos := f } = g c) (s : State)
    (names : List (Nat × Nat)) (cl : Nat) : g ((s.renameWaits names).cluster cl) = g (s.cluster cl) := by
  have hm : mget (s.renameWaits names).clusters cl = (mget s.clusters cl).map (renamedBanks names) := mget_map (renamedBanks names) ..
  unfold State.cluster
  rw [hm]
  cases mget s.clusters cl with
  | none => rfl
  | some c => exact h c _

/-- A gang of one lane that waits on the host leaves. -/
theorem gangLeaves_lone (hsc : isSC core = false) (hroom : (s.cluster cl).offCore = []) (hlanes : gangLanes s cl core slot = [(l, t)])
    (hp : t.park.map (·.why) = some .host) (hl : laneLeaves s (keyOf cl core (thrOf core slot l)) t = true) :
    gangLeaves s cl core slot = true := by
  simp [gangLeaves, hsc, hroom, hlanes, waitsOnHost_iff.2 hp, hl, Config.offCoreRoom]

/-- The record of a gang of one lane off-core. -/
def loneRecord (core slot : Nat) (g : Gang) (l : Nat) (t : Thread) : OffGang := { core := core, slot := slot, gang := g, lanes := [(l, t)] }

/-- A cluster in which that gang, whose lane stood at `k`, is held off-core. -/
def heldOff (core slot : Nat) (g : Gang) (k l : Nat) (t : Thread) (c : Cluster) : Cluster :=
  { c with
    offCore := c.offCore ++ [loneRecord core slot g l t]
    fbf := c.fbf.map (offEntry [(k, t.uid)] core)
    fbfWait := c.fbfWait.map (offEntry [(k, t.uid)] core) }

/-- The state once a thread has left its position for a record off-core, its requests at banks under its own name. -/
def laneGone (s : State) (k : Nat) (t : Thread) : State :=
  { (s.renameWaits [(k, awayKey t.uid)]).dropThread k with wakes := s.wakes.erase k }

theorem laneGone_thread (s : State) (k : Nat) (t : Thread) (j : Nat) : (laneGone s k t).thread j = if j = k then none else s.thread j :=
  thread_dropThread (s.renameWaits _) k j

/-- The state once a gang of one lane has left its slot. -/
def gangGone (s : State) (cl core slot : Nat) (g : Gang) (k l : Nat) (t : Thread) : State :=
  ((laneGone s k t).modCluster cl (heldOff core slot g k l t)).modCore cl core fun c => { c with gangs := mdel c.gangs slot }

theorem exec_gangOffCore {g : Gang} (hg : mget (s.core cl core).gangs slot = some g) (hrun : clusterRuns s cl = true)
    (hl : gangLeaves s cl core slot = true) (hlanes : gangLanes s cl core slot = [(l, t)]) :
    exec (.gangOffCore cl core slot) s = .next (gangGone s cl core slot g (keyOf cl core (thrOf core slot l)) l t) := by
  show execGangOffCore cl core slot s = _
  simp only [execGangOffCore, hg, hrun, hl, hlanes, Bool.not_true, Bool.or_self, Bool.false_eq_true, if_false]
  rfl

theorem gangGone_thread (s : State) (cl core slot : Nat) (g : Gang) (k l : Nat) (t : Thread) (j : Nat) :
    (gangGone s cl core slot g k l t).thread j = if j = k then none else s.thread j :=
  laneGone_thread s k t j

theorem gangGone_gangs (s : State) (cl core slot : Nat) (g : Gang) (k l : Nat) (t : Thread) :
    mget ((gangGone s cl core slot g k l t).core cl core).gangs slot = none := by
  rw [gangGone, core_modCore, if_pos ⟨rfl, rfl⟩, mget_mdel, if_pos rfl]

theorem gangGone_offCore (s : State) (cl core slot : Nat) (g : Gang) (k l : Nat) (t : Thread) :
    ((gangGone s cl core slot g k l t).cluster cl).offCore = (s.cluster cl).offCore ++ [loneRecord core slot g l t] := by
  rw [gangGone, State.modCore, cluster_modCluster, if_pos rfl, cluster_modCluster, if_pos rfl]
  exact congrArg (· ++ _) (renameWaits_cluster (·.offCore) (fun _ _ => rfl) s _ cl)

/-- A cluster whose off-core record of a gang of one lane is gone, the lane standing at `k`. -/
def backOn (k : Nat) (t : Thread) (c : Cluster) : Cluster :=
  { c with
    offCore := dropAt c.offCore 0
    fbf := c.fbf.map (backEntry [(k, t.uid)])
    fbfWait := c.fbfWait.map (backEntry [(k, t.uid)]) }

/-- The state once that gang has a slot again, its lane still to stand there. -/
def slotTaken (s : State) (cl core slot : Nat) (g : Gang) (k : Nat) (t : Thread) : State :=
  ((s.renameWaits [(awayKey t.uid, k)]).modCluster cl (backOn k t)).modCore cl core fun c =>
    { c with gangs := mset c.gangs slot { g with since := s.cyc } }

/-- The state once it stands there. -/
def gangBack (s : State) (cl core slot : Nat) (g : Gang) (k : Nat) (t : Thread) : State :=
  { (slotTaken s cl core slot g k t).putThread k (returned t) with wakes := s.wakes.erase k }

theorem gangBack_thread (s : State) (cl core slot : Nat) (g : Gang) (k : Nat) (t : Thread) (j : Nat) :
    (gangBack s cl core slot g k t).thread j = if j = k then some (returned t) else s.thread j :=
  thread_putThread ..

theorem gangBack_gangs (s : State) (cl core slot : Nat) (g : Gang) (k : Nat) (t : Thread) :
    (mget ((gangBack s cl core slot g k t).core cl core).gangs slot).isSome = true := by
  show (mget ((slotTaken s cl core slot g k t).core cl core).gangs slot).isSome = true
  rw [slotTaken, core_modCore, if_pos ⟨rfl, rfl⟩, mget_mset, if_pos rfl]
  rfl

theorem gangBack_offCore (s : State) (cl core slot : Nat) (g : Gang) (k : Nat) (t : Thread) :
    ((gangBack s cl core slot g k t).cluster cl).offCore = dropAt (s.cluster cl).offCore 0 := by
  show ((slotTaken s cl core slot g k t).cluster cl).offCore = _
  rw [slotTaken, State.modCore, cluster_modCluster, if_pos rfl, cluster_modCluster, if_pos rfl]
  exact congrArg (dropAt · 0) (renameWaits_cluster (·.offCore) (fun _ _ => rfl) s _ cl)

theorem xsSS_xsSetAP (x : Word) (b : Bool) : xsSS (xsSetAP x b) = xsSS x := by
  have hbit : ∀ w : Word, xsSS w = w.getLsbD 12 := fun w => natBit_eq_testBit 12 w.toNat
  have hmask : (maskOf 7 1).getLsbD 12 = false := by decide
  rw [hbit, hbit]
  cases b
  · simp only [xsSetAP, putBit, Bool.false_eq_true, if_false, BitVec.getLsbD_and, BitVec.getLsbD_not, hmask]
    simp
  · simp only [xsSetAP, putBit, if_true, BitVec.getLsbD_or, hmask, Bool.or_false]

theorem returned_replied {since : Nat} (hp : t.park = some { why := .replied, since := since }) : returned t = retired t t.pc := by
  simp only [returned, hp]

/-- A lane whose reply has been read takes nothing at its return but the step trap. -/
theorem landLane_replied {since : Nat} (hs : s.thread k = some t') (hp : t.park = some { why := .replied, since := since })
    (hss : xsSS t'.xstat = false) : s.landLane k t = s := by
  simp [State.landLane, hs, hp, hss]

theorem exec_gangReturn {o : OffGang} {since : Nat} (ho : (s.cluster cl).offCore = [o]) (hlanes : o.lanes = [(l, t)])
    (hrun : clusterRuns s cl = true) (hp : t.park = some { why := .replied, since := since }) (hss : xsSS t.xstat = false)
    (hfree : (freeGangSlots s cl o.core).head? = some slot) : exec (.gangReturn cl 0) s =
      .next (gangBack s cl o.core slot o.gang (keyOf cl o.core (thrOf o.core slot l)) t) := by
  obtain ⟨rest, hslots⟩ := List.head?_eq_some_iff.1 hfree
  have hwaits : ([(l, t)].any fun l => waitsOnHost l.2) = false := by
    simp [waitsOnHost_eq_false hp (by decide)]
  have hfirst : (s.cluster cl).offCore[0]? = some o := by rw [ho]; rfl
  have hexec : exec (.gangReturn cl 0) s = .next ((gangBack s cl o.core slot o.gang (keyOf cl o.core (thrOf o.core slot l)) t).landLane
      (keyOf cl o.core (thrOf o.core slot l)) t) := by
    show execGangReturn cl 0 s = _
    simp only [execGangReturn, hfirst, hslots, hrun, hlanes, hwaits, Bool.not_true, Bool.or_self, Bool.false_eq_true, if_false]
    rfl
  have hthread := (gangBack_thread s cl o.core slot o.gang (keyOf cl o.core (thrOf o.core slot l)) t _).trans (if_pos rfl)
  rw [returned_replied hp] at hthread
  rw [hexec, landLane_replied hthread hp ((xsSS_xsSetAP ..).trans hss)]

/-! ### Racking (R212) -/

theorem exec_rackPage {src dst level : Nat} (hstage : s.stage = .full) (hl : level ≤ 2) (hsrc : src % 1024 ^ level = 0)
    (hdst : dst % 1024 ^ level = 0) (hne : src ≠ dst) (howner : sameOwner s src dst (1024 ^ level) = true)
    (hapart : ∀ e ∈ s.racking, framesApart src (1024 ^ level) e.1 e.2.2 = true ∧ framesApart src (1024 ^ level) e.2.1 e.2.2 = true ∧
      framesApart dst (1024 ^ level) e.1 e.2.2 = true ∧ framesApart dst (1024 ^ level) e.2.1 e.2.2 = true) :
    exec (.rackPage { frame := src, level := level } dst) s = .next { s with racking := s.racking ++ [(src, dst, 1024 ^ level)] } := by
  have hall : (s.racking.all fun e => framesApart src (1024 ^ level) e.1 e.2.2 && framesApart src (1024 ^ level) e.2.1 e.2.2 &&
      framesApart dst (1024 ^ level) e.1 e.2.2 && framesApart dst (1024 ^ level) e.2.1 e.2.2) = true :=
    List.all_eq_true.2 fun e he => by
      obtain ⟨h1, h2, h3, h4⟩ := hapart e he
      simp [h1, h2, h3, h4]
  show execRackPage _ dst s = _
  simp only [execRackPage, hstage, hl, hsrc, hdst, howner, hall]
  simp [hne]

/-- A word that is the entry of no blocked page ends the oldest block. -/
theorem exec_rackBlockEnd_none {pte : Nat} (h : (s.racking.find? fun r => leafOf s r.1 r.2.2 (tableWord s pte)) = none) :
    exec (.rackBlockEnd pte) s = .next { s with racking := s.racking.drop 1 } := by
  show execRackBlockEnd pte s = _
  simp only [execRackBlockEnd, h]

/-- The page moves, and its entry, moved with it where it lies in it, holds the new frame. -/
theorem exec_rackBlockEnd_moves {src dst n pte : Nat} {o : Nat × Partition} (hr : s.racking = [(src, dst, n)])
    (hleaf : leafOf s src n (tableWord s pte) = true) (halign : pte % 8 = 0)
    (htarget : inTarget { src := src, dst := dst, n := n } 65536 pte = false)
    (ho : (s.parts.find? fun x => x.2.granules.contains (src / 16384)) = some o) (hown : o.2.granules.contains (pte / 2 ^ 30) = true)
    (hbad : ∀ b ∈ s.bad, inSource { src := src, dst := dst, n := n } 65536 b.1 = false) :
    exec (.rackBlockEnd pte) s = .next ((s.movePage { src := src, dst := dst, n := n }).writeNum
      (span (moved { src := src, dst := dst, n := n } 65536 pte) 8) (tableWord s pte - src * 65536 + dst * 65536)) := by
  have hfind : (s.racking.find? fun r => leafOf s r.1 r.2.2 (tableWord s pte)) = some (src, dst, n) := by simp [hr, hleaf]
  have hgood : (s.bad.find? fun b => inSource { src := src, dst := dst, n := n } 65536 b.1) = none :=
    List.find?_eq_none.2 fun b hb => by simp [hbad b hb]
  show execRackBlockEnd pte s = _
  simp only [execRackBlockEnd, hfind, ho, hgood, halign, htarget, Option.any_some, hown]
  rfl

/-! #### Bytes before and after a move -/

theorem pairwise_of_memWfFrom : ∀ (m : Mem) (lo : Option Nat), memWfFrom lo m = true →
    (∀ c ∈ m, lo.all (· < c.1) = true) ∧ (m.map (·.1)).Pairwise (· < ·)
  | [], _, _ => ⟨nofun, .nil⟩
  | (a, b) :: m, lo, h => by
    simp only [memWfFrom, Bool.and_eq_true] at h
    obtain ⟨⟨hlo, -⟩, hm⟩ := h
    obtain ⟨habove, hpair⟩ := pairwise_of_memWfFrom m (some a) hm
    have habove : ∀ c ∈ m, a < c.1 := fun c hc => by simpa using habove c hc
    refine ⟨fun c hc => ?_, List.pairwise_cons.2 ⟨fun k hk => ?_, hpair⟩⟩
    · rcases List.mem_cons.1 hc with rfl | hc
      · exact hlo
      · cases lo with
        | none => rfl
        | some l => exact decide_eq_true ((of_decide_eq_true hlo : l < a).trans (habove c hc))
    · obtain ⟨c, hc, rfl⟩ := List.mem_map.1 hk
      exact habove c hc

/-- Memory in canonical form lists no address twice. -/
theorem nodup_of_memWf {m : Mem} (h : memWf m = true) : (m.map (·.1)).Nodup :=
  (pairwise_of_memWfFrom m none h).2.imp fun hlt => hlt.ne

theorem memRead_of_unlisted {m : Mem} {a : Nat} (h : ∀ c ∈ m, c.1 ≠ a) : memRead m a = 0 := by
  induction m with
  | nil => rfl
  | cons e m ih =>
    obtain ⟨he, hm⟩ := List.forall_mem_cons.1 h
    rw [memRead, if_neg he, ih hm]

theorem memRead_of_mem {m : Mem} (hn : (m.map (·.1)).Nodup) {c : Host.Cell} (hc : c ∈ m) : memRead m c.1 = c.2 := by
  induction m with
  | nil => cases hc
  | cons e m ih =>
    rw [List.map_cons, List.nodup_cons] at hn
    rcases List.mem_cons.1 hc with rfl | hc
    · exact if_pos rfl
    · exact (if_neg fun he => hn.1 (List.mem_map.2 ⟨c, hc, he.symm⟩)).trans (ih hn.2 hc)

theorem memRead_filter_keys (p : Nat → Bool) (m : Mem) {a : Nat} (h : p a = true) :
    memRead (m.filter fun c => p c.1) a = memRead m a := by
  induction m with
  | nil => rfl
  | cons e m ih =>
    by_cases he : e.1 = a
    · rw [List.filter_cons_of_pos (he ▸ h), memRead, memRead, if_pos he, if_pos he]
    · rw [List.filter_cons]
      split <;> simp only [memRead, if_neg he, ih]

/-- Memory after the move of a page. -/
def movedMem (m : Move) (mem : Mem) : Mem :=
  memWriteAll (mem.filter fun c => !inTarget m 65536 c.1) ((mem.filter fun c => inSource m 65536 c.1).map fun c => (moved m 65536 c.1, c.2))

theorem movePage_mem (s : State) (m : Move) : (s.movePage m).mem = movedMem m s.mem := rfl

theorem inSource_iff {m : Move} {a : Nat} : inSource m 65536 a = true ↔ m.src * 65536 ≤ a ∧ a < (m.src + m.n) * 65536 := by
  simp [inSource]

theorem inTarget_iff {m : Move} {a : Nat} : inTarget m 65536 a = true ↔ m.dst * 65536 ≤ a ∧ a < (m.dst + m.n) * 65536 := by
  simp [inTarget]

theorem inTarget_eq_false_iff {m : Move} {a : Nat} :
    inTarget m 65536 a = false ↔ ¬ (m.dst * 65536 ≤ a ∧ a < (m.dst + m.n) * 65536) :=
  Bool.eq_false_iff.trans (not_congr inTarget_iff)

/-- A byte of the page lies as far into its new place as into its old one. -/
theorem offset_of_inSource {m : Move} {a : Nat} (h : inSource m 65536 a = true) :
    ∃ i, i < m.n * 65536 ∧ a = m.src * 65536 + i ∧ moved m 65536 a = m.dst * 65536 + i := by
  have hbounds := inSource_iff.1 h
  have hmoved : moved m 65536 a = a - m.src * 65536 + m.dst * 65536 := if_pos h
  exact ⟨a - m.src * 65536, by omega, by omega, by omega⟩

theorem moved_of_outside {m : Move} {a : Nat} (h : ¬ inSource m 65536 a = true) : moved m 65536 a = a := if_neg h

theorem moved_offset {m : Move} {i : Nat} (hi : i < m.n * 65536) : moved m 65536 (m.src * 65536 + i) = m.dst * 65536 + i := by
  obtain ⟨j, -, hj, hmoved⟩ := offset_of_inSource (inSource_iff.2 (show m.src * 65536 ≤ m.src * 65536 + i ∧ _ by omega))
  rw [hmoved, Nat.add_left_cancel hj]

/-- Two bytes of a page do not move to one place. -/
theorem moved_injOn {m : Move} {a b : Nat} (ha : inSource m 65536 a = true) (hb : inSource m 65536 b = true)
    (h : moved m 65536 a = moved m 65536 b) : a = b := by
  obtain ⟨i, -, rfl, hi⟩ := offset_of_inSource ha
  obtain ⟨j, -, rfl, hj⟩ := offset_of_inSource hb
  rw [hi, hj] at h
  rw [Nat.add_left_cancel h]

/-- The cells of a page, moved, have distinct keys. -/
theorem movedCells_nodup {mem : Mem} (hn : (mem.map (·.1)).Nodup) (m : Move) :
    (((mem.filter fun c => inSource m 65536 c.1).map fun c => (moved m 65536 c.1, c.2)).map (·.1)).Nodup := by
  rw [List.map_map, List.nodup_map_iff_inj_on ((List.Nodup.of_map _ hn).filter _)]
  intro x hx y hy hxy
  obtain ⟨hxm, hxs⟩ := List.mem_filter.1 hx
  obtain ⟨hym, hys⟩ := List.mem_filter.1 hy
  exact List.inj_on_of_nodup_map hn hxm hym (moved_injOn hxs hys hxy)

/-- The new place of the page holds its bytes. -/
theorem memRead_movedMem_target {m : Move} {mem : Mem} (hw : memWf mem = true) {i : Nat} (hi : i < m.n * 65536) :
    memRead (movedMem m mem) (m.dst * 65536 + i) = memRead mem (m.src * 65536 + i) := by
  have hn := nodup_of_memWf hw
  have hsource : inSource m 65536 (m.src * 65536 + i) = true := inSource_iff.2 (by omega)
  by_cases hlisted : ∃ c ∈ mem, c.1 = m.src * 65536 + i
  · obtain ⟨c, hc, hkey⟩ := hlisted
    have hmem : (moved m 65536 c.1, c.2) ∈ (mem.filter fun c => inSource m 65536 c.1).map fun c => (moved m 65536 c.1, c.2) :=
      List.mem_map_of_mem (f := fun c : Host.Cell => (moved m 65536 c.1, c.2)) (List.mem_filter.2 ⟨hc, hkey ▸ hsource⟩)
    have hread := memRead_memWriteAll_of_mem (movedCells_nodup hn m) hmem (mem.filter fun c => !inTarget m 65536 c.1)
    rw [hkey, moved_offset hi] at hread
    rw [← hkey, memRead_of_mem hn hc]
    exact hread
  · have hno : ∀ c ∈ mem, c.1 ≠ m.src * 65536 + i := fun c hc he => hlisted ⟨c, hc, he⟩
    rw [memRead_of_unlisted hno, movedMem, memRead_memWriteAll_other, memRead_of_unlisted]
    · intro c hc he
      have htarget : inTarget m 65536 c.1 = true := inTarget_iff.2 (by omega)
      simp [htarget] at hc
    · intro c hc he
      obtain ⟨x, hx, rfl⟩ := List.mem_map.1 hc
      obtain ⟨hxm, hxs⟩ := List.mem_filter.1 hx
      exact hno x hxm (moved_injOn hxs hsource (he.trans (moved_offset hi).symm))

/-- Every byte outside the new place is as it was. -/
theorem memRead_movedMem_other {m : Move} (mem : Mem) {a : Nat} (ha : inTarget m 65536 a = false) :
    memRead (movedMem m mem) a = memRead mem a := by
  have hkeep : (!inTarget m 65536 a) = true := by rw [ha]; rfl
  refine (memRead_memWriteAll_other _ _ a fun c hc he => ?_).trans (memRead_filter_keys (fun a => !inTarget m 65536 a) mem hkeep)
  obtain ⟨x, hx, rfl⟩ := List.mem_map.1 hc
  obtain ⟨i, hi, -, hmoved⟩ := offset_of_inSource (List.mem_filter.1 hx).2
  have he : m.dst * 65536 + i = a := hmoved.symm.trans he
  exact inTarget_eq_false_iff.1 ha (by omega)

/-- The eight bytes of an aligned entry outside the new place lie in the page, and then move with it, or outside the new place. -/
theorem movedEntry_bytes {m : Move} {pte b : Nat} (halign : pte % 8 = 0) (htarget : inTarget m 65536 pte = false)
    (hb : b ∈ span (moved m 65536 pte) 8) :
    (∃ j, j < m.n * 65536 ∧ b = m.dst * 65536 + j ∧ pte ≤ m.src * 65536 + j ∧ m.src * 65536 + j < pte + 8) ∨
      (inTarget m 65536 b = false ∧ pte ≤ b ∧ b < pte + 8) := by
  obtain ⟨hlo, hhi⟩ := bounds_of_mem_span hb
  rw [inTarget_eq_false_iff] at htarget ⊢
  by_cases hs : inSource m 65536 pte = true
  · obtain ⟨i, hi, hpte, hmoved⟩ := offset_of_inSource hs
    rw [hmoved] at hlo hhi
    exact .inl ⟨b - m.dst * 65536, by omega, by omega, by omega, by omega⟩
  · rw [moved_of_outside hs] at hlo hhi
    exact .inr (by omega)

theorem length_span (a n : Nat) : (span a n).length = n := by simp [span]

theorem getD_span {a n i : Nat} (hi : i < n) : (span a n).getD i 0 = a + i := by simp [span, hi]

theorem nodup_span (a n : Nat) : (span a n).Nodup := List.nodup_range.map fun _ _ h => Nat.add_left_cancel h

/-- What a page's move and the store of its entry leave in memory. -/
theorem memRead_moved_target {m : Move} {pte i : Nat} (hw : memWf s.mem = true) (halign : pte % 8 = 0)
    (htarget : inTarget m 65536 pte = false) (v : Nat) (hi : i < m.n * 65536)
    (hout : ¬ (pte ≤ m.src * 65536 + i ∧ m.src * 65536 + i < pte + 8)) :
    memRead ((s.movePage m).writeNum (span (moved m 65536 pte) 8) v).mem (m.dst * 65536 + i) = memRead s.mem (m.src * 65536 + i) := by
  have hnot : m.dst * 65536 + i ∉ span (moved m 65536 pte) 8 := fun h => by
    rcases movedEntry_bytes halign htarget h with ⟨j, -, hj, hin⟩ | ⟨hfar, -⟩
    · exact hout (Nat.add_left_cancel hj ▸ hin)
    · exact inTarget_eq_false_iff.1 hfar (by omega)
  rw [memRead_writeNum_other _ _ hnot, movePage_mem, memRead_movedMem_target hw hi]

theorem memRead_moved_other {m : Move} {pte a : Nat} (halign : pte % 8 = 0) (htarget : inTarget m 65536 pte = false) (v : Nat)
    (ha : inTarget m 65536 a = false) (hout : ¬ (pte ≤ a ∧ a < pte + 8)) :
    memRead ((s.movePage m).writeNum (span (moved m 65536 pte) 8) v).mem a = memRead s.mem a := by
  have hnot : a ∉ span (moved m 65536 pte) 8 := fun h => by
    rcases movedEntry_bytes halign htarget h with ⟨j, hj, rfl, -⟩ | ⟨-, hin⟩
    · exact inTarget_eq_false_iff.1 ha (by omega)
    · exact hout hin
  rw [memRead_writeNum_other _ _ hnot, movePage_mem, memRead_movedMem_other _ ha]

theorem memRead_moved_entry {m : Move} {pte i : Nat} (hpte : pte < 2 ^ 45) (hdst : (m.dst + m.n) * 65536 ≤ 2 ^ 45) (v : Nat)
    (hi : i < 8) :
    memRead ((s.movePage m).writeNum (span (moved m 65536 pte) 8) v).mem (moved m 65536 pte + i) = (leBytes 8 v).getD i 0 := by
  have hhome : moved m 65536 pte < 2 ^ 45 := by
    by_cases hs : inSource m 65536 pte = true
    · obtain ⟨j, hj, -, hmoved⟩ := offset_of_inSource hs
      omega
    · rwa [moved_of_outside hs]
  have hnear : ∀ a ∈ span (moved m 65536 pte) 8, a < remoteBase := fun a ha => by
    have hhi := (bounds_of_mem_span ha).2
    simp only [remoteBase]
    omega
  have hread := memRead_writeNum (nodup_span _ 8) hnear (s.movePage m) v ((length_span _ 8).symm ▸ hi)
  rwa [getD_span hi, length_span] at hread

/-! ### Errors (R437, R438) -/

theorem markBad_part (s : State) (storage addr k p : Nat) : (s.markBad storage addr k).part p = s.part p := by
  unfold State.markBad
  split
  · rfl
  · split <;> rfl
  · rfl

theorem markBad_mem (s : State) (storage addr k : Nat) : (s.markBad storage addr k).mem = s.mem := by
  unfold State.markBad
  split
  · rfl
  · split <;> rfl
  · rfl

theorem exec_uncorrectableError {storage addr p : Nat} {x : Partition} (ho : storageOwner s storage addr k = some p)
    (hx : s.part p = some x) (scrub : Bool) : exec (.uncorrectableError storage addr k scrub) s =
      if scrub then .next ((s.markBad storage addr k).sendRecord (bitsOf 12 9 (errorRecord s p x (storage % 8) addr k).w0)
        (errorRecord s p x (storage % 8) addr k))
      else .next ((s.markBad storage addr k).contain p (errorRecord s p x (storage % 8) addr k)) := by
  show execUncorrectableError storage addr k scrub s = _
  simp only [execUncorrectableError, ho, hx]

/-- An error contained in a running partition stops it for good (R423, R438). -/
theorem contain_running {p : Nat} {x : Partition} (hx : s.part p = some x) (hrun : x.run = .running) (r : Record) :
    s.contain p r = { s with parts := mset s.parts p (stopPart s false r x) } := by
  have hx' : mget s.parts p = some x := hx
  simp [State.contain, hx, hrun, State.startStop, State.modPart, hx', issues]

/-- Settles O50: each event of a gang off-core, of racking and of an error does what its lemma above says. -/
theorem offCoreRackingAndErrorEventsComplete : Obligations.OffCoreRackingAndErrorEventsComplete := by
  refine ⟨?_, ?_, ?_, ?_, ?_, ?_, ?_, ?_, ?_⟩
  · rintro s cl core slot g l _ t hsc - - - hrun hg hoff hlanes rfl hp hl
    refine ⟨_, exec_gangOffCore hg hrun (gangLeaves_lone hsc hoff hlanes hp hl) hlanes, ?_, gangGone_gangs .., rfl, fun j hj => ?_, ?_⟩
    · rw [gangGone_thread, if_pos rfl]
    · rw [gangGone_thread, if_neg hj]
    · rw [gangGone_offCore, hoff]
      rfl
  · rintro s k _ _ _ t c i a b since _ rfl rfl rfl ht hp hc hi hrun hstay hr rfl
    exact ⟨hostReplyRead_waits ht hp hc hi hrun hstay hr,
      fun l hlanes hk hss => hostReplyRead_retires ht hp hc hi hrun hstay hr hlanes hk hss⟩
  · exact fun s k uid c i a b ht hrun ho hr => hostReplyRead_off ht hrun ho hr
  · intro s cl o l t slot since hrun ho _ _ _ _ hlanes hp hss hfree
    refine ⟨_, exec_gangReturn ho hlanes hrun hp hss hfree, ?_, rfl, ?_, fun j hj => ?_, gangBack_gangs ..⟩
    · rw [gangBack_offCore, ho]
      rfl
    · rw [gangBack_thread, if_pos rfl, returned_replied hp]
    · rw [gangBack_thread, if_neg hj]
  · rintro s src dst level _ hstage hl rfl hsrc hdst hne howner hapart
    exact exec_rackPage hstage hl hsrc hdst hne howner hapart
  · rintro s src dst n pte _ _ o hw rfl hr hleaf rfl halign htarget ho hown hbad -
    refine ⟨_, exec_rackBlockEnd_moves hr hleaf halign htarget ho hown hbad, ?_, rfl,
      fun i hi hout => memRead_moved_target hw halign htarget _ hi hout, ?_,
      fun a ha hout => memRead_moved_other halign htarget _ ha hout⟩
    · show (s.racking.filter fun e => e.1 != src) = []
      simp [hr]
    · intro hpte hdst i hi
      exact memRead_moved_entry (m := { src := src, dst := dst, n := n }) hpte hdst _ hi
  · exact fun s pte h => exec_rackBlockEnd_none h
  · intro s storage addr k p x ho hx
    refine ⟨exec_uncorrectableError ho hx true, fun hrun => ?_⟩
    have hexec := (exec_uncorrectableError ho hx false).trans
      (congrArg Host.Outcome.next (contain_running ((markBad_part ..).trans hx) hrun (errorRecord s p x (storage % 8) addr k)))
    exact ⟨_, _, hexec, rfl, (mget_mset ..).trans (if_pos rfl), markBad_mem .., rfl⟩
  · exact fun _ => rfl

end Sys2Proof.Safety
end

section
/-! Memory instructions, first part: the checks of an access read no thread's registers and no message, so that the lanes of a gang may be
checked one after the other (R136, R211, R234), and each lane's walk asks host memory (R450). -/

namespace Sys2Proof.Safety

open Machine

/-! ### What the checks of an access read -/

/-- The state with other threads, and with links in another condition. -/
def relinked (s : State) (ts : Map Thread) (ls : Map Link) : State := { s with threads := ts, links := ls }

/-- The links are up, and of their generations, as in the state. -/
def LinksAs (s : State) (ls : Map Link) : Prop :=
  ∀ p, ((relinked s s.threads ls).link p).up = (s.link p).up ∧ ((relinked s s.threads ls).link p).gen3 = (s.link p).gen3

section

variable {s : State} {ts : Map Thread} {ls : Map Link} (h : LinksAs s ls)

theorem ownedLocal_relinked (p : Partition) (a : Nat) : ownedLocal (relinked s ts ls) p a = ownedLocal s p a := rfl
theorem homeKey_relinked (a : Nat) : homeKey (relinked s ts ls) a = homeKey s a := rfl
theorem tableWord_relinked (a : Nat) : tableWord (relinked s ts ls) a = tableWord s a := rfl
theorem leafOut_relinked (p : Partition) (level e va : Nat) : leafOut (relinked s ts ls) p level e va = leafOut s p level e va := rfl
theorem leafCause_relinked (sup : Bool) (acc : Access) (e key : Nat) :
    leafCause (relinked s ts ls) sup acc e key = leafCause s sup acc e key := rfl
theorem devno_relinked : (relinked s ts ls).devno = s.devno := rfl
theorem free_relinked : (relinked s ts ls).free = s.free := rfl
theorem badAmong_relinked (keys : List Nat) : badAmong (relinked s ts ls) keys = badAmong s keys := rfl
theorem rackedFrame_relinked (addrs : List Nat) : rackedFrame (relinked s ts ls) addrs = rackedFrame s addrs := rfl
theorem presenceCheck_relinked (va : Word) (addrs : List Nat) :
    presenceCheck (relinked s ts ls) va addrs = presenceCheck s va addrs := rfl
theorem spotCheck_relinked (eng sup : Bool) (acc : Access) (n : Nat) (va : Word) :
    spotCheck (relinked s ts ls) eng sup acc n va = spotCheck s eng sup acc n va := rfl
theorem cluster_relinked (cl : Nat) : (relinked s ts ls).cluster cl = s.cluster cl := rfl
theorem seen_relinked (ops : List OutOp) : (relinked s ts ls).seen ops = s.seen ops := rfl

include h

theorem link_relinked (p : Nat) :
    ((relinked s ts ls).link p).up = (s.link p).up ∧ ((relinked s ts ls).link p).gen3 = (s.link p).gen3 := h p

theorem hostRefused_relinked (key : Nat) : hostRefused (relinked s ts ls) key = hostRefused s key := by
  obtain ⟨hup, hgen⟩ := link_relinked (ts := ts) h 0
  rw [hostRefused, hup, hgen, hostRefused]

theorem tableStop_relinked (a n : Nat) : tableStop (relinked s ts ls) a n = tableStop s a n := by
  simp only [tableStop, homeKey_relinked, hostRefused_relinked h, badAmong_relinked, (link_relinked (ts := ts) h 0).1]

theorem farRefused_relinked (part key : Nat) (w : Bool) : farRefused (relinked s ts ls) part key w = farRefused s part key w := by
  have hdown : onDownLink (relinked s ts ls) key = onDownLink s key :=
    congrArg (Option.any · (portOf key)) (funext fun p => congrArg (!·) (link_relinked (ts := ts) h p).1)
  simp only [farRefused, hdown, hostRefused_relinked h]
  rfl

theorem walk_relinked (p : Partition) (sup : Bool) (acc : Access) (va level table : Nat) (lines : List Nat) :
    walk (relinked s ts ls) p sup acc va level table lines = walk s p sup acc va level table lines := by
  induction level generalizing table lines with
  | zero =>
    unfold walk
    simp only [tableWord_relinked, tableStop_relinked h, homeKey_relinked, leafOut_relinked, leafCause_relinked, devno_relinked]
    rfl
  | succ n ih =>
    unfold walk
    simp only [tableWord_relinked, tableStop_relinked h, homeKey_relinked, leafOut_relinked, leafCause_relinked, devno_relinked,
      ownedLocal_relinked]
    generalize ownedLocal s p _ = next
    cases next with
    | none => rfl
    | some a =>
      simp only [ih]
      rfl

/-- (An equation of `translate` itself would have the kernel compute with the address it takes, so it is unfolded as a function.) -/
theorem translate_relinked (p : Partition) (asid : BitVec 16) (sup : Bool) (acc : Access) (va : Nat) :
    Machine.translate (relinked s ts ls) p asid sup acc va = Machine.translate s p asid sup acc va := by
  generalize hT : @Machine.translate = T
  delta Machine.translate at hT
  subst hT
  beta_reduce
  rw [ownedLocal_relinked]
  generalize ownedLocal s p (bitsOf 20 36 p.astb * 2 ^ 20 + 16 * asid.toNat) = table
  cases table with
  | none => rfl
  | some a => simp only [ownedLocal_relinked, tableWord_relinked, tableStop_relinked h, homeKey_relinked, walk_relinked h]

theorem byteKeys_relinked (p : Partition) (asid : BitVec 16) (sup : Bool) (acc : Access) (va : Word) (n : Nat) :
    byteKeys (relinked s ts ls) p asid sup acc va n = byteKeys s p asid sup acc va n := by
  simp only [byteKeys, resolve, translate_relinked h]

theorem checkAccess_relinked (eng : Bool) (cl part : Nat) (p : Partition) (asid : BitVec 16) (sup : Bool) (acc : Access) (va : Word)
    (n : Nat) : checkAccess (relinked s ts ls) eng cl part p asid sup acc va n = checkAccess s eng cl part p asid sup acc va n := by
  simp only [checkAccess, checkPlace, byteKeys_relinked h, farRefused_relinked h, rackedFrame_relinked, spotCheck_relinked,
    presenceCheck_relinked, cluster_relinked]
  rfl

end

/-! ### The state while the lanes of a set make their accesses -/

/-- `u` is `s` but for its threads and for what its links have sent: its links stand as those of `s`, and no thread of it has a write
outstanding that none of `s` has. -/
def Trails (s u : State) : Prop :=
  ∃ ts ls, u = relinked s ts ls ∧ LinksAs s ls ∧
    ∀ e ∈ ts, ∀ o ∈ e.2.out, outWrites o = true → ∃ x ∈ s.threads, o ∈ x.2.out

variable {s u : State} {k n : Nat} {t t' : Thread} {acc : Access} {va : Word} {addrs lines : List Nat}

theorem Trails.refl (s : State) : Trails s s := ⟨s.threads, s.links, rfl, fun _ => ⟨rfl, rfl⟩, fun e he _ ho _ => ⟨e, he, ho⟩⟩

theorem mem_of_mem_mset {α : Type} {m : Map α} {v : α} {e : Nat × α} (h : e ∈ mset m k v) : e = (k, v) ∨ e ∈ m := by
  induction m with
  | nil => exact .inl (List.mem_singleton.1 h)
  | cons x m ih =>
    obtain ⟨j, x⟩ := x
    simp only [mset] at h
    split at h
    · exact (List.mem_cons.1 h).imp_right (List.mem_cons_of_mem _)
    · split at h
      · exact List.mem_cons.1 h
      · rcases List.mem_cons.1 h with rfl | h
        · exact .inr (List.mem_cons_self ..)
        · exact (ih h).imp_right (List.mem_cons_of_mem _)

/-- A lane's thread that has sent no write. -/
theorem Trails.putThread (h : Trails s u) (ht : s.thread k = some t) (hout : ∀ o ∈ t'.out, outWrites o = true → o ∈ t.out) :
    Trails s (u.putThread k t') := by
  obtain ⟨ts, ls, rfl, hl, hw⟩ := h
  refine ⟨mset ts k t', ls, rfl, hl, fun e he o ho hwrites => ?_⟩
  rcases mem_of_mem_mset he with rfl | he
  · exact ⟨(k, t), mem_of_mget ht, hout o ho hwrites⟩
  · exact hw e he o ho hwrites

/-- A flit leaves a link up, or down, as it was. -/
theorem postPart_link (s : State) (port vc : Nat) (l : List Byte) (p : Nat) :
    ((s.postPart port vc l).link p).up = (s.link p).up ∧ ((s.postPart port vc l).link p).gen3 = (s.link p).gen3 := by
  have hread : ∀ x : Link, (State.link { s with links := mset s.links port x } p) = if p = port then x else s.link p := fun x => by
    simp only [State.link, mget_mset]
    split <;> rfl
  unfold State.postPart
  rw [hread]
  split
  next hp =>
    subst hp
    split
    next l1 hl1 =>
      split at hl1
      · cases hl1
      · unfold sendFlit at hl1
        dsimp only at hl1
        split at hl1
        · cases hl1
        · cases hl1
          exact ⟨rfl, rfl⟩
    · exact ⟨rfl, rfl⟩
  · exact ⟨rfl, rfl⟩

/-- A walk's requests change nothing but the links. -/
theorem relinked_walkReads (s : State) (ts : Map Thread) (ls : Map Link) (cl : Nat) (lines : List Nat) :
    relinked (s.walkReads cl lines) ts ls = relinked s ts ls :=
  walkReads_field (relinked · ts ls) (farRequest_field (relinked · ts ls) (postMessage_field (relinked · ts ls) fun _ _ _ _ => rfl)) ..

theorem walkReads_link (s : State) (cl : Nat) (lines : List Nat) (p : Nat) :
    ((s.walkReads cl lines).link p).up = (s.link p).up ∧ ((s.walkReads cl lines).link p).gen3 = (s.link p).gen3 :=
  ⟨walkReads_field (fun u => (u.link p).up) (farRequest_field (fun u => (u.link p).up) (postMessage_field (fun u => (u.link p).up)
      fun u port vc l => (postPart_link u port vc l p).1)) ..,
    walkReads_field (fun u => (u.link p).gen3) (farRequest_field (fun u => (u.link p).gen3) (postMessage_field (fun u => (u.link p).gen3)
      fun u port vc l => (postPart_link u port vc l p).2)) ..⟩

theorem Trails.walkReads (h : Trails s u) (cl : Nat) (lines : List Nat) : Trails s (u.walkReads cl lines) := by
  obtain ⟨ts, ls, rfl, hl, hw⟩ := h
  have hthreads : ((relinked s ts ls).walkReads cl lines).threads = ts := walkReads_threads ..
  refine ⟨ts, ((relinked s ts ls).walkReads cl lines).links, ?_, fun p => ?_, hw⟩
  · have hframe := relinked_walkReads (relinked s ts ls) ts ((relinked s ts ls).walkReads cl lines).links cl lines
    conv at hframe => lhs; arg 2; rw [← hthreads]
    exact hframe
  obtain ⟨hup, hgen⟩ := walkReads_link (relinked s ts ls) cl lines p
  obtain ⟨hup', hgen'⟩ := hl p
  exact ⟨hup.trans hup', hgen.trans hgen'⟩

/-- The checks of an access let it through as they did, while no lane has sent a write (R211, R234). -/
theorem Reaches.trails (h : Reaches s k t acc va n addrs lines) (hu : Trails s u) : Reaches u k t acc va n addrs lines := by
  obtain ⟨⟨p, x, hp, hc⟩, hd⟩ := h
  obtain ⟨ts, ls, rfl, hl, hw⟩ := hu
  refine ⟨⟨p, x, hp, (checkAccess_relinked hl ..).trans hc⟩, ?_⟩
  simp only [tableDirty, Bool.and_eq_false_iff, Bool.or_eq_false_iff] at hd ⊢
  refine hd.imp_right fun ⟨hthreads, hengines⟩ => ⟨List.any_eq_false.2 fun e he => ?_, hengines⟩
  simp only [List.any_eq_true, not_exists, not_and, Bool.and_eq_true] at hthreads ⊢
  intro o ho hwrites a ha
  obtain ⟨x, hx, hox⟩ := hw e he o ho hwrites
  simp only [List.any_eq_false, List.any_eq_true, not_exists, not_and, Bool.and_eq_true] at hthreads
  exact hthreads x hx o hox hwrites a ha

/-! ### The accesses of a set, lane by lane -/

/-- An access whose checks let it through goes on with its bytes, and its walk asks host memory. -/
theorem access_of_reaches (h : Reaches s k t acc va n addrs lines) (f : List Nat → List Nat → State) :
    s.access k t acc va n f = (f addrs lines).walkReads (keyCl k) lines := by
  obtain ⟨⟨p, x, hp, hc⟩, hd⟩ := h
  simp only [State.access, hp, hc, hd, Bool.false_eq_true, if_false]

/-- The state with another table of threads. -/
def withThreads (s : State) (ts : Map Thread) : State := { s with threads := ts }

theorem walkReads_withThreads (s : State) (ts : Map Thread) (cl : Nat) (lines : List Nat) :
    (withThreads s ts).walkReads cl lines = withThreads (s.walkReads cl lines) ts := by
  have hmessage : ∀ (u : State) port vc l, (withThreads u ts).postMessage port vc l = withThreads (u.postMessage port vc l) ts :=
    fun u port vc l => List.foldl_hom (withThreads · ts) fun _ _ => rfl
  have hrequest : ∀ (u : State) p kind keys data, (withThreads u ts).farRequest p kind keys data = withThreads (u.farRequest p kind keys data) ts :=
    fun u p kind keys data => List.foldl_hom (withThreads · ts) fun _ _ => hmessage ..
  exact List.foldl_hom (withThreads · ts) fun _ _ => hrequest ..

/-- The walks of some lanes ask host memory. -/
def walksOf (L : Nat → List Nat) (s : State) (xs : List (Nat × Thread)) : State :=
  xs.foldl (fun u x => u.walkReads (keyCl x.1) (L x.1)) s

theorem walksOf_withThreads (L : Nat → List Nat) (s : State) (ts : Map Thread) (xs : List (Nat × Thread)) :
    walksOf L (withThreads s ts) xs = withThreads (walksOf L s xs) ts :=
  List.foldl_hom (withThreads · ts) fun _ _ => walkReads_withThreads ..

theorem walksOf_threads (L : Nat → List Nat) (s : State) (xs : List (Nat × Thread)) : (walksOf L s xs).threads = s.threads :=
  foldl_field (·.threads) (fun _ _ => walkReads_threads ..) ..

theorem walksOf_curKeys (L : Nat → List Nat) (s : State) (xs : List (Nat × Thread)) : (walksOf L s xs).curKeys = s.curKeys :=
  foldl_field (·.curKeys)
    (fun _ _ => walkReads_field (·.curKeys) (farRequest_field (·.curKeys) (postMessage_field (·.curKeys) fun _ _ _ _ => rfl)) ..) ..

/-- One turn after another of the fold behind `State.forLanes`, each lane's walk asking host memory. -/
theorem foldl_walkLanes {L : Nat → List Nat} {f : State → Nat → Thread → State} {g : Nat → Thread → Thread} :
    ∀ ks : List Nat, ks.Nodup →
      (∀ k ∈ ks, ∀ t, s.thread k = some t → ∀ o ∈ (g k t).out, outWrites o = true → o ∈ t.out) →
      (∀ v, Trails s v → ∀ k ∈ ks, ∀ t, s.thread k = some t → f v k t = (v.putThread k (g k t)).walkReads (keyCl k) (L k)) →
      ∀ u, Trails s u → (∀ k ∈ ks, u.thread k = s.thread k) →
        let v := ks.foldl (fun s k => match s.thread k with
          | some t => f s k t
          | none => s) u
        withThreads v u.threads = walksOf L u (ks.filterMap fun k => (s.thread k).map fun t => (k, t)) ∧
          (∀ k, k ∉ ks → v.thread k = u.thread k) ∧ ∀ k ∈ ks, v.thread k = (s.thread k).map (g k) := by
  intro ks
  induction ks with
  | nil => exact fun _ _ _ u _ _ => ⟨rfl, fun _ _ => rfl, nofun⟩
  | cons k ks ih =>
    intro hn hg hf u hu hsame
    obtain ⟨hk, hn⟩ := List.nodup_cons.1 hn
    obtain ⟨hgk, hg⟩ := List.forall_mem_cons.1 hg
    have hf' := fun v hv => (List.forall_mem_cons.1 (hf v hv)).2
    obtain ⟨hsk, hsame⟩ := List.forall_mem_cons.1 hsame
    simp only [List.foldl_cons, hsk, List.filterMap_cons]
    cases hs : s.thread k with
    | none =>
      obtain ⟨hframe, hothers, hlanes⟩ := ih hn hg hf' u hu hsame
      refine ⟨hframe, fun j hj => hothers j fun h => hj (List.mem_cons_of_mem _ h), fun j hj => ?_⟩
      rcases List.mem_cons.1 hj with rfl | hj
      · rw [hothers _ hk, hsk, hs]
        rfl
      · exact hlanes j hj
    | some t =>
      have hstep : f u k t = withThreads (u.walkReads (keyCl k) (L k)) (mset u.threads k (g k t)) :=
        (hf u hu k (List.mem_cons_self ..) t hs).trans (walkReads_withThreads u _ _ _)
      have htrails : Trails s (f u k t) := by
        rw [hf u hu k (List.mem_cons_self ..) t hs]
        exact (hu.putThread hs (hgk t hs)).walkReads ..
      have hthread : ∀ j, (f u k t).thread j = if j = k then some (g k t) else u.thread j := fun j => by
        rw [hstep]
        exact mget_mset ..
      have hne : ∀ j ∈ ks, j ≠ k := fun j hj e => hk (e ▸ hj)
      obtain ⟨hframe, hothers, hlanes⟩ := ih hn hg hf' (f u k t) htrails fun j hj =>
        (hthread j).trans ((if_neg (hne j hj)).trans (hsame j hj))
      refine ⟨?_, fun j hj => ?_, fun j hj => ?_⟩
      · have hwalks : withThreads (walksOf L (f u k t) (ks.filterMap fun k => (s.thread k).map fun t => (k, t))) u.threads =
            walksOf L (u.walkReads (keyCl k) (L k)) (ks.filterMap fun k => (s.thread k).map fun t => (k, t)) := by
          rw [hstep, walksOf_withThreads]
          exact congrArg (withThreads _) ((walksOf_threads ..).trans (walkReads_threads ..)).symm
        exact (congrArg (withThreads · u.threads) hframe).trans hwalks
      · rw [List.mem_cons, not_or] at hj
        rw [hothers j hj.2, hthread, if_neg hj.1]
      · rcases List.mem_cons.1 hj with rfl | hj
        · rw [hothers _ hk, hthread, if_pos rfl, hs]
          rfl
        · exact hlanes j hj

/-- An instruction whose work in a lane is to put that lane's thread changed by `g`, with its walk's requests. -/
theorem eachLane_walkEffect (hn : s.curKeys.Nodup) {L : Nat → List Nat} {f : State → Nat → Thread → State} {g : Nat → Thread → Thread}
    (hg : ∀ k ∈ s.curKeys, ∀ t, s.thread k = some t → ∀ o ∈ (g k t).out, outWrites o = true → o ∈ t.out)
    (hf : ∀ u, Trails s u → ∀ k ∈ s.curKeys, ∀ t, s.thread k = some t → f u k t = (u.putThread k (g k t)).walkReads (keyCl k) (L k)) :
    ∃ u, s.eachLane f = .next u ∧ LanesTo (walked s L) u g := by
  have hthreads : (walked s L).threads = s.threads := walksOf_threads L s s.curThreads
  have hthread : ∀ k, (walked s L).thread k = s.thread k := fun k => congrArg (mget · k) hthreads
  have hkeys : (walked s L).curKeys = s.curKeys := walksOf_curKeys L s s.curThreads
  obtain ⟨hframe, hothers, hlanes⟩ := foldl_walkLanes s.curKeys hn hg hf s (Trails.refl s) fun _ _ => rfl
  refine ⟨_, rfl, ?_, fun k hk => ?_, fun k hk => ?_⟩
  · rw [hthreads]
    exact hframe
  · rw [hthread]
    exact hothers k (hkeys ▸ hk)
  · rw [hthread]
    exact hlanes k (hkeys ▸ hk)

end Sys2Proof.Safety
end

section
/-! Memory instructions, second part: loads, restores, stores and atomics at their issue (R236 to R242, R245, R446, R447). -/

namespace Sys2Proof.Safety

open Machine Laws

variable {s u : State} {k n op : Nat} {t t' : Thread} {d a b : Reg} {va x e : Word} {addrs lines : List Nat} {A L : Nat → List Nat}

/-! ### Operands -/

theorem acqCode_eq (acq : BitVec 1) : acqCode acq = acq.setWidth 2 := by
  obtain rfl | rfl := BitVec.eq_zero_or_eq_one acq <;> rfl

theorem relCode_eq (rel : BitVec 1) : relCode rel = 2 * rel.setWidth 2 := by
  obtain rfl | rfl := BitVec.eq_zero_or_eq_one rel <;> rfl

theorem regRange_length (d b : Reg) : (regRange d b).length = b.toNat + 1 - d.toNat := by simp [regRange]

theorem saveSize_eq (d b : Reg) (f : Bool) :
    saveSize d b f = 8 * (b.toNat + 1 - d.toNat) + (if f then 32 * (rangeStreams d b).length else 0) := by
  rw [saveSize, regRange_length]

/-! ### A lane retires with an operation sent (R236) -/

/-- A lane's thread that has retired with a read sent, `busy` still to be written. -/
def readSent (s : State) (t : Thread) (kind : OutKind) (va : Word) (addrs lines : List Nat) (order : BitVec 2) (scope : BitVec 3)
    (busy : List RegRef) : Thread :=
  retired (addBusy { t with ld := t.ld + 1, out := t.out ++ [opOf s t kind va addrs lines [] order scope 0] } busy) (t.pc + 4)

/-- A read adds no write to those its thread has outstanding. -/
theorem readSent_writes {kind : OutKind} {order : BitVec 2} {scope : BitVec 3} {busy : List RegRef}
    (hk : outWrites (opOf s t kind va addrs lines [] order scope 0) = false) :
    ∀ o ∈ (readSent s t kind va addrs lines order scope busy).out, outWrites o = true → o ∈ t.out := by
  intro o ho hwrites
  rcases List.mem_append.1 (show o ∈ t.out ++ [_] from ho) with ho | ho
  · exact ho
  · obtain rfl := List.mem_singleton.1 ho
    exact absurd hwrites (hk ▸ Bool.false_ne_true)

/-- Every lane of a set sends one read, whose bytes and walk its checks gave. -/
theorem eachLane_sendsRead (h : Ready s) {kind : Nat → Thread → OutKind} {va : Thread → Word} {order : BitVec 2} {scope : BitVec 3}
    {busy : List RegRef} {f : State → Nat → Thread → State}
    (hk : ∀ k t, outWrites (opOf s t (kind k t) (va t) (A k) (L k) [] order scope 0) = false)
    (hf : ∀ u, Trails s u → ∀ k ∈ s.curKeys, ∀ t, s.thread k = some t → f u k t =
      (u.finish k t (sendLoad t (opOf u t (kind k t) (va t) (A k) (L k) [] order scope 0) busy)).walkReads (keyCl k) (L k)) :
    ∃ u, s.eachLane f = .next u ∧
      LanesTo (walked s L) u fun k t => readSent s t (kind k t) (va t) (A k) (L k) order scope busy := by
  obtain ⟨hn, hpfx, hss⟩ := h
  refine eachLane_walkEffect hn (fun k _ t _ => readSent_writes (hk k t)) fun u hu j hj v hv => ?_
  rw [hf u hu j hj v hv]
  obtain ⟨ts, ls, rfl, -, -⟩ := hu
  rw [finish_eq _ _ _ _ (hss j hj v hv), width_none _ (by exact hpfx)]
  rfl

/-! ### Loads and restores (R237, R446, R447) -/

theorem stays_trails (h : Stays s k t va) (hu : Trails s u) : Stays u k t va := by
  obtain ⟨ts, ls, rfl, -, -⟩ := hu
  exact h

theorem loadLane_of_reaches (hstay : Stays s k t va) (h : Reaches s k t .read va n addrs lines) (hld : t.ld < 63) (dst : RegRef)
    (signed : Bool) (order : BitVec 2) (scope : BitVec 3) : s.loadLane k t dst signed n order scope va =
      (s.finish k t (sendLoad t (opOf s t (.load dst signed) va addrs lines [] order scope 0) [dst])).walkReads (keyCl k) lines := by
  rw [State.loadLane, orMigrate_stays hstay, access_of_reaches h, if_neg (not_le.2 hld)]
  rfl

section

variable (h : Ready s) (hld : ∀ k ∈ s.curKeys, ∀ t, s.thread k = some t → t.ld < 63) {va : Thread → Word} {sz : BitVec 2}
include h hld

theorem loadW_sends (hr : LanesReach s .read va (2 ^ sz.toNat) A L) (signed : Bool) (order : BitVec 2) (scope : BitVec 3) :
    ∃ u, loadW s d signed sz order scope va = .next u ∧
      LanesTo (walked s L) u fun k t => readSent s t (.load (.w d) signed) (va t) (A k) (L k) order scope [.w d] := by
  refine eachLane_sendsRead h (fun _ _ => rfl) fun u hu j hj v hv => ?_
  obtain ⟨hstay, hreach⟩ := hr j hj v hv
  exact loadLane_of_reaches (stays_trails hstay hu) (hreach.trails hu) (hld j hj v hv) ..

theorem loadF_sends (hr : LanesReach s .read va (2 ^ sz.toNat) A L) (hb : AllUnbound s) (order : BitVec 2) (scope : BitVec 3) :
    ∃ u, loadF s d sz order scope va = .next u ∧
      LanesTo (walked s L) u fun k t => readSent s t (.load (.f d) false) (va t) (A k) (L k) order scope [.f d] := by
  refine eachLane_sendsRead h (fun _ _ => rfl) fun u hu j hj v hv => ?_
  obtain ⟨hstay, hreach⟩ := hr j hj v hv
  rw [withF_unbound _ _ _ (hb j hj v hv)]
  exact loadLane_of_reaches (stays_trails hstay hu) (hreach.trails hu) (hld j hj v hv) ..

theorem mrsw_sends (hr : ∀ k ∈ s.curKeys, ∀ t, s.thread k = some t →
      Reaches s k t .read (readW t a) (8 * (b.toNat + 1 - d.toNat)) (A k) (L k)) :
    WalkEffect (.mrsw d a b) s L fun k t => readSent s t (.restoreW d b) (readW t a) (A k) (L k) 0 0 ((regRange d b).map .w) := by
  refine eachLane_sendsRead (kind := fun _ _ => .restoreW d b) (va := (readW · a)) h (fun _ _ => rfl) fun u hu j hj v hv => ?_
  rw [saveSize_eq, if_neg Bool.false_ne_true, Nat.add_zero, access_of_reaches ((hr j hj v hv).trails hu),
    if_neg (not_le.2 (hld j hj v hv))]
  rfl

/-- The stream records of a restore are read as it issues: every one is well formed (R447). -/
theorem mrsf_sends {R : Nat → Thread → List (Nat × Stream)} (hr : ∀ k ∈ s.curKeys, ∀ t, s.thread k = some t →
      Reaches s k t .read (readW t a) (8 * (b.toNat + 1 - d.toNat) + 32 * (rangeStreams d b).length) (A k) (L k) ∧
      badAmong s (A k) = none ∧ readReady t.out (opOf s t (.restoreW d b) (readW t a) (A k) (L k) [] 0 0 0) = true ∧
      restoredStreams d b ((A k).map (s.seen t.out)) = (R k t).map fun e => (e.1, some e.2)) :
    WalkEffect (.mrsf d a b) s L fun k t =>
      readSent s t (.restoreF d b (R k t)) (readW t a) (A k) (L k) 0 0 ((regRange d b).map .f) := by
  refine eachLane_sendsRead (kind := fun k t => .restoreF d b (R k t)) (va := (readW · a)) h (fun _ _ => rfl) fun u hu j hj v hv => ?_
  obtain ⟨hreach, hbad, hready, hstreams⟩ := hr j hj v hv
  rw [saveSize_eq, if_pos rfl, access_of_reaches (hreach.trails hu)]
  obtain ⟨ts, ls, rfl, -, -⟩ := hu
  have hsome : ((R j v).map fun e => (e.1, some e.2)).any (fun e => e.2.isNone) = false := by simp
  have hback : ((R j v).map fun e => (e.1, some e.2)).filterMap (fun e => e.2.map fun x => (e.1, x)) = R j v := by
    simp [List.filterMap_map]
  simp only [opOf] at hready
  simp only [seen_relinked, badAmong_relinked, free_relinked, hstreams, hbad, hsome, hback, hready, (hld j hj v hv).not_ge, if_false,
    Bool.not_true, Bool.and_false, Bool.false_eq_true]
  rfl

end

/-- Settles O14: each lane's load or restore passes its checks though the lanes before it have sent theirs, and retires with it sent. -/
theorem loadsAndRestoresRetireWithTheirReadOutstanding : Obligations.LoadsAndRestoresRetireWithTheirReadOutstanding := by
  refine ⟨?_, ?_⟩
  · rintro s h hld d a b off sz ord acq scope A L ea ia hea hia sent hsent
    obtain rfl : ea = fun t => offAddr t a off sz := funext hea
    obtain rfl : ia = fun t => idxAddr t a b sz := funext hia
    obtain rfl : sent = fun dst signed o c va k t => readSent s t (.load dst signed) (va t) (A k) (L k) o c [dst] := by
      funext dst signed o c va k t
      exact hsent ..
    rw [← acqCode_eq]
    exact ⟨fun hr => ⟨loadW_sends h hld hr .., fun _ => loadW_sends h hld hr .., fun hb => loadF_sends h hld hr hb ..⟩,
      fun hr => ⟨loadW_sends h hld hr .., fun _ => loadW_sends h hld hr .., fun hb => loadF_sends h hld hr hb ..⟩⟩
  · exact fun s h hld d a b A L _ => ⟨fun hr => mrsw_sends h hld hr, fun R hr => mrsf_sends h hld hr⟩

/-! ### Stores (R237, R245, R446) -/

/-- A lone thread's store that nothing refuses. -/
theorem storeLane_of_reaches (h : Lone s k t) {data : List Byte} {order : BitVec 2} {scope : BitVec 3}
    (hr : Reaches s k t .write va data.length addrs lines) (hctl : ctlRefuses addrs data = false)
    (hcal : calendarRefuses s addrs data = false) (hst : t.st < 63) :
    s.storeLane k t t order scope va data = ((issueWrite s k).putThread k (retired { t with
      st := t.st + 1, out := t.out ++ [opOf s t .store va addrs lines data order scope (nextSerial s k)] } (t.pc + 4))).walkReads
        (keyCl k) lines := by
  obtain ⟨-, -, hpfx, hss⟩ := h
  rw [State.storeLane, access_of_reaches hr]
  simp only [hctl, hcal, hst.not_ge, Bool.false_eq_true, if_false]
  rw [finish_eq _ _ _ _ hss, width_none _ (show (s.nextWrite k).1.cur.pfx = none from hpfx)]
  rfl

/-- An instruction whose work in a lane is a store. -/
theorem storeSent_of_exec (h : Lone s k t) {i : Instr} {data : List Byte} {order : BitVec 2} {scope : BitVec 3}
    (hi : exec i s = .next (s.storeLane k t t order scope va data)) : StoreSent i s k t va data order scope :=
  fun _ _ hr hctl hcal hst => hi.trans (congrArg _ (storeLane_of_reaches h hr hctl hcal hst))

theorem storeW_lone (h : Lone s k t) {va : Thread → Word} (hstay : Stays s k t (va t)) (sz order : BitVec 2) (scope : BitVec 3) :
    storeW s d sz order scope va = .next (s.storeLane k t t order scope (va t) (leBytes (2 ^ sz.toNat) (readW t d).toNat)) := by
  rw [storeW, eachLane_lone h, orMigrate_stays hstay]
  rfl

theorem storeF_lone (h : Lone s k t) (hu : Unbound t) {va : Thread → Word} (hstay : Stays s k t (va t)) (sz order : BitVec 2)
    (scope : BitVec 3) :
    storeF s d sz order scope va = .next (s.storeLane k t t order scope (va t) (leBytes (2 ^ sz.toNat) (readF t d).toNat)) := by
  rw [storeF, eachLane_lone h, withF_unbound _ _ _ hu, orMigrate_stays hstay]
  rfl

/-- Settles O15: each store's work in its lane is one `storeLane` at the address it computes. -/
theorem storesRetireWithTheirWriteOutstanding : Obligations.StoresRetireWithTheirWriteOutstanding := by
  rintro s k t h d a b off sz ord rel scope _ _ rfl rfl
  rw [← relCode_eq]
  exact ⟨fun hstay => ⟨storeSent_of_exec h (storeW_lone (va := fun t => offAddr t a off sz) h hstay ..),
      fun hu => storeSent_of_exec h (storeF_lone (va := fun t => offAddr t a off sz) h hu hstay ..)⟩,
    fun hstay => ⟨storeSent_of_exec h (storeW_lone (va := fun t => idxAddr t a b sz) h hstay ..),
      fun hu => storeSent_of_exec h (storeF_lone (va := fun t => idxAddr t a b sz) h hu hstay ..)⟩,
    storeSent_of_exec h (eachLane_lone h _),
    fun _ => ⟨storeSent_of_exec h (eachLane_lone h _), storeSent_of_exec h (eachLane_lone h _)⟩⟩

/-! ### Atomics (R240, R242) -/

/-- The state once a lone thread has retired with an atomic sent. -/
def atomicSent (s : State) (k : Nat) (t : Thread) (op : Nat) (dst : RegRef) (va x e : Word) (addrs lines : List Nat) (order : BitVec 2)
    (scope : BitVec 3) (busy : List RegRef) : State :=
  ((issueWrite s k).putThread k (retired (addBusy { t with
    ld := t.ld + 1, out := t.out ++ [opOf s t (.atomic op dst x e) va addrs lines [] order scope (nextSerial s k)] } busy)
      (t.pc + 4))).walkReads (keyCl k) lines

/-- A lone thread's aligned atomic that nothing refuses. -/
theorem atomicLane_of_reaches (h : Lone s k t) (hstay : Stays s k t va) (halign : va.toNat % n = 0)
    (hr : Reaches s k t .write va n addrs lines) (hbar : atomicBarred s k op addrs = false) (hld : t.ld < 63) (order : BitVec 2)
    (scope : BitVec 3) (dst : RegRef) (x e : Word) : s.atomicLane k t t op n order scope va dst x e =
      atomicSent s k t op dst va x e addrs lines order scope (dst :: (if op / 2 = 9 then [.p 1] else [])) := by
  obtain ⟨-, -, hpfx, hss⟩ := h
  rw [State.atomicLane, orMigrate_stays hstay, if_neg (not_not.2 halign), access_of_reaches hr]
  simp only [hbar, hld.not_ge, Bool.false_eq_true, if_false]
  rw [finish_eq _ _ _ _ hss, width_none _ (show (s.nextWrite k).1.cur.pfx = none from hpfx)]
  rfl

theorem atomicW_sends (h : Lone s k t) (hstay : Stays s k t (readW t a)) {z : BitVec 1}
    (halign : (readW t a).toNat % (if z = 1 then 8 else 4) = 0)
    (hr : Reaches s k t .write (readW t a) (if z = 1 then 8 else 4) addrs lines) {i : Nat}
    (hbar : atomicBarred s k (atomicCode i z) addrs = false) (hld : t.ld < 63) (order : BitVec 2) (scope : BitVec 3) :
    atomicW s i d a b z order scope = .next (atomicSent s k t (atomicCode i z) (.w d) (readW t a) (readW t b) (readW t d) addrs lines
      order scope (.w d :: (if atomicCode i z / 2 = 9 then [.p 1] else []))) := by
  rw [atomicW, eachLane_lone h, atomicLane_of_reaches h hstay halign hr hbar hld]

theorem atomicF_sends (h : Lone s k t) (hu : Unbound t) (hstay : Stays s k t (readW t a)) (halign : (readW t a).toNat % n = 0)
    (hr : Reaches s k t .write (readW t a) n addrs lines) (hop : op / 2 ≠ 9) (hbar : atomicBarred s k op addrs = false) (hld : t.ld < 63)
    (order : BitVec 2) (scope : BitVec 3) : atomicF s op n d a b order scope =
      .next (atomicSent s k t op (.f d) (readW t a) (readF t b) 0 addrs lines order scope [.f d]) := by
  rw [atomicF, eachLane_lone h, withF_unbound _ _ _ hu, atomicLane_of_reaches h hstay halign hr hbar hld, if_neg hop]

theorem atomicCode_div (i : Nat) (z : BitVec 1) : atomicCode i z / 2 = i := by
  have := z.isLt
  unfold atomicCode
  omega

theorem atomicCode_lt {i : Nat} (hi : i < 10) (z : BitVec 1) : atomicCode i z < 20 := by
  have := atomicCode_div i z
  omega

/-- Settles O20: each atomic's work in its lane is one `atomicLane` with its operation's code. -/
theorem atomicsRetireWithTheirOperationOutstanding : Obligations.AtomicsRetireWithTheirOperationOutstanding := by
  intro s k t h hld d a b z ord scope hstay addrs lines sent hsent
  obtain rfl : sent = fun op dst x e busy => atomicSent s k t op dst (readW t a) x e addrs lines ord scope busy := by
    funext op dst x e busy
    exact hsent ..
  refine ⟨fun halign hr hbar f hf => ?_, fun hu halign hr hbar => atomicF_sends h hu hstay halign hr (by decide) hbar hld ..,
    fun hu halign hr hbar => atomicF_sends h hu hstay halign hr (by decide) hbar hld ..⟩
  have hrow : ∀ i, i < 10 → atomicW s i d a b z ord scope = .next (atomicSent s k t (atomicCode i z) (.w d) (readW t a) (readW t b)
      (readW t d) addrs lines ord scope (.w d :: (if i = 9 then [.p 1] else []))) := fun i hi => by
    rw [atomicW_sends h hstay halign hr (hbar _ (atomicCode_lt hi z)) hld, atomicCode_div]
  have hplain : ∀ i, i < 9 → atomicW s i d a b z ord scope = f i := fun i hi =>
    (hrow i (by omega)).trans (by rw [hf i, if_neg hi.ne]; rfl)
  exact ⟨hplain 0 (by decide), hplain 1 (by decide), hplain 2 (by decide), hplain 3 (by decide), hplain 4 (by decide),
    hplain 5 (by decide), hplain 6 (by decide), hplain 7 (by decide), hplain 8 (by decide), hrow 9 (by decide)⟩

end Sys2Proof.Safety
end

section
/-! Memory instructions, third part: a load, a restore or a `qlen` performed (R236, R237, R264, R446, R447). -/

namespace Sys2Proof.Safety

open Machine

variable {s u : State} {k i n m : Nat} {t : Thread} {o : OutOp} {d b r : Reg} {v : Word}

/-! ### Registers restored (R446) -/

/-- What no write of a register of a restore changes is as it was. -/
theorem restoreRegs_field {α : Type} (g : Thread → α) {rs : List RegRef} (hg : ∀ x ∈ rs, ∀ t v, g (setReg t x v) = g t) (t : Thread)
    (bs : List Byte) : g (restoreRegs t rs bs) = g t :=
  List.foldlRecOn (motive := fun u => g u = g t) _ _ rfl fun _ hu e he => (hg e.2 (List.of_mem_zip he).2 ..).trans hu

/-- The registers of a range, with their places in it. -/
theorem indexed_regRange (reg : Reg → RegRef) (d b : Reg) : indexed ((regRange d b).map reg) =
    (List.range (b.toNat + 1 - d.toNat)).map fun j => (j, reg (d + BitVec.ofNat 5 j)) := by
  refine List.ext_getElem (by simp [indexed, regRange]) fun j _ _ => ?_
  simp [indexed, regRange]

/-- A register of the range reads its word of the restore, and another reads as before. -/
theorem read_restoreRegs {reg : Reg → RegRef} {read : Thread → Reg → Word}
    (hread : ∀ t e v, read (setReg t (reg e) v) r = if r = e then v else read t r) (t : Thread) (bs : List Byte) :
    read (restoreRegs t ((regRange d b).map reg) bs) r =
      if d.toNat ≤ r.toNat ∧ r.toNat ≤ b.toNat then word (wordRead bs (r.toNat - d.toNat)) else read t r := by
  have hrange : ∀ n, d.toNat + n ≤ 32 →
      read (((List.range n).map fun j => (j, reg (d + BitVec.ofNat 5 j))).foldl (fun t e => setReg t e.2 (word (wordRead bs e.1))) t) r =
        if d.toNat ≤ r.toNat ∧ r.toNat < d.toNat + n then word (wordRead bs (r.toNat - d.toNat)) else read t r := by
    intro n
    induction n with
    | zero => exact fun _ => (if_neg (by omega)).symm
    | succ n ih =>
      intro hn
      have hplace : r = d + BitVec.ofNat 5 n ↔ r.toNat = d.toNat + n := by
        rw [← BitVec.toNat_inj, BitVec.toNat_add, BitVec.toNat_ofNat, Nat.add_mod_mod, Nat.mod_eq_of_lt (by omega)]
      rw [List.range_succ, List.map_append, List.foldl_append]
      simp only [List.map_cons, List.map_nil, List.foldl_cons, List.foldl_nil, hread, hplace, ih (by omega)]
      by_cases hr : r.toNat = d.toNat + n
      · rw [if_pos hr, if_pos (by omega), hr, Nat.add_sub_cancel_left]
      · rw [if_neg hr]
        exact if_congr (by omega) rfl rfl
  have hb := b.isLt
  rw [restoreRegs, indexed_regRange]
  by_cases hdb : d.toNat ≤ b.toNat
  · rw [hrange _ (by omega)]
    exact if_congr (by omega) rfl rfl
  · rw [show b.toNat + 1 - d.toNat = 0 by omega, hrange 0 (by omega), if_neg (by omega), if_neg (by omega)]

/-! ### Streams restored (R447) -/

theorem streamOf_putStream_other {x : Machine.Stream} (h : m ≠ n) : streamOf (putStream t n x) m = streamOf t m := by
  unfold streamOf putStream
  simp [List.getD_eq_getElem?_getD, List.getElem?_set_ne h.symm]

/-- The thread with the streams of a restore. -/
def withStreams (t : Thread) (streams : List (Nat × Machine.Stream)) : Thread :=
  streams.foldl (fun t e => putStream t e.1 { e.2 with bind := (streamOf t e.1).bind + 1 }) t

theorem withStreams_field {α : Type} (g : Thread → α) (hg : ∀ t n x, g (putStream t n x) = g t) (t : Thread)
    (streams : List (Nat × Machine.Stream)) : g (withStreams t streams) = g t :=
  List.foldlRecOn (motive := fun u => g u = g t) _ _ rfl fun _ hu _ _ => (hg ..).trans hu

theorem streamOf_withStreams_other (streams : List (Nat × Machine.Stream)) (h : n ∉ streams.map (·.1)) :
    streamOf (withStreams t streams) n = streamOf t n :=
  List.foldlRecOn (motive := fun u => streamOf u n = streamOf t n) _ _ rfl fun _ hu _ he =>
    (streamOf_putStream_other (ne_of_mem_of_not_mem (List.mem_map_of_mem he) h).symm).trans hu

/-- Each stream is as restored, in a binding of its own. -/
theorem streamOf_withStreams {streams : List (Nat × Machine.Stream)} (hn : (streams.map (·.1)).Nodup) (hlt : ∀ e ∈ streams, e.1 < 4)
    {e : Nat × Machine.Stream} (he : e ∈ streams) (t : Thread) :
    { streamOf (withStreams t streams) e.1 with bind := e.2.bind } = e.2 := by
  induction streams generalizing t with
  | nil => exact absurd he List.not_mem_nil
  | cons x streams ih =>
    rw [List.map_cons, List.nodup_cons] at hn
    obtain ⟨hx, hlt⟩ := List.forall_mem_cons.1 hlt
    rcases List.mem_cons.1 he with rfl | he
    · have hlast := streamOf_withStreams_other (t := putStream t e.1 { e.2 with bind := (streamOf t e.1).bind + 1 }) streams hn.1
      rw [streamOf_putStream hx] at hlast
      exact congrArg (fun y : Machine.Stream => { y with bind := e.2.bind }) hlast
    · exact ih hn.2 hlt he _

/-- The reads ahead that a restore gives up change no thread and no byte of memory. -/
theorem restoreStreams_eq (s : State) (k : Nat) (t : Thread) (streams : List (Nat × Machine.Stream)) :
    (s.restoreStreams k t streams).mem = s.mem ∧
      ∀ j, (s.restoreStreams k t streams).thread j = if j = k then some (withStreams t streams) else s.thread j := by
  have hdrop : (streams.foldl (fun s e => s.dropRead k e.1) s).threads = s.threads :=
    foldl_field (·.threads) (f := fun s (e : Nat × Machine.Stream) => s.dropRead k e.1) (fun _ _ => rfl) ..
  have hmem : (streams.foldl (fun s e => s.dropRead k e.1) s).mem = s.mem :=
    foldl_field (·.mem) (f := fun s (e : Nat × Machine.Stream) => s.dropRead k e.1) (fun _ _ => rfl) ..
  refine ⟨hmem, fun j => (thread_putThread ..).trans ?_⟩
  rw [State.thread, hdrop]
  rfl

/-! ### A read performed (R7, R236) -/

/-- The state once a read's request has left and is counted. -/
def asked (s : State) (k : Nat) (o : OutOp) : State := (asking s k 0 o.addrs []).countAccess k o

/-- Within the device nothing leaves it: the request is counted, and no more (R424). -/
theorem asked_near (h : ∀ a ∈ o.addrs, portOf a = none) : asked s k o = { s with packets := (asked s k o).packets } := by
  have hasked : asked s k o = s.countAccess k o := congrArg (·.countAccess k o) (farRequest_near _ _ _ _ _ h)
  rw [hasked]
  rfl

@[simp] theorem asked_mem : (asked s k o).mem = s.mem := farRequest_mem ..
@[simp] theorem asked_thread (j : Nat) : (asked s k o).thread j = s.thread j := congrArg (mget · j) (farRequest_threads ..)
theorem asked_cluster (cl : Nat) : (asked s k o).cluster cl = s.cluster cl := cluster_of_clusters (farRequest_clusters ..) cl

/-- A write of a register with no stream bound is plain. -/
theorem writeReg_unbound (hu : Unbound t) : s.writeReg k i t o (.f d) v = (s, setF t d v) := by
  have hnone : (setF t d v).out[t.out.length]? = none := List.getElem?_eq_none le_rfl
  simp only [State.writeReg, Laws.writeF_unbound _ _ _ hu, placeLast, hnone]

theorem Performs.read (h : Performs s k i t o) (hk : outWrites o = false) :
    s.drainThread k = some t ∧ t.out[i]? = some o ∧ linkHeld s false o.addrs = none := by
  obtain ⟨ht, hdrain, ho, hheld⟩ := h
  exact ⟨(if_pos hdrain).trans ht, ho, hk ▸ hheld⟩

section

variable (h : Performs s k i t o) (hbad : badAmong s o.addrs = none) (hready : readReady (t.out.take i) o = true)
include h hbad hready

theorem exec_loadPerformed_load {dst : RegRef} {signed : Bool} (hk : o.kind = .load dst signed) :
    exec (.loadPerformed k i) s = .next
      (((asked s k o).writeReg k i (unBusy (landLoad t i) [dst]) o dst (loadValue signed (o.addrs.map (s.seen (t.out.take i))))).1.putThread k
        ((asked s k o).writeReg k i (unBusy (landLoad t i) [dst]) o dst (loadValue signed (o.addrs.map (s.seen (t.out.take i))))).2) := by
  obtain ⟨ht, ho, hheld⟩ := h.read (by rw [outWrites, hk])
  show execLoadPerformed k i s = _
  simp only [execLoadPerformed, ht, ho, hready, hheld, hbad, hk, Bool.not_true, Bool.false_eq_true, if_false]
  rfl

theorem exec_loadPerformed_restoreW (hk : o.kind = .restoreW d b) : exec (.loadPerformed k i) s = .next ((asked s k o).putThread k
    (restoreRegs (unBusy (landLoad t i) ((regRange d b).map .w)) ((regRange d b).map .w) (o.addrs.map (s.seen (t.out.take i))))) := by
  obtain ⟨ht, ho, hheld⟩ := h.read (by rw [outWrites, hk])
  show execLoadPerformed k i s = _
  simp only [execLoadPerformed, ht, ho, hready, hheld, hbad, hk, Bool.not_true, Bool.false_eq_true, if_false]
  rfl

theorem exec_loadPerformed_restoreF {streams : List (Nat × Machine.Stream)} (hk : o.kind = .restoreF d b streams) :
    exec (.loadPerformed k i) s = .next ((asked s k o).restoreStreams k
      (restoreRegs (unBusy (landLoad t i) ((regRange d b).map .f)) ((regRange d b).map .f) (o.addrs.map (s.seen (t.out.take i)))) streams) := by
  obtain ⟨ht, ho, hheld⟩ := h.read (by rw [outWrites, hk])
  show execLoadPerformed k i s = _
  simp only [execLoadPerformed, ht, ho, hready, hheld, hbad, hk, Bool.not_true, Bool.false_eq_true, if_false]
  rfl

theorem exec_loadPerformed_queueLen {cl q : Nat} (hk : o.kind = .queueLen d cl q) :
    exec (.loadPerformed k i) s = .next ((asked s k o).putThread k (setW (unBusy (landLoad t i) [.w d]) d
      (word (((mget (s.cluster cl).fifos q).map fun f => f.entries.length).getD 0)))) := by
  obtain ⟨ht, ho, hheld⟩ := h.read (by rw [outWrites, hk])
  rw [← asked_cluster (k := k) (o := o)]
  show execLoadPerformed k i s = _
  simp only [execLoadPerformed, ht, ho, hready, hheld, hbad, hk, Bool.not_true, Bool.false_eq_true, if_false]
  rfl

end

/-- What a restore of w registers leaves of its thread. -/
theorem restoredW_thread (t : Thread) (i : Nat) (bs : List Byte) :
    let v := restoreRegs (unBusy (landLoad t i) ((regRange d b).map .w)) ((regRange d b).map .w) bs
    v.ld = t.ld - 1 ∧ v.pc = t.pc ∧ v.f = t.f ∧ v.p = t.p ∧ ∀ r : Reg, readW v r =
      if r ≠ 0 ∧ d.toNat ≤ r.toNat ∧ r.toNat ≤ b.toNat then word (wordRead bs (r.toNat - d.toNat)) else readW t r := by
  have hkeep : ∀ {α : Type} (g : Thread → α), (∀ t e v, g (setW t e v) = g t) →
      g (restoreRegs (unBusy (landLoad t i) ((regRange d b).map .w)) ((regRange d b).map .w) bs) =
        g (unBusy (landLoad t i) ((regRange d b).map .w)) := fun g hg =>
    restoreRegs_field g (by
      intro x hx t v
      obtain ⟨e, -, rfl⟩ := List.mem_map.1 hx
      exact hg t e v) ..
  refine ⟨hkeep (·.ld) setW_ld, hkeep (·.pc) setW_pc, hkeep (·.f) setW_f, hkeep (·.p) setW_p, fun r => ?_⟩
  by_cases hr : r = 0
  · rw [hr, readW_zero, readW_zero, if_neg (by simp)]
  · rw [read_restoreRegs (reg := .w) (read := readW) fun t e v => (readW_setW t e r v).trans (if_neg hr)]
    exact if_congr (and_iff_right hr).symm rfl rfl

/-- What a restore of f registers, with its streams, leaves of its thread. -/
theorem restoredF_thread (t : Thread) (i : Nat) (bs : List Byte) (streams : List (Nat × Machine.Stream)) :
    let w := withStreams (restoreRegs (unBusy (landLoad t i) ((regRange d b).map .f)) ((regRange d b).map .f) bs) streams
    w.ld = t.ld - 1 ∧ w.pc = t.pc ∧ w.w = t.w ∧ w.p = t.p ∧ w.out = (landLoad t i).out ∧ (∀ r : Reg, readF w r =
      if d.toNat ≤ r.toNat ∧ r.toNat ≤ b.toNat then word (wordRead bs (r.toNat - d.toNat)) else readF t r) ∧
      ∀ n, n ∉ streams.map (·.1) → streamOf w n = streamOf t n := by
  have hkeep : ∀ {α : Type} (g : Thread → α), (∀ t e v, g (setF t e v) = g t) →
      g (restoreRegs (unBusy (landLoad t i) ((regRange d b).map .f)) ((regRange d b).map .f) bs) =
        g (unBusy (landLoad t i) ((regRange d b).map .f)) := fun g hg =>
    restoreRegs_field g (by
      intro x hx t v
      obtain ⟨e, -, rfl⟩ := List.mem_map.1 hx
      exact hg t e v) ..
  have hboth : ∀ {α : Type} (g : Thread → α), (∀ t n x, g (putStream t n x) = g t) → (∀ t e v, g (setF t e v) = g t) →
      g (withStreams (restoreRegs (unBusy (landLoad t i) ((regRange d b).map .f)) ((regRange d b).map .f) bs) streams) =
        g (unBusy (landLoad t i) ((regRange d b).map .f)) := fun g hput hset => (withStreams_field g hput ..).trans (hkeep g hset)
  refine ⟨hboth (·.ld) (fun _ _ _ => rfl) setF_ld, hboth (·.pc) (fun _ _ _ => rfl) setF_pc, hboth (·.w) (fun _ _ _ => rfl) setF_w,
    hboth (·.p) (fun _ _ _ => rfl) setF_p, hboth (·.out) (fun _ _ _ => rfl) setF_out, fun r => ?_, fun n hn => ?_⟩
  · exact (withStreams_field (readF · r) (fun _ _ _ => rfl) ..).trans (read_restoreRegs (fun t e v => readF_setF t e r v) ..)
  · exact (streamOf_withStreams_other streams hn).trans (hkeep (streamOf · n) fun _ _ _ => rfl)

/-- Settles O17: each kind of read writes what its bytes say, and the state it leaves is the one whose request was counted. -/
theorem loadPerformedWritesItsDestination : Obligations.LoadPerformedWritesItsDestination := by
  rintro s k i t o h hbad hready _ rfl _ rfl
  refine ⟨asked_near, ?_⟩
  rintro _ rfl
  refine ⟨fun d signed hk => ?_, fun d signed hu hk hsigned => ?_, fun d b hk => ?_, fun d b streams hk hn hlt => ?_, fun d cl q hk => ?_⟩
  · exact exec_loadPerformed_load h hbad hready hk
  · subst hsigned
    rw [exec_loadPerformed_load h hbad hready hk, writeReg_unbound (t := unBusy (landLoad t i) [.f d]) hu]
    rfl
  · exact ⟨_, exec_loadPerformed_restoreW h hbad hready hk, restoredW_thread ..⟩
  · obtain ⟨hmem, hthread⟩ := restoreStreams_eq (asked s k o) k
      (restoreRegs (unBusy (landLoad t i) ((regRange d b).map .f)) ((regRange d b).map .f) (o.addrs.map (s.seen (t.out.take i)))) streams
    obtain ⟨hld, hpc, hw, hp, hout, hf, hothers⟩ := restoredF_thread (d := d) (b := b) t i (o.addrs.map (s.seen (t.out.take i))) streams
    exact ⟨_, _, exec_loadPerformed_restoreF h hbad hready hk, (hthread k).trans (if_pos rfl), hmem.trans asked_mem,
      fun j hj => (hthread j).trans ((if_neg hj).trans (asked_thread j)), hld, hpc, hw, hp, hout, hf,
      fun e he => streamOf_withStreams hn hlt he _, fun n _ hn => hothers n hn⟩
  · exact exec_loadPerformed_queueLen h hbad hready hk

end Sys2Proof.Safety
end

section
/-! Queues, first part: the queue instructions at their issue (R261 to R264). -/

namespace Sys2Proof.Safety

open Machine Laws

variable {s u : State} {k cl q : Nat} {t t' : Thread} {d a b : Reg} {h : Word}

theorem Lone.pfx (hl : Lone s k t) : s.cur.pfx = none := by
  obtain ⟨-, -, hpfx, -⟩ := hl
  exact hpfx

/-- A lone thread retires at the next instruction, in any state with no prefix. -/
theorem Lone.finish (hl : Lone s k t) (hu : u.cur.pfx = none) (t' : Thread) :
    u.finish k t t' = u.putThread k (retired t' (t.pc + 4)) := by
  obtain ⟨-, -, -, hss⟩ := hl
  rw [finish_eq _ _ _ _ hss, width_none _ hu]

theorem parkAt_of_park_none (ht : t.park = none) (why : ParkWhy) :
    s.parkAt k t why = s.putThread k { t with park := some { why := why, since := s.cyc } } := by
  rw [State.parkAt, parked, ht]

/-- The handle of a queue that a thread may use reaches it. -/
theorem FifoHandle.withQueue (hq : FifoHandle s k h cl q) (t : Thread) (f : Nat → Nat → State) : s.withQueue k t h f = f cl q := by
  obtain ⟨hqueue, hpart, hbusy, hmode⟩ := hq
  simp [State.withQueue, hqueue, hpart, hbusy, hmode]

section

variable (hl : Lone s k t) (hq : FifoHandle s k (readW t a) cl q)
include hl hq

theorem exec_qpush_room (hst : t.st < 63) (hpushes : (s.fifo cl q).pushes = [])
    (hroom : (s.fifo cl q).entries.length + (pushesTo s cl q).length < 1024) :
    exec (.qpush a b) s = .next ((sends s (k / 256) (.push k t.uid cl q (readW t b) (k / 256) (s.stampOf k))).putThread k
      (retired { t with st := t.st + 1 } (t.pc + 4))) := by
  refine (eachLane_lone hl _).trans (congrArg _ ((hq.withQueue t _).trans ?_))
  rw [if_neg (not_le.2 hst), hpushes, decide_eq_true hroom]
  exact (if_pos rfl).trans (hl.finish (by exact hl.pfx) _)

theorem exec_qpop (hld : t.ld < 63) (hpark : t.park = none) :
    exec (.qpop d a) s = .next ((sends s (k / 256) (.pop k cl q d false)).putThread k
      { t with park := some { why := .queuePop, since := s.cyc } }) := by
  refine (eachLane_lone hl _).trans (congrArg _ ((hq.withQueue t _).trans ?_))
  rw [if_neg (not_le.2 hld)]
  exact parkAt_of_park_none hpark _

theorem exec_qtry (hld : t.ld < 63) :
    exec (.qtry d a) s = .next ((sends s (k / 256) (.pop k cl q d true)).putThread k
      (retired (sendLoad t (tokenOp s t (.popWait d)) [.w d, .p 1]) (t.pc + 4))) := by
  refine (eachLane_lone hl _).trans (congrArg _ ((hq.withQueue t _).trans ?_))
  rw [if_neg (not_le.2 hld)]
  exact hl.finish (by exact hl.pfx) _

theorem exec_qlen (hld : t.ld < 63) :
    exec (.qlen d a) s = .next (s.putThread k (retired (sendLoad t (tokenOp s t (.queueLen d cl q)) [.w d]) (t.pc + 4))) := by
  refine (eachLane_lone hl _).trans (congrArg _ ((hq.withQueue t _).trans ?_))
  rw [if_neg (not_le.2 hld)]
  exact hl.finish (by exact hl.pfx) _

end

/-- Settles O23: with a handle that passes its checks and a counter that may rise, each instruction sends its request. -/
theorem queueInstructionsComplete : Obligations.QueueInstructionsComplete :=
  fun _ _ _ hl _ _ _ _ _ hq => ⟨exec_qpush_room hl hq, exec_qpop hl hq, exec_qtry hl hq, exec_qlen hl hq⟩

end Sys2Proof.Safety
end

section
/-! Work lists, ready queues, messages, receives, wakes and sleeps at their issue (R266, R267, R269, R270, R322, R323). -/

namespace Sys2Proof.Safety

open Machine Laws

variable {s : State} {k dst core stamp : Nat} {t : Thread} {d a b : Reg} {e : BitVec 4} {n : Fin 4} {c : Core} {v v0 v1 : Word}

/-! ### What the instructions share -/

/-- An SC instruction of a lone thread on an SC is its work in that lane. -/
theorem scOnly_lone (hl : Lone s k t) (hsc : OnSC s) (f : State → Nat → Thread → State) :
    (.next (s.scOnly fun s => s.forLanes f) : Out) = .next (f s k t) := by
  rw [State.scOnly, State.onGC, show isSC s.cur.core = true from hsc, if_neg (by decide), lone_forLanes _ _ _ hl]

theorem modCore_eq_withCore (f : Core → Core) :
    s.modCore (keyCl k) (keyCore k) f = withCore s k (f (s.core (keyCl k) (keyCore k))) := rfl

/-- The name of a thread of the same partition passes its checks. -/
theorem NamesThread.withName {w : Word} (hn : NamesThread s k w dst) (t : Thread) (f : Nat → State) : s.withName k t w f = f dst := by
  obtain ⟨hname, hpart⟩ := hn
  simp [State.withName, hname, hpart]

theorem Released.withReleased (hr : Released t) (s : State) (k : Nat) (f : State) : s.withReleased k t f = f := by
  refine if_pos (List.all_eq_true.2 fun o ho => ?_)
  obtain ⟨hreads, hwrites, hacquires⟩ := hr o ho
  rw [hreads, hwrites, hacquires]
  rfl

/-! ### Work lists (R266) -/

section

variable (hl : Lone s k t) (hsc : OnSC s) (hc : c = s.core (keyCl k) (keyCore k))
include hl hsc hc

theorem exec_wlpush_room (hroom : c.work.length < 256) : exec (.wlpush a b) s =
    .next ((withCore s k { c with work := (readW t a, readW t b, k / 256, c.wIssue) :: c.work }).putThread k
      (retired (setP t 1 true) (t.pc + 4))) := by
  subst hc
  refine (scOnly_lone hl hsc _).trans (congrArg _ ?_)
  exact (if_pos hroom).trans (hl.finish (by exact hl.pfx) _)

theorem exec_wlpush_full (hfull : 256 ≤ c.work.length) :
    exec (.wlpush a b) s = .next (s.putThread k (retired (setP t 1 false) (t.pc + 4))) := by
  subst hc
  refine (scOnly_lone hl hsc _).trans (congrArg _ ?_)
  exact (if_neg (not_lt.2 hfull)).trans (hl.finish hl.pfx _)

theorem exec_wlpop_empty (hwork : c.work = []) :
    exec (.wlpop e) s = .next (s.putThread k (retired (setP t 1 false) (t.pc + 4))) := by
  subst hc
  refine (scOnly_lone hl hsc _).trans (congrArg _ ?_)
  rw [hwork]
  exact hl.finish hl.pfx _

theorem exec_wlpop_cons {rest : List (Word × Word × Nat × Nat)} (hwork : c.work = (v0, v1, core, stamp) :: rest) : exec (.wlpop e) s =
    .next ((withCore s k { c with work := rest }).putThread k (retired (setP (addBusy { t with
      out := t.out ++ [tokenOf s t (.work (pairReg e) v0 v1 core stamp)] } [.w (pairReg e), .w (pairReg e + 1)]) 1 true) (t.pc + 4))) := by
  subst hc
  refine (scOnly_lone hl hsc _).trans (congrArg _ ?_)
  rw [hwork]
  exact hl.finish (by exact hl.pfx) _

/-! ### Ready queues (R267) -/

theorem exec_rqpush_room (hn : n.val = (readW t a).toNat % 4) (hroom : c.ready[n].length < 16) : exec (.rqpush a b) s =
    .next ((withCore s k { c with ready := c.ready.set n (c.ready[n] ++ [readW t b]) }).putThread k (retired t (t.pc + 4))) := by
  subst hc
  obtain rfl : n = ⟨(readW t a).toNat % 4, Nat.mod_lt _ (by decide)⟩ := Fin.ext hn
  refine (scOnly_lone hl hsc _).trans (congrArg _ ?_)
  exact (if_neg (not_le.2 hroom)).trans (hl.finish (by exact hl.pfx) _)

omit hl hsc hc in
theorem topReady_none (hempty : ∀ n : Fin 4, c.ready[n] = []) : topReady c = none := by
  simp only [topReady, hempty, List.isEmpty_nil, List.find?_eq_none]
  decide

omit hl hsc hc in
/-- The ready queue served is the one of the highest priority that is not empty. -/
theorem topReady_eq (hne : c.ready[n] ≠ []) (hempty : ∀ m : Fin 4, n < m → c.ready[m] = []) : topReady c = some n := by
  have hsplit : ∀ n : Fin 4, [3, 2, 1, 0] = [3, 2, 1, 0].filter (n < ·) ++ n :: [3, 2, 1, 0].filter (· < n) := by decide
  refine List.find?_eq_some_iff_append.2 ⟨by simpa using hne, _, _, hsplit n, fun m hm => ?_⟩
  obtain ⟨-, hnm⟩ := List.mem_filter.1 hm
  rw [hempty m (of_decide_eq_true hnm)]
  rfl

theorem exec_rqpop_empty (hempty : ∀ n : Fin 4, c.ready[n] = []) :
    exec (.rqpop d) s = .next (s.putThread k (retired (setP (setW t d 0) 1 false) (t.pc + 4))) := by
  subst hc
  refine (scOnly_lone hl hsc _).trans (congrArg _ ?_)
  simp only [topReady_none hempty]
  exact hl.finish hl.pfx _

theorem exec_rqpop_top {rest : List Word} (hq : c.ready[n] = v :: rest) (hempty : ∀ m : Fin 4, n < m → c.ready[m] = []) :
    exec (.rqpop d) s = .next ((withCore s k { c with ready := c.ready.set n rest }).putThread k
      (retired (setP (setW t d v) 1 true) (t.pc + 4))) := by
  subst hc
  refine (scOnly_lone hl hsc _).trans (congrArg _ ?_)
  simp only [topReady_eq (by simp [hq]) hempty, modCore_eq_withCore, hq]
  exact hl.finish (by exact hl.pfx) _

end

/-! ### Messages, receives, wakes and sleeps (R269, R270, R322, R323) -/

section

variable (hl : Lone s k t)
include hl

theorem exec_msend (hn : NamesThread s k (readW t a) dst) (hst : t.st < 63) : exec (.msend a b) s =
    .next ((sends s (k / 256) (.message k t.uid dst (readW t b) (k / 256) (s.stampOf k))).putThread k
      (retired { t with st := t.st + 1 } (t.pc + 4))) := by
  refine (eachLane_lone hl _).trans (congrArg _ ((hn.withName t _).trans ((if_neg (not_le.2 hst)).trans ?_)))
  exact hl.finish (by exact hl.pfx) _

theorem exec_wake (hn : NamesThread s k (readW t a) dst) (hst : t.st < 63) (hr : Released t) : exec (.wake a) s =
    .next ((sends s (k / 256) (.wake (some (k, t.uid)) dst)).putThread k (retired { t with st := t.st + 1 } (t.pc + 4))) := by
  refine (eachLane_lone hl _).trans (congrArg _ ((hn.withName t _).trans ((if_neg (not_le.2 hst)).trans ?_)))
  exact (hr.withReleased ..).trans (hl.finish (by exact hl.pfx) _)

theorem exec_mrecv {rest : List (Word × Nat × Nat)} (hmail : s.mailbox k = (v, core, stamp) :: rest) (hld : t.ld < 63) :
    exec (.mrecv d) s = .next ({ s with mail := mset s.mail k rest }.putThread k
      (retired (sendLoad t (tokenOp s t (.message d v core stamp)) [.w d]) (t.pc + 4))) := by
  refine (eachLane_lone hl _).trans (congrArg _ ?_)
  rw [hmail]
  exact (if_neg (not_le.2 hld)).trans (hl.finish (by exact hl.pfx) _)

theorem exec_sleep_woken (hk : k ∈ s.wakes) :
    exec .sleep s = .next ({ s with wakes := s.wakes.erase k }.putThread k (retired t (t.pc + 4))) := by
  refine (eachLane_lone hl _).trans (congrArg _ ((if_pos (List.contains_iff_mem.2 hk)).trans ?_))
  exact hl.finish (by exact hl.pfx) _

theorem exec_sleep_waits (hk : k ∉ s.wakes) (hpark : t.park = none) :
    exec .sleep s = .next (s.putThread k { t with park := some { why := .sleep, since := s.cyc } }) := by
  refine (eachLane_lone hl _).trans (congrArg _ ((if_neg (mt List.contains_iff_mem.1 hk)).trans ?_))
  exact parkAt_of_park_none hpark _

end

/-- Settles O25: a list, a queue, a mailbox and a wake bit each decide between two results, and each instruction gives both. -/
theorem workListsMessagesAndWakesComplete : Obligations.WorkListsMessagesAndWakesComplete := by
  refine ⟨fun s k t hl hsc d a b e c hc => ⟨exec_wlpush_room hl hsc hc, exec_wlpush_full hl hsc hc, exec_wlpop_empty hl hsc hc, ?_,
    fun n => exec_rqpush_room hl hsc hc, exec_rqpop_empty hl hsc hc, fun n v rest => exec_rqpop_top hl hsc hc⟩,
    fun s k t hl d a b dst => ⟨exec_msend hl, exec_wake hl, fun v core stamp rest => exec_mrecv hl, exec_sleep_woken hl, exec_sleep_waits hl⟩⟩
  rintro v0 v1 core stamp rest r hwork rfl
  exact exec_wlpop_cons hl hsc hc hwork

end Sys2Proof.Safety
end

section
/-! Messages and wakes at the receiving end, and the values taken (R230, R266, R269 to R271, R322, R323). -/

namespace Sys2Proof.Safety

open Machine Laws

variable {s u : State} {i j k src dst core stamp : Nat} {t w : Thread} {o : OutOp} {d : Reg} {v v0 v1 : Word}

/-! ### What the rows share -/

theorem mem_insertRising : ∀ (l : List Nat) (n : Nat), n ∈ insertRising l n
  | [], _ => List.mem_singleton_self _
  | y :: l, n => by
    rw [insertRising]
    split
    case isTrue h => exact h ▸ List.mem_cons_self ..
    case isFalse =>
      split
      · exact List.mem_cons_self ..
      · exact List.mem_cons_of_mem _ (mem_insertRising l n)

theorem lowerSt_eq (ht : s.thread k = some t) : s.lowerSt k t.uid = s.putThread k { t with st := t.st - 1 } := by
  rw [State.lowerSt, ht]
  exact if_pos rfl

theorem drainThread_eq (ht : s.thread k = some t) (hdrain : clusterDrains s (keyCl k) = true) : s.drainThread k = some t :=
  (if_pos hdrain).trans ht

/-- A field of the state that no thread and no partition is part of is as it was once a trap is taken. -/
theorem takeTrap_field {α : Type} (g : State → α) (hthread : ∀ s k t, g (State.putThread s k t) = g s)
    (hpart : ∀ s p f, g (State.modPart s p f) = g s) {pc ts va te : Word} {cause detail : Nat} {step : Bool} (s : State) (k : Nat)
    (t : Thread) : g (s.takeTrap k t pc ts cause detail step va te) = g s := by
  unfold State.takeTrap
  split
  · rfl
  · split
    · exact (hpart ..).trans (hthread ..)
    · exact hthread ..

/-! ### The end of a sleep (R271, R323) -/

/-- What a sleep's end leaves alone, a step trap taken there included. -/
theorem endSleep_field {α : Type} (g : State → α) (hthread : ∀ s k t, g (State.putThread s k t) = g s)
    (hpart : ∀ s p f, g (State.modPart s p f) = g s) (s : State) (k : Nat) : g (s.endSleep k) = g s := by
  have hstep : ∀ t, g (s.stepTrap k t) = g s := fun t => by
    unfold State.stepTrap
    split <;> exact takeTrap_field g hthread hpart ..
  unfold State.endSleep State.finishAt
  split
  · split
    · dsimp only
      split
      · exact hstep _
      · exact hthread ..
    · rfl
  · rfl

@[simp] theorem endSleep_mem : (s.endSleep k).mem = s.mem :=
  endSleep_field (·.mem) (fun _ _ _ => rfl) (fun _ _ _ => by unfold State.modPart; split <;> rfl) s k

@[simp] theorem endSleep_flights : (s.endSleep k).flights = s.flights :=
  endSleep_field (·.flights) (fun _ _ _ => rfl) (fun _ _ _ => by unfold State.modPart; split <;> rfl) s k

@[simp] theorem endSleep_mailbox : (s.endSleep k).mailbox j = s.mailbox j :=
  endSleep_field (·.mailbox j) (fun _ _ _ => rfl) (fun _ _ _ => by unfold State.modPart; split <;> rfl) s k

theorem KeepsOthers.endSleep (h : KeepsOthers k s u) : KeepsOthers k s (u.endSleep k) := by
  unfold State.endSleep State.finishAt
  split
  · split
    · dsimp only
      split
      · exact h.stepTrap
      · exact h.putThread
    · exact h
  · exact h

/-- A thread with no single step that sleeps retires its `sleep`, and another goes on as it is. -/
theorem endSleep_thread (hw : s.thread k = some w) (hss : xsSS w.xstat = false) :
    (s.endSleep k).thread k = some (if (w.park.map (·.why)) = some .sleep then retired w (w.pc + 4) else w) := by
  rw [State.endSleep, hw]
  by_cases h : (w.park.map (·.why)) = some .sleep
  · simp only [h, if_true, finishAt_eq _ _ _ _ _ hss, thread_putThread]
  · simp only [h, if_false, hw]

/-! ### Messages (R269 to R271) -/

theorem exec_messagePlaced (hf : s.flights[i]? = some (.message src t.uid dst v core stamp)) (harrives : arrives s (keyCl dst) i = true)
    (hfirst : ∀ x ∈ s.flights.take i, ∀ y w c n, x ≠ .message src y dst w c n) (hroom : (s.mailbox dst).length < 8)
    (ht : s.thread src = some t) : exec (.messagePlaced i) s = .next (State.endSleep { (s.landFlight i).putThread src { t with st := t.st - 1 } with
      mail := mset s.mail dst (s.mailbox dst ++ [(v, core, stamp)]) } dst) := by
  have hlower : (s.landFlight i).lowerSt src t.uid = (s.landFlight i).putThread src { t with st := t.st - 1 } := lowerSt_eq ht
  show execMessagePlaced i s = _
  rw [execMessagePlaced, hf]
  dsimp only
  rw [harrives, hlower, if_neg]
  · rfl
  · simp only [Bool.not_true, Bool.or_false, Bool.or_eq_true, not_or, decide_eq_true_eq, not_le, hroom, and_true, Bool.not_eq_true]
    refine List.any_eq_false.2 fun x hx => ?_
    split
    case h_1 a uid b w c n =>
      intro h
      obtain ⟨ha, hb⟩ := (Bool.and_eq_true ..).mp h
      exact hfirst _ hx uid w c n (by rw [eq_of_beq ha, eq_of_beq hb])
    case h_2 => exact Bool.false_ne_true

/-! ### Wakes (R322, R323) -/

theorem setWake_unbegun (hw : s.thread dst = some w) (hbegun : w.begun = false) : s.setWake dst = s := by
  simp only [State.setWake, hw, hbegun, Bool.not_false, if_true]

theorem setWake_sleeping (hw : s.thread dst = some w) (hss : xsSS w.xstat = false) (hbegun : w.begun = true)
    (hsleep : (w.park.map (·.why)) = some .sleep) : s.setWake dst = s.putThread dst (retired w (w.pc + 4)) := by
  simp only [State.setWake, State.endSleep, hw, hbegun, hsleep, Bool.not_true, Bool.false_eq_true, if_false, if_true,
    finishAt_eq _ _ _ _ _ hss]

theorem setWake_awake (hw : s.thread dst = some w) (hbegun : w.begun = true) (hawake : (w.park.map (·.why)) ≠ some .sleep) :
    s.setWake dst = { s with wakes := insertRising s.wakes dst } := by
  simp only [State.setWake, hw, hbegun, hawake, Bool.not_true, Bool.false_eq_true, if_false]

/-- What a wake changes, when no single step traps: the thread it names, or its wake bit. -/
theorem setWake_frame (hw : s.thread dst = some w) (hss : xsSS w.xstat = false) :
    (s.setWake dst).flights = s.flights ∧ (s.setWake dst).mem = s.mem ∧ KeepsOthers dst s (s.setWake dst) := by
  cases hbegun : w.begun with
  | false =>
    rw [setWake_unbegun hw hbegun]
    exact ⟨rfl, rfl, .refl⟩
  | true =>
    by_cases hsleep : (w.park.map (·.why)) = some .sleep
    · rw [setWake_sleeping hw hss hbegun hsleep]
      exact ⟨rfl, rfl, KeepsOthers.refl.putThread⟩
    · rw [setWake_awake hw hbegun hsleep]
      exact ⟨rfl, rfl, .refl⟩

theorem exec_wakePlaced (hf : s.flights[i]? = some (.wake (some (k, t.uid)) dst)) (harrives : arrives s (keyCl dst) i = true) :
    exec (.wakePlaced i) s = .next (((s.landFlight i).setWake dst).lowerSt k t.uid) := by
  show execWakePlaced i s = _
  rw [execWakePlaced, hf]
  simp only [harrives, Bool.not_true, Bool.false_eq_true, if_false]

/-! ### The values taken (R230, R266, R270) -/

section

variable (ht : s.thread k = some t) (hdrain : clusterDrains s (keyCl k) = true) (ho : t.out[j]? = some o)
  (hstamp : s.drained core stamp = true)
include ht hdrain ho hstamp

theorem exec_mrecvComplete (hk : o.kind = .message d v core stamp) :
    exec (.mrecvComplete k j) s = .next (s.putThread k (setW (unBusy (landLoad t j) [.w d]) d v)) := by
  obtain ⟨kind⟩ := o
  obtain rfl : kind = .message d v core stamp := hk
  show execMrecvComplete k j s = _
  simp only [execMrecvComplete, drainThread_eq ht hdrain, ho, hstamp, if_true]

theorem exec_wlpopComplete (hk : o.kind = .work d v0 v1 core stamp) : exec (.wlpopComplete k j) s =
    .next (s.putThread k (setW (setW (unBusy { t with out := dropAt t.out j } [.w d, .w (d + 1)]) d v0) (d + 1) v1)) := by
  obtain ⟨kind⟩ := o
  obtain rfl : kind = .work d v0 v1 core stamp := hk
  show execWlpopComplete k j s = _
  simp only [execWlpopComplete, drainThread_eq ht hdrain, ho, hstamp, if_true]

end

/-- Settles O26: the sender's st falls, and only the thread at the position named may change beside it. -/
theorem messageAndWakeEventsComplete : Obligations.MessageAndWakeEventsComplete := by
  intro s i
  refine ⟨?_, ?_, ?_, ?_⟩
  · intro src dst v core stamp t hf harrives hfirst hroom ht hne
    refine ⟨_, exec_messagePlaced hf harrives hfirst hroom ht, endSleep_flights, ?_, ?_, fun w hw hss => ?_, fun j hsrc hdst => ?_, endSleep_mem⟩
    · exact endSleep_mailbox.trans (by simp [State.mailbox])
    · exact (KeepsOthers.refl.endSleep src hne).trans ((thread_putThread ..).trans (if_pos rfl))
    · refine endSleep_thread ?_ hss
      exact (thread_putThread ..).trans ((if_neg hne.symm).trans hw)
    · exact (KeepsOthers.refl.endSleep j hdst).trans ((thread_putThread ..).trans (if_neg hsrc))
  · intro k dst t w hf harrives ht hw hne hss
    have hw : (s.landFlight i).thread dst = some w := hw
    obtain ⟨hflights, hmem, hothers⟩ := setWake_frame hw hss
    have hk : ((s.landFlight i).setWake dst).thread k = some t := (hothers k hne).trans ht
    have hput : ∀ j, j ≠ k → (((s.landFlight i).setWake dst).putThread k { t with st := t.st - 1 }).thread j =
        ((s.landFlight i).setWake dst).thread j := fun j hj => (thread_putThread ..).trans (if_neg hj)
    refine ⟨_, (exec_wakePlaced hf harrives).trans (congrArg _ (lowerSt_eq hk)), hflights, hmem,
      (thread_putThread ..).trans (if_pos rfl), fun j hjk hjd => (hput j hjk).trans (hothers j hjd), ?_⟩
    rw [hput dst hne.symm]
    refine ⟨fun hbegun => ?_, fun hbegun hsleep => ?_, fun hbegun hawake => ?_⟩
    · rw [setWake_unbegun hw hbegun]
      exact ⟨rfl, hw⟩
    · rw [setWake_sleeping hw hss hbegun hsleep]
      exact ⟨rfl, (thread_putThread ..).trans (if_pos rfl)⟩
    · rw [setWake_awake hw hbegun hawake]
      exact ⟨mem_insertRising .., hw⟩
  · exact fun k j d v core stamp t o ht hdrain ho hk hstamp => exec_mrecvComplete ht hdrain ho hstamp hk
  · exact fun k j d v0 v1 core stamp t o ht hdrain ho hk hstamp => exec_wlpopComplete ht hdrain ho hstamp hk

end Sys2Proof.Safety
end

section
/-! Copy and stream instructions (R249, R257 to R259, R283, R333 to R335). -/

namespace Sys2Proof.Safety

open Machine Laws

variable {s : State} {k m : Nat} {t : Thread} {a b d : Reg} {i : BitVec 1} {n : BitVec 2} {L : Nat → List Nat} {K : Nat → Nat}

/-! ### Instructions that act lane by lane -/

/-- Every lane retires at the next instruction with its thread changed by `g`. -/
theorem eachLane_finishes (h : Ready s) {f : State → Nat → Thread → State} (g : Nat → Thread → Thread)
    (hf : ∀ ts, ∀ k ∈ s.curKeys, ∀ t, s.thread k = some t → f (withThreads s ts) k t = (withThreads s ts).finish k t (g k t)) :
    ∃ u, s.eachLane f = .next u ∧ LanesTo s u fun k t => retired (g k t) (t.pc + 4) := by
  obtain ⟨hn, hpfx, hss⟩ := h
  refine eachLane_effect s hn f _ fun ts j hj v hv => (hf ts j hj v hv).trans ?_
  rw [finish_eq _ _ _ _ (hss j hj v hv), width_none _ (by exact hpfx)]
  rfl

theorem located_ok {p : Nat} {x : Partition} {va : Word} {addrs lines : List Nat} (hp : s.partOf (keyCl k) = some (p, x))
    (hb : byteKeys s x t.asid (xsSUP t.xstat) .read va 1 = .ok addrs lines) (f : Nat → State) :
    s.located k t va f = (f (addrs.headD 0)).walkReads (keyCl k) lines := by
  simp only [State.located, hp, hb]

/-- Every lane writes a word of what its address names, which the lanes before it left as it was (R258, R259). -/
theorem eachLane_located (h : Ready s) {va : Thread → Word} {word : State → Nat → Nat → Word}
    (hword : ∀ ts ls k addr, word (relinked s ts ls) k addr = word s k addr)
    (hk : ∀ k ∈ s.curKeys, ∀ t, s.thread k = some t → ∃ p x, s.partOf (keyCl k) = some (p, x) ∧
      byteKeys s x t.asid (xsSUP t.xstat) .read (va t) 1 = .ok [K k] (L k)) :
    ∃ u, s.eachLane (fun s k t => s.located k t (va t) fun addr => s.finish k t (setW t d (word s k addr))) = .next u ∧
      LanesTo (walked s L) u fun k t => retired (setW t d (word s k (K k))) (t.pc + 4) := by
  obtain ⟨hn, hpfx, hss⟩ := h
  refine eachLane_walkEffect hn (fun _ _ t _ _ ho _ => ?_) fun u hu j hj v hv => ?_
  · simpa only [retired_out, setW_out] using ho
  · obtain ⟨p, x, hp, hb⟩ := hk j hj v hv
    obtain ⟨ts, ls, rfl, hlinks, -⟩ := hu
    rw [located_ok (s := relinked s ts ls) hp ((byteKeys_relinked hlinks ..).trans hb), finish_eq _ _ _ _ (hss j hj v hv),
      width_none (relinked s ts ls) hpfx, hword]
    rfl

/-! ### Copy commands (R249) -/

/-- A copy, gather or scatter whose shape is good, with a tag free and cp below 63, posts its command. -/
theorem postCopy_posts (hl : Lone s k t) {a : Reg} {b : BitVec 4} (hshape : (if m = 0 then lengthOk (readW t (pairReg b + 1))
      else shapeOk (m == 2) (readW t (pairReg b + 1))) = true)
    (htag : tagFree (s.cluster (keyCl k)) (keyCore k) = true) (hcp : t.cp < 63) {cmd : Cmd}
    (hcmd : cmd = {
      seq := s.nextSeq, fn := m, issuer := (keyCl k, keyCore k, slotOf (keyCore k) (keyThr k)), keys := [k], gang := s.onGC,
      ctx := 0, words := [readW t a, readW t (pairReg b), readW t (pairReg b + 1)], ops := [], scales := [], dst := 0, pc := t.pc,
      asid := t.asid, sup := xsSUP t.xstat, posted := s.cyc, inst := s.free }) :
    s.postCopy k t m a b = (({ s with nextSeq := s.nextSeq + 1 }.modCluster (keyCl k) fun c => { c with cpe := c.cpe ++ [cmd] }).putThread k
      (retired { t with cp := t.cp + 1 } (t.pc + 4))).grantPosted (keyCl k) cmd := by
  subst hcmd
  simp only [State.postCopy, hshape, htag, decide_eq_true hcp, Bool.and_self, Bool.not_true, Bool.false_eq_true, if_false]
  exact congrArg (State.grantPosted · (keyCl k) _) (hl.finish (by exact hl.pfx) _)

/-! ### Stream commands (R333 to R335) -/

theorem exec_soff (hl : Lone s k t) : exec (.soff n) s = .next ((s.dropRead k n.toNat).putThread k
    (retired (putStream t n.toNat { streamOf t n.toNat with state := .unbound, ahead := [], dead := false }) (t.pc + 4))) :=
  (eachLane_lone hl _).trans (congrArg _ (hl.finish (by exact hl.pfx) _))

section

variable (h : Ready s)
include h

theorem scfg_configures (hk : ∀ k ∈ s.curKeys, ∀ t, s.thread k = some t →
      badStream (readW t a) (readW t b) = false ∧ (streamOf t n.toNat).state = .unbound) :
    LaneEffect (.scfg a b n) s fun _ t => retired (putStream t n.toNat
      { streamOf t n.toNat with base := readW t a, desc := readW t b, pos := 0, cfg := true }) (t.pc + 4) := by
  refine eachLane_finishes h _ fun ts j hj v hv => ?_
  obtain ⟨hgood, hunbound⟩ := hk j hj v hv
  simp only [hgood, hunbound, Bool.false_eq_true, ne_eq, not_true, if_false]

theorem son_binds (hk : ∀ k ∈ s.curKeys, ∀ t, s.thread k = some t →
      (streamOf t n.toNat).cfg = true ∧ (streamOf t n.toNat).state = .unbound) :
    LaneEffect (.son n) s fun _ t => retired (putStream t n.toNat { streamOf t n.toNat with
      pos := 0, ahead := [], dead := false, bind := (streamOf t n.toNat).bind + 1
      state := if streamDir (streamOf t n.toNat) then .writeBound else .readBound }) (t.pc + 4) := by
  refine eachLane_finishes h _ fun ts j hj v hv => ?_
  obtain ⟨hcfg, hunbound⟩ := hk j hj v hv
  simp only [hcfg, hunbound, Bool.true_eq_false, ne_eq, not_true, or_self, if_false]

end

/-- Settles O37: a posted command is granted by the state its post leaves, a query reads what no lane changes, and a stream is its lane's own. -/
theorem copyAndStreamInstructionsComplete : Obligations.CopyAndStreamInstructionsComplete := by
  refine ⟨?_, ?_, ?_⟩
  · rintro s k t hl a b _ rfl htag hcp f cmd hcmd hf
    have hpost := fun (m : Nat) hshape => (eachLane_lone hl fun s k t => s.postCopy k t m a b).trans
      ((congrArg _ (postCopy_posts hl hshape htag hcp (hcmd m))).trans (hf m).symm)
    exact ⟨hpost 0, hpost 1, hpost 2⟩
  · intro s h a b i n
    refine ⟨eachLane_finishes h _ fun _ _ _ _ _ => rfl, fun K L hk => ⟨?_, ?_⟩, scfg_configures h, son_binds h,
      eachLane_finishes h _ fun _ _ _ _ _ => rfl⟩
    · exact eachLane_located h (word := fun s _ addr =>
        word ((List.range (if i = 0 then 1 else 32)).map fun j => presenceCode s addr j * 4 ^ j).sum) (fun _ _ _ _ => rfl) hk
    · exact eachLane_located h (word := fun s k addr => word (bit01 (registered (s.cluster (keyCl k)) true (addr / 64)) +
        2 * bit01 (registered (s.cluster (keyCl k)) false (addr / 64)) + 256 * (s.cluster (keyCl k)).rlt.length)) (fun _ _ _ _ => rfl) hk
  · exact fun s k t n hl => ⟨_, exec_soff hl, rfl, fun j hj => (thread_putThread ..).trans (if_neg hj),
      (thread_putThread ..).trans (if_pos rfl)⟩

end Sys2Proof.Safety
end

section
/-! Queues, second part: a `qtry` that makes room for a waiting push (R262, R263). -/

namespace Sys2Proof.Safety

open Machine Laws

variable {s : State} {k m cl q i n : Nat} {t w : Thread} {d : Reg} {e x : Word × Nat × Nat} {rest : List (Word × Nat × Nat)}

/-! ### A queue settles -/

theorem fifo_putFifo (s : State) (cl q : Nat) (f : Fifo) : (s.putFifo cl q f).fifo cl q = f := by
  simp [State.fifo, State.putFifo]

theorem servePops_of_nil (hpops : (s.fifo cl q).pops = []) : s.servePops cl q = s := by simp [State.servePops, hpops]

theorem placeWaiting_of_nil (hpushes : (s.fifo cl q).pushes = []) : s.placeWaiting cl q = s := by simp [State.placeWaiting, hpushes]

/-- Where nothing waits, a queue settles at once. -/
theorem settleQueue_of_nil (hpops : (s.fifo cl q).pops = []) (hpushes : (s.fifo cl q).pushes = []) : s.settleQueue cl q n = s := by
  induction n with
  | zero => rfl
  | succ n ih => rw [State.settleQueue, servePops_of_nil hpops, placeWaiting_of_nil hpushes, ih]

/-- A waiting push with room for its entry is placed, and its `qpush` retires. -/
theorem placeWaiting_of_room (hpushes : (s.fifo cl q).pushes = [(m, x)])
    (hroom : (s.fifo cl q).entries.length + (pushesTo s cl q).length < 1024) (hm : s.thread m = some w) (hss : xsSS w.xstat = false) :
    s.placeWaiting cl q = (s.putFifo cl q { s.fifo cl q with entries := (s.fifo cl q).entries ++ [x], pushes := [] }).putThread m
      (retired w (w.pc + 4)) := by
  have hthread : ∀ f, (s.putFifo cl q f).thread m = some w := fun _ => hm
  simp only [State.placeWaiting, hpushes, hroom, if_true, hthread, finishAt_eq _ _ _ _ _ hss]

theorem settleQueue_thread_of_room (hpops : (s.fifo cl q).pops = []) (hpushes : (s.fifo cl q).pushes = [(m, x)])
    (hroom : (s.fifo cl q).entries.length + (pushesTo s cl q).length < 1024) (hm : s.thread m = some w) (hss : xsSS w.xstat = false) :
    (s.settleQueue cl q (n + 1)).thread m = some (retired w (w.pc + 4)) := by
  have hfifo : ∀ f v, ((s.putFifo cl q f).putThread m v).fifo cl q = f := fun f _ => fifo_putFifo s cl q f
  rw [State.settleQueue, servePops_of_nil hpops, placeWaiting_of_room hpushes hroom hm hss,
    settleQueue_of_nil (by rw [hfifo]; exact hpops) (by rw [hfifo])]
  exact (thread_putThread ..).trans (if_pos rfl)

/-! ### A `qtry` served (R263) -/

/-- The head entry goes to the `qtry`, and what waits at the queue settles. -/
theorem exec_queuePopServe_try (hbusy : bankBusy (s.cluster cl) (q / 16) = false) (hmode : bankMode (s.cluster cl) (q / 16) = 2)
    (hspill : behindSpill s i = false) (hdrain : clusterDrains s cl = true) (hf : s.flights[i]? = some (.pop k cl q d true))
    (hpops : (s.fifo cl q).pops = []) (hentries : (s.fifo cl q).entries = e :: rest) :
    exec (.queuePopServe i) s = .next ((((s.landFlight i).putFifo cl q { s.fifo cl q with entries := rest }).answerTry k d
      (some e)).settleQueue cl q (queueTurns (s.fifo cl q))) := by
  have hland : (s.landFlight i).fifo cl q = s.fifo cl q := rfl
  have hmode : bankMode ((s.landFlight i).cluster cl) (q / 16) = 2 := hmode
  show execQueuePopServe i s = _
  simp only [execQueuePopServe, hf, hbusy, hspill, hdrain, hland, hmode, hpops, hentries, if_true, Bool.not_true, Bool.or_false,
    Bool.false_eq_true, ne_eq, not_true, if_false]

/-- An answer to a `qtry` leaves the queue, the flits on their way and the other threads. -/
theorem answerTry_frame (s : State) (k : Nat) (d : Reg) (r : Option (Word × Nat × Nat)) :
    KeepsOthers k s (s.answerTry k d r) ∧ (s.answerTry k d r).clusters = s.clusters ∧ (s.answerTry k d r).flights = s.flights := by
  unfold State.answerTry
  split
  · exact ⟨.refl, rfl, rfl⟩
  · split
    · exact ⟨.refl, rfl, rfl⟩
    · split <;> exact ⟨KeepsOthers.refl.putThread, rfl, rfl⟩

/-- A `qtry` served at a queue with a push waiting makes room for that push, whose thread retires its `qpush`. -/
theorem queuePopServe_try_thread (hbusy : bankBusy (s.cluster cl) (q / 16) = false) (hmode : bankMode (s.cluster cl) (q / 16) = 2)
    (hspill : behindSpill s i = false) (hdrain : clusterDrains s cl = true) (hf : s.flights[i]? = some (.pop k cl q d true))
    (hpops : (s.fifo cl q).pops = []) (hentries : (s.fifo cl q).entries = e :: rest) (hpushes : (s.fifo cl q).pushes = [(m, x)])
    (hroom : rest.length + (pushesTo (s.landFlight i) cl q).length < 1024) (hne : m ≠ k) (hm : s.thread m = some w)
    (hss : xsSS w.xstat = false) :
    ∃ u, exec (.queuePopServe i) s = .next u ∧ u.thread m = some (retired w (w.pc + 4)) := by
  refine ⟨_, exec_queuePopServe_try hbusy hmode hspill hdrain hf hpops hentries, ?_⟩
  obtain ⟨hothers, hclusters, hflights⟩ :=
    answerTry_frame ((s.landFlight i).putFifo cl q { s.fifo cl q with entries := rest }) k d (some e)
  have hfifo : (((s.landFlight i).putFifo cl q { s.fifo cl q with entries := rest }).answerTry k d (some e)).fifo cl q =
      { s.fifo cl q with entries := rest } := by
    rw [State.fifo, cluster_of_clusters hclusters]
    exact fifo_putFifo ..
  have hpush : pushesTo (((s.landFlight i).putFifo cl q { s.fifo cl q with entries := rest }).answerTry k d (some e)) cl q =
      pushesTo (s.landFlight i) cl q := by
    rw [pushesTo, hflights]
    rfl
  refine settleQueue_thread_of_room (by rw [hfifo]; exact hpops) (by rw [hfifo]; exact hpushes) ?_ ((hothers m hne).trans hm) hss
  rw [hfifo, hpush]
  exact hroom

/-! ### A full queue, a push that waits at it, and a `qtry` on its way -/

/-- Queue 255 with 1024 entries, and the entry of a `qpush` of the thread in slot 1 waiting. -/
def fullQueue : Fifo := { entries := List.replicate 1024 (7, 0, 0), pushes := [(1, 8, 0, 0)], pops := [] }

/-- A thread past its `qtry` into w5, which is still to be answered. -/
def tryingThread : Thread :=
  { Thread.zero with
    pc := 0x10004
    ld := 1
    out := [{ kind := .popWait 5, addrs := [], data := [], order := 0, scope := 0, pc := 0x10000, serial := 0, inst := 0, lines := [], va := 0 }]
    busy := [.w 5, .p 1] }

/-- A thread that waits at its `qpush`. -/
def pushingThread : Thread := { Thread.zero with uid := 1, pc := 0x10000, park := some { why := .queuePush, since := 0 } }

/-- Both in core 0 of cluster 0, whose bank 15 is in FIFO mode and holds that queue. -/
def tryingState : State :=
  { State.reset with
    parts := [(0, fetchPartition)]
    threads := [(0, tryingThread), (1, pushingThread)]
    clusters := [(0, { Cluster.reset with csmctl := 0x80000000, fifos := [(255, fullQueue)] })]
    flights := [.pop 0 0 255 5 true] }

/-- Refutes O24, by its clause on a `qtry`: it has every other thread stay as it was, but the entry the `qtry` takes from a full queue makes room for
a push that waits there, whose thread retires its `qpush` (R262). -/
theorem not_queueEventsComplete : ¬ Obligations.QueueEventsComplete := by
  rintro ⟨hevents, -⟩
  have hbusy : bankBusy (tryingState.cluster 0) (255 / 16) = false := rfl
  have hmode : bankMode (tryingState.cluster 0) (255 / 16) = 2 := by decide +kernel
  have hspill : behindSpill tryingState 0 = false := by decide +kernel
  have hruns : clusterRuns tryingState 0 = true := by decide +kernel
  have hdrain : clusterDrains tryingState 0 = true := by decide +kernel
  obtain ⟨-, -, -, htry⟩ := hevents tryingState 0 0 255 hbusy hmode (by rw [arrives, hspill, hruns]; rfl)
  obtain ⟨u, hu, -, hothers, -⟩ := htry 0 5 tryingThread 0 _ rfl rfl rfl rfl nofun
  obtain ⟨v, hv, hretired⟩ := queuePopServe_try_thread (w := pushingThread) (rest := List.replicate 1023 (7, 0, 0)) hbusy hmode hspill hdrain
    rfl rfl rfl rfl (by decide +kernel) Nat.one_ne_zero rfl (by decide +kernel)
  obtain rfl := Host.Outcome.next.inj (hv.symm.trans hu)
  have hsame : pushingThread.pc = pushingThread.pc + 4 :=
    congrArg Thread.pc (Option.some.inj ((hothers 1 Nat.one_ne_zero).symm.trans hretired))
  exact absurd hsame (by decide +kernel)

end Sys2Proof.Safety
end

section
/-! Threads and launches, first part: what the instructions and events of threads share: written registers, checked counters, containment,
and the phases that end when a thread leaves its launch (R138, R306, R340, R438). -/

namespace Sys2Proof.Safety

open Machine Laws

variable {s u : State} {k j p n : Nat} {t : Thread} {acc : Access} {va : Word} {addrs lines : List Nat}

/-! ### Registers and counters (R138, R340) -/

/-- Registers that no outstanding operation is to write let the instruction go on. -/
theorem withWritten_of_written {rs : List RegRef} (h : ∀ r ∈ rs, r ∉ t.busy) (s : State) (k : Nat) (f : State) :
    s.withWritten k t rs f = f := by
  have hwaits : rs.filter t.busy.contains = [] := List.filter_eq_nil_iff.2 fun r hr => by simpa using h r hr
  rw [State.withWritten, hwaits]

/-- The access of a counter that passes its checks, to good data. -/
theorem Counts.counterAccess (h : Counts s k t acc va n addrs lines) (hbad : badAmong s addrs = none) (f : List Nat → List Nat → State) :
    s.counterAccess k t acc va n f = (f addrs lines).walkReads (keyCl k) lines := by
  obtain ⟨p, x, hp, hcheck⟩ := h
  simp only [State.counterAccess, hp, hcheck, hbad]

/-- The same to bad data is contained (R438). -/
theorem Counts.counterAccess_bad {b : Nat × Nat} (h : Counts s k t acc va n addrs lines) (hbad : badAmong s addrs = some b)
    (f : List Nat → List Nat → State) : ∃ p, s.counterAccess k t acc va n f = s.containBad p (keyCl k) (keyCore k) b t.pc := by
  obtain ⟨p, x, hp, hcheck⟩ := h
  exact ⟨p, by simp only [State.counterAccess, hp, hcheck, hbad]⟩

/-! ### Partitions and containment (R438) -/

/-- A field of the state that holds no partition is as it was after a change of one. -/
theorem modPart_field {α : Type} (g : State → α) (h : ∀ s (ps : Map Partition), g { s with parts := ps } = g s) (s : State) (p : Nat)
    (f : Partition → Partition) : g (s.modPart p f) = g s := by
  unfold State.modPart
  split
  · rfl
  · exact h ..

@[simp] theorem modPart_mem (f : Partition → Partition) : (s.modPart p f).mem = s.mem := modPart_field (·.mem) (fun _ _ => rfl) ..

theorem part_modPart (s : State) (p : Nat) (f : Partition → Partition) (q : Nat) :
    (s.modPart p f).part q = if q = p then (s.part p).map f else s.part q := by
  unfold State.part State.modPart
  cases hp : mget s.parts p with
  | none => by_cases hq : q = p <;> simp [hq, hp]
  | some x => exact mget_mset ..

/-- What neither a change of a partition outside its launches nor a record changes is as it was once an error is contained. -/
theorem contain_field {α : Type} (g : State → α)
    (hpart : ∀ s p f, (∀ x, (f x).serial = x.serial ∧ (f x).launches = x.launches) → g (State.modPart s p f) = g s)
    (hrecord : ∀ s cl r, g (State.sendRecord s cl r) = g s) (s : State) (p : Nat) (r : Record) : g (s.contain p r) = g s := by
  unfold State.contain State.startStop
  split
  · rfl
  · split
    · exact hpart _ _ _ fun _ => ⟨rfl, rfl⟩
    · refine hpart _ _ _ fun x => ?_
      split <;> exact ⟨rfl, rfl⟩
    · exact hpart _ _ _ fun _ => ⟨rfl, rfl⟩
    · exact (hrecord ..).trans (hpart _ _ _ fun _ => ⟨rfl, rfl⟩)
    · exact (hrecord ..).trans (hpart _ _ _ fun _ => ⟨rfl, rfl⟩)
    · exact (hrecord ..).trans (hpart _ _ _ fun _ => ⟨rfl, rfl⟩)
    · exact hrecord ..

@[simp] theorem containBad_threads (cl core : Nat) (b : Nat × Nat) (pc : Word) : (s.containBad p cl core b pc).threads = s.threads :=
  contain_field (·.threads) (fun _ p f _ => modPart_threads p f) (fun _ _ _ => rfl) s p _

/-! ### The phases of a launch's groups (R306) -/

/-- The group table of a partition once the phases that can end have. -/
def settledGroups (s : State) (p : Nat) (x : Partition) : Partition := { x with groups := x.groups.map fun g => (g.1, settleGroup s p g.2) }

/-- The threads that live in a group are those of its launch at its members. -/
theorem liveThreads_congr {e f : Group} (hs : u.threads = s.threads) (hf : u.flights = s.flights) (hc : u.clusters = s.clusters)
    (hserial : e.serial = f.serial) (hmembers : e.members = f.members) : liveThreads u p e = liveThreads s p f := by
  unfold liveThreads isMember
  rw [hs, hf, hc, hserial, hmembers]

theorem settle_eq (s : State) (p : Nat) : s.settle p = s.modPart p (settledGroups s p) := rfl

@[simp] theorem settle_threads : (s.settle p).threads = s.threads := modPart_threads ..
@[simp] theorem settle_mem : (s.settle p).mem = s.mem := modPart_mem ..
@[simp] theorem settle_flights : (s.settle p).flights = s.flights := modPart_field (·.flights) (fun _ _ => rfl) ..
@[simp] theorem settle_wakes : (s.settle p).wakes = s.wakes := modPart_field (·.wakes) (fun _ _ => rfl) ..
@[simp] theorem settle_clusters : (s.settle p).clusters = s.clusters := modPart_field (·.clusters) (fun _ _ => rfl) ..

theorem settle_part_other {q : Nat} (h : q ≠ p) : (s.settle p).part q = s.part q := (part_modPart ..).trans (if_neg h)

theorem settle_part {x : Partition} (hx : s.part p = some x) : (s.settle p).part p = some (settledGroups s p x) := by
  rw [settle_eq, part_modPart, if_pos rfl, hx]
  rfl

/-- A phase ends where something has arrived and every thread that lives once it has ended had arrived. -/
theorem settleGroup_eq (s : State) (p : Nat) (e : Group) : settleGroup s p e =
    if e.arrived ≠ [] ∧ ∀ n ∈ liveThreads (s.settle p) p e, n ∈ e.arrived then { e with phase := e.phase + 1, arrived := [] } else e := by
  rw [liveThreads_congr (s := s) (u := s.settle p) settle_threads settle_flights settle_clusters rfl rfl, settleGroup]
  refine if_congr ?_ rfl rfl
  simp

/-- A thread of no launch leaves no group. -/
theorem phasesSettle_none (h : u.parts = s.parts) : PhasesSettle none s u := h

/-- A thread of a launch has left, and the partition's groups settle. -/
theorem phasesSettle_some (h : u.parts = s.parts) (l : Nat × Nat) : PhasesSettle (some l) s (u.settle l.1) := by
  have hpart : ∀ q, u.part q = s.part q := fun q => by rw [State.part, h]; rfl
  refine ⟨fun q hq => (settle_part_other hq).trans (hpart q), fun x hx => ⟨_, settle_part ((hpart l.1).trans hx), rfl, fun g => ?_⟩⟩
  exact (mget_map (settleGroup u l.1) ..).trans (congrArg (Option.map · _) (funext fun e => settleGroup_eq u l.1 e))

end Sys2Proof.Safety
end

section
/-! Threads and launches, second part: `exit`, `gcall`, `gret` and `launch` (R321, R326, R327, R332). -/

namespace Sys2Proof.Safety

open Machine Laws

variable {s u : State} {k j p n : Nat} {t : Thread} {d a : Reg} {off : BitVec 20}

/-! ### A thread ends (R294, R321) -/

theorem dropReads_field {α : Type} (g : State → α) (h : ∀ s cl f, g (State.modCluster s cl f) = g s) (s : State) (k : Nat) :
    g (s.dropReads k) = g s :=
  foldl_field g (fun _ _ => h ..) ..

/-- The thread has left its position. -/
def positionLeft (s : State) (k : Nat) : State :=
  let s0 := s.dropReads k
  { s0.dropThread k with wakes := s0.wakes.erase k }.modCore (keyCl k) (keyCore k) fun c =>
    if isSC (keyCore k) then disarm c (keyThr k) else c

/-- The thread has left its slot too, and its launch's groups are still to settle. -/
def threadGone (s : State) (k : Nat) : State :=
  let s1 := positionLeft s k
  let slot := slotOf (keyCore k) (keyThr k)
  if isSC (keyCore k) || (slotLanes s1 (keyCl k) (keyCore k) slot).any fun l =>
      (s1.thread (keyOf (keyCl k) (keyCore k) (thrOf (keyCore k) slot l))).isSome then s1
  else s1.modCore (keyCl k) (keyCore k) fun c => { c with gangs := mdel c.gangs slot }

theorem endThread_none (h : t.launch = none) : s.endThread k t = threadGone s k := by
  rw [State.endThread, h]
  rfl

theorem endThread_some {l : Nat × Nat} (h : t.launch = some l) : s.endThread k t = (threadGone s k).settle l.1 := by
  rw [State.endThread, h]
  rfl

/-- A field of the state that holds no cluster is as the thread leaves it with its position. -/
theorem threadGone_field {α : Type} (g : State → α) (h : ∀ s cl f, g (State.modCluster s cl f) = g s) :
    g (threadGone s k) = g (positionLeft s k) := by
  unfold threadGone
  dsimp only
  split
  · rfl
  · exact h ..

@[simp] theorem threadGone_threads : (threadGone s k).threads = mdel s.threads k :=
  (threadGone_field (·.threads) fun _ _ _ => rfl).trans (congrArg (mdel · k) (dropReads_field (·.threads) (fun _ _ _ => rfl) s k))
@[simp] theorem threadGone_wakes : (threadGone s k).wakes = s.wakes.erase k :=
  (threadGone_field (·.wakes) fun _ _ _ => rfl).trans (congrArg (List.erase · k) (dropReads_field (·.wakes) (fun _ _ _ => rfl) s k))
@[simp] theorem threadGone_mem : (threadGone s k).mem = s.mem :=
  (threadGone_field (·.mem) fun _ _ _ => rfl).trans (dropReads_field (·.mem) (fun _ _ _ => rfl) s k)
@[simp] theorem threadGone_flights : (threadGone s k).flights = s.flights :=
  (threadGone_field (·.flights) fun _ _ _ => rfl).trans (dropReads_field (·.flights) (fun _ _ _ => rfl) s k)
@[simp] theorem threadGone_parts : (threadGone s k).parts = s.parts :=
  (threadGone_field (·.parts) fun _ _ _ => rfl).trans (dropReads_field (·.parts) (fun _ _ _ => rfl) s k)

/-- What the end of a thread changes: its position, its wake bit, and its launch's groups. -/
theorem endThread_effect (s : State) (k : Nat) (t : Thread) : (s.endThread k t).threads = mdel s.threads k ∧
    (s.endThread k t).wakes = s.wakes.erase k ∧ (s.endThread k t).mem = s.mem ∧ (s.endThread k t).flights = s.flights ∧
    PhasesSettle t.launch s (s.endThread k t) := by
  cases hl : t.launch with
  | none =>
    rw [endThread_none hl]
    exact ⟨threadGone_threads, threadGone_wakes, threadGone_mem, threadGone_flights, phasesSettle_none threadGone_parts⟩
  | some l =>
    rw [endThread_some hl]
    simp only [settle_threads, settle_wakes, settle_mem, settle_flights, threadGone_threads, threadGone_wakes, threadGone_mem,
      threadGone_flights, true_and]
    exact phasesSettle_some threadGone_parts l

theorem thread_of_threads_mdel (h : u.threads = mdel s.threads k) : u.thread k = none ∧ ∀ j, j ≠ k → u.thread j = s.thread j := by
  have hj : ∀ j, u.thread j = if j = k then none else s.thread j := fun j => by rw [State.thread, h, mget_mdel]; rfl
  exact ⟨(hj k).trans (if_pos rfl), fun j hjk => (hj j).trans (if_neg hjk)⟩

/-- The notice of a child's end (R321). -/
def noticeOf (t : Thread) : List Flight := t.child.toList.map fun c => .exitNotice c.cl c.core c.entry (xsSUP t.xstat)

/-- A thread that has nothing outstanding ends at `exit`, its child's notice sent first. -/
theorem exec_exit (hl : Lone s k t) (hpack : s.inPack k = false) (hidle : Idle t) (hdeferred : t.deferred = []) :
    ∃ u : State, exec .exit s = .next (u.endThread k t) ∧ u.threads = s.threads ∧ u.wakes = s.wakes ∧ u.mem = s.mem ∧ u.parts = s.parts ∧
      u.flights = s.flights ++ noticeOf t := by
  obtain ⟨-, hld, hst, hcp, htl⟩ := hidle
  have hover : parkOver s k t (.drain true) = true := by simp [parkOver, hld, hst, hcp, htl]
  have hexec : exec .exit s = .next _ := eachLane_lone hl _
  rw [hpack, hover, hdeferred] at hexec
  cases hc : t.child with
  | none =>
    rw [hc] at hexec
    exact ⟨s, hexec, rfl, rfl, rfl, rfl, by simp [noticeOf, hc]⟩
  | some c =>
    rw [hc] at hexec
    exact ⟨_, hexec, rfl, rfl, rfl, rfl, by simp [noticeOf, hc]⟩

theorem exec_exit_waits (hl : Lone s k t) (hpack : s.inPack k = false) (hbusy : t.ld ≠ 0 ∨ t.st ≠ 0 ∨ t.cp ≠ 0 ∨ t.tl ≠ 0)
    (hpark : t.park = none) : exec .exit s = .next (s.putThread k (waits s t (.drain true))) := by
  have hover : parkOver s k t (.drain true) = false := by
    simp only [parkOver, Bool.not_true, Bool.false_or, Bool.and_eq_false_iff, decide_eq_false_iff_not]
    tauto
  refine (eachLane_lone hl _).trans (congrArg _ ?_)
  rw [hpack, hover]
  exact parkAt_of_park_none hpark _

/-- The phases a thread's end settles are those of the state it left. -/
theorem PhasesSettle.of_parts {l : Option (Nat × Nat)} {v : State} (h : PhasesSettle l v u) (hv : v.parts = s.parts) : PhasesSettle l s u := by
  have hpart : ∀ q, v.part q = s.part q := fun q => by rw [State.part, hv]; rfl
  cases l with
  | none => exact Eq.trans h hv
  | some l =>
    obtain ⟨hother, hsettled⟩ := h
    exact ⟨fun q hq => (hother q hq).trans (hpart q), fun x hx => hsettled x ((hpart l.1).trans hx)⟩

/-- Settles O28: with nothing outstanding the thread ends (`endThread_effect`); else `exit` parks until its counters are zero. -/
theorem exitEndsTheThread : Obligations.ExitEndsTheThread := by
  intro s k t hl hpack hnodup
  refine ⟨fun hidle hdeferred => ?_, exec_exit_waits hl hpack⟩
  obtain ⟨v, hexec, hvthreads, hvwakes, hvmem, hvparts, hvflights⟩ := exec_exit hl hpack hidle hdeferred
  obtain ⟨hthreads, hwakes, hmem, hflights, hphases⟩ := endThread_effect v k t
  obtain ⟨hgone, hothers⟩ := thread_of_threads_mdel (hvthreads ▸ hthreads)
  refine ⟨_, hexec, hgone, hothers, ?_, hmem.trans hvmem, hflights.trans hvflights, hphases.of_parts hvparts⟩
  rw [hwakes, hvwakes]
  exact hnodup.not_mem_erase

/-! ### `gcall`, `gret` and `launch` (R326, R327, R332) -/

section

variable (hl : Lone s k t) (hr : Released t)
include hl hr

theorem exec_gcall (hsc : OnSC s) (hregs : ∀ r ∈ argRegs, r ∉ t.busy) (hpark : t.park = none) :
    exec (.gcall off) s = .next (sends (s.putThread k (waits s t .grantRoom)) (k / 256)
      (.gcall k ((t.pc + off.signExtend 64 * 4) &&& 0x00FFFFFFFFFFFFFF#64))) := by
  have hover : parkOver s k t .grantRelease = true := List.all_eq_true.2 fun o ho => by simp [hr o ho]
  refine (scOnly_lone hl hsc _).trans (congrArg _ ((withWritten_of_written hregs ..).trans ?_))
  have hsince : callerPark t .grantRoom s.cyc = { why := .grantRoom, since := s.cyc } := by rw [callerPark, hpark]
  rw [hover, hsince]
  rfl

theorem exec_gret {c : Nat} (hpack : s.inPack k = true) (hcp : t.cp = 0) (htl : t.tl = 0)
    (hregs : ∀ r ∈ [RegRef.w 10, .w 11, .f 10, .f 11], r ∉ t.busy) (hdeferred : t.deferred = []) (hcaller : t.caller = some c) :
    exec .gret s = .next ((s.send (coreNo k) (.results c (readW t 10) (readW t 11) (readF t 10) (readF t 11))).endThread k t) := by
  have hover : parkOver s k t (.drain false) = true := by simp [parkOver, hcp, htl]
  refine (eachLane_lone hl _).trans (congrArg _ ?_)
  rw [hpack, hover]
  refine (withWritten_of_written hregs ..).trans ?_
  rw [hdeferred, hcaller]
  exact hr.withReleased ..

theorem exec_launch {A L : List Nat} (halign : (readW t a).toNat % 128 = 0) (hcounts : Counts s k t .read (readW t a) 128 A L)
    (hbad : badAmong s A = none) (hpark : t.park = none) : exec (.launch d a) s =
      .next ((sends (s.putThread k (waits s t .launch)) (k / 256)
        (.launch (s.partNo (keyCl k)) (keyCl k) none t.asid (xsSUP t.xstat) (readW t a) (some (k, d)))).walkReads (keyCl k) L) := by
  refine (eachLane_lone hl _).trans (congrArg _ ((if_neg (not_not.2 halign)).trans ((hcounts.counterAccess hbad _).trans ?_)))
  rw [hr.withReleased, parkAt_of_park_none hpark]
  rfl

end

theorem exec_gret_refused (hl : Lone s k t) (hpack : s.inPack k = false) {x : Partition} (hv : Vectored s k t p x) :
    exec .gret s = .next (s.putThread k (trapped t x 0x12 0)) := by
  refine (eachLane_lone hl _).trans (congrArg _ ?_)
  rw [hpack]
  exact trap_vectored hl hv ..

/-- Settles O29: each instruction sends its request and parks; a `gret` ends its lane instead (`endThread_effect`), and outside a pack
traps. -/
theorem gangCallAndLaunchLeaveForTheirUnits : Obligations.GangCallAndLaunchLeaveForTheirUnits := by
  intro s k t hl hr off d a
  refine ⟨exec_gcall hl hr, fun c hpack hcp htl hregs hdeferred hcaller => ?_,
    fun hpack p x hp hbase hv => exec_gret_refused hl hpack ⟨hp, hbase, hv⟩, fun A L => exec_launch hl hr⟩
  have hexec := exec_gret hl hr hpack hcp htl hregs hdeferred hcaller
  obtain ⟨hthreads, -, hmem, hflights, hphases⟩ :=
    endThread_effect (s.send (coreNo k) (.results c (readW t 10) (readW t 11) (readF t 10) (readF t 11))) k t
  obtain ⟨hgone, hothers⟩ := thread_of_threads_mdel hthreads
  exact ⟨_, hexec, hgone, hothers, hmem, hflights, hphases.of_parts rfl⟩

end Sys2Proof.Safety
end

section
/-! Threads and launches, third part: a `spawn` whose join counter holds bad data is contained (R319, R438). -/

namespace Sys2Proof.Safety

open Machine Laws

variable {s : State} {k : Nat} {t : Thread} {d a b : Reg} {A L : List Nat} {x : Nat × Nat}

/-- A `spawn` reads its join counter: bad data there is contained, and no child is made. -/
theorem exec_spawn_contained (hl : Lone s k t) (hsc : OnSC s) (hr : Released t)
    (hroom : (s.core (keyCl k) (keyCore k)).children.length < 64) (hargs : ∀ r ∈ argRegs, r ∉ t.busy) (hw3 : .w 3 ∉ t.busy)
    (hjc : readW t b ≠ 0) (halign : (readW t b).toNat % 8 = 0) (hcounts : Counts s k t .write (readW t b) 8 A L)
    (hbad : badAmong s A = some x) :
    ∃ p, exec (.spawn d a b) s = .next (s.containBad p (keyCl k) (keyCore k) x t.pc) := by
  obtain ⟨p, hp⟩ := hcounts.counterAccess_bad hbad fun addrs _ =>
    if atomicBarred s k 1 addrs then s.trap k t 4 (readW t b)
    else if tableHeld s addrs then s.parkAt k t .release
    else if let some key := linkHeld s true addrs then s.containLink (s.partNo (keyCl k)) (keyCl k) (keyCore k) key t.pc
    else if t.ld ≥ 63 then s.parkAt k t (.counterFull 0)
    else (s.atomicFrom (keyCl k) 1 addrs (s.numAt addrs + 1) 1 0).makeChild k t d a (readW t b)
  refine ⟨p, (scOnly_lone hl hsc _).trans (congrArg _ ?_)⟩
  refine (withWritten_of_written (List.forall_mem_cons.2 ⟨hw3, hargs⟩) ..).trans ((if_neg (not_le.2 hroom)).trans ?_)
  rw [hr.withReleased, if_neg hjc, State.countChild, if_neg (not_not.2 halign)]
  exact hp

/-! ### A counter of the issuer's local memory, its first byte bad -/

/-- The thread, with the address of its core's local memory in w6. -/
def countingThread : Thread := setW { Thread.zero with pc := 0x10000 } 6 (word (lmAddr 0 0 0))

/-- That thread alone in slot 0 of core 0 of cluster 0, issuing, in a partition of its own. -/
def badCounterState : State :=
  { State.reset with
    threads := [(0, countingThread)]
    parts := [(0, fetchPartition)]
    bad := [(lmAddr 0 0 0, 0)]
    cur := { cl := 0, core := 0, slot := 0, lanes := [0], pfx := none } }

theorem badCounterState_lone : Lone badCounterState 0 countingThread := ⟨rfl, rfl, rfl, rfl⟩

theorem counts_badCounterState : Counts badCounterState 0 countingThread .write (readW countingThread 6) 8 (span (lmAddr 0 0 0) 8) [] :=
  ⟨0, fetchPartition, by decide +kernel, by decide +kernel⟩

/-- Refutes O27, by its clause on a `spawn` with a join counter, which asks nothing of the counter's data: with the counter's first byte bad
the `spawn` is contained, where the clause has the issuer retire. -/
theorem not_threadInstructionsComplete : ¬ Obligations.ThreadInstructionsComplete := by
  rintro ⟨-, h⟩
  obtain ⟨-, -, hspawn, -⟩ := h badCounterState 0 countingThread badCounterState_lone rfl rfl 5 7 6 _ rfl
  have hroom : (badCounterState.core (keyCl 0) (keyCore 0)).children.length < 64 := by decide +kernel
  have hargs : ∀ r ∈ argRegs, r ∉ countingThread.busy := fun r _ => List.not_mem_nil
  have hr : Released countingThread := fun o ho => absurd ho List.not_mem_nil
  have hjc : readW countingThread 6 ≠ 0 := by decide +kernel
  have halign : (readW countingThread 6).toNat % 8 = 0 := by decide +kernel
  have hwritable : Writable badCounterState 0 1 (span (lmAddr 0 0 0) 8) := by unfold Writable; decide +kernel
  have hbad : badAmong badCounterState (span (lmAddr 0 0 0) 8) = some (lmAddr 0 0 0, 0) := by decide +kernel
  obtain ⟨u, child, hu, -, -, -, -, hthread, -⟩ :=
    hspawn _ _ hroom hargs List.not_mem_nil hr hjc halign counts_badCounterState hwritable (by decide)
  obtain ⟨p, hcontained⟩ :=
    exec_spawn_contained (d := 5) (a := 7) badCounterState_lone rfl hr hroom hargs List.not_mem_nil hjc halign counts_badCounterState hbad
  obtain rfl : badCounterState.containBad p (keyCl 0) (keyCore 0) (lmAddr 0 0 0, 0) countingThread.pc = u := by simpa using hcontained.symm.trans hu
  have hstays : (badCounterState.containBad p (keyCl 0) (keyCore 0) (lmAddr 0 0 0, 0) countingThread.pc).thread 0 = some countingThread :=
    congrArg (mget · 0) (containBad_threads ..)
  have hpc := congrArg (Option.map Thread.pc) (hstays.symm.trans hthread)
  simp [countingThread] at hpc

end Sys2Proof.Safety
end

section
/-! Threads and launches, fourth part: the events of threads: barrier arrivals, expired waits, contexts that arrive, exit notices
(R301 to R303, R306, R310, R311, R321, R325). -/

namespace Sys2Proof.Safety

open Machine Laws

variable {s u : State} {k p g i cl core entry : Nat} {t : Thread} {q : Park} {x : Partition} {e : Group} {m : MigCtx} {c : Core}

/-! ### An arrival at a barrier (R306) -/

/-- The group table of a partition with an arrival recorded. -/
def withArrival (g uid : Nat) (e : Group) (x : Partition) : Partition :=
  { x with groups := mset x.groups g { e with arrived := e.arrived ++ [uid] } }

section

variable {uid phase : Nat} (hf : s.flights[i]? = some (.arrival uid p g phase)) (hp : s.part p = some x) (hg : mget x.groups g = some e)
  (ha : arrives s ((leastBy id (e.members.map (·.1))).getD 0) i = true)
include hf hp hg ha

theorem exec_barrierArrival_late (hphase : phase ≠ e.phase) : exec (.barrierArrival i g) s = .next (arrived s i) := by
  show execBarrierArrival i g s = _
  simp [execBarrierArrival, hf, hp, hg, ha, hphase, State.landFlight, dropAt, arrived]

theorem exec_barrierArrival (hphase : phase = e.phase) (hnew : uid ∉ e.arrived) :
    exec (.barrierArrival i g) s = .next (((arrived s i).modPart p (withArrival g uid e)).settle p) := by
  have hrecord : (if e.arrived.contains uid then e.arrived else e.arrived ++ [uid]) = e.arrived ++ [uid] := if_neg (by simpa using hnew)
  have hexec : exec (.barrierArrival i g) s = .next (((arrived s i).modPart p fun x =>
      { x with groups := mset x.groups g { e with arrived := if e.arrived.contains uid then e.arrived else e.arrived ++ [uid] } }).settle p) := by
    show execBarrierArrival i g s = _
    simp [execBarrierArrival, hf, hp, hg, ha, hphase, State.landFlight, dropAt, arrived]
  rw [hexec, hrecord]
  rfl

end

/-- A recorded arrival ends the phase when every live thread has arrived. -/
theorem settle_arrival (uid : Nat) (hp : s.part p = some x) : ∃ y f,
    ((s.modPart p (withArrival g uid e)).settle p).part p = some y ∧ mget y.groups g = some f ∧
      if ∀ n ∈ liveThreads ((s.modPart p (withArrival g uid e)).settle p) p e, n = uid ∨ n ∈ e.arrived
      then f = { e with phase := e.phase + 1, arrived := [] } else f = { e with arrived := e.arrived ++ [uid] } := by
  have hpart : (s.modPart p (withArrival g uid e)).part p = some (withArrival g uid e x) := by rw [part_modPart, if_pos rfl, hp]; rfl
  refine ⟨_, _, settle_part hpart, (mget_map ..).trans (congrArg _ ((mget_mset ..).trans (if_pos rfl))), ?_⟩
  rw [settleGroup_eq, liveThreads_congr (u := State.settle _ p) (e := { e with arrived := e.arrived ++ [uid] }) (f := e) rfl rfl rfl rfl rfl]
  simp only [List.mem_append, List.mem_singleton, ne_eq, List.append_eq_nil_iff, List.cons_ne_nil, and_false, not_false_eq_true, true_and,
    or_comm (a := _ ∈ e.arrived)]
  split <;> rfl

/-! ### A budgeted wait that lasts its limit (R310, R311) -/

theorem retryGrant_of_none (h : (s.cluster cl).grantWait = []) : s.retryGrant cl = s := by rw [State.retryGrant, h]; rfl

/-- A cluster without the requests of a thread that wait there. -/
def withoutRequests (k : Nat) (c : Cluster) : Cluster :=
  { c with
    fifos := c.fifos.map fun f => (f.1, { f.2 with
      pushes := f.2.pushes.filter fun x => x.1 != k
      pops := f.2.pops.filter fun x => x.1 != k })
    grant := leaveKey c.grant k
    grantWait := c.grantWait.filter fun x => x.1 != k }

theorem withdraw_grantWait (s : State) (k cl : Nat) :
    ((s.withdraw k).cluster cl).grantWait = (s.cluster cl).grantWait.filter fun x => x.1 != k := by
  have hmap : mget (s.withdraw k).clusters cl = (mget s.clusters cl).map (withoutRequests k) := mget_map (withoutRequests k) ..
  rw [State.cluster, State.cluster, hmap]
  cases mget s.clusters cl <;> rfl

/-- A thread that stops waiting takes its trap, and the grant that nobody waits at stands. -/
theorem withdraw_trapWaiting (hs : u.parts = s.parts) (hc : u.clusters = (s.withdraw k).clusters) (hpair : prefixAt u k t = none)
    (hv : Vectored s k t p x) (hgrant : (s.cluster (keyCl k)).grantWait = []) (cause : Nat) : (u.trapWaiting k t cause).retryGrant (keyCl k) =
      u.putThread k (trapThread t x.svcbase t.pc (xsRead t.xstat) cause 0 false 0 0) := by
  obtain ⟨hp, hvectored⟩ := hv
  have hvu : Vectored u k t p x := ⟨(congrArg (List.find? _) hs).trans hp, hvectored⟩
  have htrap : u.trapWaiting k t cause = u.putThread k (trapThread t x.svcbase t.pc (xsRead t.xstat) cause 0 false 0 0) := by
    rw [State.trapWaiting, hpair]
    exact takeTrap_vectored hvu ..
  rw [htrap, retryGrant_of_none]
  rw [cluster_of_clusters (u := u.putThread _ _) (s := s.withdraw k) hc, withdraw_grantWait, hgrant]
  rfl

theorem stallExpired_of {n : Nat} (hq : t.park = some q) (hlimit : stallLimit t.xstat = some n) (hruns : clusterRuns s (keyCl k) = true)
    (hbudget : budgeted q.why = true) (hlast : q.since + n ≤ s.cyc) (hover : parkOver s k t q.why = false)
    (hpack : aboutToPack s k = false) : stallExpired s k t = true := by
  simp [stallExpired, isReady, hq, hlimit, hruns, hbudget, hlast, hover, hpack]

theorem exec_stallLimitExpiry (ht : s.thread k = some t) (h : stallExpired s k t = true) : exec (.stallLimitExpiry k) s = .next
    (if arrivalDue s k t then (((s.withdraw k).withdrawArrival k t).trapWaiting k (unarrived t) 8).retryGrant (keyCl k)
      else ((s.withdraw k).trapWaiting k t 8).retryGrant (keyCl k)) := by
  have hexec : exec (.stallLimitExpiry k) s = if arrivalDue s k t
      then .next ((((s.withdraw k).withdrawArrival k t).trapWaiting k (unarrived t) 8).retryGrant (keyCl k))
      else .next (((s.withdraw k).trapWaiting k t 8).retryGrant (keyCl k)) := by
    show execStallLimitExpiry k s = _
    simp [execStallLimitExpiry, ht, h]
  rw [hexec]
  split <;> rfl

theorem withdraw_flights {f : Flight} (h : f ∈ (s.withdraw k).flights) : f ∈ s.flights := List.mem_of_mem_filter h

theorem unarrived_pc : (unarrived t).pc = t.pc := by
  unfold unarrived
  split <;> rfl

theorem unarrived_tcause : (unarrived t).tcause = t.tcause := by
  unfold unarrived
  split <;> rfl

theorem unarrived_barrier {phase : Nat} (hq : t.park = some q) (hw : q.why = .barrier g phase) :
    unarrived t = { t with xstat := xsSetAP t.xstat false, last := mdel t.last g } := by
  obtain ⟨why, since⟩ := q
  obtain rfl : why = .barrier g phase := hw
  rw [unarrived, hq]

/-- No arrival of the thread for the phase it waited for stays on its way. -/
theorem withdrawArrival_flights {uid phase : Nat} (hq : t.park = some q) (hw : q.why = .barrier g phase)
    (h : .arrival uid p g phase ∈ (s.withdrawArrival k t).flights) : uid ≠ t.uid := by
  rintro rfl
  obtain ⟨f, -, hf⟩ := List.mem_filterMap.1 h
  split at hf
  next hother =>
    obtain rfl := Option.some.inj hf
    simp [ownArrival, hq, hw] at hother
  next =>
    split at hf
    · split at hf <;> simp at hf
    · simp at hf

/-! ### A context that arrives (R302, R303) -/

theorem modCore_congr {f f' : Core → Core} (h : f (s.core cl core) = f' (s.core cl core)) : s.modCore cl core f = s.modCore cl core f' :=
  congrArg (fun c => s.modCluster cl fun x => { x with cores := mset x.cores core c }) h

section

variable (hf : s.flights[i]? = some (.migration m cl core)) (ha : arrives s cl i = true) (hoverflow : (s.core cl core).overflow = [])
include hf ha hoverflow

theorem exec_migrationArrival_queue (hroom : (s.core cl core).arrivals.length < 32) (hheap : (s.core cl core).heap = []) :
    exec (.migrationArrival i) s = .next ((arrived s i).modCore cl core fun _ =>
      { s.core cl core with arrivals := (s.core cl core).arrivals ++ [m] }) := by
  have hexec : exec (.migrationArrival i) s = .next ((arrived s i).modCore cl core fun c => { c with arrivals := c.arrivals ++ [m] }) := by
    show execMigrationArrival i s = _
    simp [execMigrationArrival, hf, ha, hroom, hheap, hoverflow, State.landFlight, dropAt, arrived]
  exact hexec

theorem exec_migrationArrival_heap (hfull : 32 ≤ (s.core cl core).arrivals.length) (hroom : (s.core cl core).heap.length < 4096) :
    exec (.migrationArrival i) s = .next ((arrived s i).modCore cl core fun _ =>
      { s.core cl core with heap := (s.core cl core).heap ++ [m] }) := by
  have hheap : (s.core cl core).heap.length < Config.heapRoom := Nat.lt_of_lt_of_le hroom (Nat.le_add_left ..)
  have hexec : exec (.migrationArrival i) s = .next ((arrived s i).modCore cl core fun c => { c with heap := c.heap ++ [m] }) := by
    show execMigrationArrival i s = _
    simp [execMigrationArrival, hf, ha, hheap, hoverflow, not_lt.2 hfull, State.landFlight, dropAt, arrived]
  exact hexec

end

theorem exec_cellarMove {rest : List MigCtx} (hruns : clusterRuns s cl = true) (hheap : (s.core cl core).heap = m :: rest)
    (hroom : (s.core cl core).arrivals.length < 32) (hoverflow : (s.core cl core).overflow = []) :
    exec (.cellarMove cl core) s = .next (s.modCore cl core fun _ =>
      { s.core cl core with arrivals := (s.core cl core).arrivals ++ [m], heap := rest }) := by
  have hexec : exec (.cellarMove cl core) s = .next (s.modCore cl core _) := if_neg (by simp [hruns])
  refine hexec.trans (congrArg _ (modCore_congr ?_))
  simp only [hheap, hroom, hoverflow, if_true]

/-! ### A child's exit notice (R321) -/

section

variable {sup : Bool} {child : Child} (hf : s.flights[i]? = some (.exitNotice cl core entry sup)) (ha : arrives s cl i = true)
  (hheld : fbfHolds (s.cluster cl) (7, (cl * 64 + entry) * 20 + core) = false)
  (hchild : mget (s.core cl core).children entry = some child)
include hf ha hheld hchild

theorem exec_exitNotice : exec (.exitNotice i) s = .next (s.serveNotice i cl core entry sup child) := by
  show execExitNotice i s = _
  simp [execExitNotice, hf, ha, hheld, hchild]

theorem exec_exitNotice_noCounter (hjc : child.jc = 0) : exec (.exitNotice i) s = .next (freeChild (arrived s i) cl core entry) := by
  rw [exec_exitNotice hf ha hheld hchild, State.serveNotice, if_pos hjc]
  rfl

theorem exec_exitNotice_counted {A L : List Nat} (hjc : child.jc ≠ 0) (hp : s.partOf cl = some (p, x))
    (hcheck : checkCounter s p x child.asid sup .write child.jc 8 = .ok A L) (hw : Writable s (keyOf cl core 0) 1 A)
    (hbad : badAmong s A = none) : exec (.exitNotice i) s =
      .next (((freeChild (arrived s i) cl core entry).atomicFrom cl 1 A (s.numAt A + (2 ^ 64 - 1)) (-1) 0).walkReads cl L) := by
  obtain ⟨hbarred, htable, hlink⟩ := hw
  rw [exec_exitNotice hf ha hheld hchild, State.serveNotice, if_neg hjc]
  simp only [hp, hcheck, hbarred, htable, hlink, hbad, Bool.false_eq_true, if_false]
  rfl

end

theorem freeChild_children : mget ((freeChild s cl core entry).core cl core).children entry = none := by
  simp [freeChild]

/-- A core is as it was after the operation of a counter. -/
theorem atomicFrom_core (op : Nat) (addrs : List Nat) (new : Nat) (a b : Word) (j n : Nat) :
    (s.atomicFrom cl op addrs new a b).core j n = s.core j n :=
  (congrArg (coreIn · n) (cluster_of_clusters (farRequest_clusters ..) j)).trans
    (writeCells_cluster (coreIn · n) (fun _ _ => rfl) s _ j)

theorem walkReads_core (L : List Nat) (j n : Nat) : (s.walkReads cl L).core j n = s.core j n :=
  congrArg (coreIn · n) (cluster_of_clusters (walkReads_clusters ..) j)

/-- Settles O31: each event of a thread by its own lemma. -/
theorem threadEventsComplete : Obligations.ThreadEventsComplete := by
  refine ⟨fun s i uid p g phase x e hf hp hg ha => ⟨exec_barrierArrival_late hf hp hg ha, fun hphase hnew => ?_⟩,
    fun s k t q n p x ht hq hlimit hruns hbudget hlast hover hpack hpair hpair' hp hbase hcause hgrant => ?_,
    fun s cl core c hc => ?_, fun s i cl core entry sup child hf ha hheld hchild => ⟨exec_exitNotice_noCounter hf ha hheld hchild, ?_⟩⟩
  · obtain ⟨y, f, hy, hg', hend⟩ := settle_arrival (s := arrived s i) (g := g) (e := e) uid hp
    exact ⟨_, y, f, exec_barrierArrival hf hp hg ha hphase hnew, hy, hg', settle_threads.trans (modPart_threads ..),
      settle_mem.trans (modPart_mem ..), hend⟩
  · have hexec := exec_stallLimitExpiry ht (stallExpired_of hq hlimit hruns hbudget hlast hover hpack)
    cases hdue : arrivalDue s k t with
    | false =>
      rw [hdue, if_neg Bool.false_ne_true, withdraw_trapWaiting (s := s) (u := s.withdraw k) rfl rfl hpair ⟨hp, hbase, hcause⟩ hgrant] at hexec
      refine ⟨_, t, hexec, (thread_putThread ..).trans (if_pos rfl), fun _ => ⟨rfl, ?_⟩, fun _ _ h => ?_,
        fun j hj => (thread_putThread ..).trans (if_neg hj), rfl⟩
      · exact fun f hf => withdraw_flights hf
      · exact absurd h Bool.false_ne_true
    | true =>
      rw [hdue, if_pos rfl, withdraw_trapWaiting (s := s) (u := (s.withdraw k).withdrawArrival k t) rfl rfl hpair'
        ⟨hp, hbase, unarrived_tcause.symm ▸ hcause⟩ hgrant, unarrived_pc] at hexec
      refine ⟨_, unarrived t, hexec, (thread_putThread ..).trans (if_pos rfl), fun h => ?_, fun g phase _ hw => ⟨unarrived_barrier hq hw, ?_⟩,
        fun j hj => (thread_putThread ..).trans (if_neg hj), rfl⟩
      · exact absurd h.symm Bool.false_ne_true
      · exact fun uid p hf => withdrawArrival_flights hq hw hf
  · subst hc
    exact ⟨fun i m hf ha hroom hheap hover => exec_migrationArrival_queue hf ha hover hroom hheap,
      fun i m hf ha hfull hroom hover => exec_migrationArrival_heap hf ha hover hfull hroom,
      fun m rest hruns hheap hroom hover => exec_cellarMove hruns hheap hroom hover⟩
  · intro p x A L hjc hp hcheck hw hbad
    refine ⟨_, exec_exitNotice_counted hf ha hheld hchild hjc hp hcheck hw hbad, ?_, ?_, ?_⟩
    · rw [walkReads_core, atomicFrom_core, freeChild_children]
    · exact (walkReads_threads ..).trans (atomicFrom_threads ..)
    · exact (walkReads_mem ..).trans (atomicFrom_mem ..)

end Sys2Proof.Safety
end

section
/-! Threads and launches, fifth part: lanes placed in a gang slot, and the events of a grant (R291 to R296, R326). -/

namespace Sys2Proof.Safety

open Machine Laws

variable {s u : State} {k p n i cl core slot serial : Nat} {t : Thread} {target : Word} {e : GrantKey} {q : GangReq}

/-! ### Lists with their positions, and the least of a list -/

theorem mem_indexed {α : Type} {l : List α} {a : α} : (n, a) ∈ indexed l ↔ l[n]? = some a := by
  rw [List.mem_iff_getElem?]
  constructor
  · rintro ⟨j, hj⟩
    obtain ⟨hrange, ha⟩ := List.getElem?_zip_eq_some.1 hj
    obtain ⟨_, hn⟩ := List.getElem?_eq_some_iff.1 hrange
    obtain rfl : j = n := (List.getElem_range _).symm.trans hn
    exact ha
  · intro ha
    exact ⟨n, List.getElem?_zip_eq_some.2 ⟨List.getElem?_range (List.getElem?_eq_some_iff.1 ha).1, ha⟩⟩

theorem mem_of_leastBy {α : Type} {f : α → Nat} {l : List α} {x : α} (h : leastBy f l = some x) : x ∈ l := by
  have hfold : ∀ (l : List α) b, l.foldl (fun best y => if f y < f best then y else best) b ∈ b :: l := by
    intro l
    induction l with
    | nil => exact fun b => List.mem_cons_self
    | cons y l ih =>
      intro b
      rw [List.foldl_cons]
      split
      · exact List.mem_cons_of_mem _ (ih y)
      · exact List.mem_cons.2 ((List.mem_cons.1 (ih b)).imp_right (List.mem_cons_of_mem _))
  cases l with
  | nil => cases h
  | cons y l => exact Option.some.inj h ▸ hfold l y

/-! ### Lanes placed one after the other -/

section

variable {α : Type} {key : α → Nat} {th : α → Thread} {place : State → α → State}
  (hplace : ∀ s x, (place s x).threads = mset s.threads (key x) (th x))
include hplace

theorem thread_place (s : State) (x : α) (j : Nat) : (place s x).thread j = if j = key x then some (th x) else s.thread j := by
  rw [State.thread, hplace, mget_mset]
  rfl

theorem thread_placed_other {l : List α} {j : Nat} (h : ∀ x ∈ l, j ≠ key x) (s : State) : (l.foldl place s).thread j = s.thread j := by
  induction l generalizing s with
  | nil => rfl
  | cons x l ih =>
    obtain ⟨hx, hl⟩ := List.forall_mem_cons.1 h
    rw [List.foldl_cons, ih hl, thread_place hplace, if_neg hx]

/-- A lane that is placed stands at its position, where none placed there differs from it. -/
theorem thread_placed {l : List α} {x : α} (hx : x ∈ l) (hsame : ∀ y ∈ l, key y = key x → th y = th x) (s : State) :
    (l.foldl place s).thread (key x) = some (th x) := by
  induction l using List.reverseRecOn with
  | nil => cases hx
  | append_singleton l y ih =>
    rw [List.foldl_append, List.foldl_cons, List.foldl_nil, thread_place hplace]
    split
    next hkey => rw [hsame y (by simp) hkey.symm]
    next hkey =>
      refine ih ?_ fun y hy => hsame y (by simp [hy])
      refine ((List.mem_append.1 hx).resolve_right fun h => hkey ?_)
      rw [List.mem_singleton.1 h]

end

/-! ### A caller reaches the grant (R291, R292) -/

/-- The key that a caller opens. -/
def openedKey (s : State) (k : Nat) (t : Thread) (target : Word) : GrantKey :=
  { asid := t.asid, target := target, callers := [k], launch := t.launch, limit := keyLimit s t, deadline := s.gtime + keyLimit s t, due := false }

theorem enterGrant_opens (ht : s.thread k = some t) (hnone : ∀ e ∈ (s.cluster cl).grant, e.2.asid ≠ t.asid ∨ e.2.target ≠ target)
    (hfree : lowestFree 64 (mkeys (s.cluster cl).grant) = some n) : s.enterGrant cl k target =
      some ((s.modCluster cl fun c => { c with grant := mset c.grant n (openedKey s k t target) }).holdCaller k t .grantKey) := by
  have hfind : ((s.cluster cl).grant.find? fun e => e.2.asid == t.asid && e.2.target == target) = none := by
    simpa [List.find?_eq_none, imp_iff_not_or] using hnone
  simp only [State.enterGrant, ht, hfind, hfree]
  rfl

theorem exec_grantArrival (hf : s.flights[i]? = some (.gcall k target)) (ha : arrives s cl i = true) (hk : keyCl k = cl)
    (ht : s.thread k = some t) (hwait : (s.cluster cl).grantWait = [])
    (hnone : ∀ e ∈ (s.cluster cl).grant, e.2.asid ≠ t.asid ∨ e.2.target ≠ target)
    (hfree : lowestFree 64 (mkeys (s.cluster cl).grant) = some n) : exec (.grantArrival i) s =
      .next (((arrived s i).modCluster cl fun c => { c with grant := mset c.grant n (openedKey s k t target) }).holdCaller k t .grantKey) := by
  subst hk
  have hretry : (s.landFlight i).retryGrant (keyCl k) = arrived s i := retryGrant_of_none hwait
  have hpack : ((s.cluster (keyCl k)).grant.any fun e => e.2.asid == t.asid && e.2.target == target && packs s (s.cluster (keyCl k)) e.2) = false := by
    refine List.any_eq_false.2 fun e he => ?_
    rcases hnone e he with h | h <;> simp [h]
  have henter : (arrived s i).enterGrant (keyCl k) k target = _ := enterGrant_opens ht hnone hfree
  show execGrantArrival i s = _
  simp only [execGrantArrival, hf, ha, hretry, ht, Option.any_some, hpack, henter]
  rfl

/-! ### A key packs (R293, R296) -/

/-- A caller's park as its key packs. -/
def packedCaller (cyc : Nat) (t : Thread) : Thread := { t with park := some (callerPark t .grantPacked cyc) }

/-- A caller stays packed: its budget counts on from where it began. -/
theorem packedCaller_packedCaller (cyc : Nat) (t : Thread) : packedCaller cyc (packedCaller cyc t) = packedCaller cyc t := rfl

/-- A caller is held as its key packs. -/
def holdPacked (s : State) (k : Nat) : State :=
  match s.thread k with
  | some t => s.holdCaller k t .grantPacked
  | none => s

theorem holdPacked_field {α : Type} (g : State → α) (h : ∀ s k t, g (State.putThread s k t) = g s) (s : State) (k : Nat) :
    g (holdPacked s k) = g s := by
  unfold holdPacked
  split
  · exact h ..
  · rfl

theorem thread_holdPacked (s : State) (k j : Nat) :
    (holdPacked s k).thread j = if j = k then (s.thread j).map (packedCaller s.cyc) else s.thread j := by
  unfold holdPacked
  split
  next t ht =>
    refine (thread_putThread ..).trans (ite_congr rfl (fun hj => ?_) fun _ => rfl)
    rw [hj, ht]
    rfl
  next ht =>
    split
    next hj => rw [hj, ht]; rfl
    next => rfl

/-- Each of the callers is held, a repeated one once. -/
theorem thread_holdPacked_all (l : List Nat) (s : State) (j : Nat) :
    (l.foldl holdPacked s).thread j = if j ∈ l then (s.thread j).map (packedCaller s.cyc) else s.thread j := by
  induction l generalizing s with
  | nil => rfl
  | cons k l ih =>
    have hcyc : (holdPacked s k).cyc = s.cyc := holdPacked_field (·.cyc) (fun _ _ _ => rfl) s k
    rw [List.foldl_cons, ih, thread_holdPacked, hcyc]
    by_cases hjk : j = k <;> by_cases hjl : j ∈ l <;> simp [hjk, hjl, Function.comp_def, packedCaller_packedCaller]

/-- The request of a key that packs. -/
def packedRequest (s : State) (e : GrantKey) : GangReq :=
  { asid := e.asid, target := e.target, callers := e.callers.filterMap (callerArgs s)
    launch := (e.callers.filterMap (callerArgs s)).head?.bind (·.launch) }

theorem exec_grantPack (hgrant : (s.cluster cl).grant = [(n, e)]) (hdue : e.due = true) (hruns : clusterRuns s cl = true)
    (hqueue : (s.cluster cl).gangQueue = []) : exec (.grantPack cl) s = .next
      ((e.callers.foldl holdPacked (s.putCluster cl { s.cluster cl with grant := [], gangQueue := [packedRequest s e] })).retryGrant cl) := by
  have hdel : mdel [(n, e)] n = [] := by simp [mdel]
  show execGrantPack cl s = _
  simp only [execGrantPack, hgrant, hqueue, List.find?_cons, packDue, hdue, Bool.or_true, Bool.true_or, hruns, hdel]
  rfl

/-! ### A caller resumes (R294, R326) -/

theorem exec_callerResume {w10 w11 f10 f11 : Word} (hf : s.flights[i]? = some (.results k w10 w11 f10 f11))
    (hruns : clusterRuns s (keyCl k) = true) (ht : s.thread k = some t) (hss : xsSS t.xstat = false) :
    exec (.callerResume i) s = .next ((arrived s i).putThread k (retired (withResults s t w10 w11 f10 f11) (t.pc + 4))) := by
  have ht' : (s.landFlight i).thread k = some t := ht
  show execCallerResume i s = _
  simp only [execCallerResume, hf, hruns, ht', finishAt_eq _ _ _ _ _ hss]
  rfl

theorem readW_foldl_setW {g : Nat → Reg} {v : Nat → Word} {r : Reg} {l : List Nat} (h : ∀ i ∈ l, r ≠ g i) (t : Thread) :
    readW (l.foldl (fun t i => setW t (g i) (v i)) t) r = readW t r := by
  induction l generalizing t with
  | nil => rfl
  | cons i l ih =>
    obtain ⟨hi, hl⟩ := List.forall_mem_cons.1 h
    rw [List.foldl_cons, ih hl, readW_setW, if_neg hi]
    split
    next hr => rw [hr, readW_zero]
    next => rfl

/-- A register that is no free value holds its result, or what it held. -/
theorem readW_withResults {w10 w11 f10 f11 : Word} {r : Reg} (hr : r.toNat < 12 ∨ 18 ≤ r.toNat) (s : State) (t : Thread) :
    readW (withResults s t w10 w11 f10 f11) r = if r = 11 then w11 else if r = 10 then w10 else readW t r := by
  have hfree : ∀ i ∈ List.range 6, r ≠ BitVec.ofNat 5 (12 + i) := by
    rintro i hi rfl
    rw [List.mem_range] at hi
    rw [BitVec.toNat_ofNat, Nat.mod_eq_of_lt (by omega)] at hr
    omega
  rw [withResults, readW_setF, readW_setF, readW_foldl_setW hfree, readW_setF, readW_setF, readW_setW, readW_setW]
  split
  next h0 => rw [h0]; rfl
  next => rfl

theorem readF_withResults {w10 w11 f10 f11 : Word} {r : Reg} (hr : r.toNat < 12 ∨ 14 ≤ r.toNat) (s : State) (t : Thread) :
    readF (withResults s t w10 w11 f10 f11) r = if r = 11 then f11 else if r = 10 then f10 else readF t r := by
  have h12 : r ≠ 12 := by rintro rfl; simp at hr
  have h13 : r ≠ 13 := by rintro rfl; simp at hr
  rw [withResults, readF_setF, if_neg h13, readF_setF, if_neg h12]
  simp [List.range_succ]

/-- What the results give the caller, and what they leave of it. -/
theorem withResults_effect (s : State) (t : Thread) (w10 w11 f10 f11 : Word) :
    readW (withResults s t w10 w11 f10 f11) 10 = w10 ∧ readW (withResults s t w10 w11 f10 f11) 11 = w11 ∧
    readF (withResults s t w10 w11 f10 f11) 10 = f10 ∧ readF (withResults s t w10 w11 f10 f11) 11 = f11 ∧
    (∀ r : Reg, r.toNat < 10 ∨ 18 ≤ r.toNat → readW (withResults s t w10 w11 f10 f11) r = readW t r) ∧
    (∀ r : Reg, r.toNat < 10 ∨ 14 ≤ r.toNat → readF (withResults s t w10 w11 f10 f11) r = readF t r) ∧
    (withResults s t w10 w11 f10 f11).p = t.p ∧ (withResults s t w10 w11 f10 f11).fflags = t.fflags ∧
    (withResults s t w10 w11 f10 f11).xstat = t.xstat := by
  have hne : ∀ {r : Reg}, r.toNat < 10 ∨ 14 ≤ r.toNat → r ≠ 11 ∧ r ≠ 10 := fun hr =>
    ⟨fun h => by subst h; revert hr; decide, fun h => by subst h; revert hr; decide⟩
  refine ⟨readW_withResults (by decide) s t, readW_withResults (by decide) s t, readF_withResults (by decide) s t,
    readF_withResults (by decide) s t, fun r hr => ?_, fun r hr => ?_, ?_⟩
  · obtain ⟨h11, h10⟩ := hne (r := r) (by omega)
    rw [readW_withResults (by omega), if_neg h11, if_neg h10]
  · obtain ⟨h11, h10⟩ := hne hr
    rw [readF_withResults (by omega), if_neg h11, if_neg h10]
  · simp [withResults, List.range_succ]

/-! ### A packed gang starts (R294, R326) -/

/-- The lane of a caller, at its first instruction. -/
theorem readW_laneThread (uid : Nat) (q : GangReq) (a : CallerArgs) (m : Fin 8) :
    readW (laneThread uid q a) (BitVec.ofNat 5 (10 + m.val)) = a.w[m] := by
  have hm : (BitVec.ofNat 5 (10 + m.val)).toNat = 10 + m.val := by simp; omega
  have h0 : BitVec.ofNat 5 (10 + m.val) ≠ 0 := fun h => by rw [h] at hm; simp at hm; omega
  simp only [readW, if_neg h0, laneThread, Vector.getElem_ofFn, hm]
  rw [dif_pos (by omega)]
  simp

theorem readF_laneThread (uid : Nat) (q : GangReq) (a : CallerArgs) (m : Fin 4) :
    readF (laneThread uid q a) (BitVec.ofNat 5 (10 + m.val)) = a.f[m] := by
  have hm : (BitVec.ofNat 5 (10 + m.val)).toNat = 10 + m.val := by simp; omega
  simp only [readF, laneThread, Vector.getElem_ofFn, hm]
  rw [dif_pos (by omega)]
  simp

theorem readW_laneThread_other {r : Reg} (hr : r.toNat < 10 ∨ 18 ≤ r.toNat) (uid : Nat) (q : GangReq) (a : CallerArgs) :
    readW (laneThread uid q a) r = 0 := by
  simp only [readW, laneThread, Vector.getElem_ofFn]
  rw [dif_neg (by omega), ite_self]

theorem readF_laneThread_other {r : Reg} (hr : r.toNat < 10 ∨ 14 ≤ r.toNat) (uid : Nat) (q : GangReq) (a : CallerArgs) :
    readF (laneThread uid q a) r = 0 := by
  simp only [readF, laneThread, Vector.getElem_ofFn]
  rw [dif_neg (by omega)]

theorem exec_gangStart {rest : List GangReq} (hqueue : (s.cluster cl).gangQueue = q :: rest) (hlaunch : q.launch = some (p, serial))
    (hcore : chooseGC s cl q.launch = some core) (hslot : (freeGangSlots s cl core).head? = some slot)
    (himage : (s.core cl core).image = some (p, serial)) (hruns : clusterRuns s cl = true) :
    exec (.gangStart cl) s = .next ((s.modCluster cl fun c => { c with gangQueue := rest }).startGang cl core slot q) := by
  obtain ⟨slots, hslots⟩ := List.head?_eq_some_iff.1 hslot
  have hwindow : (s.modCluster cl fun c => { c with gangQueue := rest }).ensureWindow cl core p serial =
      s.modCluster cl fun c => { c with gangQueue := rest } := if_pos (by simpa [State.core, coreIn] using himage)
  rw [hlaunch] at hcore
  show execGangStart cl s = _
  simp only [execGangStart, hqueue, hlaunch, hcore, hslots, hruns, hwindow]
  rfl

theorem chooseGC_gang {l : Option (Nat × Nat)} (h : chooseGC s cl l = some core) : 16 ≤ core := by
  have hmem := List.mem_of_mem_filter (mem_of_leastBy h)
  simp only [List.mem_cons, List.not_mem_nil, or_false] at hmem
  omega

theorem thrOf_gang (h : 16 ≤ core) (slot n : Nat) : thrOf core slot n = slot * 32 + n :=
  if_neg (by simp [isSC, h])

/-- The gang of a request. -/
def packedGang (s : State) (q : GangReq) : Gang :=
  { mask := BitVec.ofNat 32 (2 ^ q.callers.length - 1), packed := true, since := s.cyc, launch := q.launch }

/-- The gang slot of a request, opened, its lanes still to be placed. -/
def gangOpened (s : State) (cl core slot : Nat) (q : GangReq) : State :=
  { s with nextUid := s.nextUid + q.callers.length }.modCore cl core fun c =>
    { c with yields := c.yields.filter fun y => y.slot != slot
             gangs := mset c.gangs slot (packedGang s q) }

/-- A lane takes its position, its wake bit clear. -/
def placeLane (k : Nat) (t : Thread) (s : State) : State := { s.putThread k t with wakes := s.wakes.erase k }

theorem startGang_eq (s : State) (cl core slot : Nat) (q : GangReq) : s.startGang cl core slot q = (indexed q.callers).foldl
    (fun u x => placeLane (keyOf cl core (thrOf core slot x.1)) (laneThread (s.nextUid + x.1) q x.2) u) (gangOpened s cl core slot q) := rfl

/-- Lane n of the gang holds caller n. -/
theorem startGang_lane {a : CallerArgs} (hcore : 16 ≤ core) (ha : q.callers[n]? = some a) :
    (s.startGang cl core slot q).thread (keyOf cl core (thrOf core slot n)) = some (laneThread (s.nextUid + n) q a) := by
  rw [startGang_eq]
  refine thread_placed (key := fun x : Nat × CallerArgs => keyOf cl core (thrOf core slot x.1))
    (th := fun x => laneThread (s.nextUid + x.1) q x.2) (fun _ _ => rfl) (mem_indexed.2 ha) ?_ _
  rintro ⟨m, b⟩ hb hkey
  simp only [thrOf_gang hcore, keyOf] at hkey
  obtain rfl : m = n := by omega
  obtain rfl : b = a := Option.some.inj ((mem_indexed.1 hb).symm.trans ha)
  rfl

theorem startGang_other {j : Nat} (hj : ∀ n, n < q.callers.length → j ≠ keyOf cl core (thrOf core slot n)) :
    (s.startGang cl core slot q).thread j = s.thread j := by
  rw [startGang_eq]
  refine thread_placed_other (key := fun x : Nat × CallerArgs => keyOf cl core (thrOf core slot x.1))
    (th := fun x => laneThread (s.nextUid + x.1) q x.2) (fun _ _ => rfl) ?_ _
  rintro ⟨n, a⟩ ha
  exact hj n (List.getElem?_eq_some_iff.1 (mem_indexed.1 ha)).1

theorem startGang_cluster (j : Nat) : (s.startGang cl core slot q).cluster j = (gangOpened s cl core slot q).cluster j := by
  rw [startGang_eq]
  refine foldl_field (fun u => u.cluster j) ?_ ..
  exact fun _ _ => rfl

theorem startGang_gangQueue : ((s.startGang cl core slot q).cluster cl).gangQueue = (s.cluster cl).gangQueue := by
  rw [startGang_cluster, gangOpened, State.modCore, cluster_modCluster, if_pos rfl]
  rfl

theorem startGang_gang : mget ((s.startGang cl core slot q).core cl core).gangs slot = some (packedGang s q) := by
  rw [State.core, startGang_cluster, ← State.core, gangOpened, core_modCore, if_pos ⟨rfl, rfl⟩]
  exact (mget_mset ..).trans (if_pos rfl)

theorem startGang_mem : (s.startGang cl core slot q).mem = s.mem := by
  rw [startGang_eq]
  refine (foldl_field (·.mem) ?_ ..).trans rfl
  exact fun _ _ => rfl

/-- Settles O32: each event of a grant by its own lemma. -/
theorem grantEventsComplete : Obligations.GrantEventsComplete := by
  intro s cl hruns
  refine ⟨fun i k t target n hf ha hk ht hwait hnone hfree => ?_, fun key e he hdead => ?_, fun n e hgrant hdue hqueue hwait => ?_,
    fun i k t w10 w11 f10 f11 hf hk ht hss => ?_, fun core slot q rest p serial hqueue hlaunch hcore hslot himage hlen => ?_⟩
  · refine ⟨_, openedKey s k t target, exec_grantArrival hf ha hk ht hwait hnone hfree, ?_, rfl, rfl, rfl, rfl, ?_, fun j hj => ?_, rfl⟩
    · simp [State.holdCaller]
    · exact (thread_putThread ..).trans (if_pos rfl)
    · exact (thread_putThread ..).trans (if_neg hj)
  · show execGrantKeyDeadline cl key s = _
    simp [execGrantKeyDeadline, he, hruns, hdead]
  · have hcluster : ∀ u : State, (e.callers.foldl holdPacked u).cluster cl = u.cluster cl :=
      foldl_field (fun u => u.cluster cl) (holdPacked_field (fun u => u.cluster cl) fun _ _ _ => rfl) _
    have hexec := exec_grantPack hgrant hdue hruns hqueue
    rw [retryGrant_of_none (by rw [hcluster]; simpa using hwait)] at hexec
    refine ⟨_, packedRequest s e, hexec, ?_, ?_, rfl, rfl, rfl, ?_, fun j => ?_⟩
    · rw [hcluster]; simp
    · rw [hcluster]; simp
    · exact foldl_field (·.mem) (holdPacked_field (·.mem) fun _ _ _ => rfl) ..
    · exact thread_holdPacked_all ..
  · subst hk
    refine ⟨_, _, exec_callerResume hf hruns ht hss, (thread_putThread ..).trans (if_pos rfl), rfl, rfl, ?_⟩
    obtain ⟨hw10, hw11, hf10, hf11, hother, hfother, hp, hflags, hxstat⟩ := withResults_effect s t w10 w11 f10 f11
    exact ⟨hw10, hw11, hf10, hf11, hother, hfother, hp, hflags, congrArg (xsSetAP · false) hxstat,
      fun j hj => (thread_putThread ..).trans (if_neg hj), rfl⟩
  · have hgang := chooseGC_gang hcore
    refine ⟨_, packedGang s q, exec_gangStart hqueue hlaunch hcore hslot himage hruns, ?_, ?_, rfl, ?_, startGang_mem,
      fun n a ha => ?_, fun j hj => ?_⟩
    · rw [startGang_gangQueue]; simp
    · exact startGang_gang
    · exact (BitVec.toNat_ofNat ..).trans (Nat.mod_eq_of_lt (by have := Nat.pow_le_pow_right (n := 2) (by decide) hlen; omega))
    · exact ⟨_, startGang_lane hgang ha, rfl, rfl, rfl, readW_laneThread _ q a, readF_laneThread _ q a,
        fun r hr => readW_laneThread_other hr _ q a, fun r hr => readF_laneThread_other hr _ q a⟩
    · exact (startGang_other hj).trans rfl

end Sys2Proof.Safety
end

section
/-! Threads and launches, sixth part: what a launch's start leaves of its record, its serial, the threads and the memory (R276, R279, R305). -/

namespace Sys2Proof.Safety

open Machine Laws

variable {s u : State} {p serial cl n : Nat} {t : Thread} {x : Partition} {l : Launch} {asid : BitVec 16} {sup : Bool} {acc : Access}
  {va : Word} {engine : Nat × Nat}

/-! ### What the start of a launch keeps -/

/-- What a launch is accepted with. -/
def launchId (l : Launch) : LaunchRec × BitVec 16 × Bool := (l.r, l.asid, l.sup)

/-- A partition's serial, and what one of its launches was accepted with. -/
def launchEntry (p serial : Nat) (s : State) : Option (Nat × Option (LaunchRec × BitVec 16 × Bool)) :=
  (s.part p).map fun x => (x.serial, (mget x.launches serial).map launchId)

/-- The threads and the memory with that entry: what a launch's start keeps. -/
def launchView (p serial : Nat) (s : State) : Map Thread × Mem × Option (Nat × Option (LaunchRec × BitVec 16 × Bool)) :=
  (s.threads, s.mem, launchEntry p serial s)

/-- The launch `l` is held under its serial. -/
def Holds (s : State) (p serial : Nat) (l : Launch) : Prop := ∃ n, launchEntry p serial s = some (n, some (launchId l))

theorem launchView_congr (ht : u.threads = s.threads) (hm : u.mem = s.mem) (hp : u.parts = s.parts) :
    launchView p serial u = launchView p serial s := by
  unfold launchView launchEntry State.part
  rw [ht, hm, hp]

theorem Holds.congr (h : Holds s p serial l) (hu : launchView p serial u = launchView p serial s) : Holds u p serial l := by
  obtain ⟨n, hn⟩ := h
  exact ⟨n, (congrArg (·.2.2) hu).trans hn⟩

theorem launchView_modPart {q : Nat} {f : Partition → Partition}
    (h : ∀ x, s.part q = some x → q = p → (f x).serial = x.serial ∧
      (mget (f x).launches serial).map launchId = (mget x.launches serial).map launchId) :
    launchView p serial (s.modPart q f) = launchView p serial s := by
  have hentry : launchEntry p serial (s.modPart q f) = launchEntry p serial s := by
    unfold launchEntry
    rw [part_modPart]
    split
    next hpq =>
      subst hpq
      cases hx : s.part p with
      | none => rfl
      | some x =>
        obtain ⟨hserial, hlaunch⟩ := h x hx rfl
        simp [hserial, hlaunch]
    next => rfl
  unfold launchView
  rw [modPart_threads, modPart_mem, hentry]

theorem launchView_farRequest (s : State) (part kind : Nat) (keys : List Nat) (data : List Byte) :
    launchView p serial (s.farRequest part kind keys data) = launchView p serial s :=
  launchView_congr (farRequest_threads ..) (farRequest_mem ..) (farRequest_parts ..)

/-- A read that goes out with its walks changes messages alone. -/
theorem reads_field {α : Type} (g : State → α) (h : ∀ s part kind keys data, g (State.farRequest s part kind keys data) = g s) (s : State)
    (cl : Nat) (addrs : List Nat) (asid : BitVec 16) (sup : Bool) (ranges : List (Word × Nat)) :
    g ((s.agentReads cl addrs).agentWalks cl asid sup .read ranges) = g s :=
  (agentWalks_field g h ..).trans (h ..)

theorem launchView_reads (s : State) (cl : Nat) (addrs : List Nat) (asid : BitVec 16) (sup : Bool) (ranges : List (Word × Nat)) :
    launchView p serial ((s.agentReads cl addrs).agentWalks cl asid sup .read ranges) = launchView p serial s :=
  reads_field _ launchView_farRequest ..

theorem Holds.putLaunch (h : Holds s p serial l) : launchView p serial (s.putLaunch p serial l) = launchView p serial s := by
  refine launchView_modPart fun x hx _ => ⟨rfl, ?_⟩
  obtain ⟨n, hn⟩ := h
  rw [launchEntry, hx] at hn
  obtain ⟨-, hl⟩ := Prod.mk.inj (Option.some.inj hn)
  rw [hl, mget_mset, if_pos rfl]
  rfl

theorem Holds.after_putLaunch (h : Holds s p serial l) : Holds (s.putLaunch p serial l) p serial l := h.congr h.putLaunch

theorem Holds.failLaunch (h : Holds s p serial l) (status : Nat) :
    launchView p serial (s.failLaunch p serial l status) = launchView p serial s := Holds.putLaunch h

/-! ### Accesses that wait -/

theorem launchView_contain (s : State) (q : Nat) (r : Record) : launchView p serial (s.contain q r) = launchView p serial s :=
  contain_field _ (fun _ _ f hf => launchView_modPart fun x _ _ => ⟨(hf x).1, by rw [(hf x).2]⟩) (fun _ _ _ => rfl) s q r

theorem launchView_containKey (s : State) (q cl core key : Nat) (pc : Word) :
    launchView p serial (s.containKey q cl core key pc) = launchView p serial s := by
  unfold State.containKey
  split <;> exact launchView_contain ..

theorem launchView_enterFbf (s : State) (cl reason : Nat) (e : FbfEntry) (pc : Word) :
    launchView p serial (s.enterFbf cl reason e pc) = launchView p serial s := by
  refine (walkReads_field _ launchView_farRequest ..).trans ?_
  split <;> rfl

/-- The state an access waits with keeps the launch. -/
def AgentKeeps (p serial : Nat) (s : State) : Agent → Prop
  | .wait u => launchView p serial u = launchView p serial s
  | _ => True

theorem AgentKeeps.wait {a : Agent} (h : AgentKeeps p serial s a) (e : a = .wait u) : launchView p serial u = launchView p serial s := by
  subst e
  exact h

theorem AgentKeeps.ite {c : Prop} [Decidable c] {a b : Agent} (ha : AgentKeeps p serial s a) (hb : AgentKeeps p serial s b) :
    AgentKeeps p serial s (if c then a else b) := by
  split
  · exact ha
  · exact hb

theorem agent_keeps (s : State) (cl : Nat) (engine : Nat × Nat) (asid : BitVec 16) (sup : Bool) (acc : Access) (va : Word) (n : Nat) :
    AgentKeeps p serial s (s.agent cl engine asid sup acc va n) := by
  unfold State.agent
  split
  · trivial
  refine .ite trivial (.ite rfl ?_)
  split
  · split
    · exact launchView_contain ..
    · refine .ite (.ite rfl ?_) ?_
      · split
        · exact launchView_contain ..
        · exact .ite trivial (.ite trivial trivial)
      · split
        · exact launchView_contain ..
        · trivial
  · exact launchView_containKey ..
  · trivial
  · exact launchView_enterFbf ..
  · rfl

theorem agentAll_keeps (s : State) (cl : Nat) (engine : Nat × Nat) (asid : BitVec 16) (sup : Bool) (acc : Access) (ranges : List (Word × Nat)) :
    AgentKeeps p serial s (s.agentAll cl engine asid sup acc ranges) := by
  induction ranges with
  | nil => trivial
  | cons r ranges ih =>
    unfold State.agentAll
    split
    · split
      · trivial
      · exact ih
    · exact agent_keeps ..

/-! ### The group table -/

/-- The state that loading the group table waits with keeps the launch. -/
def LoadedKeeps (p serial : Nat) (s : State) : Loaded → Prop
  | .wait u => launchView p serial u = launchView p serial s
  | _ => True

theorem loadGroup_keeps (s : State) (l : Launch) (x : Partition) (n : Nat) (bs : List Byte) (g : Map Group) :
    LoadedKeeps p serial s (loadGroup s l p serial x n bs g) := by
  unfold loadGroup
  dsimp only
  split
  · trivial
  split
  · trivial
  split
  next hw => exact (agentAll_keeps ..).wait hw
  · trivial
  split
  · trivial
  split <;> trivial

theorem loadGroups_keeps (s : State) (l : Launch) (x : Partition) : LoadedKeeps p serial s (loadGroups s l p serial x) := by
  unfold loadGroups
  split
  · trivial
  split
  next hw => exact (agentAll_keeps ..).wait hw
  · trivial
  next addrs _ =>
    generalize List.range 256 = records
    have hstart : LoadedKeeps p serial s (.groups x.groups) := trivial
    generalize Loaded.groups x.groups = r at hstart ⊢
    induction records generalizing r with
    | nil => exact hstart
    | cons i records ih =>
      refine ih _ ?_
      dsimp only
      split
      · exact loadGroup_keeps ..
      · exact hstart

theorem tableReads_keeps (s : State) (l : Launch) : launchView p serial (s.tableReads l p serial) = launchView p serial s :=
  (foldl_field _ (fun _ _ => launchView_reads ..) ..).trans (launchView_reads ..)

/-! ### The stages of a start -/

theorem Holds.readGroups (h : Holds s p serial l) (x : Partition) :
    launchView p serial (s.readGroups p serial x l) = launchView p serial s := by
  have hload := loadGroups_keeps (p := p) (serial := serial) s l x
  unfold State.readGroups
  split
  next hw => rw [hw] at hload; exact hload
  · exact h.failLaunch 6
  next g _ =>
    have hgroups : launchView p serial ((s.tableReads l p serial).modPart p fun x => { x with groups := g }) = launchView p serial s := by
      refine (launchView_modPart ?_).trans (tableReads_keeps s l)
      exact fun _ _ _ => ⟨rfl, rfl⟩
    refine (Holds.putLaunch ?_).trans hgroups
    exact h.congr hgroups

theorem Holds.startLaunch (h : Holds s p serial l) (x : Partition) :
    launchView p serial (s.startLaunch p serial x l) = launchView p serial s := by
  have ha : AgentKeeps p serial s (if l.r.csz = 0 then Agent.ok []
      else s.agent l.cl (launchAgent p serial) l.asid l.sup .read l.r.const l.r.csz) := .ite trivial (agent_keeps ..)
  unfold State.startLaunch
  split
  · exact h.failLaunch 3
  split
  · exact h.readGroups x
  split
  next hw => exact ha.wait hw
  · exact h.failLaunch 1
  next addrs _ =>
    have hread := launchView_reads (p := p) (serial := serial) s l.cl addrs l.asid l.sup [(l.r.const, l.r.csz)]
    have hl : Holds _ p serial { l with const := addrs.map s.byteAt, reads := 2 } := h.congr hread
    exact (hl.after_putLaunch.readGroups x).trans (hl.putLaunch.trans hread)

theorem Holds.tryCounter (h : Holds s p serial l) (x : Partition) :
    launchView p serial (s.tryCounter p serial x l) = launchView p serial s := by
  unfold State.tryCounter
  split
  · exact h.startLaunch x
  split
  next hw => exact (agent_keeps ..).wait hw
  · exact h.failLaunch 1
  next addrs _ =>
    have hread := launchView_reads (p := p) (serial := serial) s l.cl addrs l.asid l.sup [(l.r.depctr, 8)]
    dsimp only
    split
    · have hl : Holds _ p serial { l with reads := 1 } := h.congr hread
      exact (hl.after_putLaunch.startLaunch x).trans (hl.putLaunch.trans hread)
    · exact hread

/-- The start of a launch keeps the threads, the memory, the serial, and what the launch was accepted with. -/
theorem launchView_tryStart (s : State) (p serial : Nat) : launchView p serial (s.tryStart p serial) = launchView p serial s := by
  unfold State.tryStart
  split
  · rfl
  next x hx =>
    split
    · rfl
    next l hl =>
      have h : Holds s p serial l := ⟨x.serial, by rw [launchEntry, hx, Option.map_some, hl]; rfl⟩
      split
      · rfl
      split
      · exact h.tryCounter x
      split
      next hw => exact (agent_keeps ..).wait hw
      · exact h.failLaunch 1
      next addrs _ =>
        dsimp only
        split
        · exact h.failLaunch 5
        · have hread := launchView_reads (p := p) (serial := serial) s l.cl addrs l.asid l.sup [(l.r.place, 48)]
          have hl : Holds _ p serial { l with clusters := maskClusters x (some (addrs.map s.byteAt)) } := h.congr hread
          exact (hl.after_putLaunch.tryCounter x).trans (hl.putLaunch.trans hread)

end Sys2Proof.Safety
end

section
/-! Threads and launches, seventh part: the events of launches and of their queues (R276 to R279, R282, R332). -/

namespace Sys2Proof.Safety

open Machine Laws

variable {s u : State} {k p q i cl core slot serial : Nat} {t : Thread} {x : Partition} {e : LaunchQueue} {l : Launch} {asid : BitVec 16}
  {sup : Bool} {va : Word} {addrs : List Nat}

/-! ### A queue's records and its HEAD (R278) -/

section

variable (hx : s.part p = some x) (hq : mget x.queues q = some e) (hruns : clusterRuns s (bitsOf 16 9 e.cfg) = true)
include hx hq hruns

theorem exec_launchQueueWake_reads (hon : natBit 31 e.cfg.toNat = true) (hhalted : e.halted = false) (hdue : e.due = false) :
    exec (.launchQueueWake p q) s = .next (s.readTail p q e) := by
  show execLaunchQueueWake p q s = _
  simp [execLaunchQueueWake, hx, hq, hruns, hon, hhalted, hdue]

theorem exec_launchQueueWake_stores (hdue : e.due = true) :
    exec (.launchQueueWake p q) s = .next (s.storeHead p q (e.cfg.setWidth 16) (natBit 30 e.cfg.toNat)) := by
  show execLaunchQueueWake p q s = _
  simp [execLaunchQueueWake, hx, hq, hruns, hdue]

end

theorem readTail_eq {base : Word} {log2n head tail n : Nat}
    (hagent : s.agent (bitsOf 16 9 e.cfg) (queueAgent p q) (e.cfg.setWidth 16) (natBit 30 e.cfg.toNat) .read e.addr 128 = .ok addrs)
    (hbase : base = word (s.numAt (addrs.take 8))) (hlog : log2n = s.numAt ((addrs.drop 8).take 8))
    (hhead : head = e.head.getD (s.numAt ((addrs.drop 16).take 8))) (htail : tail = s.numAt ((addrs.drop 64).take 8)) (hmin : 1 ≤ log2n)
    (hmax : log2n ≤ 16) (halign : base.toNat % 128 = 0) (hn : n = (tail + 2 ^ 64 - head) % 2 ^ 64) (hroom : n ≤ 2 ^ log2n) :
    s.readTail p q e = { ((s.agentReads (bitsOf 16 9 e.cfg) addrs).agentWalks (bitsOf 16 9 e.cfg) (e.cfg.setWidth 16)
        (natBit 30 e.cfg.toNat) .read [(e.addr, 128)]).modPart p fun x => { x with queues := mset x.queues q { e with head := some head } } with
      flights := s.flights ++ (List.range (n - queueOnWay s p q)).map fun j => .launch p (bitsOf 16 9 e.cfg) (some q) (e.cfg.setWidth 16)
        (natBit 30 e.cfg.toNat) (base + word ((head + queueOnWay s p q + j) % 2 ^ log2n * 128)) none } := by
  subst hbase hlog hhead htail hn
  simp only [State.readTail, hagent]
  rw [if_neg (by omega), if_neg (by omega)]

theorem storeHead_eq (hx : s.part p = some x) (hq : mget x.queues q = some e)
    (hagent : s.agent (bitsOf 16 9 e.cfg) (queueAgent p q) asid sup .write (e.addr + 0x10) 8 = .ok addrs) :
    s.storeHead p q asid sup = ((s.writeFrom (bitsOf 16 9 e.cfg) (addrs.zip (leBytes 8 (e.head.getD 0)))).agentWalks (bitsOf 16 9 e.cfg)
      asid sup .write [(e.addr + 0x10, 8)]).modQueue p q fun e => { e with due := false } := by
  simp only [State.storeHead, hx, Option.bind_some, hq, hagent]

theorem part_modQueue (f : LaunchQueue → LaunchQueue) (hx : s.part p = some x) (hq : mget x.queues q = some e) :
    (s.modQueue p q f).part p = some { x with queues := mset x.queues q (f e) } := by
  rw [State.modQueue, part_modPart, if_pos rfl, hx, Option.map_some, hq]

theorem part_congr (h : u.parts = s.parts) (p : Nat) : u.part p = s.part p := congrArg (mget · p) h

theorem agentWalks_mem (s : State) (cl : Nat) (asid : BitVec 16) (sup : Bool) (acc : Access) (ranges : List (Word × Nat)) :
    (s.agentWalks cl asid sup acc ranges).mem = s.mem := agentWalks_field (·.mem) farRequest_mem ..

theorem agentWalks_threads (s : State) (cl : Nat) (asid : BitVec 16) (sup : Bool) (acc : Access) (ranges : List (Word × Nat)) :
    (s.agentWalks cl asid sup acc ranges).threads = s.threads := agentWalks_field (·.threads) farRequest_threads ..

theorem agentWalks_parts (s : State) (cl : Nat) (asid : BitVec 16) (sup : Bool) (acc : Access) (ranges : List (Word × Nat)) :
    (s.agentWalks cl asid sup acc ranges).parts = s.parts := agentWalks_field (·.parts) farRequest_parts ..

theorem reads_mem (s : State) (cl : Nat) (addrs : List Nat) (asid : BitVec 16) (sup : Bool) (ranges : List (Word × Nat)) :
    ((s.agentReads cl addrs).agentWalks cl asid sup .read ranges).mem = s.mem := reads_field (·.mem) farRequest_mem ..

theorem reads_threads (s : State) (cl : Nat) (addrs : List Nat) (asid : BitVec 16) (sup : Bool) (ranges : List (Word × Nat)) :
    ((s.agentReads cl addrs).agentWalks cl asid sup .read ranges).threads = s.threads := reads_field (·.threads) farRequest_threads ..

theorem reads_parts (s : State) (cl : Nat) (addrs : List Nat) (asid : BitVec 16) (sup : Bool) (ranges : List (Word × Nat)) :
    ((s.agentReads cl addrs).agentWalks cl asid sup .read ranges).parts = s.parts := reads_field (·.parts) farRequest_parts ..

/-! ### A record is accepted (R276, R332) -/

/-- The launch of a record as it is accepted. -/
def acceptedLaunch (cl : Nat) (x : Partition) (queue : Option Nat) (asid : BitVec 16) (sup : Bool) (r : LaunchRec) : Launch :=
  { r := r, cl := cl, queue := queue, asid := asid, sup := sup, stage := if recordStatus x asid r = 0 then .waiting else .placed,
    placedThr := 0, placedGang := 0, status := recordStatus x asid r, clusters := if r.place = 0 then maskClusters x none else [],
    const := [], reads := 0, started := false, signals := 0 }

/-- The record accepted, its launch still to start. -/
def acceptedState (s : State) (p cl : Nat) (x : Partition) (queue : Option Nat) (asid : BitVec 16) (sup : Bool) (r : LaunchRec)
    (issuer : Option (Nat × Reg)) : State :=
  (s.modPart p fun y => { y with
    serial := y.serial + 1
    launches := mset y.launches y.serial (acceptedLaunch cl x queue asid sup r) }).giveSerial issuer x.serial

/-- Whether it starts or fails, the launch keeps what it was accepted with. -/
theorem launchView_accept (s : State) (p cl : Nat) (x : Partition) (queue : Option Nat) (asid : BitVec 16) (sup : Bool) (r : LaunchRec)
    (issuer : Option (Nat × Reg)) : launchView p x.serial (s.accept p cl x queue asid sup r issuer) =
      launchView p x.serial (acceptedState s p cl x queue asid sup r issuer) := by
  have haccept : s.accept p cl x queue asid sup r issuer = if recordStatus x asid r = 0
      then (acceptedState s p cl x queue asid sup r issuer).tryStart p x.serial else acceptedState s p cl x queue asid sup r issuer := rfl
  rw [haccept]
  split
  · exact launchView_tryStart ..
  · rfl

theorem giveSerial_eq (ht : s.thread k = some t) (hss : xsSS t.xstat = false) (d : Reg) (n : Nat) :
    s.giveSerial (some (k, d)) n = s.putThread k (retired (setW t d (word n)) (t.pc + 4)) := by
  simp only [State.giveSerial, ht, finishAt_eq _ _ _ _ _ hss]

theorem exec_launchAccept {d : Reg} (hf : s.flights[i]? = some (.launch p cl none asid sup va (some (k, d))))
    (hfirst : ∀ f ∈ s.flights.take i, ∀ a b v o, f ≠ .launch p cl none a b v o) (hx : s.part p = some x) (hruns : clusterRuns s cl = true)
    (hagent : s.agent cl (issuerAgent k) asid sup .read va 128 = .ok addrs) : exec (.launchAccept i) s =
      .next ((arrived ((s.agentReads cl addrs).agentWalks cl asid sup .read [(va, 128)]) i).accept p cl x none asid sup
        (recordOf (addrs.map s.byteAt)) (some (k, d))) := by
  show execLaunchAccept i s = _
  simp only [execLaunchAccept, hf, hx, hagent]
  rw [if_neg]
  · rfl
  · simp only [hruns, queueWaits, Option.any_none, Bool.not_true, Bool.or_false, List.any_eq_true, not_exists, not_and]
    intro f hmem
    split
    next p' cl' q' a b v o =>
      intro hsame
      simp only [sameStream, Bool.and_eq_true, beq_iff_eq] at hsame
      obtain ⟨⟨rfl, rfl⟩, rfl, -⟩ := hsame
      exact hfirst _ hmem a b v o rfl
    next => exact Bool.false_ne_true

/-- The state after: what the launch is accepted with, and the issuer with its serial. -/
theorem launchView_accepted {d : Reg} {r : LaunchRec} (hx : s.part p = some x) (ht : s.thread k = some t) (hss : xsSS t.xstat = false) :
    launchView p x.serial (s.accept p cl x none asid sup r (some (k, d))) =
      (mset s.threads k (retired (setW t d (word x.serial)) (t.pc + 4)), s.mem, some (x.serial + 1, some (r, asid, sup))) := by
  have hpart : ∀ f, (s.modPart p f).part p = some (f x) := fun f => by rw [part_modPart, if_pos rfl, hx]; rfl
  rw [launchView_accept, acceptedState, giveSerial_eq (t := t) _ hss]
  · have hentry : launchEntry p x.serial (s.modPart p fun y => { y with
        serial := y.serial + 1
        launches := mset y.launches y.serial (acceptedLaunch cl x none asid sup r) }) = some (x.serial + 1, some (r, asid, sup)) := by
      rw [launchEntry, hpart, Option.map_some, mget_mset, if_pos rfl]
      rfl
    exact Prod.ext (congrArg (mset · k _) (modPart_threads ..)) (Prod.ext (modPart_mem ..) hentry)
  · exact (congrArg (mget · k) (modPart_threads ..)).trans ht

/-- A launch that the view shows stands in its partition. -/
theorem part_of_launchView {ts : Map Thread} {m : Mem} {n : Nat} {r : LaunchRec}
    (h : launchView p serial u = (ts, m, some (n, some (r, asid, sup)))) : u.threads = ts ∧ u.mem = m ∧
      ∃ y l, u.part p = some y ∧ y.serial = n ∧ mget y.launches serial = some l ∧ l.r = r ∧ l.asid = asid ∧ l.sup = sup := by
  obtain ⟨ht, hm, hentry⟩ := (by simpa [launchView] using h : _ ∧ _ ∧ _)
  refine ⟨ht, hm, ?_⟩
  obtain ⟨y, hy, hy'⟩ := Option.map_eq_some_iff.1 hentry
  obtain ⟨hserial, hlaunch⟩ := Prod.mk.inj hy'
  obtain ⟨l, hl, hl'⟩ := Option.map_eq_some_iff.1 hlaunch
  simp only [launchId, Prod.mk.injEq] at hl'
  exact ⟨y, l, hy, hserial, hl, hl'⟩

/-- Whatever its start comes to, the launch stands under the next serial, and its issuer has retired with it. -/
theorem accept_effect {d : Reg} {r : LaunchRec} (hx : s.part p = some x) (ht : s.thread k = some t) (hss : xsSS t.xstat = false) :
    (s.accept p cl x none asid sup r (some (k, d))).threads = mset s.threads k (retired (setW t d (word x.serial)) (t.pc + 4)) ∧
    (s.accept p cl x none asid sup r (some (k, d))).mem = s.mem ∧
    ∃ y l, (s.accept p cl x none asid sup r (some (k, d))).part p = some y ∧ y.serial = x.serial + 1 ∧
      mget y.launches x.serial = some l ∧ l.r = r ∧ l.asid = asid ∧ l.sup = sup :=
  part_of_launchView (launchView_accepted hx ht hss)

/-! ### A launch starts (R279, R305) -/

/-- A launch that waits for nothing more. -/
def startedLaunch (l : Launch) : Launch :=
  { l with
    stage := if l.r.nthr + l.r.ngang = 0 then .placed else .placing
    const := if l.reads = 2 then l.const else []
    reads := 2 }


theorem part_putLaunch (hx : s.part p = some x) : (s.putLaunch p serial l).part p = some { x with launches := mset x.launches serial l } := by
  rw [State.putLaunch, part_modPart, if_pos rfl, hx]
  rfl

/-- The group table's reading changes no partition, no thread and no memory. -/
theorem tableReads_field {α : Type} (g : State → α) (h : ∀ s part kind keys data, g (State.farRequest s part kind keys data) = g s)
    (s : State) (l : Launch) : g (s.tableReads l p serial) = g s :=
  (foldl_field g (fun _ _ => reads_field g h ..) ..).trans (reads_field g h ..)

/-- What a launch's start comes to: its entry, every thread and the memory. -/
def StartsAs (s u : State) (p serial : Nat) (m : Launch) : Prop :=
  (∃ y, u.part p = some y ∧ mget y.launches serial = some m) ∧ u.threads = s.threads ∧ u.mem = s.mem

theorem StartsAs.of_same {v : State} {m : Launch} (h : StartsAs v u p serial m) (ht : v.threads = s.threads) (hm : v.mem = s.mem) :
    StartsAs s u p serial m := by
  obtain ⟨hpart, hthreads, hmem⟩ := h
  exact ⟨hpart, hthreads.trans ht, hmem.trans hm⟩

/-- With no group table the launch is placed next. -/
theorem startsAs_readGroups (hx : s.part p = some x) (hgroups : l.r.groups = 0) (y : Partition) :
    StartsAs s (s.readGroups p serial y l) p serial { l with stage := if l.r.nthr + l.r.ngang = 0 then .placed else .placing } := by
  have hload : loadGroups s l p serial y = .groups y.groups := if_pos hgroups
  simp only [State.readGroups, hload]
  have hpart : ((s.tableReads l p serial).modPart p fun x => { x with groups := y.groups }).part p = some { x with groups := y.groups } := by
    rw [part_modPart, if_pos rfl, part_congr (tableReads_field (·.parts) farRequest_parts s l), hx]
    rfl
  refine ⟨⟨_, part_putLaunch hpart, (mget_mset ..).trans (if_pos rfl)⟩, ?_, ?_⟩
  · exact (modPart_threads ..).trans ((modPart_threads ..).trans (tableReads_field (·.threads) farRequest_threads s l))
  · exact (modPart_mem ..).trans ((modPart_mem ..).trans (tableReads_field (·.mem) farRequest_mem s l))

/-- A launch with no constant image, that image read. -/
def constRead (l : Launch) : Launch := { l with const := [], reads := 2 }

theorem startLaunch_constRead {y : Partition} (hreads : l.reads ≠ 2) (hcsz : l.r.csz = 0)
    (himage : (mget y.images l.r.image).any (·.revoked) = false) : s.startLaunch p serial y l =
      (((s.agentReads l.cl []).agentWalks l.cl l.asid l.sup .read [(l.r.const, l.r.csz)]).putLaunch p serial (constRead l)).readGroups
        p serial y (constRead l) := by
  rw [State.startLaunch, if_neg (by simp [himage]), if_neg hreads, if_pos hcsz]
  rfl

theorem startsAs_startLaunch {y : Partition} (hx : s.part p = some x) (hgroups : l.r.groups = 0) (hcsz : l.r.csz = 0)
    (himage : (mget y.images l.r.image).any (·.revoked) = false) : StartsAs s (s.startLaunch p serial y l) p serial (startedLaunch l) := by
  by_cases hreads : l.reads = 2
  · have hstart : s.startLaunch p serial y l = s.readGroups p serial y l := by
      rw [State.startLaunch, if_neg (by simp [himage]), if_pos hreads]
    have hsame : startedLaunch l = { l with stage := if l.r.nthr + l.r.ngang = 0 then .placed else .placing } := by
      rw [startedLaunch, if_pos hreads, ← hreads]
    rw [hstart, hsame]
    exact startsAs_readGroups hx hgroups y
  · have hsame : startedLaunch l = { constRead l with stage := if l.r.nthr + l.r.ngang = 0 then .placed else .placing } := by
      rw [startedLaunch, if_neg hreads]
      rfl
    rw [startLaunch_constRead hreads hcsz himage, hsame]
    refine (startsAs_readGroups (l := constRead l) (part_putLaunch ((part_congr ?_ p).trans hx)) hgroups y).of_same ?_ ?_
    · exact reads_parts ..
    · exact (modPart_threads ..).trans (reads_threads ..)
    · exact (modPart_mem ..).trans (reads_mem ..)

theorem startsAs_tryCounter {y : Partition} (hx : s.part p = some x) (hgroups : l.r.groups = 0) (hcsz : l.r.csz = 0)
    (himage : (mget y.images l.r.image).any (·.revoked) = false) (hcounter : l.r.depctr = 0 ∨ l.reads ≠ 0 ∨
      ∃ addrs, s.agent l.cl (launchAgent p serial) l.asid l.sup .read l.r.depctr 8 = .ok addrs ∧ s.numAt addrs = 0) :
    StartsAs s (s.tryCounter p serial y l) p serial (startedLaunch l) := by
  by_cases hread : l.r.depctr = 0 ∨ l.reads ≠ 0
  · rw [State.tryCounter, if_pos (by simpa using hread)]
    exact startsAs_startLaunch hx hgroups hcsz himage
  · obtain ⟨addrs, hagent, hzero⟩ := (or_assoc.2 hcounter).resolve_left hread
    have htry : s.tryCounter p serial y l = ((((s.agentReads l.cl addrs).agentWalks l.cl l.asid l.sup .read [(l.r.depctr, 8)]).putLaunch p
        serial { l with reads := 1 }).startLaunch p serial y { l with reads := 1 }) := by
      rw [State.tryCounter, if_neg (by simpa using hread), hagent]
      exact if_pos hzero
    have hsame : startedLaunch l = startedLaunch { l with reads := 1 } := by
      have hreads : l.reads = 0 := by simpa using (not_or.1 hread).2
      simp [startedLaunch, hreads]
    rw [htry, hsame]
    refine (startsAs_startLaunch (l := { l with reads := 1 }) (part_putLaunch ((part_congr ?_ p).trans hx)) hgroups hcsz himage).of_same ?_ ?_
    · exact reads_parts ..
    · exact (modPart_threads ..).trans (reads_threads ..)
    · exact (modPart_mem ..).trans (reads_mem ..)

theorem exec_launchDepctrRead (h : HasLaunch s p serial x l) (hstage : l.stage = .waiting) (hplace : l.r.place = 0 ∨ l.clusters ≠ []) :
    exec (.launchDepctrRead p serial) s = .next (s.tryCounter p serial x l) := by
  obtain ⟨hx, hl, hruns⟩ := h
  have htry : s.tryStart p serial = s.tryCounter p serial x l := by
    simp only [State.tryStart, hx, hl]
    rw [if_neg (not_not.2 hstage), if_pos (by simpa using hplace)]
  show execLaunchDepctrRead p serial s = _
  simp only [execLaunchDepctrRead, hx, Option.bind_some, hl, hruns, if_true, htry]

/-! ### A thread or gang is placed (R282) -/

/-- The entry of a launch's next thread or gang. -/
def nextPending (p serial : Nat) (l : Launch) : Pending :=
  { part := p, serial := serial, index := if nextGang l then l.placedGang else l.placedThr, tq := l.r.tq }

/-- The launch with its next thread or gang placed. -/
def placedNext (l : Launch) : Launch :=
  let l1 := { l with
    placedThr := if nextGang l then l.placedThr else l.placedThr + 1
    placedGang := if nextGang l then l.placedGang + 1 else 0 }
  { l1 with stage := if l1.placedThr + l1.placedGang = l.r.nthr + l.r.ngang then .placed else .placing }

theorem exec_launchPlace (h : HasLaunch s p serial x l) (hstage : l.stage = .placing) (hrank : outranked s p serial x l = false)
    (hcore : placeCore s p serial l (nextGang l) = some (cl, core)) : exec (.launchPlace p serial) s =
      .next (((s.ensureWindow cl core p serial).modCore cl core fun c => { c with pending := c.pending ++ [nextPending p serial l] }).putLaunch
        p serial (placedNext l)) := by
  obtain ⟨hx, hl, hruns⟩ := h
  show execLaunchPlace p serial s = _
  simp only [execLaunchPlace, hx, hl, hruns, hstage, hrank, hcore]
  rfl

theorem ensureWindow_field {α : Type} (g : State → α) (hcell : ∀ s cells, g (State.writeCells s cells) = g s)
    (hcore : ∀ s cl core f, g (State.modCore s cl core f) = g s) : g (s.ensureWindow cl core p serial) = g s := by
  unfold State.ensureWindow
  split
  · rfl
  · rw [State.fillWindow]
    exact (hcore ..).trans (hcell ..)

theorem ensureWindow_image : ((s.ensureWindow cl core p serial).core cl core).image = some (p, serial) := by
  unfold State.ensureWindow
  split
  next h => exact h
  next => rw [State.fillWindow, core_modCore, if_pos ⟨rfl, rfl⟩]

theorem writeCells_core (s : State) (cells : List (Nat × Byte)) (j n : Nat) : (s.writeCells cells).core j n = s.core j n :=
  writeCells_cluster (coreIn · n) (fun _ _ => rfl) s cells j

theorem ensureWindow_pending : ((s.ensureWindow cl core p serial).core cl core).pending = (s.core cl core).pending := by
  unfold State.ensureWindow
  split
  · rfl
  · rw [State.fillWindow, core_modCore, if_pos ⟨rfl, rfl⟩, writeCells_core]

/-- Outside the constant window nothing is written. -/
theorem ensureWindow_mem {a : Nat} (ha : a ∉ span (lmAddr cl core 0) 2048) :
    memRead (s.ensureWindow cl core p serial).mem a = memRead s.mem a := by
  unfold State.ensureWindow
  split
  · rfl
  · rw [State.fillWindow]
    generalize span (lmAddr cl core 0) 2048 = window at ha ⊢
    exact writeCells_other _ _ _ fun c hc heq => ha (heq ▸ (List.of_mem_zip hc).1)

theorem part_placed (hx : s.part p = some x) (f : Core → Core) :
    (((s.ensureWindow cl core p serial).modCore cl core f).putLaunch p serial l).part p =
      some { x with launches := mset x.launches serial l } :=
  part_putLaunch ((part_congr (ensureWindow_field (·.parts) (fun _ _ => rfl) fun _ _ _ _ => rfl) p).trans hx)

theorem placed_core (f : Core → Core) : (((s.ensureWindow cl core p serial).modCore cl core f).putLaunch p serial l).core cl core =
    f ((s.ensureWindow cl core p serial).core cl core) :=
  (modPart_field (·.core cl core) (fun _ _ => rfl) ..).trans ((core_modCore ..).trans (if_pos ⟨rfl, rfl⟩))

/-! ### A launch completes (R277) -/

/-- The launch's group entries are freed, and it is done. -/
def doneState (s : State) (p serial : Nat) (l : Launch) : State :=
  (s.modPart p fun x => { x with groups := x.groups.filter fun g => g.2.serial != serial }).putLaunch p serial
    { l with stage := .done l.status }

theorem part_doneState (hx : s.part p = some x) : (doneState s p serial l).part p = some { x with
    groups := x.groups.filter fun g => g.2.serial != serial
    launches := mset x.launches serial { l with stage := .done l.status } } := by
  refine (part_putLaunch (x := { x with groups := x.groups.filter fun g => g.2.serial != serial }) ?_).trans rfl
  rw [part_modPart, if_pos rfl, hx]
  rfl

theorem doneState_threads : (doneState s p serial l).threads = s.threads := (modPart_threads ..).trans (modPart_threads ..)
theorem doneState_mem : (doneState s p serial l).mem = s.mem := (modPart_mem ..).trans (modPart_mem ..)

theorem complete_of_signalled (halign : l.r.signal.toNat % 16 = 0)
    (hsignal : s.signal p serial l ((signalWrites l l.status).drop l.signals) = (u, true)) :
    s.complete p serial l l.status = doneState u p serial l := by
  rw [State.complete]
  simp only [halign, ne_eq, not_true_eq_false, if_false, hsignal, if_true]
  rfl

/-- The write of a completion, made and noted. -/
def signalled (s : State) (p serial : Nat) (l : Launch) (addrs : List Nat) : State :=
  ((s.agentWalks l.cl l.asid l.sup .write [(l.r.signal, 8)]).writeFrom l.cl (addrs.zip (leBytes 8 l.r.sigval.toNat))).noteSignal p serial

theorem part_signalled (hx : s.part p = some x) (hl : mget x.launches serial = some l) : (signalled s p serial l addrs).part p =
    some { x with launches := mset x.launches serial { l with signals := l.signals + 1 } } := by
  rw [signalled, State.noteSignal, part_modPart, if_pos rfl, part_congr ((writeFrom_parts ..).trans (agentWalks_parts ..)), hx, Option.map_some, hl]

theorem signalled_threads : (signalled s p serial l addrs).threads = s.threads :=
  (modPart_threads ..).trans ((writeFrom_threads ..).trans (agentWalks_threads ..))

theorem signalled_mem : (signalled s p serial l addrs).mem = (s.writeCells (addrs.zip (leBytes 8 l.r.sigval.toNat))).mem :=
  (modPart_mem ..).trans ((writeFrom_mem ..).trans (writeCells_mem_congr (agentWalks_mem ..) _))

section

variable (h : HasLaunch s p serial x l) (hstage : l.stage = .placed) (hdead : launchAlive s p serial = false)
include h hstage hdead

theorem exec_launchComplete : exec (.launchComplete p serial) s = .next (s.complete p serial l l.status) := by
  obtain ⟨hx, hl, hruns⟩ := h
  show execLaunchComplete p serial s = _
  simp [execLaunchComplete, hx, hl, hruns, hstage, hdead]

theorem exec_launchComplete_silent (hsignal : l.r.signal = 0) : exec (.launchComplete p serial) s = .next (doneState s p serial l) := by
  have hwrites : signalWrites l l.status = [] := if_pos hsignal
  rw [exec_launchComplete h hstage hdead, complete_of_signalled (u := s) (by rw [hsignal]; rfl)]
  rw [hwrites, List.drop_nil]
  rfl

theorem exec_launchComplete_store (halign : l.r.signal.toNat % 16 = 0) (hsignal : l.r.signal ≠ 0) (hstatus : l.status = 0)
    (hop : l.r.sigop = 0) (hnone : l.signals = 0) (hagent : s.agent l.cl (launchAgent p serial) l.asid l.sup .write l.r.signal 8 = .ok addrs) :
    exec (.launchComplete p serial) s = .next (doneState (signalled s p serial l addrs) p serial l) := by
  have hwrites : (signalWrites l l.status).drop l.signals = [(l.r.signal, none, l.r.sigval)] := by
    simp only [signalWrites, if_neg hsignal, hstatus, hop, hnone]
    rfl
  rw [exec_launchComplete h hstage hdead, complete_of_signalled halign]
  rw [hwrites]
  simp only [State.signal, Option.isSome_none, Bool.false_eq_true, if_false, hagent]
  rfl

end

/-! ### A launched gang starts (R282, R294) -/

/-- The gang of a pending entry. -/
def launchedGang (s : State) (pend : Pending) : Gang :=
  { mask := -1, packed := false, since := s.cyc, launch := some (pend.part, pend.serial) }

/-- The lanes a pending gang starts with. -/
def launchedLanes (s : State) (pend : Pending) : List (Nat × Thread) :=
  (List.range 32).filterMap fun l => (pendingThread s pend (s.nextUid + l) l true).map fun t => (l, t)

theorem mem_launchedLanes {pend : Pending} {n : Nat} :
    (n, t) ∈ launchedLanes s pend ↔ n < 32 ∧ pendingThread s pend (s.nextUid + n) n true = some t := by
  simp only [launchedLanes, List.mem_filterMap, List.mem_range, Option.map_eq_some_iff, Prod.mk.injEq]
  constructor
  · rintro ⟨_, hn, _, ht, rfl, rfl⟩
    exact ⟨hn, ht⟩
  · rintro ⟨hn, ht⟩
    exact ⟨n, hn, t, ht, rfl, rfl⟩

/-- The gang's slot opened, its lanes still to be placed. -/
def launchOpened (s : State) (cl core slot : Nat) (pend : Pending) (rest : List Pending) : State :=
  ({ s with nextUid := s.nextUid + 32 }.noteStarted pend.part pend.serial).modCore cl core fun c =>
    { c with
      pending := rest
      yields := c.yields.filter fun y => y.slot != slot
      gangs := mset c.gangs slot (launchedGang s pend) }

/-- A lane of the gang takes its position. -/
def placeLaunched (cl core slot : Nat) (s : State) (x : Nat × Thread) : State := placeLane (keyOf cl core (thrOf core slot x.1)) x.2 s

theorem exec_launchedGangStart {pend : Pending} {rest : List Pending} (hcore : isSC core = false) (hruns : clusterRuns s cl = true)
    (hpend : (s.core cl core).pending = pend :: rest) (hslot : (freeGangSlots s cl core).head? = some slot) :
    exec (.launchedGangStart cl core) s =
      .next ((launchedLanes s pend).foldl (placeLaunched cl core slot) (launchOpened s cl core slot pend rest)) := by
  obtain ⟨slots, hslots⟩ := List.head?_eq_some_iff.1 hslot
  show execLaunchedGangStart cl core s = _
  simp only [execLaunchedGangStart, hcore, hruns, hpend, hslots]
  rfl

theorem noteStarted_field {α : Type} (g : State → α) (h : ∀ s (ps : Map Partition), g { s with parts := ps } = g s) (n : Nat) :
    g (s.noteStarted p n) = g s := modPart_field g h ..

theorem launchOpened_core (pend : Pending) (rest : List Pending) : (launchOpened s cl core slot pend rest).core cl core =
    { s.core cl core with
      pending := rest
      yields := (s.core cl core).yields.filter fun y => y.slot != slot
      gangs := mset (s.core cl core).gangs slot (launchedGang s pend) } := by
  have hcore : ({ s with nextUid := s.nextUid + 32 }.noteStarted pend.part pend.serial).core cl core = s.core cl core :=
    (noteStarted_field (·.core cl core) (fun _ _ => rfl) _).trans rfl
  rw [launchOpened, core_modCore, if_pos ⟨rfl, rfl⟩, hcore]

/-- A lane that starts stands at its position. -/
theorem launchedGangStart_lane {pend : Pending} {rest : List Pending} {n : Nat} (hcore : 16 ≤ core) (hn : n < 32)
    (ht : pendingThread s pend (s.nextUid + n) n true = some t) :
    ((launchedLanes s pend).foldl (placeLaunched cl core slot) (launchOpened s cl core slot pend rest)).thread
      (keyOf cl core (thrOf core slot n)) = some t := by
  refine thread_placed (key := fun x : Nat × Thread => keyOf cl core (thrOf core slot x.1)) (th := (·.2)) (x := (n, t)) (fun _ _ => rfl)
    (mem_launchedLanes.2 ⟨hn, ht⟩) ?_ _
  rintro ⟨m, t'⟩ hm hkey
  simp only [thrOf_gang hcore, keyOf] at hkey
  obtain rfl : m = n := by omega
  exact Option.some.inj ((mem_launchedLanes.1 hm).2.symm.trans ht)

theorem launchedGangStart_other {pend : Pending} {rest : List Pending} {j : Nat} (hj : ∀ n, n < 32 → j ≠ keyOf cl core (thrOf core slot n)) :
    ((launchedLanes s pend).foldl (placeLaunched cl core slot) (launchOpened s cl core slot pend rest)).thread j = s.thread j := by
  refine (thread_placed_other (key := fun x : Nat × Thread => keyOf cl core (thrOf core slot x.1)) (th := (·.2)) (fun _ _ => rfl) ?_ _).trans ?_
  · rintro ⟨n, t⟩ hn
    exact hj n (mem_launchedLanes.1 hn).1
  · exact congrArg (mget · j) (noteStarted_field (·.threads) (fun _ _ => rfl) _)

theorem foldl_placeLaunched_field {α : Type} (g : State → α) (h : ∀ s k t, g (placeLane k t s) = g s) (lanes : List (Nat × Thread)) (s : State) :
    g (lanes.foldl (placeLaunched cl core slot) s) = g s := foldl_field g (fun _ _ => h ..) ..

/-- Settles O33: each event of a launch by its own lemma; an acceptance, whatever its start comes to, by what every start keeps
(`launchView_tryStart`). -/
theorem launchEventsComplete : Obligations.LaunchEventsComplete := by
  refine ⟨?_, ?_, ?_, fun s p serial x l hlaunch => ?_, ?_⟩
  · rintro s p q x e addrs base log2n head tail have_ n hx hq hon hhalted hdue hruns hagent hbase hlog hhead htail hmin hmax halign hn
      hroom rfl _ rfl
    rw [exec_launchQueueWake_reads hx hq hruns hon hhalted hdue,
      readTail_eq hagent hbase hlog hhead htail hmin hmax halign hn hroom]
  · intro s p q x e addrs hx hq hdue hruns hagent
    have hexec := exec_launchQueueWake_stores hx hq hruns hdue
    rw [storeHead_eq hx hq hagent] at hexec
    refine ⟨_, _, hexec, ?_, part_modQueue _ ((part_congr ?_ p).trans hx) hq, (mget_mset ..).trans (if_pos rfl), ?_⟩
    · exact (modPart_mem ..).trans ((agentWalks_mem ..).trans (writeFrom_mem ..))
    · exact (agentWalks_parts ..).trans (writeFrom_parts ..)
    · exact (modPart_threads ..).trans ((agentWalks_threads ..).trans (writeFrom_threads ..))
  · rintro s i p cl asid sup va k d x t addrs r hf hfirst hx hruns ht hss hagent rfl -
    have hexec := exec_launchAccept hf hfirst hx hruns hagent
    obtain ⟨huthreads, humem, y, l, hy, hserial, hl, hr, hasid, hsup⟩ :=
      accept_effect (s := arrived _ i) (cl := cl) (asid := asid) (sup := sup) (d := d) (r := recordOf (addrs.map s.byteAt))
        ((part_congr (reads_parts s cl addrs asid sup [(va, 128)]) p).trans hx)
        ((congrArg (mget · k) (reads_threads s cl addrs asid sup [(va, 128)])).trans ht) hss
    have hthread : ∀ j, State.thread _ j = _ := fun j => (congrArg (mget · j) huthreads).trans (mget_mset ..)
    refine ⟨_, y, l, _, hexec, hy, hserial, hl, hr, hasid, hsup, (hthread k).trans (if_pos rfl), rfl, ?_,
      fun j hj => (hthread j).trans ((if_neg hj).trans (congrArg (mget · j) (reads_threads ..))), humem.trans (reads_mem ..)⟩
    exact (readW_setW ..).trans (ite_congr rfl (fun _ => rfl) fun _ => if_pos rfl)
  · have ⟨hx, hl, _⟩ := hlaunch
    refine ⟨?_, ?_, fun hstage hdead => ⟨?_, ?_⟩⟩
    · intro hstage hplace himage hcsz hgroups hcounter
      obtain ⟨⟨y, hy, hstarted⟩, hthreads, hmem⟩ := startsAs_tryCounter hx hgroups hcsz himage hcounter
      exact ⟨_, y, exec_launchDepctrRead hlaunch hstage hplace, hy, hstarted, hthreads, hmem⟩
    · intro cl core hstage hrank hcore
      refine ⟨_, _, placedNext l, exec_launchPlace hlaunch hstage hrank hcore, part_placed hx _, (mget_mset ..).trans (if_pos rfl), ?_, ?_, ?_,
        fun a ha => ?_, rfl, rfl⟩
      · exact (modPart_threads ..).trans (ensureWindow_field (·.threads) (fun _ _ => rfl) fun _ _ _ _ => rfl)
      · rw [placed_core, ensureWindow_pending]
        rfl
      · rw [placed_core]
        exact ensureWindow_image
      · exact (congrArg (memRead · a) (modPart_mem ..)).trans (ensureWindow_mem ha)
    · intro hsignal
      exact ⟨_, _, exec_launchComplete_silent hlaunch hstage hdead hsignal, part_doneState hx, (mget_mset ..).trans (if_pos rfl), rfl,
        doneState_threads, doneState_mem⟩
    · intro addrs halign hsignal hstatus hop hnone hagent
      have hexec := exec_launchComplete_store hlaunch hstage hdead halign hsignal hstatus hop hnone hagent
      refine ⟨_, _, hexec, part_doneState (part_signalled hx hl), ?_, doneState_threads.trans signalled_threads,
        doneState_mem.trans signalled_mem⟩
      rw [mget_mset, if_pos rfl, hstatus]
  · intro s cl core pend rest slot hcore _ hruns hpend hslot
    have hgang : 16 ≤ core := by simpa [isSC] using hcore
    refine ⟨_, launchedGang s pend, exec_launchedGangStart hcore hruns hpend hslot, ?_, ?_, rfl, rfl, rfl, ?_,
      fun n t hn ht => launchedGangStart_lane hgang hn ht, fun j hj => launchedGangStart_other hj⟩
    · rw [foldl_placeLaunched_field (·.core cl core) fun _ _ _ => rfl, launchOpened_core]
    · rw [foldl_placeLaunched_field (·.core cl core) fun _ _ _ => rfl, launchOpened_core]
      exact (mget_mset ..).trans (if_pos rfl)
    · exact (foldl_placeLaunched_field (·.mem) (fun _ _ _ => rfl) ..).trans (noteStarted_field (·.mem) (fun _ _ => rfl) _)

end Sys2Proof.Safety
end

section
/-! Barriers and waits at their issue: arrivals, queries and bounded waits (R328 to R331). -/

namespace Sys2Proof.Safety

open Machine Laws

variable {s : State} {k p n : Nat} {t : Thread} {e : Group} {g : BitVec 8} {d a : Reg}

/-! ### Lists without repeats -/

theorem dedup_concat (l : List Nat) (x : Nat) : dedup (l ++ [x]) = if x ∈ dedup l then dedup l else dedup l ++ [x] := by
  simp only [dedup, List.foldl_append, List.foldl_cons, List.foldl_nil, List.contains_iff_mem]

theorem mem_dedup {l : List Nat} : n ∈ dedup l ↔ n ∈ l := by
  induction l using List.reverseRecOn with
  | nil => rfl
  | append_singleton l x ih =>
    rw [dedup_concat, List.mem_append, ← ih, List.mem_singleton]
    split
    next hx => exact ⟨.inl, fun h => h.elim id fun heq => heq ▸ hx⟩
    next => rw [List.mem_append, List.mem_singleton]

theorem nodup_dedup (l : List Nat) : (dedup l).Nodup := by
  induction l using List.reverseRecOn with
  | nil => exact .nil
  | append_singleton l x ih =>
    rw [dedup_concat]
    split
    next => exact ih
    next hx => exact List.concat_eq_append ▸ ih.concat hx

/-- A group's arrivals are those at its home and those on their way for its phase (R329). -/
theorem mem_arrivals {g : Nat} : n ∈ arrivals s p g e ↔ n ∈ e.arrived ∨ .arrival n p g e.phase ∈ s.flights := by
  rw [arrivals, mem_dedup, List.mem_append, List.mem_filterMap]
  refine or_congr_right ⟨?_, fun h => ⟨_, h, if_pos ⟨rfl, rfl, rfl⟩⟩⟩
  rintro ⟨f, hf, harrival⟩
  split at harrival
  next =>
    split at harrival
    next hsame =>
      obtain ⟨rfl, rfl, rfl⟩ := hsame
      obtain rfl := Option.some.inj harrival
      exact hf
    next => cases harrival
  next => cases harrival

/-! ### Barriers (R328, R329) -/

/-- A barrier instruction of a thread that may use the group reaches it. -/
theorem MayUseGroup.withGroup {g : Nat} (hu : MayUseGroup s k t g p e) (f : Nat → Group → State) : s.withGroup k t g f = f p e := by
  obtain ⟨⟨x, hpart, hgroup⟩, hlaunch, hmember⟩ := hu
  simp [State.withGroup, State.groupFor, hpart, hgroup, hlaunch, hmember]

theorem arrivedNow_iff {g : Nat} : arrivedNow t g e = true ↔ mget t.last g = some e.phase := beq_iff_eq

section

variable (hl : Lone s k t) (hu : MayUseGroup s k t g.toNat p e)
include hl hu

theorem exec_barv (hnew : mget t.last g.toNat ≠ some e.phase) (hr : Released t) : exec (.barv g) s =
    .next (sends (s.putThread k (retired { t with last := mset t.last g.toNat e.phase } (t.pc + 4))) (s.cur.cl * 20 + s.cur.core)
      (.arrival t.uid p g.toNat e.phase)) := by
  refine (eachLane_lone hl _).trans (congrArg _ ((hu.withGroup _).trans ((if_neg (mt arrivedNow_iff.1 hnew)).trans ?_)))
  exact (hr.withReleased ..).trans (hl.finish (by exact hl.pfx) _)

theorem exec_bsync_arrives (hap : xsAP t.xstat = false) (hnew : mget t.last g.toNat ≠ some e.phase) (hr : Released t)
    (hpark : t.park = none) : exec (.bsync g) s =
      .next (sends (s.putThread k (waits s { t with
        last := mset t.last g.toNat e.phase, xstat := xsSetAP t.xstat true } (.barrier g.toNat e.phase))) (s.cur.cl * 20 + s.cur.core)
        (.arrival t.uid p g.toNat e.phase)) := by
  refine (eachLane_lone hl _).trans (congrArg _ ((hu.withGroup _).trans ?_))
  rw [hap]
  refine (if_neg Bool.false_ne_true).trans ((if_neg (mt arrivedNow_iff.1 hnew)).trans ?_)
  exact (hr.withReleased ..).trans (parkAt_of_park_none (by exact hpark) _)

theorem exec_bsync_ended (hap : xsAP t.xstat = true) (hended : mget t.last g.toNat ≠ some e.phase) :
    exec (.bsync g) s = .next (s.putThread k (retired t (t.pc + 4))) := by
  refine (eachLane_lone hl _).trans (congrArg _ ((hu.withGroup _).trans ?_))
  exact (if_pos hap).trans ((if_neg (mt arrivedNow_iff.1 hended)).trans (hl.finish hl.pfx _))

theorem exec_bwait_ended (hended : mget t.last g.toNat ≠ some e.phase) :
    exec (.bwait g) s = .next (s.putThread k (retired t (t.pc + 4))) := by
  refine (eachLane_lone hl _).trans (congrArg _ ((hu.withGroup _).trans ?_))
  exact (if_neg (mt arrivedNow_iff.1 hended)).trans (hl.finish hl.pfx _)

theorem exec_bwait_waits (harrived : mget t.last g.toNat = some e.phase) (hpark : t.park = none) :
    exec (.bwait g) s = .next (s.putThread k (waits s t (.barrier g.toNat e.phase))) := by
  refine (eachLane_lone hl _).trans (congrArg _ ((hu.withGroup _).trans ?_))
  exact (if_pos (arrivedNow_iff.2 harrived)).trans (parkAt_of_park_none hpark _)

theorem exec_bquery : exec (.bquery d g) s = .next (s.putThread k (retired
    (setW t d (queryWord (liveThreads s p e).length (arrivals s p g.toNat e).length e.phase)) (t.pc + 4))) :=
  (eachLane_lone hl _).trans (congrArg _ ((hu.withGroup _).trans (hl.finish hl.pfx _)))

end

/-! ### `wait` and `pwait` (R330, R331) -/

theorem withinBounds_iff {ld st cp tl : BitVec 4} : withinBounds t ld.toNat st.toNat cp.toNat tl.toNat = true ↔
    (ld = 15 ∨ t.ld ≤ ld.toNat) ∧ (st = 15 ∨ t.st ≤ st.toNat) ∧ (cp = 15 ∨ t.cp ≤ cp.toNat) ∧ (tl = 15 ∨ t.tl ≤ tl.toNat) := by
  have hfifteen : ∀ b : BitVec 4, b.toNat = 15 ↔ b = 15 := fun b => BitVec.toNat_inj (y := 15)
  simp only [withinBounds, Bool.and_eq_true, Bool.or_eq_true, decide_eq_true_iff, hfifteen, and_assoc]

theorem exec_wait {ld st cp tl : BitVec 4} (hl : Lone s k t) (hdeferred : t.deferred = [])
    (hbounds : withinBounds t ld.toNat st.toNat cp.toNat tl.toNat = true) :
    exec (.wait ld st cp tl) s = .next (s.putThread k (retired t (t.pc + 4))) := by
  refine (eachLane_lone hl _).trans (congrArg _ ?_)
  rw [waitDeferred, hdeferred]
  exact (if_pos hbounds).trans (hl.finish hl.pfx _)

theorem exec_pwait {x : Partition} {A L : List Nat} {cl off : Nat} (hl : Lone s k t) (hp : s.partOf (keyCl k) = some (p, x))
    (hcheck : checkAccess s true (keyCl k) p x t.asid (xsSUP t.xstat) .read (readW t a) 1 = .ok A L)
    (hspot : spotOf (A.headD 0) = some (.scratch cl off)) :
    exec (.pwait a) s = .next ((s.putThread k (retired t (t.pc + 4))).walkReads (keyCl k) L) := by
  refine (eachLane_lone hl _).trans (congrArg _ ?_)
  simp only [hp, hcheck, hspot, hl.finish hl.pfx]

/-- Settles O30: each barrier instruction reaches its group and goes by whether the thread has arrived for the phase; a `bquery` counts the
arrivals, which name no thread twice; and a `wait` within its bounds and a `pwait` on a present line retire. -/
theorem barriersAndWaitsComplete : Obligations.BarriersAndWaitsComplete := fun _ _ _ hl _ _ _ _ _ _ _ _ _ =>
  ⟨fun hu => ⟨exec_barv hl hu, exec_bsync_arrives hl hu, exec_bsync_ended hl hu, exec_bwait_ended hl hu, exec_bwait_waits hl hu,
      _, nodup_dedup _, fun _ => mem_arrivals, exec_bquery hl hu⟩,
    fun hdeferred hld hst hcp htl => exec_wait hl hdeferred (withinBounds_iff.2 ⟨hld, hst, hcp, htl⟩),
    fun _ _ _ _ _ _ => exec_pwait hl⟩

end Sys2Proof.Safety
end

section
/-! The search-tree engine, first part: a context word replaced and the posting of commands (R363, R364, R368). -/

namespace Sys2Proof.Safety

open Machine Laws

variable {s : State} {k fn : Nat} {t : Thread} {a b : Reg} {c : Ctx} {i : BitVec 2}

/-! ### Context words (R363) -/

/-- A context with word `i` replaced. -/
def putSteWord (x : SteCtx) (i : Nat) (v : Word) : SteCtx :=
  match i with
  | 0 => { x with desc := v }
  | 1 => { x with expl := v }
  | 2 => { x with loss := v }
  | _ => { x with opts := v }

/-- The state with word `i` of context `n` of a cluster's engine replaced. -/
def withSteWord (s : State) (cl n i : Nat) (v : Word) : State :=
  s.modCluster cl fun x => { x with ste := { x.ste with
    ctx := x.ste.ctx.setIfInBounds n (putSteWord (x.ste.ctx.toList.getD n SteCtx.reset) i v) } }

theorem putSteWord_eq (x : SteCtx) (i : BitVec 2) (v : Word) : putSteWord x i.toNat v =
    if i = 0 then { x with desc := v } else if i = 1 then { x with expl := v }
    else if i = 2 then { x with loss := v } else { x with opts := v } := by
  obtain rfl | rfl | rfl | rfl : i = 0 ∨ i = 1 ∨ i = 2 ∨ i = 3 := by revert i; decide
  all_goals rfl

theorem steCtx_withSteWord (s : State) (cl : Nat) {n : Nat} (hn : n < 16) (i : Nat) (v : Word) :
    steCtx (withSteWord s cl n i v) cl n = putSteWord (steCtx s cl n) i v := by
  rw [steCtx, withSteWord, cluster_modCluster, if_pos rfl]
  simp [steCtx, hn]

theorem exec_tcfg (hlow : Lowest s k t) (hok : steWordOk i.toNat (readW t a) = true) :
    exec (.tcfg a c i) s = .next (withSteWord s s.cur.cl c.toNat i.toNat (readW t a)).retireAll := by
  show execTcfg a c i s = _
  simp only [execTcfg, lowest_eq hlow, hok]
  rfl

theorem exec_tcfg_refused (hlow : Lowest s k t) (hbad : steWordOk i.toNat (readW t a) = false) :
    exec (.tcfg a c i) s = .next (s.trapAll 1) := by
  show execTcfg a c i s = _
  simp only [execTcfg, lowest_eq hlow, hbad]
  rfl

/-! ### Posting (R364) -/

/-- The command that a lane posts, with the words of its context as they stand. -/
def steCmd (s : State) (k : Nat) (t : Thread) (fn : Nat) (c : Ctx) (va vb : Word) (dst : Reg) : Cmd :=
  let x := steCtx s s.cur.cl c.toNat
  { engineCmd s fn c [x.desc, x.expl, x.loss, x.opts] [(laneOf (keyCore k) (keyThr k), va, vb)] [] dst t with keys := [k] }

theorem addBusy_nil (t : Thread) : addBusy t [] = t := by simp [addBusy]

section

variable (hl : Lone s k t) (hroom : TableReady s 3)
include hl hroom

theorem withSteRoom_of_room (f : State) : s.withSteRoom k t f = f := by
  obtain ⟨hkeys, ht, -, -⟩ := hl
  obtain ⟨htable, htl⟩ := hroom
  have := htl k (hkeys ▸ List.mem_cons_self) t ht
  simp [State.withSteRoom, htable, this]

/-- The command of a lane with room is last in the table, and the lane goes on with tl raised. -/
theorem postSte_of_room (va vb : Word) (dst : Reg) (go : State → Thread → State) : s.postSte k t fn c va vb dst go =
    go (withCommand s 3 (steCmd s k t fn c va vb dst)) { t with tl := t.tl + 1 } :=
  withSteRoom_of_room hl hroom _

/-- A lane that posts retires with tl raised and `busy` still to be written. -/
theorem postSte_finishes (va vb : Word) (dst : Reg) (busy : List RegRef) :
    s.postSte k t fn c va vb dst (fun u t' => u.finish k t (addBusy t' busy)) =
      (withCommand s 3 (steCmd s k t fn c va vb dst)).putThread k (retired (addBusy { t with tl := t.tl + 1 } busy) (t.pc + 4)) :=
  (postSte_of_room hl hroom ..).trans (hl.finish (by exact hl.pfx) _)

theorem steOp_posts (va vb : Thread → Word) (dst : Reg) (busy : List RegRef) : steOp fn c dst busy va vb s =
    .next ((withCommand s 3 (steCmd s k t fn c (va t) (vb t) dst)).putThread k
      (retired (addBusy { t with tl := t.tl + 1 } busy) (t.pc + 4))) :=
  (eachLane_lone hl _).trans (congrArg _ (postSte_finishes hl hroom ..))

/-- `tback` of a lane with no stream bound (R369). -/
theorem exec_tback (hu : Unbound t) : exec (.tback a b c) s =
    .next ((withCommand s 3 (steCmd s k t 3 c (readW t a) (readF t b) 0)).putThread k
      (retired (addBusy { t with tl := t.tl + 1 } []) (t.pc + 4))) := by
  refine (eachLane_lone hl _).trans (congrArg _ ((withSteRoom_of_room hl hroom _).trans ((withF_unbound _ _ _ hu ..).trans ?_)))
  refine Eq.trans ?_ (postSte_finishes hl hroom (readW t a) (readF t b) 0 [])
  simp only [addBusy_nil]

/-- `texp` within its limits waits for its command (R368). -/
theorem exec_texp (hpark : t.park = none) (hzero : bitsOf 41 23 (readW t a) = 0) (hone : 1 ≤ bitsOf 32 9 (readW t a))
    (hmax : bitsOf 32 9 (readW t a) ≤ 256) (halign : (readW t b).toNat % 8 = 0) : exec (.texp a b c) s =
    .next ((withCommand s 3 (steCmd s k t 2 c (readW t a) (readW t b) 0)).putThread k (waits s { t with tl := t.tl + 1 } .texp)) := by
  have hok : ¬ (bitsOf 32 9 (readW t a) = 0 ∨ 256 < bitsOf 32 9 (readW t a) ∨ bitsOf 41 23 (readW t a) ≠ 0 ∨
      (readW t b).toNat % 8 ≠ 0) := by omega
  refine (eachLane_lone hl _).trans (congrArg _ ((if_neg hok).trans ((postSte_of_room hl hroom ..).trans ?_)))
  exact parkAt_of_park_none (t := { t with tl := t.tl + 1 }) hpark _

end

/-- Settles O41: `tcfg` is one context word replaced and the set retired; every other instruction is one command posted by its lane
(`postSte_of_room`), which retires or, for `texp`, waits. -/
theorem treeInstructionsComplete : Obligations.TreeInstructionsComplete := by
  refine ⟨fun s k t h hlow a c i x hx => ⟨fun hok => ?_, exec_tcfg_refused hlow⟩, fun s k t hl a b c i x hx hroom cmd hcmd done hdone => ?_⟩
  · obtain ⟨hn, hpfx, hss⟩ := h
    refine ⟨_, withSteWord s s.cur.cl c.toNat i.toNat (readW t a), exec_tcfg hlow hok, retireAll_effect ⟨hn, hss⟩ hpfx, rfl, ?_⟩
    rw [steCtx_withSteWord s _ c.isLt, hx, putSteWord_eq]
  · subst hx
    simp only [hdone, hcmd]
    exact ⟨steOp_posts hl hroom .., steOp_posts hl hroom .., steOp_posts hl hroom .., steOp_posts hl hroom .., exec_tback hl hroom,
      exec_texp hl hroom⟩

end Sys2Proof.Safety
end

section
/-! The neuron engine, first part: context writes at retirement, the posting of commands, events sent and ticks (R342, R349, R355 to R359). -/

namespace Sys2Proof.Safety

open Machine Laws

variable {s u : State} {k p g : Nat} {t : Thread} {a b : Reg} {c : Ctx} {i : BitVec 2} {cmd : Cmd} {e : Group}

/-! ### Posting (R173, R355, R356) -/

/-- With room in its table an engine takes the set's command. -/
theorem posts_of_post (h : Ready s) {engine : Nat} (hroom : TableReady s engine) {j : Instr} {busy : List RegRef}
    (hj : exec j s = .next (s.post engine cmd busy)) : Posts j s engine cmd fun _ => busy :=
  ⟨_, hj, post_effect (ts := s.threads) (fun _ => rfl) ⟨h.1, h.2.2⟩ hroom cmd busy⟩

/-- Once the set has posted, the register its command writes is waited for in the lowest lane alone. -/
theorem busyLowest_effect (hlow : Lowest s k t) (h : LanesTo (withCommand s 2 cmd) u fun _ v => retired (addBusy { v with tl := v.tl + 1 } []) (v.pc + s.width)) :
    LanesTo (withCommand s 2 cmd) (u.busyLowest s k a)
      fun j v => retired (addBusy { v with tl := v.tl + 1 } (if j = k then [.w a] else [])) (v.pc + s.width) := by
  obtain ⟨hrest, hothers, hlanes⟩ := h
  obtain ⟨hhead, ht⟩ := hlow
  have hk : k ∈ s.curKeys := List.mem_of_head? hhead
  have hseq : u.nextSeq = s.nextSeq + 1 := congrArg State.nextSeq hrest
  have hlane : u.thread k = some (retired (addBusy { t with tl := t.tl + 1 } []) (t.pc + s.width)) := by
    rw [hlanes k hk]
    exact congrArg _ ht
  have hbusy : u.busyLowest s k a =
      u.putThread k (retired (addBusy { t with tl := t.tl + 1 } [.w a]) (t.pc + s.width)) := by
    rw [State.busyLowest, if_neg (by omega), hlane, addBusy_nil]
    rfl
  rw [hbusy]
  refine ⟨hrest, fun j hj => ?_, fun j hj => ?_⟩
  · rw [thread_putThread, if_neg (ne_of_mem_of_not_mem hk hj).symm]
    exact hothers j hj
  · rw [thread_putThread]
    split
    next heq =>
      subst heq
      simp [show (withCommand s 2 cmd).thread j = some t from ht]
    next hne => exact (hlanes j hj).trans (by simp only [if_neg hne])

/-- `nrd` and `nspk` post a command whose result the lowest lane waits for (R355, R359). -/
theorem posts_of_busyLowest (h : Ready s) (hlow : Lowest s k t) (hroom : TableReady s 2) {j : Instr}
    (hj : exec j s = .next ((s.post 2 cmd []).busyLowest s k a)) : Posts j s 2 cmd fun j => if j = k then [.w a] else [] :=
  ⟨_, hj, busyLowest_effect hlow (post_effect (ts := s.threads) (fun _ => rfl) ⟨h.1, h.2.2⟩ hroom cmd [])⟩

/-! ### Context writes (R342) -/

section

variable (h : Ready s) (hlow : Lowest s k t)
include h hlow

theorem ncfg_retires (hok : enbWordOk (enbCtx s s.cur.cl c.toNat) i.toNat (readW t a) = true)
    (hoff : 2 ≤ i.toNat → ctlNM (enbCtx s s.cur.cl c.toNat).ctl = false)
    (hsame : i = 0 → ctlNM (readW t a) = ctlNM (enbCtx s s.cur.cl c.toNat).ctl) :
    ThenLanes (.ncfg a c i) s (s.putEnbCtx s.cur.cl c.toNat fun x => putEnbWord x i.toNat (readW t a) t) fun _ t => retired t (t.pc + 4) := by
  have hnm : ¬ (2 ≤ i.toNat ∧ ctlNM (enbCtx s s.cur.cl c.toNat).ctl = true) := fun hc => by simp [hoff hc.1] at hc
  have hchange : ¬ (i.toNat = 0 ∧ ctlNM (readW t a) ≠ ctlNM (enbCtx s s.cur.cl c.toNat).ctl) :=
    fun hc => hc.2 (hsame (BitVec.eq_of_toNat_eq hc.1))
  obtain ⟨hn, hpfx, hss⟩ := h
  refine ⟨_, ?_, retireAll_effect ⟨hn, hss⟩ hpfx⟩
  show execNcfg a c i s = _
  simp only [execNcfg, lowest_eq hlow, hok, if_neg hnm, if_neg hchange]
  rfl

theorem ncfg_posts (hroom : TableReady s 2) (hok : enbWordOk (enbCtx s s.cur.cl c.toNat) 0 (readW t a) = true)
    (hchange : ctlNM (readW t a) ≠ ctlNM (enbCtx s s.cur.cl c.toNat).ctl)
    (hcal : ctlNM (readW t a) = true → calBarred (s.cluster s.cur.cl) c.toNat = false) :
    Posts (.ncfg a c 0) s 2 (engineCmd s 0 c [readW t a] [] [] 0 t) fun _ => [] := by
  have hfree : (ctlNM (readW t a) && calBarred (s.cluster s.cur.cl) c.toNat) = false := by
    cases hv : ctlNM (readW t a) with
    | false => rfl
    | true => exact hcal hv
  refine posts_of_post h hroom ?_
  show execNcfg a c 0 s = _
  simp only [execNcfg, lowest_eq hlow, show (0 : BitVec 2).toNat = 0 from rfl, hok, hfree, if_pos (And.intro trivial hchange)]
  rfl

omit h in
theorem ncfg_refused (hbad : enbWordOk (enbCtx s s.cur.cl c.toNat) i.toNat (readW t a) = false) :
    exec (.ncfg a c i) s = .next (s.trapAll 1) := by
  show execNcfg a c i s = _
  simp only [execNcfg, lowest_eq hlow, hbad]
  rfl

/-! ### Commands (R356, R357, R359) -/

theorem nld_posts (hroom : TableReady s 2) (hok : loadWordOk (readW t b) = true) :
    Posts (.nld a b c) s 2 (engineCmd s 1 c [readW t a, readW t b] [] [] 0 t) fun _ => [] := by
  refine posts_of_post h hroom ?_
  show execNld a b c s = _
  simp only [execNld, lowest_eq hlow, hok]
  rfl

theorem nrd_posts (hroom : TableReady s 2) : Posts (.nrd a b c i) s 2 (engineCmd s 4 c [readW t b, i.setWidth 64] [] [] a t)
    fun j => if j = k then [.w a] else [] := by
  refine posts_of_busyLowest h hlow hroom ?_
  show execNrd a b c i s = _
  simp only [execNrd, lowest_eq hlow]

theorem nspk_posts (hroom : TableReady s 2) : Posts (.nspk a b c) s 2 (engineCmd s 5 c [readW t b] [] [] a t)
    fun j => if j = k then [.w a] else [] := by
  refine posts_of_busyLowest h hlow hroom ?_
  show execNspk a b c s = _
  simp only [execNspk, lowest_eq hlow]

/-! ### Events sent (R358) -/

theorem ninj_sends {tick : Int} (htick : tick = signed32 (bitsOf 0 32 (readW t b))) (hhigh : bitsOf 40 24 (readW t a) = 0)
    (hzero : bitsOf 32 32 (readW t b) = 0) (hinside : eventInside s s.cur.cl (evCLU (readW t a)) = true)
    (hafter : (s.cluster s.cur.cl).enb.cl < tick) (hwithin : tick ≤ (s.cluster s.cur.cl).enb.ct + 15)
    (htl : ∀ k ∈ s.curKeys, ∀ t, s.thread k = some t → t.tl < 63) :
    ThenLanes (.ninj a b) s ((s.modEnb s.cur.cl fun e => { e with sent := bump e.sent tick.toNat }).send (s.cur.cl * 20 + s.cur.core)
      (.event (readW t a) (readW t b) s.curKeys)) fun _ t => retired { t with tl := t.tl + 1 } (t.pc + 4) := by
  have hreserved : bitsOf 63 1 (readW t a) = 0 ∧ bitsOf 40 23 (readW t a) = 0 := by
    simp only [bitsOf, natField] at hhigh ⊢
    omega
  have hroom : (s.curThreads.any fun x => decide (x.2.tl ≥ 63)) = false := List.any_eq_false.2 fun x hx => by
    obtain ⟨hk, ht⟩ := mem_curThreads.1 hx
    simpa using htl _ hk _ ht
  obtain ⟨hn, hpfx, hss⟩ := h
  refine ⟨_, ?_, forLanes_put (State.send _ _ _) (fun u j v => u.finish j v { v with tl := v.tl + 1 }) _ hn fun ts j hj v hv => ?_⟩
  · show execNinj a b s = _
    subst htick
    simp only [execNinj, lowest_eq hlow, hreserved, hzero, hinside, hroom, decide_eq_false (not_le.2 hafter), decide_eq_false (not_lt.2 hwithin)]
    rfl
  · rw [finish_eq _ _ _ _ (hss j hj v hv), width_none _ (by exact hpfx)]

end

/-! ### Ticks (R349) -/

/-- The lanes of the set of which `f` holds. -/
theorem curKeys_onlyLanes (s : State) (f : Thread → Bool) : (s.onlyLanes f).curKeys = s.curKeys.filter fun j => (s.thread j).any f := by
  rw [State.curKeys, State.curKeys, List.filter_map]
  rfl

theorem lanes_isEmpty_onlyLanes (s : State) (f : Thread → Bool) :
    (s.onlyLanes f).cur.lanes.isEmpty = true ↔ (s.curKeys.filter fun j => (s.thread j).any f) = [] := by
  rw [← curKeys_onlyLanes, State.curKeys, List.map_eq_nil_iff, List.isEmpty_iff]

/-- Lanes whose tick's step has ended retire. -/
theorem awaitTick_effect (h : Ready s) (hover : ∀ j ∈ s.curKeys, ∀ v, s.thread j = some v → mget v.last 256 ≠ some 0 ∧ tickOver s j v g = true) :
    LanesTo s (s.awaitTick g) fun _ v => retired v (v.pc + 4) := by
  obtain ⟨hn, hpfx, hss⟩ := h
  refine forLanes_put s _ _ hn fun ts j hj v hv => ?_
  obtain ⟨hlast, hended⟩ := hover j hj v hv
  rw [if_neg hlast, if_pos (by exact hended), finish_eq _ _ _ _ (hss j hj v hv), width_none _ (by exact hpfx)]

/-- A thread that has arrived for the tick and waits for its step. -/
def tickWaits (s : State) (g : Nat) (v : Thread) : Thread :=
  parked { v with xstat := xsSetAP v.xstat true, last := mset v.last 256 ((s.cluster s.cur.cl).enb.ct.toNat + 1) } (.tick g) s.cyc

/-- The arrival of the core of the set for its cluster's tick. -/
def tickFlight (s : State) (ks : List Nat) (p g : Nat) : Flight :=
  .tick ks p g (s.cluster s.cur.cl).enb.ct.toNat ((s.cluster s.cur.cl).enb.sent.toList.getD ((s.cluster s.cur.cl).enb.ct.toNat % 16) 0)
    ((s.cluster s.cur.cl).enb.recv.toList.getD ((s.cluster s.cur.cl).enb.ct.toNat % 16) 0)

/-- A core that has not arrived arrives once, and its lanes wait. -/
theorem arriveTick_effect (hn : s.curKeys.Nodup) (hnew : tickArrived s p s.cur.cl s.cur.core g = false)
    (hdue : (s.cluster s.cur.cl).enb.due = []) : LanesTo (sends s (s.cur.cl * 20 + s.cur.core) (tickFlight s s.curKeys p g)) (s.arriveTick p g)
      fun _ v => tickWaits s g v := by
  have hfirst : (tickArrived s p s.cur.cl s.cur.core g || !(s.cluster s.cur.cl).enb.due.isEmpty) = false := by rw [hnew, hdue]; rfl
  rw [State.arriveTick, hfirst]
  exact forLanes_put (sends s _ _) _ _ hn fun _ _ _ _ _ => rfl

/-- The lanes of which `P` holds do one thing, and then the others another, as a message leaves for them all. -/
theorem lanesTo_of_split {P : Thread → Bool} {v w : State} {g1 g2 : Nat → Thread → Thread} {core : Nat} {f : Flight} (hfilled : Filled s)
    (hv : LanesTo (s.onlyLanes P) v g1) (hw : LanesTo (sends { v with cur := (s.onlyLanes (!P ·)).cur } core f) w g2) :
    LanesTo (sends s core f) { w with cur := s.cur } fun j x => if P x then g1 j x else g2 j x := by
  obtain ⟨hrestv, hothersv, hlanesv⟩ := hv
  obtain ⟨hrestw, hothersw, hlanesw⟩ := hw
  rw [curKeys_onlyLanes] at hothersv hlanesv
  have hkeys : (sends { v with cur := (s.onlyLanes (!P ·)).cur } core f).curKeys = s.curKeys.filter fun j => (s.thread j).any (!P ·) :=
    curKeys_onlyLanes s _
  rw [hkeys] at hothersw hlanesw
  have hback := congrArg (fun x : State => { x with cur := s.cur, threads := s.threads }) hrestw
  have hfront := congrArg (fun x : State => sends { x with cur := s.cur, threads := s.threads } core f) hrestv
  refine ⟨hback.trans hfront, fun j hj => ?_, fun j (hj : j ∈ s.curKeys) => ?_⟩
  · exact (hothersw j fun hc => hj (List.mem_of_mem_filter hc)).trans (hothersv j fun hc => hj (List.mem_of_mem_filter hc))
  · obtain ⟨x, hx⟩ := Option.isSome_iff_exists.1 (hfilled j hj)
    have hfirst : j ∈ (s.curKeys.filter fun j => (s.thread j).any P) ↔ P x = true := by simp [List.mem_filter, hj, hx]
    have hsecond : j ∈ (s.curKeys.filter fun j => (s.thread j).any (!P ·)) ↔ P x = false := by simp [List.mem_filter, hj, hx]
    have hs : (sends s core f).thread j = some x := hx
    show w.thread j = _
    rw [hs]
    cases hP : P x with
    | true =>
      refine (hothersw j (by simp [hsecond, hP])).trans ((hlanesv j (hfirst.2 hP)).trans ?_)
      simp [show (s.onlyLanes P).thread j = some x from hx, hP]
    | false =>
      have hvj : v.thread j = some x := (hothersv j (by simp [hfirst, hP])).trans hx
      refine (hlanesw j (hsecond.2 hP)).trans ?_
      simp [show (sends { v with cur := (s.onlyLanes (!P ·)).cur } core f).thread j = some x from hvj, hP]

/-- The core's arrival once its waiting lanes have had their part, which leaves all but their threads. -/
theorem arriveTick_after {P : Thread → Bool} {v : State} {f : Nat → Thread → Thread} (hn : s.curKeys.Nodup)
    (hnew : tickArrived s p s.cur.cl s.cur.core g = false) (hdue : (s.cluster s.cur.cl).enb.due = []) (hv : LanesTo (s.onlyLanes P) v f) :
    LanesTo (sends { v with cur := (s.onlyLanes (!P ·)).cur } (s.cur.cl * 20 + s.cur.core)
        (tickFlight s (s.curKeys.filter fun j => (s.thread j).any (!P ·)) p g))
      ({ v with cur := (s.onlyLanes (!P ·)).cur }.arriveTick p g) fun _ x => tickWaits s g x := by
  obtain ⟨hrest, -, -⟩ := hv
  obtain ⟨ts, rfl⟩ : ∃ ts, v = withThreads (s.onlyLanes P) ts := ⟨v.threads, (congrArg (withThreads · v.threads) hrest :)⟩
  have hkeys := curKeys_onlyLanes s (!P ·)
  rw [← hkeys]
  exact arriveTick_effect (s := { withThreads (s.onlyLanes P) ts with cur := (s.onlyLanes (!P ·)).cur }) (hkeys ▸ hn.filter _) hnew hdue

section

variable (h : Ready s) (hlow : Lowest s k t) (hg : readW t a = word g) (hlt : g < 256)
  (hmode : neuronMode (s.cluster s.cur.cl) c.toNat = true) (hu : MayUseGroup s k t g p e) (hcrowd : crowded e = false)
include hlow hg hlt hmode hu hcrowd

/-- `ntick` past its checks: the lanes that have arrived wait for the step, and the others arrive (R349). -/
theorem exec_ntick_eq : exec (.ntick a c) s = .next
    (if (s.onlyLanes fun t => !xsAP t.xstat).cur.lanes.isEmpty then s.awaitTick g
      else if (s.onlyLanes fun t => xsAP t.xstat).cur.lanes.isEmpty then s.arriveTick p g
      else { ({ (s.onlyLanes fun t => xsAP t.xstat).awaitTick g with cur := (s.onlyLanes fun t => !xsAP t.xstat).cur }).arriveTick p g
        with cur := s.cur }) := by
  have hword : (word g).toNat = g := word_toNat (by omega)
  have hentry : bitsOf 0 8 (word g) = g := by simp only [bitsOf, natField, hword]; omega
  have hreserved : bitsOf 8 56 (word g) = 0 := by simp only [bitsOf, natField, hword]; omega
  have hgroup : s.groupFor k t g = some (p, e) := by
    obtain ⟨⟨x, hpart, hget⟩, hlaunch, hmember⟩ := hu
    simp [State.groupFor, hpart, hget, hlaunch, hmember]
  show execNtick a c s = _
  simp only [execNtick, lowest_eq hlow, hg, hentry, hreserved, hmode, hgroup, hcrowd]
  rfl

include h

theorem ntick_retires (hover : ∀ j ∈ s.curKeys, ∀ v, s.thread j = some v → xsAP v.xstat = true → mget v.last 256 ≠ some 0 ∧ tickOver s j v g = true)
    (hks : (s.curKeys.filter fun j => (s.thread j).any fun v => !xsAP v.xstat) = []) :
    LaneEffect (.ntick a c) s fun _ v => retired v (v.pc + 4) := by
  refine ⟨_, (exec_ntick_eq hlow hg hlt hmode hu hcrowd).trans (congrArg _ (if_pos ((lanes_isEmpty_onlyLanes ..).2 hks))),
    awaitTick_effect h fun j hj v hv => hover j hj v hv ?_⟩
  simpa [hv] using List.filter_eq_nil_iff.1 hks j hj

theorem ntick_arrives (hfilled : Filled s)
    (hover : ∀ j ∈ s.curKeys, ∀ v, s.thread j = some v → xsAP v.xstat = true → mget v.last 256 ≠ some 0 ∧ tickOver s j v g = true)
    (hks : (s.curKeys.filter fun j => (s.thread j).any fun v => !xsAP v.xstat) ≠ [])
    (hnew : tickArrived s p s.cur.cl s.cur.core g = false) (hdue : (s.cluster s.cur.cl).enb.due = []) :
    ThenLanes (.ntick a c) s (sends s (s.cur.cl * 20 + s.cur.core)
        (tickFlight s (s.curKeys.filter fun j => (s.thread j).any fun v => !xsAP v.xstat) p g))
      fun _ v => if xsAP v.xstat then retired v (v.pc + 4) else tickWaits s g v := by
  have hexec := (exec_ntick_eq hlow hg hlt hmode hu hcrowd).trans (congrArg _ (if_neg (mt (lanes_isEmpty_onlyLanes ..).1 hks)))
  obtain ⟨hn, hpfx, hss⟩ := h
  by_cases hwait : (s.curKeys.filter fun j => (s.thread j).any fun v => xsAP v.xstat) = []
  · have hnone : ∀ j ∈ s.curKeys, ∀ v, s.thread j = some v → xsAP v.xstat = false := fun j hj v hv => by
      simpa [hv] using List.filter_eq_nil_iff.1 hwait j hj
    have hall : (s.curKeys.filter fun j => (s.thread j).any fun v => !xsAP v.xstat) = s.curKeys := List.filter_eq_self.2 fun j hj => by
      obtain ⟨v, hv⟩ := Option.isSome_iff_exists.1 (hfilled j hj)
      simp [hv, hnone j hj v hv]
    obtain ⟨hrest, hothers, hlanes⟩ := arriveTick_effect hn hnew hdue
    rw [hall]
    refine ⟨_, hexec.trans (congrArg _ (if_pos ((lanes_isEmpty_onlyLanes ..).2 hwait))), hrest, hothers, fun j hj => (hlanes j hj).trans ?_⟩
    obtain ⟨v, hv⟩ := Option.isSome_iff_exists.1 (hfilled j hj)
    simp [show (sends s _ _).thread j = some v from hv, hnone j hj v hv]
  · refine ⟨_, hexec.trans (congrArg _ (if_neg (mt (lanes_isEmpty_onlyLanes ..).1 hwait))), ?_⟩
    have hwaiting : LanesTo (s.onlyLanes fun t => xsAP t.xstat) ((s.onlyLanes fun t => xsAP t.xstat).awaitTick g)
        fun _ v => retired v (v.pc + 4) := by
      refine awaitTick_effect ⟨?_, hpfx, ?_⟩ ?_
      all_goals rw [curKeys_onlyLanes]
      · exact hn.filter _
      · exact fun j hj => hss j (List.mem_of_mem_filter hj)
      · intro j hj v hv
        obtain ⟨hmem, hap⟩ := List.mem_filter.1 hj
        exact hover j hmem v hv (by simpa [show s.thread j = some v from hv] using hap)
    exact lanesTo_of_split hfilled hwaiting (arriveTick_after hn hnew hdue hwaiting)

end

/-- Settles O39: `ncfg` writes its context or posts as its branches say; `nld`, `nrd` and `nspk` are one posting each; `ninj` sends once past its
checks; and an `ntick` is its waiting lanes' part and then its arriving lanes' (`lanesTo_of_split`). -/
theorem neuronInstructionsComplete : Obligations.NeuronInstructionsComplete := by
  refine ⟨?_, ?_⟩
  · rintro s k t h hlow a b c i _ _ _ rfl rfl rfl cmd hcmd
    simp only [hcmd]
    refine ⟨ncfg_retires h hlow, ncfg_refused hlow, ncfg_posts h hlow, nld_posts h hlow, fun hroom => ⟨nrd_posts h hlow hroom, nspk_posts h hlow hroom⟩, ?_⟩
    rintro _ _ rfl htick hhigh hzero hinside hafter hwithin htl
    exact ninj_sends h hlow htick hhigh hzero hinside hafter hwithin htl
  · rintro s k t h hfilled hlow a c g p e _ _ hg hlt rfl hmode hu hcrowd rfl hover
    exact ⟨ntick_retires h hlow hg hlt hmode hu hcrowd hover, ntick_arrives h hlow hg hlt hmode hu hcrowd hfilled hover⟩

end Sys2Proof.Safety
end

section
/-! What the engines' commands leave in their lanes: a counter that falls, a register no longer waited for, a deferred fault (R173, R186). -/

namespace Sys2Proof.Safety

open Machine Laws

variable {s u : State} {k j cl : Nat} {keys : List Nat} {c : Cmd} {g : Thread → Thread}

/-- A thread that is there, changed by `g`. -/
def changeThread (g : Thread → Thread) (s : State) (k : Nat) : State :=
  match s.thread k with
  | some t => s.putThread k (g t)
  | none => s

/-- The threads of some keys changed by `g`, one after another. -/
def eachThread (g : Thread → Thread) (keys : List Nat) (s : State) : State := keys.foldl (changeThread g) s

theorem lowerTl_eq (s : State) (c : Cmd) : s.lowerTl c = eachThread (fun t => { t with tl := t.tl - 1 }) c.keys s := rfl

theorem defer_eq (s : State) (c : Cmd) (keys : List Nat) (engine detail : Nat) (va : Word) : s.defer c keys engine detail va =
    eachThread (fun t => { t with deferred := t.deferred ++ [{ engine := engine, detail := detail, value := va, pc := c.pc }] }) keys s := rfl

theorem changeThread_thread : (changeThread g s k).thread j = if j = k then (s.thread k).map g else s.thread j := by
  unfold changeThread
  split
  next t ht => simp [ht]
  next hnone =>
    split
    next hj => simp [hj, hnone]
    next => rfl

/-- What no thread's change touches is as it was. -/
theorem eachThread_field {α : Type} (F : State → α) (h : ∀ s k t, F (State.putThread s k t) = F s) : F (eachThread g keys s) = F s :=
  foldl_field F (fun u k => by unfold changeThread; split <;> simp [h]) keys s

theorem eachThread_other (hj : j ∉ keys) : (eachThread g keys s).thread j = s.thread j := by
  induction keys generalizing s with
  | nil => rfl
  | cons k keys ih =>
    obtain ⟨hk, hrest⟩ := not_or.1 (mt List.mem_cons.2 hj)
    exact (ih hrest).trans (changeThread_thread.trans (if_neg hk))

theorem eachThread_thread (hn : keys.Nodup) (hk : k ∈ keys) : (eachThread g keys s).thread k = (s.thread k).map g := by
  induction keys generalizing s with
  | nil => exact absurd hk List.not_mem_nil
  | cons j keys ih =>
    obtain ⟨hj, hrest⟩ := List.nodup_cons.1 hn
    rcases List.mem_cons.1 hk with rfl | hk
    · exact (eachThread_other hj).trans (changeThread_thread.trans (if_pos rfl))
    · have hne : k ≠ j := fun h => hj (h ▸ hk)
      exact (ih hrest hk).trans (congrArg (Option.map g) (changeThread_thread.trans (if_neg hne)))

/-- A part of each thread that `g` leaves is as it was. -/
theorem eachThread_map {α : Type} (F : Thread → α) (h : ∀ t, F (g t) = F t) : ((eachThread g keys s).thread j).map F = (s.thread j).map F :=
  foldl_field (fun u => (u.thread j).map F) (fun u k => by
    rw [changeThread_thread]
    split
    next hj => rw [hj, Option.map_map]; exact congrArg (Option.map · _) (funext h)
    next => rfl) keys s

/-- A fold whose turns leave a part of the state leaves it, each turn being by a member of the list. -/
theorem foldl_field_of_mem {α β : Type} (F : State → β) {f : State → α → State} (l : List α) (hf : ∀ x ∈ l, ∀ u, F (f u x) = F u) (s : State) :
    F (l.foldl f s) = F s := by
  induction l generalizing s with
  | nil => rfl
  | cons x l ih => exact (ih (fun y hy => hf y (List.mem_cons_of_mem _ hy)) _).trans (hf x List.mem_cons_self s)

theorem lowerTl_falls (s : State) (c : Cmd) : TlFalls s (s.lowerTl c) c.keys :=
  ⟨fun _ hk => eachThread_other hk, fun hn _ hk => eachThread_thread hn hk⟩

@[simp] theorem lowerTl_mem : (s.lowerTl c).mem = s.mem := eachThread_field _ fun _ _ _ => rfl
@[simp] theorem lowerTl_am : (s.lowerTl c).am = s.am := eachThread_field _ fun _ _ _ => rfl
@[simp] theorem lowerTl_clusters : (s.lowerTl c).clusters = s.clusters := eachThread_field _ fun _ _ _ => rfl

/-- The lane of a command of one lane. -/
theorem lowerTl_lone (hkeys : c.keys = [k]) : (s.lowerTl c).thread k = (s.thread k).map fun t => { t with tl := t.tl - 1 } := by
  rw [lowerTl_eq, hkeys]
  exact eachThread_thread (List.nodup_singleton k) (List.mem_singleton_self k)

theorem lowerTl_lone_other (hkeys : c.keys = [k]) (hj : j ≠ k) : (s.lowerTl c).thread j = s.thread j :=
  eachThread_other (by simpa [hkeys] using hj)

end Sys2Proof.Safety
end

section
/-! Tree events: a command begins, completes and fails (R364 to R366, R368 to R373). -/

namespace Sys2Proof.Safety

open Machine Laws

variable {α β : Type} {s s0 s1 u : State} {cl i k j : Nat} {c : Cmd} {t : Thread} {tree : Tree} {rest : List Cmd} {rlt : List RltEntry}

/-! ### A command begins (R364, R365) -/

/-- The command has left the table and runs, with entries of the RLT. -/
def steBegun (s : State) (cl : Nat) (c : Cmd) (rlt : List RltEntry) : State := s.modCluster cl fun y => { y with
  ste := { y.ste with table := y.ste.table.erase c, running := y.ste.running ++ [runOf c] }
  rlt := y.rlt ++ rlt }

theorem steBegun_effect (htable : (s.cluster cl).ste.table = c :: rest) (h : exec (.steCommandBegin cl 0) s = .next (steBegun s cl c rlt)) :
    ∃ u, exec (.steCommandBegin cl 0) s = .next u ∧ (u.cluster cl).ste.table = rest ∧ u.threads = s.threads ∧ u.mem = s.mem ∧
      (u.cluster cl).ste.running = (s.cluster cl).ste.running ++ [runOf c] ∧ (u.cluster cl).rlt = (s.cluster cl).rlt ++ rlt := by
  refine ⟨_, h, ?_, rfl, rfl, ?_, ?_⟩ <;> simp [steBegun, htable]

section

variable (hruns : clusterRuns s cl = true) (htable : (s.cluster cl).ste.table = c :: rest) (hdone : issuerDone s c = true)
include hruns htable hdone

/-- A command that registers no range begins. -/
theorem steCommandBegin_no_range (hrange : pathRange cl c s = .ok none s) :
    exec (.steCommandBegin cl 0) s = .next (steBegun s cl c []) := by
  show execSteCommandBegin cl 0 s = _
  simp only [execSteCommandBegin, htable, List.getElem?_cons_zero, hruns, hdone, List.take_zero, List.any_nil, hrange]
  rfl

/-- A command that registers a range begins where the table has room for it. -/
theorem steCommandBegin_range {dest : Bool} {va : Word} {n : Nat} {pieces : List (Nat × Nat)}
    (hrange : pathRange cl c s = .ok (some (dest, va, n)) s)
    (hlocate : s.locate cl 3 c (if dest then .write else .read) (pagePieces va n) = .ok pieces)
    (hrlt : rlt = rltEntries 3 c dest (lineRuns pieces)) (hroom : rlt.length ≤ rltRoom (s.cluster cl)) :
    exec (.steCommandBegin cl 0) s = .next (steBegun s cl c rlt) := by
  subst hrlt
  show execSteCommandBegin cl 0 s = _
  simp only [execSteCommandBegin, htable, List.getElem?_cons_zero, hruns, hdone, List.take_zero, List.any_nil, hrange, hlocate, rltTake,
    if_pos hroom]
  rfl

end

/-! ### Parts of a command -/

@[simp] theorem steThen_ok (a : α) (s : State) (f : α → State → SteRun β) : steThen (.ok a s) f = f a s := rfl

theorem steThen_eq_ok {r : SteRun α} {f : α → State → SteRun β} {b : β} (h : steThen r f = .ok b u) : ∃ a s, r = .ok a s ∧ f a s = .ok b u := by
  cases r with
  | ok a s => exact ⟨a, s, rfl, h⟩
  | fail d va s => exact absurd h (by simp [steThen])
  | wait s => exact absurd h (by simp [steThen])

theorem steAccess_eq_ok {acc : Access} {va : Word} {n : Nat} {addrs : List Nat} (h : steAccess cl c acc va n s = .ok addrs u) : u = s := by
  unfold steAccess at h
  split at h
  · cases h
  · cases h
  · split at h <;> cases h
    rfl

/-- A read changes neither memory nor threads. -/
theorem steRead_frame {va v : Word} (h : steRead cl c va s = .ok v u) : u.mem = s.mem ∧ u.threads = s.threads := by
  obtain ⟨addrs, s', hacc, hread⟩ := steThen_eq_ok h
  obtain rfl := steAccess_eq_ok hacc
  cases hread
  exact ⟨reads_mem .., reads_threads ..⟩

theorem steTree_frame (h : steTree cl c s = .ok tree u) : u.mem = s.mem ∧ u.threads = s.threads := by
  obtain ⟨pool, s1, hpool, h⟩ := steThen_eq_ok h
  split at h
  · cases h
  · obtain ⟨cap, s2, hcap, h⟩ := steThen_eq_ok h
    cases h
    obtain ⟨hm1, ht1⟩ := steRead_frame hpool
    obtain ⟨hm2, ht2⟩ := steRead_frame hcap
    exact ⟨hm2.trans hm1, ht2.trans ht1⟩

theorem steNode_of_lt {x : Nat} {f : State → SteRun α} (h : x < tree.cap) : steNode tree x s f = f s := if_neg (Nat.not_le.2 h)

/-- A running command completes as what it comes to. -/
theorem steCommandComplete_of_done (hrun : steRunning s cl i = some c) (h : steDone cl c s = .ok u s1) :
    exec (.steCommandComplete cl i) s = .next u := by
  show execSteCommandComplete cl i s = _
  simp only [execSteCommandComplete, hrun, h]

@[simp] theorem endSte_mem : (s.endSte cl c).mem = s.mem := lowerTl_mem

theorem endSte_other (hj : j ∉ c.keys) : (s.endSte cl c).thread j = s.thread j := eachThread_other hj

theorem endSte_lone (hkeys : c.keys = [k]) : (s.endSte cl c).thread k = (s.thread k).map fun t => { t with tl := t.tl - 1 } :=
  lowerTl_lone hkeys

/-- The register a command writes, read with the others once it is no longer waited for. -/
theorem readW_result (t : Thread) (a : Reg) (v : Word) (d : Reg) :
    readW (unBusy (setW t a v) [.w a]) d = if d ≠ 0 ∧ d = a then v else readW t d := by
  show readW (setW t a v) d = _
  rw [readW_setW]
  by_cases hd : d = 0
  · rw [if_pos hd, if_neg fun hw => hw.1 hd, hd]
    rfl
  · simp only [if_false, ne_eq, hd, not_false_eq_true, true_and]

theorem steResult_of_thread {v : Word} (hkeys : c.keys = [k]) (ht : s.thread k = some t) :
    s.steResult c v = s.putThread k (unBusy (setW t c.dst v) [.w c.dst]) := by
  simp only [State.steResult, hkeys, List.headD_cons, ht]

/-! ### Commands that complete (R366, R368, R371, R372) -/

theorem steDone_troot (hfn : c.fn = 4) (hruns : clusterRuns s cl = true) : steDone cl c s = stepTroot cl c s := by
  simp only [steDone, hfn, hruns, if_true]

/-- The walk that a moved root leaves: the old root's children but the new root. -/
def rootWalk (first n y : Nat) : List (Nat × Nat) := (((List.range n).map (first + ·)).filter (· != y)).map fun x => (x, 0)

theorem mem_rootWalk {first n y : Nat} {e : Nat × Nat} :
    e ∈ rootWalk first n y ↔ e.2 = 0 ∧ e.1 ≠ y ∧ first ≤ e.1 ∧ e.1 < first + n := by
  obtain ⟨x, z⟩ := e
  simp only [rootWalk, List.mem_map, List.mem_filter, List.mem_range, bne_iff_ne, Prod.mk.injEq]
  constructor
  · rintro ⟨_, ⟨⟨m, hm, rfl⟩, hne⟩, rfl, rfl⟩
    exact ⟨rfl, hne, Nat.le_add_right .., Nat.add_lt_add_left hm _⟩
  · rintro ⟨rfl, hne, hle, hlt⟩
    exact ⟨x, ⟨⟨x - first, by omega, by omega⟩, hne⟩, rfl, rfl⟩

section

variable {s2 s3 s4 s5 s6 s7 s8 : State} {h h2 rw w2 w3 v : Word} {root x y n : Nat} (hrun : steRunning s cl i = some c) (htree : steTree cl c s = .ok tree s1)
include hrun htree

theorem trdn_completes (hkeys : c.keys = [k]) (ht : s.thread k = some t) (hfn : c.fn = 5) (hx : bitsOf 0 32 (cmdLaneB c) < tree.cap)
    (hread : steRead cl c (nodeAddr tree (bitsOf 0 32 (cmdLaneB c)) (cmdLaneA c).toNat) s1 = .ok v s2) :
    ∃ u w, exec (.steCommandComplete cl i) s = .next u ∧ u.thread k = some w ∧ w.tl = t.tl - 1 ∧ w.pc = t.pc ∧ u.mem = s.mem ∧
      (∀ j, j ≠ k → u.thread j = s.thread j) ∧ ∀ d : Reg, readW w d = if d ≠ 0 ∧ d = c.dst then v else readW t d := by
  obtain ⟨hmem1, hthreads1⟩ := steTree_frame htree
  obtain ⟨hmem2, hthreads2⟩ := steRead_frame hread
  have hthread (j : Nat) : s2.thread j = s.thread j := congrArg (mget · j) (hthreads2.trans hthreads1)
  have hdone : steDone cl c s = .ok ((s2.endSte cl c).steResult c v) s2 := by
    simp only [steDone, hfn, runTrdn, htree, steThen_ok, steNode_of_lt hx, hread]
  have hend : (s2.endSte cl c).thread k = some { t with tl := t.tl - 1 } := by rw [endSte_lone hkeys, hthread, ht]; rfl
  have hresult := steResult_of_thread (v := v) hkeys hend
  refine ⟨_, unBusy (setW { t with tl := t.tl - 1 } c.dst v) [.w c.dst], steCommandComplete_of_done hrun hdone, ?_, setW_tl .., setW_pc .., ?_,
    fun j hj => ?_, readW_result _ _ _⟩
  · rw [hresult, thread_putThread, if_pos rfl]
  · rw [hresult, putThread_mem, endSte_mem, hmem2, hmem1]
  · rw [hresult, thread_putThread, if_neg hj, endSte_other (by simpa [hkeys] using hj), hthread]

theorem tdesc_at_root (hfn : c.fn = 1) (haligned : (cmdLaneB c).toNat % 8 = 0)
    (hroot : steRead cl c (rootAddr c) s1 = .ok rw s2) (hr : bitsOf 0 32 rw = root) (hlt : root < tree.cap)
    (hword : steRead cl c (nodeAddr tree root 1) s2 = .ok h s3) (hlive : nodeRET h = false) (hraise : raiseVl cl c tree root s3 = .ok () s4)
    (hagain : steRead cl c (nodeAddr tree root 1) s4 = .ok h2 s5) (hcount : steRead cl c (nodeAddr tree root 3) s5 = .ok w3 s6)
    (hleaf : nodeEXP h2 = false ∨ nodeTERM h2 = true ∨ nodeNCH w3 = 0 ∨ optDMAX c = 1)
    (hone : steWrite cl c (cmdLaneB c) 1 s6 = .ok () s7) (hpath : steWrite cl c (cmdLaneB c + 8) (word root) s7 = .ok () s8) :
    exec (.steCommandComplete cl i) s = .next ((s8.endSte cl c).steResult c
      (word (root + bit01 (nodeTERM h2) * 2 ^ 48 + bit01 (nodeEXP h2) * 2 ^ 49))) := by
  have hdescend : descend cl c tree (optDMAX c - 1) [root] root s4 = .ok ([root], h2) s6 := by
    unfold descend
    simp only [hagain, hcount, steThen_ok]
    split
    next => rfl
    next m hm =>
      have hstop : (!nodeEXP h2 || nodeTERM h2 || decide (nodeNCH w3 = 0)) = true := by
        rcases hleaf with he | he | he | he
        · simp [he]
        · simp [he]
        · simp [he]
        · omega
      simp [hstop]
  have hpathWrites : steEach (fun (x : Nat × Word) s => steWrite cl c (cmdLaneB c + word (8 * x.1)) x.2 s)
      (indexed (word [root].length :: [root].map word)) s6 = .ok () s8 := by
    have hzero : cmdLaneB c + word (8 * 0) = cmdLaneB c := BitVec.add_zero _
    show steThen (steWrite cl c (cmdLaneB c + word (8 * 0)) 1 s6) _ = _
    rw [hzero, hone]
    show steThen (steWrite cl c (cmdLaneB c + 8) (word root) s7) _ = _
    rw [hpath]
    rfl
  refine steCommandComplete_of_done hrun (s1 := s8) ?_
  simp only [steDone, hfn, runTdesc, haligned, ne_eq, not_true_eq_false, if_false, htree, steThen_ok, hroot, hr, steNode_of_lt hlt, hword, hlive,
    hraise, hdescend, hpathWrites]
  simp

theorem texp_busy (hfn : c.fn = 2) (hlt : bitsOf 0 32 (cmdLaneA c) < tree.cap)
    (hword : steRead cl c (nodeAddr tree (bitsOf 0 32 (cmdLaneA c)) 1) s1 = .ok h s2)
    (hbusy : (nodeEXP h || nodePEND h || nodeTERM h || nodeRET h) = true) :
    exec (.steCommandComplete cl i) s = .next ((s2.endSte cl c).endTexp c (.p1 false)) := by
  refine steCommandComplete_of_done hrun (s1 := s2) ?_
  simp only [steDone, hfn, runTexp, htree, steThen_ok, steNode_of_lt hlt, hword, hbusy, if_true]

theorem texp_expands {first : Nat} (hfn : c.fn = 2) (hx : bitsOf 0 32 (cmdLaneA c) = x) (hn : bitsOf 32 9 (cmdLaneA c) = n) (hlt : x < tree.cap)
    (hword : steRead cl c (nodeAddr tree x 1) s1 = .ok h s2) (hfree : (nodeEXP h || nodePEND h || nodeTERM h || nodeRET h) = false)
    (hpend : steWrite cl c (nodeAddr tree x 1) (putBit h 50 true) s2 = .ok () s3) (htake : takeRun cl c tree n s3 = .ok (some first) s4)
    (hfill : fillRun cl c tree x first n s4 = .ok () s5) :
    exec (.steCommandComplete cl i) s = .next ((s5.endSte cl c).endTexp c (.p1 true)) := by
  refine steCommandComplete_of_done hrun (s1 := s5) ?_
  simp only [steDone, hfn, runTexp, htree, steThen_ok, hx, hn, steNode_of_lt hlt, hword, hfree, Bool.false_eq_true, if_false, hpend, htake, hfill]

section

variable {r : Running} {e : Nat × Nat} {walk : List (Nat × Nat)} (hfn : c.fn = 4) (hruns : clusterRuns s cl = true)
include hfn hruns

/-- The root moves, and the walk of the old root's other children begins (steps 1 to 3 of R371). -/
theorem troot_moves {o : Word} (hfind : ((s.cluster cl).ste.running.find? fun r => r.cmd == c) = some (runOf c))
    (hy : bitsOf 0 32 (cmdLaneA c) = y) (hroot : steRead cl c (rootAddr c) s1 = .ok rw s2) (hr : bitsOf 0 32 rw = root) (hrlt : root < tree.cap)
    (hylt : y < tree.cap) (hword : steRead cl c (nodeAddr tree root 1) s2 = .ok h s3) (hfirst : steRead cl c (nodeAddr tree root 2) s3 = .ok w2 s4)
    (hcount : steRead cl c (nodeAddr tree root 3) s4 = .ok w3 s5) (hvl : nodeVL h = 0) (hle : nodeFIRST w2 ≤ y) (hlt : y < nodeFIRST w2 + nodeNCH w3)
    (hret : steWrite cl c (nodeAddr tree root 1) (putBit h 51 true) s5 = .ok () s6)
    (hparent : steUpdate cl c (nodeAddr tree y 3) (fun w => putBits w 0 32 noNode) s6 = .ok o s7)
    (hmove : steWrite cl c (rootAddr c) (putBits rw 0 32 y) s7 = .ok () s8) :
    exec (.steCommandComplete cl i) s = .next (s8.modSte cl c fun r => { r with walk := some (rootWalk (nodeFIRST w2) (nodeNCH w3) y) }) := by
  have hchild : ¬(nodeVL h ≠ 0 ∨ y < nodeFIRST w2 ∨ nodeFIRST w2 + nodeNCH w3 ≤ y) := by omega
  refine steCommandComplete_of_done hrun (s1 := s8) ((steDone_troot hfn hruns).trans ?_)
  simp only [stepTroot, hfind, Option.map_some, runOf, runTroot, htree, steThen_ok, hroot, hr, hy, steNode_of_lt hrlt, steNode_of_lt hylt, hword,
    hfirst, hcount, if_neg hchild, hret, hparent, hmove]
  rfl

variable (hfind : ((s.cluster cl).ste.running.find? fun r => r.cmd == c) = some r) (hwalk : r.walk = some (e :: walk))
include hfind hwalk

/-- One point of the walk is made (step 4 of R371). -/
theorem troot_walks {w : List (Nat × Nat) × Nat} (hstep : walkStep cl c tree e walk r.done s1 = .ok w s2) :
    exec (.steCommandComplete cl i) s = .next (s2.modSte cl c fun q => { q with walk := some w.1, done := w.2 }) := by
  refine steCommandComplete_of_done hrun (s1 := s2) ((steDone_troot hfn hruns).trans ?_)
  simp only [stepTroot, hfind, Option.map_some, hwalk, htree, steThen_ok, hstep]

end

end

/-! ### One point of a walk (R371) -/

theorem walkStep_push {e : Nat × Nat} {walk : List (Nat × Nat)} {seen : Nat} (he : e.2 ≠ 0) (hpush : pushRun cl c tree e.1 e.2 s = .ok () s1) :
    walkStep cl c tree e walk seen s = .ok (walk, seen) s1 := by
  simp only [walkStep, if_pos he, hpush, steThen_ok]

section

variable {e : Nat × Nat} {walk : List (Nat × Nat)} {seen : Nat} {w2 w3 : Word} {s2 : State} (he : e.2 = 0) (hseen : seen < tree.cap)
  (hlt : e.1 < tree.cap) (hcount : steRead cl c (nodeAddr tree e.1 3) s = .ok w3 s1)
include he hseen hlt hcount

theorem walkStep_leaf (hleaf : nodeNCH w3 = 0) : walkStep cl c tree e walk seen s = .ok (walk, seen + 1) s1 := by
  simp only [walkStep, he, ne_eq, not_true_eq_false, if_false, Nat.not_le.2 hseen, steNode_of_lt hlt, hcount, steThen_ok, hleaf, if_true]

theorem walkStep_inner (hinner : nodeNCH w3 ≠ 0) (hfirst : steRead cl c (nodeAddr tree e.1 2) s1 = .ok w2 s2) :
    walkStep cl c tree e walk seen s =
      .ok ((List.range (nodeNCH w3)).map (fun i => (nodeFIRST w2 + i, 0)) ++ (nodeFIRST w2, nodeNCH w3) :: walk, seen + 1) s2 := by
  simp only [walkStep, he, ne_eq, not_true_eq_false, if_false, Nat.not_le.2 hseen, steNode_of_lt hlt, hcount, steThen_ok, if_neg hinner, hfirst]

end

/-! ### Backup and virtual loss (R369, R370) -/

/-- The change of one node of a path: its word 8, and where `add` says so its value. -/
def NodeStep (cl : Nat) (c : Cmd) (tree : Tree) (up : Word → Word) (add : Bool) (x : Nat) (z : Int) (a b : State) : Prop :=
  x < tree.cap ∧ ∃ h m, steUpdate cl c (nodeAddr tree x 1) up a = .ok h m ∧
    if add then ∃ w, steUpdate cl c (nodeAddr tree x 0) (fun w => w + BitVec.ofInt 64 z) m = .ok w b else b = m

/-- What `tvl` does at one node of its path. -/
def lossAt (cl : Nat) (c : Cmd) (tree : Tree) (x : Nat) (s : State) : SteRun Unit := steNode tree x s fun s =>
  steThen (steUpdate cl c (nodeAddr tree x 1) (fun h => putBits h 32 16 (nodeVL h + bitsOf 0 16 (cmdLaneB c))) s) fun _ s => .ok () s

/-- What `tback` does at one node of its path, for a value at the leaf. -/
def backAt (cl : Nat) (c : Cmd) (tree : Tree) (v : Int) (e : Nat × Nat) (s : State) : SteRun Unit := steNode tree e.2 s fun s =>
  steThen (steUpdate cl c (nodeAddr tree e.2 1) (fun h => putBits (putBits h 0 32 (nodeN h + 1)) 32 16 (nodeVL h + 65535)) s) fun _ s =>
    steThen (steUpdate cl c (nodeAddr tree e.2 0) (fun w => w + BitVec.ofInt 64 (if optTWO c && e.1 % 2 == 1 then -v else v)) s) fun _ s => .ok () s

theorem lossAt_of_nodeStep {x : Nat} {z : Int}
    (h : NodeStep cl c tree (fun h => putBits h 32 16 (nodeVL h + bitsOf 0 16 (cmdLaneB c))) false x z s u) : lossAt cl c tree x s = .ok () u := by
  obtain ⟨hlt, h, m, hup, rfl⟩ := h
  simp only [lossAt, steNode_of_lt hlt, hup, steThen_ok]

theorem backAt_of_nodeStep {e : Nat × Nat} {v : Int}
    (h : NodeStep cl c tree (fun h => putBits (putBits h 0 32 (nodeN h + 1)) 32 16 (nodeVL h + 65535)) true e.2
      (if optTWO c && e.1 % 2 == 1 then -v else v) s u) : backAt cl c tree v e s = .ok () u := by
  obtain ⟨hlt, h, m, hup, w, hadd⟩ := h
  simp only [backAt, steNode_of_lt hlt, hup, steThen_ok, hadd]

section

variable {path : List Nat} {s2 : State} (hpath : readPath cl c (cmdLaneA c) s = .ok path s1) (htree : steTree cl c s1 = .ok tree s2)
include hpath htree

theorem runTvl_eq : runTvl cl c s = steEach (lossAt cl c tree) path.reverse s2 := by
  simp only [runTvl, hpath, htree, steThen_ok]
  rfl

theorem runTback_eq {v : Int} (hv : backupValue (bitsOf 0 32 (cmdLaneB c)) = some v) :
    runTback cl c s = steEach (backAt cl c tree v) (indexed path.reverse) s2 := by
  simp only [runTback, hv, hpath, htree, steThen_ok]
  rfl

end

/-! ### A command that fails (R373) -/

/-- The commands a failure ends: the failed one, and its issuer's later ones. -/
def goneWith (s : State) (cl : Nat) (c : Cmd) : List Cmd := c :: ((s.cluster cl).ste.table.filter fun e => e.issuer == c.issuer && c.seq < e.seq)

/-- A failure of which no `texp` is a part holds no lane at an instruction. -/
theorem failSte_eq {d : Nat} {va : Word} (hc : c.fn ≠ 2) (htable : ∀ e ∈ (s.cluster cl).ste.table, e.fn ≠ 2) :
    s.failSte cl c d va = ((goneWith s cl c).foldl (fun s e => if e.fn = 1 ∨ e.fn = 5 then s.clearBusy e e.keys else s)
      ((goneWith s cl c).foldl (fun s e => s.endSte cl e) s)).defer c (cmdKeys (goneWith s cl c)) 3 d va := by
  have hheld : (goneWith s cl c).filter (fun e => e.fn == 2) = [] := List.filter_eq_nil_iff.2 fun e he => by
    rcases List.mem_cons.1 he with rfl | he
    · simpa using hc
    · simpa using htable e (List.mem_of_mem_filter he)
  have hkeys : cmdKeys ((goneWith s cl c).filter fun e => e.fn == 2) = [] := by rw [hheld]; rfl
  show List.foldl _ (State.defer _ _ ((cmdKeys (goneWith s cl c)).filter fun k => !(cmdKeys ((goneWith s cl c).filter fun e => e.fn == 2)).contains k)
    _ _ _) (cmdKeys ((goneWith s cl c).filter fun e => e.fn == 2)) = _
  have hall (l : List Nat) : (l.filter fun k => !([] : List Nat).contains k) = l := List.filter_eq_self.2 fun _ _ => rfl
  rw [hkeys, hall]
  rfl

theorem mem_cmdKeys {cs : List Cmd} : k ∈ cmdKeys cs ↔ ∃ e ∈ cs, k ∈ e.keys := by
  unfold cmdKeys
  rw [mem_dedup, List.mem_flatMap]

section

variable {α : Type} (F : State → α)

/-- What no command's end touches is as it was when each of some commands has ended and its register is free. -/
theorem endAll_field (l : List Cmd) (hend : ∀ e ∈ l, ∀ u, F (u.endSte cl e) = F u) (hclear : ∀ e ∈ l, ∀ u, F (u.clearBusy e e.keys) = F u) :
    F (l.foldl (fun s e => if e.fn = 1 ∨ e.fn = 5 then s.clearBusy e e.keys else s) (l.foldl (fun s e => s.endSte cl e) s)) = F s := by
  refine (foldl_field_of_mem F l (fun e he u => ?_) _).trans (foldl_field_of_mem F l (fun e he u => hend e he u) _)
  split
  · exact hclear e he u
  · rfl

end

section

variable {d : Nat} {va : Word} (hc : c.fn ≠ 2) (htable : ∀ e ∈ (s.cluster cl).ste.table, e.fn ≠ 2)
include hc htable

theorem failSte_mem : (s.failSte cl c d va).mem = s.mem := by
  rw [failSte_eq hc htable, defer_eq]
  exact (eachThread_field (·.mem) fun _ _ _ => rfl).trans
    (endAll_field (·.mem) _ (fun _ _ _ => endSte_mem) fun _ _ _ => eachThread_field (·.mem) fun _ _ _ => rfl)

theorem failSte_other (hj : j ∉ c.keys) (hlater : ∀ e ∈ (s.cluster cl).ste.table, j ∉ e.keys) : (s.failSte cl c d va).thread j = s.thread j := by
  have hgone (e : Cmd) (he : e ∈ goneWith s cl c) : j ∉ e.keys := by
    rcases List.mem_cons.1 he with rfl | he
    · exact hj
    · exact hlater e (List.mem_of_mem_filter he)
  rw [failSte_eq hc htable, defer_eq]
  refine (eachThread_other fun hmem => ?_).trans
    (endAll_field (·.thread j) _ (fun e he _ => endSte_other (hgone e he)) fun e he _ => eachThread_other (hgone e he))
  obtain ⟨e, he, hk⟩ := mem_cmdKeys.1 hmem
  exact hgone e he hk

/-- A lane of the failed command keeps its place, and its deferred fault is pending once. -/
theorem failSte_thread (hk : k ∈ c.keys) (ht : s.thread k = some t) :
    ∃ w, (s.failSte cl c d va).thread k = some w ∧ w.pc = t.pc ∧
      w.deferred = t.deferred ++ [{ engine := 3, detail := d, value := va, pc := c.pc }] := by
  have hkept := endAll_field (s := s) (cl := cl) (fun u => (u.thread k).map fun v => (v.pc, v.deferred)) (goneWith s cl c)
    (fun _ _ _ => eachThread_map (g := fun t => { t with tl := t.tl - 1 }) (fun v => (v.pc, v.deferred)) fun _ => rfl)
    fun e _ _ => eachThread_map (g := (unBusy · [.w e.dst])) (fun v => (v.pc, v.deferred)) fun _ => rfl
  rw [ht] at hkept
  obtain ⟨v, hv, hfields⟩ := Option.map_eq_some_iff.1 hkept
  obtain ⟨hpc, hdeferred⟩ := Prod.mk.inj hfields
  have hnodup : (cmdKeys (goneWith s cl c)).Nodup := nodup_dedup _
  have hmem : k ∈ cmdKeys (goneWith s cl c) := mem_cmdKeys.2 ⟨c, List.mem_cons_self, hk⟩
  rw [failSte_eq hc htable, defer_eq, eachThread_thread hnodup hmem, hv]
  exact ⟨_, rfl, hpc, congrArg (· ++ _) hdeferred⟩

end

/-! ### Where a run comes from (R368) -/

section

variable {n : Nat} {b w3 x : Word} {s2 s3 : State} (hbin : steRead cl c (binAddr c n) s = .ok b s1)
include hbin

theorem takeRun_pops (hhead : bitsOf 0 32 b ≠ noNode) (hlt : bitsOf 0 32 b < tree.cap)
    (hlink : steRead cl c (nodeAddr tree (bitsOf 0 32 b) 3) s1 = .ok w3 s2)
    (hpop : steWrite cl c (binAddr c n) (word (nodePARENT w3 + bitsOf 0 32 (s2.freeNow (c.seq % 1024)) * 2 ^ 32)) s2 = .ok () s3) :
    takeRun cl c tree n s = .ok (some (bitsOf 0 32 b)) s3 := by
  simp only [takeRun, hbin, steThen_ok, if_pos hhead, steNode_of_lt hlt, hlink, hpop]

variable (hempty : bitsOf 0 32 b = noNode) (hnext : steRead cl c (nextAddr c) s1 = .ok x s2)
include hempty hnext

theorem takeRun_cuts (hfits : bitsOf 0 32 x + n ≤ tree.cap)
    (hcut : steWrite cl c (nextAddr c) (putBits x 0 32 (bitsOf 0 32 x + n)) s2 = .ok () s3) :
    takeRun cl c tree n s = .ok (some (bitsOf 0 32 x)) s3 := by
  simp only [takeRun, hbin, steThen_ok, hempty, ne_eq, not_true_eq_false, if_false, hnext, if_pos hfits, hcut]

theorem takeRun_none (hfull : tree.cap < bitsOf 0 32 x + n) : takeRun cl c tree n s = .ok none s2 := by
  simp only [takeRun, hbin, steThen_ok, hempty, ne_eq, not_true_eq_false, if_false, hnext, if_neg (Nat.not_le.2 hfull)]

end

/-! ### The statement -/

theorem treeCommand_begins (hruns : clusterRuns s cl = true) (htable : (s.cluster cl).ste.table = c :: rest) (hdone : issuerDone s c = true)
    {begun : List RltEntry → Prop} (hbegun : ∀ rlt, begun rlt ↔ ∃ u, exec (.steCommandBegin cl 0) s = .next u ∧ (u.cluster cl).ste.table = rest ∧
      u.threads = s.threads ∧ u.mem = s.mem ∧ (u.cluster cl).ste.running = (s.cluster cl).ste.running ++ [runOf c] ∧
      (u.cluster cl).rlt = (s.cluster cl).rlt ++ rlt) :
    ((c.fn = 4 ∨ c.fn = 5) → begun []) ∧
    (∀ dest va n pieces rlt, (c.fn = 1 ∧ dest = true ∧ va.toNat % 8 = 0 ∧ va = cmdLaneB c ∧ n = 8 * (optDMAX c + 1)) ∨
        (c.fn = 2 ∧ dest = false ∧ va = cmdLaneB c ∧ n = 8 * bitsOf 32 9 (cmdLaneA c)) →
      s.locate cl 3 c (if dest then .write else .read) (pagePieces va n) = .ok pieces → rlt = rltEntries 3 c dest (lineRuns pieces) →
      rlt.length ≤ rltRoom (s.cluster cl) → begun rlt) := by
  refine ⟨fun hfn => (hbegun _).2 (steBegun_effect htable (steCommandBegin_no_range hruns htable hdone ?_)),
    fun dest va n pieces rlt hfn hlocate hrlt hroom =>
      (hbegun _).2 (steBegun_effect htable (steCommandBegin_range hruns htable hdone ?_ hlocate hrlt hroom))⟩
  · rcases hfn with hfn | hfn <;> simp only [pathRange, hfn]
  · rcases hfn with ⟨hfn, rfl, haligned, rfl, rfl⟩ | ⟨hfn, rfl, rfl, rfl⟩
    · simp only [pathRange, hfn, haligned, if_true]
    · simp only [pathRange, hfn]

theorem treePath_completes (hrun : steRunning s cl i = some c) {path : List Nat} {s2 : State} {add : Bool} {up : Word → Word}
    (hfn : c.fn = 6 ∨ c.fn = 3) (hpath : readPath cl c (cmdLaneA c) s = .ok path s1) (htree : steTree cl c s1 = .ok tree s2)
    (hloss : c.fn = 6 → add = false ∧ up = fun h => putBits h 32 16 (nodeVL h + bitsOf 0 16 (cmdLaneB c)))
    (hback : c.fn = 3 → add = true ∧ up = fun h => putBits (putBits h 0 32 (nodeN h + 1)) 32 16 (nodeVL h + 65535))
    {v : Int} (hv : c.fn = 3 → backupValue (bitsOf 0 32 (cmdLaneB c)) = some v) :
    (∀ x b, path = [x] → NodeStep cl c tree up add x v s2 b → exec (.steCommandComplete cl i) s = .next (b.endSte cl c)) ∧
    (∀ r x a b, path = [r, x] → NodeStep cl c tree up add x v s2 a → NodeStep cl c tree up add r (if optTWO c then -v else v) a b →
      exec (.steCommandComplete cl i) s = .next (b.endSte cl c)) := by
  rcases hfn with hfn | hfn
  · obtain ⟨rfl, rfl⟩ := hloss hfn
    have hdone {b : State} (h : steEach (lossAt cl c tree) path.reverse s2 = .ok () b) :
        exec (.steCommandComplete cl i) s = .next (b.endSte cl c) :=
      steCommandComplete_of_done hrun (s1 := b) (by simp only [steDone, hfn, runTvl_eq hpath htree, h, steThen_ok])
    constructor
    · rintro x b rfl hx
      refine hdone ?_
      show steThen (lossAt cl c tree x s2) _ = _
      rw [lossAt_of_nodeStep hx]
      rfl
    · rintro r x a b rfl hx hr
      refine hdone ?_
      show steThen (lossAt cl c tree x s2) _ = _
      rw [lossAt_of_nodeStep hx]
      show steThen (lossAt cl c tree r a) _ = _
      rw [lossAt_of_nodeStep hr]
      rfl
  · obtain ⟨rfl, rfl⟩ := hback hfn
    have hdone {b : State} (h : steEach (backAt cl c tree v) (indexed path.reverse) s2 = .ok () b) :
        exec (.steCommandComplete cl i) s = .next (b.endSte cl c) :=
      steCommandComplete_of_done hrun (s1 := b) (by simp only [steDone, hfn, runTback_eq hpath htree (hv hfn), h, steThen_ok])
    have hleaf {x : Nat} {a : State} (hx : NodeStep cl c tree (fun h => putBits (putBits h 0 32 (nodeN h + 1)) 32 16 (nodeVL h + 65535)) true x v s2 a) :
        backAt cl c tree v (0, x) s2 = .ok () a := backAt_of_nodeStep (by simpa using hx)
    constructor
    · rintro x b rfl hx
      refine hdone ?_
      show steThen (backAt cl c tree v (0, x) s2) _ = _
      rw [hleaf hx]
      rfl
    · rintro r x a b rfl hx hr
      refine hdone ?_
      show steThen (backAt cl c tree v (0, x) s2) _ = _
      rw [hleaf hx]
      show steThen (backAt cl c tree v (1, r) a) _ = _
      rw [backAt_of_nodeStep (by simpa using hr)]
      rfl

theorem treeCommand_fails (hrun : steRunning s cl i = some c) (hkeys : c.keys = [k]) (ht : s.thread k = some t) {d : Nat} {va : Word}
    (hc : c.fn ≠ 2) (hfail : steDone cl c s = .fail d va s1) (hthreads : s1.threads = s.threads) (htable : ∀ e ∈ (s1.cluster cl).ste.table, e.fn ≠ 2) :
    ∃ u w, exec (.steCommandFail cl i) s = .next u ∧ u.thread k = some w ∧ w.pc = t.pc ∧ u.mem = s1.mem ∧
      (∀ j, j ≠ k → (∀ e ∈ (s1.cluster cl).ste.table, j ∉ e.keys) → u.thread j = s.thread j) ∧
      w.deferred = t.deferred ++ [{ engine := 3, detail := d, value := va, pc := c.pc }] := by
  have hthread (j : Nat) : s1.thread j = s.thread j := congrArg (mget · j) hthreads
  have hexec : exec (.steCommandFail cl i) s = .next (s1.failSte cl c d va) := by
    show execSteCommandFail cl i s = _
    simp only [execSteCommandFail, hrun, hfail]
  obtain ⟨w, hw, hpc, hdeferred⟩ := failSte_thread (d := d) (va := va) hc htable (hkeys ▸ List.mem_singleton_self k) ((hthread k).trans ht)
  exact ⟨_, w, hexec, hw, hpc, failSte_mem hc htable,
    fun j hj hlater => (failSte_other hc htable (by simpa [hkeys] using hj) hlater).trans (hthread j), hdeferred⟩

/-- Settles O42: a command begins with what `pathRange` gives; it completes as the part of its function does along the accesses named; and its
failure is one deferred fault of its lane. -/
theorem treeEventsComplete : Obligations.TreeEventsComplete := by
  refine ⟨fun s cl c rest hruns htable hdone begun hbegun => treeCommand_begins hruns htable hdone hbegun, ?_, ?_, ?_⟩
  · intro s cl i c k t tree s1 hrun hkeys ht htree
    refine ⟨?_, ?_, ?_, ?_, ?_⟩
    · rintro v s2 x hfn rfl hx hread
      exact trdn_completes hrun htree hkeys ht hfn hx hread
    · rintro rec_ rw root h h2 w3 s2 s3 s4 s5 s6 s7 s8 hfn rfl haligned - hroot hr hlt hword hlive hraise hagain hcount hleaf hone hpath
      exact tdesc_at_root hrun htree hfn haligned hroot hr.symm hlt hword hlive hraise hagain hcount hleaf hone hpath
    · rintro x n h s2 hfn rfl rfl hlt - hword
      exact ⟨texp_busy hrun htree hfn hlt hword,
        fun first s3 s4 s5 hfree hpend htake hfill => texp_expands hrun htree hfn rfl rfl hlt hword hfree hpend htake hfill⟩
    · intro rw root y h w2 w3 o s2 s3 s4 s5 s6 s7 s8 hfn hruns hfind hy hroot hr hrlt hylt hword hfirst hcount hvl hle hlt hret hparent hmove
      exact ⟨_, troot_moves hrun htree hfn hruns hfind hy.symm hroot hr.symm hrlt hylt hword hfirst hcount hvl hle hlt hret hparent hmove,
        fun e => mem_rootWalk⟩
    · intro r e rest s2 hfn hruns hfind hwalk
      refine ⟨fun he hpush => troot_walks hrun htree hfn hruns hfind hwalk (walkStep_push he hpush),
        fun w3 w2 s3 he hseen hlt hcount => ⟨fun hleaf => ?_, fun hinner hfirst => ?_⟩⟩
      · exact troot_walks hrun htree hfn hruns hfind hwalk (walkStep_leaf he hseen hlt hcount hleaf)
      · exact troot_walks hrun htree hfn hruns hfind hwalk (walkStep_inner he hseen hlt hcount hinner hfirst)
  · intro s cl i c k t hrun hkeys ht
    refine ⟨fun r hfn hruns hfind hwalk => ?_, ?_, fun d va s1 hc hfail hthreads htable => treeCommand_fails hrun hkeys ht hc hfail hthreads htable⟩
    · refine steCommandComplete_of_done hrun (s1 := s) ((steDone_troot hfn hruns).trans ?_)
      simp only [stepTroot, hfind, Option.map_some, hwalk]
    · intro path tree s1 s2 add up hfn hpath htree hloss hback v hv node hnode
      obtain ⟨hleaf, hpair⟩ := treePath_completes hrun hfn hpath htree hloss hback hv
      exact ⟨fun x b hp hx => hleaf x b hp ((hnode ..).1 hx), fun r x a b hp hx hr => hpair r x a b hp ((hnode ..).1 hx) ((hnode ..).1 hr)⟩
  · intro cl c tree n s b s1 hbin
    exact ⟨fun w3 s2 s3 hhead hlt hlink hpop => takeRun_pops hbin hhead hlt hlink hpop, fun x s2 s3 hempty hnext =>
      ⟨fun hfits hcut => takeRun_cuts hbin hempty hnext hfits hcut, fun hfull => takeRun_none hbin hempty hnext hfull⟩⟩

end Sys2Proof.Safety
end

section
/-! Neuron banks: what their operations leave of the state (R341 to R360). -/

namespace Sys2Proof.Safety

open Machine Laws

variable {α : Type} {s u : State} {cl n i k : Nat} {c : Cmd} {f : Enb → Enb} {t : Thread}

/-! ### The bank's contexts and its queue -/

@[simp] theorem enb_modEnb (s : State) (cl : Nat) (f : Enb → Enb) : ((s.modEnb cl f).cluster cl).enb = f (s.cluster cl).enb := by
  simp [State.modEnb]

/-- A context as the bank holds it. -/
def ctxOf (e : Enb) (n : Nat) : EnbCtx := e.ctx[n]?.getD EnbCtx.reset

theorem enbCtx_congr (h : (u.cluster cl).enb.ctx = (s.cluster cl).enb.ctx) (n : Nat) : enbCtx u cl n = enbCtx s cl n := by
  unfold enbCtx
  rw [h]

theorem neuronMode_eq (x : Cluster) (n : Nat) : neuronMode x n = ctlNM (ctxOf x.enb n).ctl := rfl

theorem neuronAt_congr (h : u.am = s.am) (cl n i : Nat) : neuronAt u cl n i = neuronAt s cl n i := by
  unfold neuronAt
  rw [h]

theorem calendarKey_congr (h : (u.cluster cl).enb.ctx = (s.cluster cl).enb.ctx) (n b i : Nat) : calendarKey u cl n b i = calendarKey s cl n b i := by
  unfold calendarKey
  rw [enbCtx_congr h]

/-! ### A command that leaves the queue (R356) -/

theorem lowerTl_falls_of_threads (h : u.threads = s.threads) (c : Cmd) : TlFalls s (u.lowerTl c) c.keys := by
  have hthread (j : Nat) : u.thread j = s.thread j := congrArg (mget · j) h
  obtain ⟨hother, hfalls⟩ := lowerTl_falls u c
  exact ⟨fun j hj => (hother j hj).trans (hthread j), fun hn j hj => (hfalls hn j hj).trans (congrArg _ (hthread j))⟩

/-- What ending a command does to its cluster. -/
def endedEnb (c : Cmd) (x : Cluster) : Cluster :=
  { x with enb := { x.enb with queue := x.enb.queue.erase c }
           rlt := x.rlt.filter fun e => !(e.engine == 2 && e.seq == c.seq && e.elem.isNone) }

@[simp] theorem cluster_endEnb : (s.endEnb cl c).cluster cl = endedEnb c (s.cluster cl) := by
  refine (cluster_of_clusters lowerTl_clusters cl).trans ?_
  simp [State.unlock, State.modEnb, endedEnb]

@[simp] theorem endEnb_mem : (s.endEnb cl c).mem = s.mem := lowerTl_mem
@[simp] theorem endEnb_am : (s.endEnb cl c).am = s.am := lowerTl_am

theorem endEnb_falls (h : u.threads = s.threads) : TlFalls s (u.endEnb cl c) c.keys :=
  lowerTl_falls_of_threads (u := (u.modEnb cl fun e => { e with queue := e.queue.erase c }).unlock cl 2 c) h c

/-- No entry of the table is a command's that has left the queue. -/
theorem rlt_endedEnb {x : Cluster} {e : RltEntry} (he : e ∈ (endedEnb c x).rlt) (hnone : e.elem = none) : ¬(e.engine = 2 ∧ e.seq = c.seq) := by
  rintro ⟨hengine, hseq⟩
  have hkept := (List.mem_filter.1 he).2
  simp [hengine, hseq, hnone] at hkept

/-! ### Bytes of AM and of the calendars -/

/-- The bytes of a span, all zero. -/
def zeroCells (a n : Nat) : List (Nat × Byte) := (span a n).map fun a => (a, 0)

theorem mem_span {a n b : Nat} : b ∈ span a n ↔ a ≤ b ∧ b < a + n := by
  refine ⟨bounds_of_mem_span, fun ⟨hle, hlt⟩ => List.mem_map.2 ⟨b - a, List.mem_range.2 (by omega), by omega⟩⟩

theorem keys_zeroCells (a n : Nat) : (zeroCells a n).map (·.1) = span a n := by
  rw [zeroCells, List.map_map]
  exact List.map_id _

/-- A span of memory is zero and the rest as it was. -/
theorem memRead_zeroCells (m : Mem) (a n b : Nat) : memRead (memWriteAll m (zeroCells a n)) b = if b ∈ span a n then 0 else memRead m b := by
  split
  next hb =>
    have hn : ((zeroCells a n).map (·.1)).Nodup := by rw [keys_zeroCells]; exact nodup_span a n
    exact memRead_memWriteAll_of_mem (c := (b, 0)) hn (List.mem_map.2 ⟨b, hb, rfl⟩) m
  next hb =>
    refine memRead_memWriteAll_other _ _ _ fun c hc heq => hb ?_
    rw [← keys_zeroCells a n]
    exact List.mem_map.2 ⟨c, hc, heq⟩

theorem leNat_zeros {l : List Byte} (h : ∀ b ∈ l, b = 0) : leNat l = 0 := by
  induction l with
  | nil => rfl
  | cons b l ih =>
    obtain ⟨hb, hl⟩ := List.forall_mem_cons.1 h
    rw [leNat, ih hl, hb]
    rfl

/-- A cluster of a partition is one of the device. -/
theorem cluster_lt_of_runs (h : clusterRuns s cl = true) : cl < 384 := by
  obtain ⟨p, hp, -⟩ := (Option.any_eq_true ..).1 h
  have hhalf := List.find?_some hp
  have hlt : halfDieOf cl < 8 := BitVec.lt_of_getLsbD hhalf
  unfold halfDieOf dieOf at hlt
  omega

theorem calBank_lt (x : EnbCtx) : calBank x < 16 := by
  unfold calBank bitsOf natField
  omega

theorem badAm_zero (s : State) (key : Nat) : badAm s key 0 = none := by
  refine List.find?_eq_none.2 fun b _ => ?_
  simp only [Bool.and_eq_true, decide_eq_true_eq]
  omega

theorem guardAm_of_none {key : Nat} {f : State} (h : badAm s key n = none) : s.guardAm cl key n f = f := by
  unfold State.guardAm
  rw [h]

theorem guardKeys_of_none {keys : List Nat} {f : State} (h : badAmong s keys = none) : s.guardKeys cl keys f = f := by
  unfold State.guardKeys
  rw [h]

theorem clusterFinishes_of_runs (h : clusterRuns s cl = true) : clusterFinishes s cl = true := by
  obtain ⟨p, hp, hissues⟩ := (Option.any_eq_true ..).1 h
  refine (Option.any_eq_true ..).2 ⟨p, hp, ?_⟩
  revert hissues
  cases p.2.run <;> simp [issues]

end Sys2Proof.Safety
end

section
/-! Neuron banks: changes of NM and the commands of the queue (R343, R356, R357, R359). -/

namespace Sys2Proof.Safety

open Machine Laws

variable {s u : State} {cl k : Nat} {c : Cmd} {rest : List Cmd} {t : Thread} {v : Word}

/-! ### A bank enters neuron mode (R343) -/

/-- The first byte of a bank's calendar. -/
def calendarBase (s : State) (cl n : Nat) : Nat := scratchAddr cl (calBank (enbCtx s cl n) * 0x20000)

/-- The calendar's entry in the table. -/
def calendarEntry (c : Cmd) (cal : Nat) : RltEntry :=
  { line := cal / 64, lines := 2048, dest := true, engine := 2, seq := c.seq, core := c.issuer.2.1, slot := c.issuer.2.2, elem := some c.ctx }

/-- A context's word 0 set. -/
def withCtl (e : Enb) (n : Nat) (v : Word) : Enb := { e with ctx := e.ctx.setIfInBounds n { e.ctx.toList.getD n EnbCtx.reset with ctl := v } }

/-- A clock that begins at tick 0. -/
def clockStarts (e : Enb) : Enb := { e with ct := 0, cl := -1, sent := Vector.replicate 16 0, recv := Vector.replicate 16 0 }

/-- The banks of a cluster as bank n enters neuron mode. -/
def enteredEnb (e : Enb) (n : Nat) (v : Word) (first : Bool) : Enb :=
  if first then clockStarts { withCtl e n v with spikes := mdel e.spikes n } else { withCtl e n v with spikes := mdel e.spikes n }

/-- Cells of AM and of memory written. -/
def overwritten (s : State) (inAm inMem : List (Nat × Byte)) : State := (s.writeAm inAm).writeCells inMem

section

variable {α : Type} {inAm inMem : List (Nat × Byte)}

theorem overwritten_am : (overwritten s inAm inMem).am = memWriteAll s.am inAm := rfl

theorem overwritten_mem : (overwritten s inAm inMem).mem = (s.writeCells inMem).mem := rfl

theorem overwritten_threads : (overwritten s inAm inMem).threads = s.threads := rfl

theorem overwritten_cluster (g : Cluster → α) (h : ∀ c fbf, g { c with fbf := fbf } = g c) :
    g ((overwritten s inAm inMem).cluster cl) = g (s.cluster cl) := writeCells_cluster g h ..

end

section

variable {f : Cluster → Cluster}

@[simp] theorem modCluster_am : (s.modCluster cl f).am = s.am := rfl
@[simp] theorem modCluster_mem : (s.modCluster cl f).mem = s.mem := rfl
@[simp] theorem modCluster_threads : (s.modCluster cl f).threads = s.threads := rfl

end

/-- The bank's records and its calendar zero. -/
def zeroedBank (s : State) (cl n : Nat) : State :=
  overwritten s (zeroCells (neuronKey cl n 0) 32768) (zeroCells (calendarBase s cl n) 0x20000)

theorem modCluster_modCluster (s : State) (cl : Nat) (f g : Cluster → Cluster) :
    (s.modCluster cl f).modCluster cl g = s.modCluster cl fun x => g (f x) := by
  unfold State.modCluster
  rw [cluster_putCluster, if_pos rfl]
  exact congrArg (fun m => { s with clusters := m }) (mset_mset ..)

theorem enterNeuronMode_eq : s.enterNeuronMode cl c.ctx c v = (zeroedBank s cl c.ctx).modCluster cl fun x => { x with
    enb := enteredEnb x.enb c.ctx v (neuronBanks (s.cluster cl)).isEmpty
    rlt := x.rlt ++ [calendarEntry c (calendarBase s cl c.ctx)] } := by
  have hunfold : s.enterNeuronMode cl c.ctx c v =
      let entered := (((zeroedBank s cl c.ctx).putEnbCtx cl c.ctx fun x => { x with ctl := v }).modEnb cl fun e =>
        { e with spikes := mdel e.spikes c.ctx }).modCluster cl fun x => { x with rlt := x.rlt ++ [calendarEntry c (calendarBase s cl c.ctx)] }
      if (neuronBanks (s.cluster cl)).isEmpty then entered.modEnb cl clockStarts else entered := rfl
  rw [hunfold]
  unfold enteredEnb State.putEnbCtx State.modEnb
  cases (neuronBanks (s.cluster cl)).isEmpty <;>
    simp only [Bool.false_eq_true, if_false, if_true, modCluster_modCluster] <;> rfl

theorem enterNeuronMode_cluster :
    ((s.enterNeuronMode cl c.ctx c v).cluster cl).enb = enteredEnb (s.cluster cl).enb c.ctx v (neuronBanks (s.cluster cl)).isEmpty ∧
      ((s.enterNeuronMode cl c.ctx c v).cluster cl).rlt = (s.cluster cl).rlt ++ [calendarEntry c (calendarBase s cl c.ctx)] := by
  have henb : ((zeroedBank s cl c.ctx).cluster cl).enb = (s.cluster cl).enb := overwritten_cluster (·.enb) fun _ _ => rfl
  have hrlt : ((zeroedBank s cl c.ctx).cluster cl).rlt = (s.cluster cl).rlt := overwritten_cluster (·.rlt) fun _ _ => rfl
  rw [enterNeuronMode_eq, cluster_modCluster, if_pos rfl, ← henb, ← hrlt]
  exact ⟨rfl, rfl⟩

theorem enterNeuronMode_am : (s.enterNeuronMode cl c.ctx c v).am = memWriteAll s.am (zeroCells (neuronKey cl c.ctx 0) 32768) := by
  rw [enterNeuronMode_eq, modCluster_am, zeroedBank, overwritten_am]

theorem enterNeuronMode_mem : (s.enterNeuronMode cl c.ctx c v).mem = (s.writeCells (zeroCells (calendarBase s cl c.ctx) 0x20000)).mem := by
  rw [enterNeuronMode_eq, modCluster_mem, zeroedBank, overwritten_mem]

theorem enterNeuronMode_threads : (s.enterNeuronMode cl c.ctx c v).threads = s.threads := by
  rw [enterNeuronMode_eq, modCluster_threads, zeroedBank, overwritten_threads]

/-- A neuron's record lies in its bank. -/
theorem neuron_in_bank {cl n i a : Nat} (hi : i < 2048) (ha : a ∈ span (neuronKey cl n i) 16) : a ∈ span (neuronKey cl n 0) 32768 := by
  have hrecord : neuronKey cl n i = neuronKey cl n 0 + 16 * i := by simp only [neuronKey, Nat.mul_zero, Nat.add_zero]
  rw [hrecord] at ha
  obtain ⟨hle, hlt⟩ := mem_span.1 ha
  exact mem_span.2 ⟨by omega, by omega⟩

/-- The calendar lies in the window of the device's own memory. -/
theorem calendarBase_lt (hruns : clusterRuns s cl = true) (n : Nat) : calendarBase s cl n + 0x20000 ≤ remoteBase := by
  have hcl := cluster_lt_of_runs hruns
  have hbank := calBank_lt (enbCtx s cl n)
  unfold calendarBase scratchAddr windowBase remoteBase
  omega

theorem ctxOf_withCtl {e : Enb} {n : Nat} (hn : n < 16) : (ctxOf (withCtl e n v) n).ctl = v := by simp [ctxOf, withCtl, hn]

theorem mode_entered {e : Enb} {n : Nat} {first : Bool} (hn : n < 16) : (ctxOf (enteredEnb e n v first) n).ctl = v := by
  unfold enteredEnb
  split <;> exact ctxOf_withCtl hn

theorem queue_entered {e : Enb} {n : Nat} {first : Bool} : (enteredEnb e n v first).queue = e.queue := by
  unfold enteredEnb
  split <;> rfl

section

variable (hruns : clusterRuns s cl = true) (hqueue : (s.cluster cl).enb.queue = c :: rest) (hdone : issuerDone s c = true) (hfn : c.fn = 0)
include hruns hqueue hdone hfn

theorem exec_neuronModeSwitch_enter (hv : c.words.getD 0 0 = v) (hon : ctlNM v = true) (hoff : neuronMode (s.cluster cl) c.ctx = false)
    (hroom : 0 < rltRoom (s.cluster cl)) (hidle : (((s.cluster cl).mxe.running).any fun r => (tilesOf r.cmd).any fun t => t / 4 == c.ctx) = false) :
    exec (.neuronModeSwitch cl 0) s = .next ((s.enterNeuronMode cl c.ctx c v).endEnb cl c) := by
  have hready : ¬(0 ≠ 0 ∨ c.fn ≠ 0 ∨ (!clusterRuns s cl) = true ∨ (!issuerDone s c) = true) := by simp [hfn, hruns, hdone]
  show execNeuronModeSwitch cl 0 s = _
  simp only [execNeuronModeSwitch, hqueue, List.getElem?_cons_zero, if_neg hready, hv, hon, hoff, hidle]
  simp [Nat.pos_iff_ne_zero.1 hroom]

theorem exec_neuronModeSwitch_leave (hv : c.words.getD 0 0 = v) (hoff : ctlNM v = false) (hon : neuronMode (s.cluster cl) c.ctx = true) :
    exec (.neuronModeSwitch cl 0) s = .next ((s.leaveNeuronMode cl c.ctx v).endEnb cl c) := by
  have hready : ¬(0 ≠ 0 ∨ c.fn ≠ 0 ∨ (!clusterRuns s cl) = true ∨ (!issuerDone s c) = true) := by simp [hfn, hruns, hdone]
  show execNeuronModeSwitch cl 0 s = _
  simp only [execNeuronModeSwitch, hqueue, List.getElem?_cons_zero, if_neg hready, hv, hon, hoff]
  rfl

end

theorem neuronMode_enters (hruns : clusterRuns s cl = true) (hqueue : (s.cluster cl).enb.queue = c :: rest) (hn : c.ctx < 16)
    (hon : ctlNM v = true) (hother : ∀ e ∈ (s.cluster cl).rlt, e.elem = none → ¬(e.engine = 2 ∧ e.seq = c.seq))
    (hu : u = (s.enterNeuronMode cl c.ctx c v).endEnb cl c) :
    (u.cluster cl).enb.queue = rest ∧ neuronMode (u.cluster cl) c.ctx = true ∧ (∀ i, i < 2048 → neuronAt u cl c.ctx i = 0) ∧ TlFalls s u c.keys ∧
      (∀ a, memRead u.mem a = if a ∈ span (scratchAddr cl (calBank (enbCtx s cl c.ctx) * 0x20000)) 0x20000 then 0 else memRead s.mem a) ∧
      (u.cluster cl).rlt.length = (s.cluster cl).rlt.length + 1 ∧
      (neuronBanks (s.cluster cl) = [] → (u.cluster cl).enb.ct = 0 ∧ (u.cluster cl).enb.cl = -1) := by
  subst hu
  obtain ⟨henb, hrlt⟩ := enterNeuronMode_cluster (s := s) (cl := cl) (c := c) (v := v)
  rw [cluster_endEnb]
  refine ⟨?_, ?_, fun i hi => ?_, endEnb_falls enterNeuronMode_threads, fun a => ?_, ?_, fun hfirst => ?_⟩
  · simp [endedEnb, henb, queue_entered, hqueue]
  · rw [neuronMode_eq]
    show ctlNM (ctxOf ((s.enterNeuronMode cl c.ctx c v).cluster cl).enb c.ctx).ctl = true
    rw [henb, mode_entered hn, hon]
  · rw [neuronAt, endEnb_am, enterNeuronMode_am]
    refine leNat_zeros fun b hb => ?_
    obtain ⟨a, ha, rfl⟩ := List.mem_map.1 hb
    rw [memRead_zeroCells, if_pos (neuron_in_bank hi ha)]
  · rw [endEnb_mem, enterNeuronMode_mem, writeCells_mem, List.filter_eq_self.2, memRead_zeroCells]
    · rfl
    · intro e he
      obtain ⟨b, hb, rfl⟩ := List.mem_map.1 he
      have hlt := calendarBase_lt hruns c.ctx
      have hb := (mem_span.1 hb).2
      exact decide_eq_true (by omega)
  · have hkept : (((s.cluster cl).rlt ++ [calendarEntry c (calendarBase s cl c.ctx)]).filter
        fun e => !(e.engine == 2 && e.seq == c.seq && e.elem.isNone)) = (s.cluster cl).rlt ++ [calendarEntry c (calendarBase s cl c.ctx)] := by
      refine List.filter_eq_self.2 fun e he => ?_
      rcases List.mem_append.1 he with he | he
      · by_cases hnone : e.elem = none
        · have hne := hother e he hnone
          by_cases hengine : e.engine = 2
          · simp [hengine, show e.seq ≠ c.seq from fun hseq => hne ⟨hengine, hseq⟩]
          · simp [hengine]
        · simp [Option.isNone_eq_false_iff.2 (Option.isSome_iff_ne_none.2 hnone)]
      · obtain rfl := List.mem_singleton.1 he
        simp [calendarEntry]
    simp only [endedEnb, hrlt, hkept, List.length_append, List.length_singleton]
  · simp [endedEnb, henb, hfirst, enteredEnb, clockStarts]

/-! ### A bank leaves neuron mode (R343) -/

/-- The state a bank leaves: its records as `m` has them, the context's word set, and the calendar's entry freed. -/
def leftBank (s : State) (cl n : Nat) (v : Word) (m : Mem) : State :=
  (({ s with am := m }).putEnbCtx cl n fun x => { x with ctl := v }).modCluster cl fun x =>
    { x with rlt := x.rlt.filter fun e => !(e.engine == 2 && e.elem == some n) }

section

variable {m : Mem} {n : Nat}

theorem leftBank_mem : (leftBank s cl n v m).mem = s.mem := rfl

theorem leftBank_threads : (leftBank s cl n v m).threads = s.threads := rfl

theorem leftBank_cluster : (leftBank s cl n v m).cluster cl =
    { s.cluster cl with enb := withCtl (s.cluster cl).enb n v, rlt := (s.cluster cl).rlt.filter fun e => !(e.engine == 2 && e.elem == some n) } := by
  rw [leftBank, State.putEnbCtx, State.modEnb, modCluster_modCluster, cluster_modCluster, if_pos rfl]
  rfl

end

/-- Leaving is `leftBank` with the records undefined. -/
theorem leaveNeuronMode_eq {n : Nat} : ∃ m, s.leaveNeuronMode cl n v = leftBank s cl n v m := ⟨_, rfl⟩

theorem neuronMode_leaves (hqueue : (s.cluster cl).enb.queue = c :: rest) (hn : c.ctx < 16) (hoff : ctlNM v = false)
    (hu : u = (s.leaveNeuronMode cl c.ctx v).endEnb cl c) :
    (u.cluster cl).enb.queue = rest ∧ neuronMode (u.cluster cl) c.ctx = false ∧ u.mem = s.mem ∧ TlFalls s u c.keys ∧
      ∀ e ∈ (u.cluster cl).rlt, ¬(e.engine = 2 ∧ e.elem = some c.ctx) := by
  subst hu
  obtain ⟨m, hleft⟩ := leaveNeuronMode_eq (s := s) (cl := cl) (v := v) (n := c.ctx)
  rw [hleft, cluster_endEnb, leftBank_cluster]
  refine ⟨?_, ?_, endEnb_mem.trans leftBank_mem, endEnb_falls leftBank_threads, fun e he => ?_⟩
  · simp [endedEnb, withCtl, hqueue]
  · rw [neuronMode_eq]
    show ctlNM (ctxOf (withCtl (s.cluster cl).enb c.ctx v) c.ctx).ctl = false
    rw [ctxOf_withCtl hn, hoff]
  · rintro ⟨hengine, helem⟩
    have hkept := (List.mem_filter.1 (List.mem_of_mem_filter he)).2
    simp [hengine, helem] at hkept

/-! ### Reads of the banks (R359) -/

theorem enbResult_of_thread (hkeys : c.keys = [k]) (ht : s.thread k = some t) :
    s.enbResult c v = s.putThread k (unBusy (setW t c.dst v) [.w c.dst]) := by
  simp only [State.enbResult, hkeys, List.head?_cons, ht]

theorem endEnb_lone (hkeys : c.keys = [k]) : (s.endEnb cl c).thread k = (s.thread k).map fun t => { t with tl := t.tl - 1 } := lowerTl_lone hkeys

theorem endEnb_lone_other {j : Nat} (hkeys : c.keys = [k]) (hj : j ≠ k) : (s.endEnb cl c).thread j = s.thread j := lowerTl_lone_other hkeys hj

/-- A command whose one effect is a register of its lane. -/
theorem enbRead_effect (hqueue : (s.cluster cl).enb.queue = c :: rest) (hkeys : c.keys = [k]) (ht : s.thread k = some t)
    (hexec : exec (.enbCommandExecute cl) s = .next ((s.enbResult c v).endEnb cl c)) :
    ∃ u w, exec (.enbCommandExecute cl) s = .next u ∧ (u.cluster cl).enb.queue = rest ∧ u.thread k = some w ∧ w.tl = t.tl - 1 ∧
      w.pc = t.pc ∧ (∀ j, j ≠ k → u.thread j = s.thread j) ∧ u.mem = s.mem ∧ u.am = s.am ∧
      ∀ d : Reg, readW w d = if d ≠ 0 ∧ d = c.dst then v else readW t d := by
  rw [enbResult_of_thread hkeys ht] at hexec
  refine ⟨_, { unBusy (setW t c.dst v) [.w c.dst] with tl := t.tl - 1 }, hexec, ?_, ?_, rfl, setW_pc .., fun j hj => ?_, endEnb_mem, endEnb_am,
    readW_result t c.dst v⟩
  · rw [cluster_endEnb, cluster_putThread]
    simp [endedEnb, hqueue]
  · rw [endEnb_lone hkeys, thread_putThread, if_pos rfl]
    exact congrArg (fun n => some { unBusy (setW t c.dst v) [.w c.dst] with tl := n - 1 }) (setW_tl ..)
  · rw [endEnb_lone_other hkeys hj, thread_putThread, if_neg hj]

section

variable (hruns : clusterRuns s cl = true) (hqueue : (s.cluster cl).enb.queue = c :: rest) (hdone : issuerDone s c = true)
include hruns hqueue hdone

theorem exec_nrd (hfn : c.fn = 4) (hgood : badAm s (neuronKey cl c.ctx (bitsOf 0 11 (c.words.getD 0 0))) 16 = none) :
    exec (.enbCommandExecute cl) s =
      .next ((s.enbResult c (nrdValue s cl c.ctx (c.words.getD 1 0).toNat (c.words.getD 0 0))).endEnb cl c) := by
  have hguard : badAm s (neuronKey cl c.ctx (bitsOf 0 11 (c.words.getD 0 0))) (if (c.words.getD 1 0).toNat < 2 then 16 else 0) = none := by
    split
    next => exact hgood
    next => exact badAm_zero ..
  show execEnbCommandExecute cl s = _
  simp only [execEnbCommandExecute, hqueue, hruns, hdone, Bool.not_true, Bool.or_self, Bool.false_eq_true, if_false, hfn, guardAm_of_none hguard]

theorem exec_nspk (hfn : c.fn = 5) : exec (.enbCommandExecute cl) s =
    .next ((s.enbResult c (spikeWord (s.cluster cl) c.ctx (bitsOf 0 5 (c.words.getD 0 0)))).endEnb cl c) := by
  show execEnbCommandExecute cl s = _
  simp only [execEnbCommandExecute, hqueue, hruns, hdone, Bool.not_true, Bool.or_self, Bool.false_eq_true, if_false, hfn]

theorem exec_nld (hfn : c.fn = 1) : exec (.enbCommandExecute cl) s = .next (s.runNld cl c) := by
  show execEnbCommandExecute cl s = _
  simp only [execEnbCommandExecute, hqueue, hruns, hdone, Bool.not_true, Bool.or_self, Bool.false_eq_true, if_false, hfn]

end

/-! ### A load of neurons (R357) -/

section

variable {va lw : Word} {l : List (Word × Nat)}

/-- Loading neurons changes AM and its bad bytes alone. -/
theorem loadNeurons_field {α : Type} (F : State → α) (h : ∀ s key n v, F (State.putAm s key n v) = F s) (s : State) (cl n first : Nat)
    (bytes : List Byte) : F (s.loadNeurons cl n first bytes) = F s := foldl_field F (fun _ _ => h ..) _ _

theorem loadNeurons_am_congr (h : u.am = s.am) (cl n first : Nat) (bytes : List Byte) :
    (u.loadNeurons cl n first bytes).am = (s.loadNeurons cl n first bytes).am := by
  unfold State.loadNeurons
  generalize List.range (bytes.length / 16) = turns
  induction turns generalizing u s with
  | nil => exact h
  | cons i turns ih =>
    refine ih ?_
    show memWriteAll u.am _ = memWriteAll s.am _
    rw [h]

theorem runNld_granted {pieces : List (Nat × Nat)} {rlt : List RltEntry} (hva : c.words.getD 0 0 = va) (hlw : c.words.getD 1 0 = lw)
    (haligned : va.toNat % 16 = 0) (hmode : neuronMode (s.cluster cl) c.ctx = true) (hl : pagePieces va (16 * bitsOf 16 12 lw) = l)
    (hnew : ∀ e ∈ (s.cluster cl).rlt, e.elem = none → ¬(e.engine = 2 ∧ e.seq = c.seq)) (hlocate : s.locate cl 2 c .read l = .ok pieces)
    (hrlt : rltEntries 2 c false (lineRuns pieces) = rlt) (hne : rlt ≠ []) (hroom : rlt.length ≤ rltRoom (s.cluster cl)) :
    s.runNld cl c = s.modCluster cl fun x => { x with rlt := x.rlt ++ rlt } := by
  have hnone : ((s.cluster cl).rlt.any fun e => e.engine == 2 && e.seq == c.seq && e.elem.isNone) = false := by
    refine List.any_eq_false.2 fun e he hreg => ?_
    simp only [Bool.and_eq_true, beq_iff_eq, Option.isNone_iff_eq_none] at hreg
    exact hnew e he hreg.2 hreg.1
  simp only [State.runNld, hva, hlw, haligned, ne_eq, not_true_eq_false, if_false, hmode, Bool.not_true, Bool.false_eq_true, hl, hnone,
    Bool.not_false, if_true, hlocate, hrlt, rltTake, if_pos hroom]

theorem runNld_copies {addrs : List Nat} (hva : c.words.getD 0 0 = va) (hlw : c.words.getD 1 0 = lw)
    (haligned : va.toNat % 16 = 0) (hmode : neuronMode (s.cluster cl) c.ctx = true) (hl : pagePieces va (16 * bitsOf 16 12 lw) = l)
    (hgranted : ∃ e ∈ (s.cluster cl).rlt, e.elem = none ∧ e.engine = 2 ∧ e.seq = c.seq)
    (haddrs : s.agentAll cl (2, c.seq) c.asid c.sup .read l = .ok addrs) :
    s.runNld cl c = (((s.agentReads cl addrs).agentWalks cl c.asid c.sup .read l).loadNeurons cl c.ctx (bitsOf 0 11 lw)
      (addrs.map s.byteAt)).endEnb cl c := by
  have hany : ((s.cluster cl).rlt.any fun e => e.engine == 2 && e.seq == c.seq && e.elem.isNone) = true := by
    obtain ⟨e, he, hnone, hengine, hseq⟩ := hgranted
    exact List.any_eq_true.2 ⟨e, he, by simp [hnone, hengine, hseq]⟩
  simp only [State.runNld, hva, hlw, haligned, ne_eq, not_true_eq_false, if_false, hmode, Bool.not_true, Bool.false_eq_true, hl, hany,
    State.copyNeurons, haddrs]
  rfl

/-- What the copy leaves. -/
theorem copied_effect {addrs : List Nat} {bytes : List Byte} {first : Nat} (hkeys : c.keys = [k]) (ht : s.thread k = some t)
    (hu : u = (((s.agentReads cl addrs).agentWalks cl c.asid c.sup .read l).loadNeurons cl c.ctx first bytes).endEnb cl c) :
    u.thread k = some { t with tl := t.tl - 1 } ∧ (∀ j, j ≠ k → u.thread j = s.thread j) ∧ u.mem = s.mem ∧
      (∀ e ∈ (u.cluster cl).rlt, e.elem = none → ¬(e.engine = 2 ∧ e.seq = c.seq)) ∧ u.am = (s.loadNeurons cl c.ctx first bytes).am := by
  subst hu
  have hthread (j : Nat) : (((s.agentReads cl addrs).agentWalks cl c.asid c.sup .read l).loadNeurons cl c.ctx first bytes).thread j = s.thread j :=
    congrArg (mget · j) ((loadNeurons_field (·.threads) (fun _ _ _ _ => rfl) ..).trans (reads_threads ..))
  refine ⟨?_, fun j hj => ?_, ?_, fun e he => ?_, ?_⟩
  · rw [endEnb_lone hkeys, hthread, ht]
    rfl
  · rw [endEnb_lone_other hkeys hj, hthread]
  · rw [endEnb_mem, loadNeurons_field (·.mem) (fun _ _ _ _ => rfl), reads_mem]
  · rw [cluster_endEnb] at he
    exact rlt_endedEnb he
  · rw [endEnb_am, loadNeurons_am_congr (reads_field (·.am) farRequest_am ..)]

end

end Sys2Proof.Safety
end

section
/-! Neuron banks: events that arrive, the fan-out of a spike, and a neuron's step (R346 to R348, R351, R352, R358). -/

namespace Sys2Proof.Safety

open Machine Laws

variable {s u : State} {cl i n j tick : Nat} {w0 w1 : Word} {srcs : List Nat}

/-! ### Bytes of a calendar -/

/-- A calendar's words lie in CSM scratch, where a byte is what memory holds. -/
theorem byteAt_scratch {off : Nat} (hcl : cl < 384) (hoff : off < 0x200000) (s : State) :
    s.byteAt (scratchAddr cl off) = memRead s.mem (scratchAddr cl off) := by
  have hlow : ¬remoteBase ≤ scratchAddr cl off := by
    unfold scratchAddr windowBase remoteBase
    omega
  have hspot : spotOf (scratchAddr cl off) = some (.scratch cl off) := by
    have hwindow : ¬scratchAddr cl off < windowBase := by unfold scratchAddr; omega
    have hplace : scratchAddr cl off - windowBase = cl * 0x1000000 + off := by unfold scratchAddr; omega
    have hdiv : (cl * 0x1000000 + off) / 0x1000000 = cl := by omega
    have hmod : (cl * 0x1000000 + off) % 0x1000000 = off := by omega
    have hdevice : ¬cl ≥ Config.clusters := Nat.not_le.2 hcl
    unfold spotOf
    simp only [if_neg hwindow, hplace, hdiv, hmod, if_neg hdevice, if_pos hoff]
  unfold State.byteAt
  rw [if_neg hlow, hspot]

/-- Byte j of a calendar's word. -/
theorem calendarKey_add (s : State) (cl n b i j : Nat) :
    calendarKey s cl n b i + j = scratchAddr cl (calBank (enbCtx s cl n) * 0x20000 + b * 8192 + 4 * i + j) := by
  unfold calendarKey scratchAddr
  omega

/-- A calendar's word is what memory holds. -/
theorem numAt_calendar {b : Nat} (hcl : cl < 384) (hb : b < 16) (hi : i < 2048) (u s : State) :
    u.numAt (span (calendarKey s cl n b i) 4) = leNat (memBytes u.mem (span (calendarKey s cl n b i) 4)) := by
  refine congrArg leNat (List.map_congr_left fun a ha => ?_)
  obtain ⟨m, hm, rfl⟩ := List.mem_map.1 ha
  have hm := List.mem_range.1 hm
  have hbank := calBank_lt (enbCtx s cl n)
  rw [calendarKey_add]
  exact byteAt_scratch hcl (by omega) u

/-- A calendar's bucket holds the words of its neurons. -/
theorem calendar_in_bucket {b a : Nat} (hi : i < 2048) (ha : a ∈ span (calendarKey s cl n b i) 4) : a ∈ span (calendarKey s cl n b 0) 8192 := by
  have hword : calendarKey s cl n b i = calendarKey s cl n b 0 + 4 * i := by
    unfold calendarKey scratchAddr
    omega
  rw [hword] at ha
  obtain ⟨hle, hlt⟩ := mem_span.1 ha
  exact mem_span.2 ⟨by omega, by omega⟩

/-! ### An event's arrival (R346) -/

/-- The cluster's count of what it has received for a tick. -/
def counted (s : State) (cl tick : Nat) : State := s.modEnb cl fun e => { e with recv := bump e.recv tick }

/-- The reason for which a bank refuses an event, in the order of Table 11.5. -/
def RefusedFor (s : State) (cl n j tick reason : Nat) : Prop :=
  (reason = 1 ∧ neuronMode (s.cluster cl) n = false) ∨
    neuronMode (s.cluster cl) n = true ∧ ((reason = 2 ∧ recEN (neuronAt s cl n j) = false) ∨
      recEN (neuronAt s cl n j) = true ∧ ((reason = 3 ∧ (tick : Int) < (s.cluster cl).enb.ct) ∨ (reason = 4 ∧ (s.cluster cl).enb.ct + 15 < tick)))

/-- What an arrival does but for the threads that sent it. -/
theorem exec_neuronEventArrival (hflight : s.flights[i]? = some (.event w0 w1 srcs)) (hcl : evCLU w0 = cl) (harrives : arrives s cl i = true)
    (hgood : badAm s (neuronKey cl (evBANK w0) (evNEUR w0)) 16 = none) :
    exec (.neuronEventArrival i) s = .next (eachThread (fun t => { t with tl := t.tl - 1 }) srcs ((arrived s i).placeEvent w0 w1)) := by
  subst hcl
  have hguard : badAm s (neuronKey (evCLU w0) (evBANK w0) (evNEUR w0)) (if neuronMode (s.cluster (evCLU w0)) (evBANK w0) then 16 else 0) = none := by
    split
    next => exact hgood
    next => exact badAm_zero ..
  show execNeuronEventArrival i s = _
  simp only [execNeuronEventArrival, hflight, harrives, Bool.not_true, Bool.false_eq_true, if_false]
  exact congrArg _ (guardAm_of_none hguard)

/-- An addition into a calendar leaves what memory and containment leave. -/
theorem addCalendar_field {α : Type} (F : State → α) (hrecord : ∀ s cl r, F (State.sendRecord s cl r) = F s)
    (hmem : ∀ s cells, F (State.writeCells s cells) = F s) (hpart : ∀ s p f, F (State.modPart s p f) = F s) (s : State) (cl n b i : Nat) (z : Int) :
    F (s.addCalendar cl n b i z) = F s := by
  unfold State.addCalendar State.guardKeys
  dsimp only
  split
  · exact contain_field F (fun s p f _ => hpart s p f) hrecord ..
  · exact hmem ..

/-- Placing an event leaves what counts, records, AM, memory and containment leave. -/
theorem placeEvent_field {α : Type} (F : State → α) (hcluster : ∀ s cl f, F (State.modCluster s cl f) = F s)
    (hrecord : ∀ s cl r, F (State.sendRecord s cl r) = F s) (ham : ∀ s key n v, F (State.putAm s key n v) = F s)
    (hmem : ∀ s cells, F (State.writeCells s cells) = F s) (hpart : ∀ s p f, F (State.modPart s p f) = F s) (s : State) :
    F (s.placeEvent w0 w1) = F s := by
  have hcount : F (counted s (evCLU w0) (bitsOf 0 32 w1)) = F s := by
    rw [counted, State.modEnb, hcluster]
  unfold State.placeEvent
  dsimp only
  split
  · exact (hrecord ..).trans hcount
  · split
    · exact (hrecord ..).trans hcount
    · split
      · exact (hrecord ..).trans hcount
      · split
        · exact (hrecord ..).trans hcount
        · split
          · exact (ham ..).trans hcount
          · exact (addCalendar_field F hrecord hmem hpart ..).trans hcount

theorem modPart_flights (s : State) (p : Nat) (f : Partition → Partition) : (s.modPart p f).flights = s.flights :=
  modPart_field (·.flights) (fun _ _ => rfl) ..

theorem placeEvent_threads : (s.placeEvent w0 w1).threads = s.threads :=
  placeEvent_field (·.threads) (fun _ _ _ => rfl) (fun _ _ _ => rfl) (fun _ _ _ _ => rfl) (fun _ _ => rfl) (fun _ p f => modPart_threads p f) s

theorem placeEvent_flights : (s.placeEvent w0 w1).flights = s.flights :=
  placeEvent_field (·.flights) (fun _ _ _ => rfl) (fun _ _ _ => rfl) (fun _ _ _ _ => rfl) (fun _ _ => rfl) modPart_flights s

section

variable (hcl : evCLU w0 = cl) (hn : evBANK w0 = n) (hj : evNEUR w0 = j) (htick : bitsOf 0 32 w1 = tick)
include hcl hn hj htick

/-- An event its bank refuses is counted and recorded with its reason (Table 11.5). -/
theorem placeEvent_refused {reason : Nat} (hreason : RefusedFor s cl n j tick reason) :
    s.placeEvent w0 w1 = (counted s cl tick).sendRecord cl (neuronRecord s cl reason w0 w1) := by
  rcases hreason with ⟨rfl, hoff⟩ | ⟨hon, ⟨rfl, hoff⟩ | ⟨hen, ⟨rfl, hlate⟩ | ⟨rfl, hearly⟩⟩⟩
  · simp only [State.placeEvent, hcl, hn, hj, htick, hoff, Bool.not_false, if_true]
    rfl
  · simp only [State.placeEvent, hcl, hn, hj, htick, hon, hoff, Bool.not_true, Bool.not_false, Bool.false_eq_true, if_false, if_true]
    rfl
  · simp only [State.placeEvent, hcl, hn, hj, htick, hon, hen, Bool.not_true, Bool.false_eq_true, if_false, if_pos hlate]
    rfl
  · have hlate : ¬(tick : Int) < (s.cluster cl).enb.ct := by omega
    simp only [State.placeEvent, hcl, hn, hj, htick, hon, hen, Bool.not_true, Bool.false_eq_true, if_false, if_neg hlate, if_pos hearly]
    rfl

variable (hon : neuronMode (s.cluster cl) n = true) (hen : recEN (neuronAt s cl n j) = true)
include hon hen

theorem placeEvent_now (hnow : (tick : Int) = (s.cluster cl).enb.ct) : s.placeEvent w0 w1 = (counted s cl tick).putAm (neuronKey cl n j + 4) 4
    (mod32 (leNat (memBytes s.am (span (neuronKey cl n j + 4) 4)) + evInput w0)) := by
  have hlate : ¬(tick : Int) < (s.cluster cl).enb.ct := by omega
  have hearly : ¬(s.cluster cl).enb.ct + 15 < tick := by omega
  simp only [State.placeEvent, hcl, hn, hj, htick, hon, hen, Bool.not_true, Bool.false_eq_true, if_false, if_neg hlate, if_neg hearly, if_pos hnow]
  rfl

theorem placeEvent_later (hafter : (s.cluster cl).enb.ct < tick) (hwithin : (tick : Int) ≤ (s.cluster cl).enb.ct + 15) :
    s.placeEvent w0 w1 = (counted s cl tick).addCalendar cl n (tick % 16) j (evInput w0) := by
  have hlate : ¬(tick : Int) < (s.cluster cl).enb.ct := by omega
  have hearly : ¬(s.cluster cl).enb.ct + 15 < tick := by omega
  have hnow : ¬(tick : Int) = (s.cluster cl).enb.ct := by omega
  simp only [State.placeEvent, hcl, hn, hj, htick, hon, hen, Bool.not_true, Bool.false_eq_true, if_false, if_neg hlate, if_neg hearly, if_neg hnow]
  rfl

end

theorem writeNum_mem_congr (h : u.mem = s.mem) (addrs : List Nat) (v : Nat) : (u.writeNum addrs v).mem = (s.writeNum addrs v).mem :=
  writeCells_mem_congr h _

theorem writeNum_am (addrs : List Nat) (v : Nat) : (s.writeNum addrs v).am = s.am := rfl

/-- Adding into a calendar needs its context, its bytes and what is bad alone. -/
theorem addCalendar_congr {z : Int} (hcl : cl < 384) (hj : j < 2048) (hctx : (u.cluster cl).enb.ctx = (s.cluster cl).enb.ctx) (hmem : u.mem = s.mem)
    (hbad : u.bad = s.bad) (hgood : badAmong s (span (calendarKey s cl n (tick % 16) j) 4) = none) :
    (u.addCalendar cl n (tick % 16) j z).mem = (s.addCalendar cl n (tick % 16) j z).mem ∧ (u.addCalendar cl n (tick % 16) j z).am = u.am := by
  have hkey := calendarKey_congr hctx n (tick % 16) j
  have hgood' : badAmong u (span (calendarKey s cl n (tick % 16) j) 4) = none := by
    unfold badAmong
    rw [hbad]
    exact hgood
  have hnum := numAt_calendar (i := j) hcl (Nat.mod_lt tick (by decide)) hj (n := n)
  simp only [State.addCalendar, hkey, guardKeys_of_none hgood, guardKeys_of_none hgood', hnum, hmem]
  exact ⟨writeNum_mem_congr hmem .., writeNum_am ..⟩

/-! ### The fan-out of a spike (R352) -/

section

variable {x : EnbCtx} {fuel : Nat} {va : Word}

theorem eventInside_congr (h : u.parts = s.parts) (cl dst : Nat) : eventInside u cl dst = eventInside s cl dst := by
  unfold eventInside State.partOf
  rw [h]

theorem neuronRecord_congr (hparts : u.parts = s.parts) (hct : (u.cluster cl).enb.ct = (s.cluster cl).enb.ct) (reason : Nat) (w1 w2 : Word) :
    neuronRecord u cl reason w1 w2 = neuronRecord s cl reason w1 w2 := by
  unfold neuronRecord State.partNo State.partOf
  rw [hparts, hct]

theorem emit_fault (hread : fanRead s cl x va = .fault) : s.emit cl x tick fuel va = some (s.sendRecord cl (neuronRecord s cl 7 va 0)) := by
  unfold State.emit
  rw [hread]

theorem sends_parts (core : Nat) (f : Flight) : (sends s core f).parts = s.parts := rfl

theorem sends_cluster (core : Nat) (f : Flight) (j : Nat) : (sends s core f).cluster j = s.cluster j := rfl

theorem modEnb_parts (f : Enb → Enb) : (s.modEnb cl f).parts = s.parts := rfl

/-- The state once a fan-out's entry has been read and its event has gone out. -/
def emitted (s : State) (cl : Nat) (x : EnbCtx) (tick : Nat) (va w : Word) (keys : List Nat) : State :=
  sends (((s.agentReads cl keys).agentWalks cl x.asid x.sup .read [(va, 8)]).modEnb cl fun e => { e with sent := bump e.sent tick }) (cl * 20)
    (.event (w &&& 0x7FFFFFFFFFFFFFFF#64) (word (tick % 2 ^ 32)) [])

section

variable {w : Word} {keys : List Nat} (hread : fanRead s cl x va = .word w keys) (hreserved : bitsOf 40 23 w = 0)
  (hinside : eventInside s cl (evCLU w) = true)
include hread hreserved hinside

/-- An entry that is no error sends its event; the last one ends the fan-out, and so does the lack of fuel, with a record. -/
theorem emit_event : s.emit cl x tick fuel va =
    if natBit 63 w.toNat then some (emitted s cl x tick va w keys)
    else match fuel with
      | 0 => some ((emitted s cl x tick va w keys).sendRecord cl (neuronRecord (emitted s cl x tick va w keys) cl 5 va 0))
      | m + 1 => (emitted s cl x tick va w keys).emit cl x tick m (va + 8) := by
  have hinside' : eventInside ((s.agentReads cl keys).agentWalks cl x.asid x.sup .read [(va, 8)]) cl (evCLU w) = true :=
    (eventInside_congr (reads_parts ..) cl (evCLU w)).trans hinside
  have hmask : ~~~maskOf 63 1 = 0x7FFFFFFFFFFFFFFF#64 := by decide
  have hrecord : neuronRecord (emitted s cl x tick va w keys) cl 5 va 0 =
      neuronRecord ((s.agentReads cl keys).agentWalks cl x.asid x.sup .read [(va, 8)]) cl 5 va 0 :=
    neuronRecord_congr (by rw [emitted, sends_parts, modEnb_parts]) (by rw [emitted, sends_cluster, enb_modEnb]) 5 va 0
  rw [State.emit.eq_def, hrecord]
  dsimp only
  rw [hread]
  cases fuel <;>
    simp only [hreserved, hinside', hmask, ne_eq, not_true_eq_false, decide_false, Bool.not_true, Bool.or_self, Bool.false_eq_true, if_false] <;> rfl

end

end

/-! ### A neuron that fires (R351) -/

theorem stepNeuron_fires {t : Nat} {x : EnbCtx} {r : Nat} (hx : enbCtx s cl n = x) (hr : neuronAt s cl n i = r) (hactive : neuronActive x r = true)
    (hfires : (neuronStep x t r).2 = true) (hfan : natField 96 32 r ≠ 0xFFFFFFFF) :
    s.stepNeuron cl t n i = ((s.putAm (neuronKey cl n i) 16 (neuronStep x t r).1).modEnb cl fun e =>
      { e with spikes := mset e.spikes n (((mget e.spikes n).getD []) ++ [i]) }).emit cl x (t + bitsOf 4 4 x.ctl) 4095
        (x.fob + word (8 * natField 96 32 r)) := by
  unfold State.stepNeuron
  rw [hx, hr]
  dsimp only
  rw [hactive, hfires, Bool.not_true, if_neg Bool.false_ne_true, if_neg Bool.false_ne_true, if_neg hfan]

theorem stepNeuron_idle {t : Nat} (hidle : neuronActive (enbCtx s cl n) (neuronAt s cl n i) = false) : s.stepNeuron cl t n i = some s := by
  simp only [State.stepNeuron, hidle, Bool.not_false, if_true]

/-! ### The fields of a record after a step (R351) -/

theorem mod32_lt (z : Int) : mod32 z < 2 ^ 32 := by
  unfold mod32
  omega

theorem mod32_signed32 {m : Nat} (h : m < 2 ^ 32) : mod32 (signed32 m) = m := by
  unfold mod32 signed32
  split <;> omega

/-- The fields of a record put together are its fields. -/
theorem record_fields {v last refr flags fan : Nat} (hv : v < 2 ^ 32) (hlast : last < 2 ^ 16) (hrefr : refr < 2 ^ 8) (hflags : flags < 2 ^ 8) :
    (v + last * 2 ^ 64 + refr * 2 ^ 80 + flags * 2 ^ 88 + fan * 2 ^ 96) % 2 ^ 32 = v ∧
      (v + last * 2 ^ 64 + refr * 2 ^ 80 + flags * 2 ^ 88 + fan * 2 ^ 96) / 2 ^ 32 % 2 ^ 32 = 0 ∧
      (v + last * 2 ^ 64 + refr * 2 ^ 80 + flags * 2 ^ 88 + fan * 2 ^ 96) / 2 ^ 96 = fan ∧
      (v + last * 2 ^ 64 + refr * 2 ^ 80 + flags * 2 ^ 88 + fan * 2 ^ 96) / 2 ^ 80 % 256 = refr := by
  norm_num at *
  omega

section

variable {x : EnbCtx} {r : Nat} {v1 : Int}
  (hv : v1 = max (-(2 ^ 31)) (min (2 ^ 31 - 1) (ctlREST x.ctl +
    ((signed32 r - ctlREST x.ctl) * bitsOf 16 16 x.ctl + 0x8000) / 2 ^ 16 + signed32 (r / 2 ^ 32))))
include hv

theorem neuronStep_fires : (neuronStep x tick r).2 = (decide (levTHR x.lev ≤ v1) && r / 2 ^ 80 % 256 == 0) := by
  rw [hv]
  rfl

/-- A record after a step, by its fields. -/
theorem neuronStep_record : ∃ last flags, last < 2 ^ 16 ∧ flags < 2 ^ 8 ∧ (neuronStep x tick r).1 =
    (if (neuronStep x tick r).2 then bitsOf 32 32 x.lev else mod32 v1) + last * 2 ^ 64 +
      (if (neuronStep x tick r).2 then bitsOf 8 8 x.ctl else r / 2 ^ 80 % 256 - 1) * 2 ^ 80 + flags * 2 ^ 88 + r / 2 ^ 96 * 2 ^ 96 := by
  have hvalue : mod32 (if (neuronStep x tick r).2 then signed32 (bitsOf 32 32 x.lev) else v1) =
      if (neuronStep x tick r).2 then bitsOf 32 32 x.lev else mod32 v1 := by
    split
    · exact mod32_signed32 (Nat.mod_lt _ (by decide))
    · rfl
  rw [← hvalue, hv]
  refine ⟨if (neuronStep x tick r).2 then tick % 2 ^ 16 else natField 64 16 r, _, ?_,
    Nat.or_lt_two_pow (Nat.mod_lt _ (by decide)) (by split <;> decide), rfl⟩
  split <;> exact Nat.mod_lt _ (by decide)

theorem neuronStep_fields :
    ((neuronStep x tick r).2 = true ↔ levTHR x.lev ≤ v1 ∧ r / 2 ^ 80 % 256 = 0) ∧
      (neuronStep x tick r).1 % 2 ^ 32 = (if (neuronStep x tick r).2 then bitsOf 32 32 x.lev else mod32 v1) ∧
      (neuronStep x tick r).1 / 2 ^ 32 % 2 ^ 32 = 0 ∧ (neuronStep x tick r).1 / 2 ^ 96 = r / 2 ^ 96 ∧
      (neuronStep x tick r).1 / 2 ^ 80 % 256 = (if (neuronStep x tick r).2 then bitsOf 8 8 x.ctl else r / 2 ^ 80 % 256 - 1) := by
  refine ⟨by simp [neuronStep_fires hv], ?_⟩
  obtain ⟨last, flags, hlast, hflags, hrecord⟩ := neuronStep_record (tick := tick) hv
  rw [hrecord]
  refine record_fields ?_ hlast ?_ hflags
  · split
    · exact Nat.mod_lt _ (by decide)
    · exact mod32_lt v1
  · split
    · exact Nat.mod_lt _ (by decide)
    · have := Nat.mod_lt (r / 2 ^ 80) (show 256 > 0 by decide)
      omega

end

end Sys2Proof.Safety
end

section
/-! Neuron banks: the ticks, and the statement of their events (R343, R346 to R352, R356 to R359). -/

namespace Sys2Proof.Safety

open Machine Laws

variable {s u : State} {cl k n i p g tick : Nat} {x : Machine.Partition} {e : Group}

/-- A partition with an entry of its group table replaced. -/
def withGroup (g : Nat) (e : Group) (x : Machine.Partition) : Machine.Partition := { x with groups := mset x.groups g e }

theorem mget_withGroup : mget (withGroup g e x).groups g = some e := (mget_mset ..).trans (if_pos rfl)

theorem part_modGroup (hx : s.part p = some x) : (s.modPart p (withGroup g e)).part p = some (withGroup g e x) :=
  (part_modPart ..).trans ((if_pos rfl).trans (congrArg _ hx))

/-! ### An arrival at the home (R349) -/

section

variable {ks : List Nat} {sent recv : Nat}

theorem ntickArrival_effect (hkey : keyCl k = cl) (hk : k ∈ ks) (hflights : s.flights = [.tick ks p g tick sent recv]) (hx : s.part p = some x)
    (he : mget x.groups g = some e) (hhome : clusterRuns s ((leastBy id (e.members.map (·.1))).getD 0) = true)
    (htick : e.tick = none ∨ e.tick = some tick) :
    ∃ u y, exec (.ntickArrival k) s = .next u ∧ u.flights = [] ∧ u.part p = some y ∧ (u.cluster cl).enb.cl = tick ∧ u.threads = s.threads ∧
      mget y.groups g = some { e with tick := some tick, tickCores := e.tickCores ++ [(cl, keyCore k)] } := by
  subst hkey
  have hcontains : ks.contains k = true := List.contains_iff_mem.2 hk
  have hsame : e.tick.any (· != tick) = false := by rcases htick with h | h <;> simp [h]
  have hexec : exec (.ntickArrival k) s = .next ((({ s with flights := [] }).modPart p (withGroup g { e with
      tick := some tick, tickCores := e.tickCores ++ [(keyCl k, keyCore k)] })).modEnb (keyCl k) fun e => { e with cl := tick }) := by
    show execNtickArrival k s = _
    simp only [execNtickArrival, hflights, List.find?_cons, hcontains, List.erase_cons_head, hx, Option.bind_some, he, hhome, Bool.not_true,
      Bool.false_eq_true, if_false, hsame]
    rfl
  exact ⟨_, _, hexec, modPart_flights .., part_modGroup hx, by rw [enb_modEnb], modPart_threads .., mget_withGroup⟩

end

/-! ### The gathering of the counts (R350) -/

/-- The step of a tick signalled to a cluster. -/
def signalStep (tick : Nat) (s : State) (cl : Nat) : State := s.modEnb cl fun b =>
  { b with due := b.due ++ [tick], sent := b.sent.setIfInBounds (tick % 16) 0, recv := b.recv.setIfInBounds (tick % 16) 0 }

theorem signalStep_due (j : Nat) : ((signalStep tick s cl).cluster j).enb.due =
    if j = cl then (s.cluster j).enb.due ++ [tick] else (s.cluster j).enb.due := by
  rw [signalStep, State.modEnb, cluster_modCluster]
  split
  next hj => rw [hj]
  next => rfl

theorem signalSteps_other {l : List Nat} {j : Nat} (hj : j ∉ l) : ((l.foldl (signalStep tick) s).cluster j).enb.due = (s.cluster j).enb.due :=
  foldl_field_of_mem (fun u => (u.cluster j).enb.due) l (fun m hm _ => (signalStep_due j).trans (if_neg fun (h : j = m) => hj (h ▸ hm))) s

theorem signalSteps_due {l : List Nat} (hn : l.Nodup) {j : Nat} (hj : j ∈ l) :
    ((l.foldl (signalStep tick) s).cluster j).enb.due = (s.cluster j).enb.due ++ [tick] := by
  induction l generalizing s with
  | nil => exact absurd hj List.not_mem_nil
  | cons m l ih =>
    obtain ⟨hm, hn⟩ := List.nodup_cons.1 hn
    rcases List.mem_cons.1 hj with rfl | hj
    · exact (signalSteps_other hm).trans ((signalStep_due j).trans (if_pos rfl))
    · exact (ih hn hj).trans (congrArg (· ++ [tick]) ((signalStep_due j).trans (if_neg fun (h : j = m) => hm (h ▸ hj))))

theorem tickRecvGather_effect (hx : s.part p = some x) (he : mget x.groups g = some e) (htick : e.tick = some tick) (hcores : e.tickCores ≠ [])
    (hhome : clusterRuns s ((leastBy id (e.members.map (·.1))).getD 0) = true) (hlive : ((liveCores s p e).all e.tickCores.contains) = true)
    (hsums : (tickSums s e tick).1 = (tickSums s e tick).2) :
    ∃ u y, exec (.tickRecvGather p g) s = .next u ∧ u.part p = some y ∧ u.threads = s.threads ∧ u.mem = s.mem ∧
      mget y.groups g = some { e with tick := some (tick + 1), tickCores := [] } ∧
      ∀ c ∈ memberClusters e, (u.cluster c).enb.due = (s.cluster c).enb.due ++ [tick] := by
  have hexec : exec (.tickRecvGather p g) s = .next ((memberClusters e).foldl (signalStep tick)
      (s.modPart p (withGroup g { e with tick := some (tick + 1), tickCores := [] }))) := by
    have hgo : ¬(!clusterRuns s ((leastBy id (e.members.map (·.1))).getD 0) || e.tickCores.isEmpty || !(liveCores s p e).all e.tickCores.contains ||
        decide ((tickSums s e tick).1 ≠ (tickSums s e tick).2)) = true := by
      simp [hhome, hcores, hlive, hsums]
    show execTickRecvGather p g s = _
    simp only [execTickRecvGather, hx, Option.bind_some, he, htick]
    exact if_neg hgo
  refine ⟨_, _, hexec, (part_congr (foldl_field (·.parts) (f := signalStep tick) (fun _ _ => rfl) ..) p).trans (part_modGroup hx),
    (foldl_field (·.threads) (f := signalStep tick) (fun _ _ => rfl) ..).trans (modPart_threads ..),
    (foldl_field (·.mem) (f := signalStep tick) (fun _ _ => rfl) ..).trans (modPart_mem ..), mget_withGroup, fun c hc => ?_⟩
  have hn : (memberClusters e).Nodup := nodup_dedup _
  rw [signalSteps_due hn hc, cluster_modPart]

/-! ### The clock's step (R351, R347) -/

theorem modEnb_am {f : Enb → Enb} : (s.modEnb cl f).am = s.am := rfl

/-- A step of neurons none of which is active changes nothing. -/
theorem stepAll_idle (l : List (Nat × Nat)) (h : ∀ e ∈ l, neuronActive (enbCtx s cl e.1) (neuronAt s cl e.1 e.2) = false) :
    l.foldl (fun (o : Option State) x => o.bind fun s => s.stepNeuron cl tick x.1 x.2) (some s) = some s := by
  induction l with
  | nil => rfl
  | cons e l ih =>
    obtain ⟨he, hl⟩ := List.forall_mem_cons.1 h
    rw [List.foldl_cons, Option.bind_some, stepNeuron_idle he]
    exact ih hl

/-- Guards that find nothing bad let the step go on. -/
theorem guards_of_none {b : Nat} (f : State) (l : List Nat) (h : ∀ n ∈ l, badAm s (neuronKey cl n 0) 32768 = none ∧
      badAmong s (span (calendarKey s cl n b 0) 8192) = none) :
    l.foldr (fun n f => s.guardAm cl (neuronKey cl n 0) 32768 (s.guardKeys cl (span (calendarKey s cl n b 0) 8192) f)) f = f := by
  induction l with
  | nil => rfl
  | cons n l ih =>
    obtain ⟨⟨ham, hkeys⟩, hl⟩ := List.forall_mem_cons.1 h
    rw [List.foldr_cons, ih hl, guardAm_of_none ham, guardKeys_of_none hkeys]

/-- One neuron's word of a bucket added into its sum. -/
def foldWord (cl n b : Nat) (s : State) (i : Nat) : State :=
  let addrs := span (calendarKey s cl n b i) 4
  let v := s.numAt addrs
  if v = 0 then s
  else
    let key := neuronKey cl n i + 4
    (s.putAm key 4 (mod32 (leNat (memBytes s.am (span key 4)) + v))).writeNum addrs 0

theorem foldCalendar_eq (s : State) (cl n b : Nat) : s.foldCalendar cl n b = (List.range 2048).foldl (foldWord cl n b) s := rfl

section

variable {key m v w : Nat} {addrs : List Nat}

theorem addedWord_enb : (((s.putAm key m v).writeNum addrs w).cluster cl).enb = (s.cluster cl).enb :=
  writeCells_cluster (·.enb) (fun _ _ => rfl) ..

theorem addedWord_threads : ((s.putAm key m v).writeNum addrs w).threads = s.threads := rfl

theorem addedWord_mem {a : Nat} (ha : a ∉ addrs) : memRead ((s.putAm key m v).writeNum addrs w).mem a = memRead s.mem a :=
  memRead_writeNum_other (s.putAm key m v) w ha

end

/-- What adding words into AM leaves, a turn leaves. -/
theorem foldWord_cases {P : State → Prop} {b : Nat} (hsame : P s)
    (hadd : ∀ key m v w, P ((s.putAm key m v).writeNum (span (calendarKey s cl n b i) 4) w)) : P (foldWord cl n b s i) := by
  unfold foldWord
  dsimp only
  split
  · exact hsame
  · exact hadd ..

theorem foldWord_enb (b : Nat) : ((foldWord cl n b s i).cluster cl).enb = (s.cluster cl).enb :=
  foldWord_cases (P := fun u => (u.cluster cl).enb = (s.cluster cl).enb) rfl fun _ _ _ _ => addedWord_enb

theorem foldWord_threads (b : Nat) : (foldWord cl n b s i).threads = s.threads :=
  foldWord_cases (P := fun u => u.threads = s.threads) rfl fun _ _ _ _ => addedWord_threads

/-- Outside its bucket a fold writes no memory. -/
theorem foldWord_mem {b a : Nat} (hi : i < 2048) (ha : a ∉ span (calendarKey s cl n b 0) 8192) :
    memRead (foldWord cl n b s i).mem a = memRead s.mem a :=
  foldWord_cases (P := fun u => memRead u.mem a = memRead s.mem a) rfl fun _ _ _ _ => addedWord_mem fun hword => ha (calendar_in_bucket hi hword)

/-- What each turn leaves, the fold of a bucket leaves. -/
theorem foldCalendar_field {α : Type} (F : State → α) (b : Nat) (h : ∀ u i, F (foldWord cl n b u i) = F u) (s : State) :
    F (s.foldCalendar cl n b) = F s := by
  rw [foldCalendar_eq]
  exact foldl_field F h ..

theorem foldCalendar_enb (b : Nat) (s : State) : ((s.foldCalendar cl n b).cluster cl).enb = (s.cluster cl).enb :=
  foldCalendar_field (fun u => (u.cluster cl).enb) b (fun _ _ => foldWord_enb b) s

theorem foldCalendar_threads (b : Nat) (s : State) : (s.foldCalendar cl n b).threads = s.threads :=
  foldCalendar_field (·.threads) b (fun _ _ => foldWord_threads b) s

/-- A fold of buckets leaves the banks' registers. -/
theorem foldCalendars_enb (l : List Nat) (b : Nat) (s : State) : ((l.foldl (fun s n => s.foldCalendar cl n b) s).cluster cl).enb = (s.cluster cl).enb :=
  foldl_field (fun u => (u.cluster cl).enb) (f := fun s n => s.foldCalendar cl n b) (fun u _ => foldCalendar_enb b u) l s

theorem foldCalendars_threads (l : List Nat) (b : Nat) (s : State) : (l.foldl (fun s n => s.foldCalendar cl n b) s).threads = s.threads := by
  induction l generalizing s with
  | nil => rfl
  | cons n l ih => rw [List.foldl_cons, ih, foldCalendar_threads]

theorem foldWords_mem {b a : Nat} (ha : a ∉ span (calendarKey s cl n b 0) 8192) (l : List Nat) (hl : ∀ i ∈ l, i < 2048)
    (hu : (u.cluster cl).enb = (s.cluster cl).enb) : memRead (l.foldl (foldWord cl n b) u).mem a = memRead u.mem a := by
  induction l generalizing u with
  | nil => rfl
  | cons i l ih =>
    obtain ⟨hi, hl⟩ := List.forall_mem_cons.1 hl
    have hkey : calendarKey u cl n b 0 = calendarKey s cl n b 0 := calendarKey_congr (congrArg Enb.ctx hu) n b 0
    have hfold := ih hl ((foldWord_enb (n := n) (i := i) b).trans hu)
    rw [← hkey] at ha
    exact hfold.trans (foldWord_mem hi ha)

theorem foldCalendar_mem {b a : Nat} (ha : a ∉ span (calendarKey s cl n b 0) 8192) : memRead (s.foldCalendar cl n b).mem a = memRead s.mem a := by
  rw [foldCalendar_eq]
  exact foldWords_mem ha (List.range 2048) (fun i (hi : i ∈ List.range 2048) => List.mem_range.1 hi) rfl

theorem foldCalendars_mem {b a : Nat} (l : List Nat) (ha : ∀ n ∈ l, a ∉ span (calendarKey s cl n b 0) 8192)
    (hu : (u.cluster cl).enb.ctx = (s.cluster cl).enb.ctx) :
    memRead (l.foldl (fun s n => s.foldCalendar cl n b) u).mem a = memRead u.mem a := by
  induction l generalizing u with
  | nil => rfl
  | cons n l ih =>
    obtain ⟨hn, hl⟩ := List.forall_mem_cons.1 ha
    have hfold := ih hl ((congrArg Enb.ctx (foldCalendar_enb (n := n) b u)).trans hu)
    rw [← calendarKey_congr hu n b 0] at hn
    rw [List.foldl_cons, hfold, foldCalendar_mem hn]

theorem tickStep_idle {rest : List Nat} (hruns : clusterRuns s cl = true) (hdue : (s.cluster cl).enb.due = tick :: rest)
    (hgood : ∀ n ∈ neuronBanks (s.cluster cl), badAm s (neuronKey cl n 0) 32768 = none ∧
      badAmong s (span (calendarKey s cl n ((tick + 1) % 16) 0) 8192) = none)
    (hidle : ∀ n ∈ neuronBanks (s.cluster cl), ∀ i, i < 2048 → neuronActive (enbCtx s cl n) (neuronAt s cl n i) = false) :
    exec (.tickStep cl) s = .next ((neuronBanks (s.cluster cl)).foldl (fun s n => s.foldCalendar cl n ((tick + 1) % 16))
      (s.modEnb cl fun e => { e with due := rest, spikes := [], ct := tick + 1 })) := by
  have hstepped : ((neuronBanks (s.cluster cl)).flatMap fun n => (List.range 2048).map fun i => (n, i)).foldl
      (fun (o : Option State) x => o.bind fun s => s.stepNeuron cl tick x.1 x.2) (some (s.modEnb cl fun e => { e with due := rest, spikes := [] })) =
      some (s.modEnb cl fun e => { e with due := rest, spikes := [] }) := by
    refine stepAll_idle _ fun e he => ?_
    obtain ⟨n, hn, he⟩ := List.mem_flatMap.1 he
    obtain ⟨i, hi, rfl⟩ := List.mem_map.1 he
    rw [enbCtx_congr (s := s) (by rw [enb_modEnb]), neuronAt_congr (s := s) modEnb_am]
    exact hidle n hn i (List.mem_range.1 hi)
  have hclock : ((s.modEnb cl fun e => { e with due := rest, spikes := [] }).modEnb cl fun e => { e with ct := (tick + 1 : Nat) }) =
      s.modEnb cl fun e => { e with due := rest, spikes := [], ct := tick + 1 } := modCluster_modCluster ..
  show execTickStep cl s = _
  simp only [execTickStep, hdue, clusterFinishes_of_runs hruns, Bool.not_true, Bool.false_eq_true, if_false, hstepped]
  rw [guards_of_none _ _ hgood, hclock]

theorem tickStep_effect {rest : List Nat} (hruns : clusterRuns s cl = true) (hdue : (s.cluster cl).enb.due = tick :: rest)
    (hgood : ∀ n ∈ neuronBanks (s.cluster cl), badAm s (neuronKey cl n 0) 32768 = none ∧
      badAmong s (span (calendarKey s cl n ((tick + 1) % 16) 0) 8192) = none)
    (hidle : ∀ n ∈ neuronBanks (s.cluster cl), ∀ i, i < 2048 → neuronActive (enbCtx s cl n) (neuronAt s cl n i) = false) :
    ∃ u, exec (.tickStep cl) s = .next u ∧ (u.cluster cl).enb.ct = tick + 1 ∧ (u.cluster cl).enb.due = rest ∧
      (u.cluster cl).enb.spikes = [] ∧ u.threads = s.threads ∧
      ∀ a, (∀ n ∈ neuronBanks (s.cluster cl), a ∉ span (calendarKey s cl n ((tick + 1) % 16) 0) 8192) → memRead u.mem a = memRead s.mem a := by
  refine ⟨_, tickStep_idle hruns hdue hgood hidle, ?_, ?_, ?_, (foldCalendars_threads ..), fun a ha => ?_⟩
  · rw [foldCalendars_enb, enb_modEnb]
  · rw [foldCalendars_enb, enb_modEnb]
  · rw [foldCalendars_enb, enb_modEnb]
  · exact foldCalendars_mem _ ha (by rw [enb_modEnb])

/-! ### The statement -/

theorem eventArrival_accepted {w0 w1 : Word} {srcs : List Nat} {j : Nat} (hflight : s.flights[i]? = some (.event w0 w1 srcs)) (hcl : evCLU w0 = cl)
    (hn : evBANK w0 = n) (hj : evNEUR w0 = j) (htick : bitsOf 0 32 w1 = tick) (hmode : neuronMode (s.cluster cl) n = true)
    (hen : recEN (neuronAt s cl n j) = true) (harrives : arrives s cl i = true) (hgood : badAm s (neuronKey cl n j) 16 = none) :
    ∃ u, exec (.neuronEventArrival i) s = .next u ∧ u.flights = s.flights.take i ++ s.flights.drop (i + 1) ∧
      TlFalls s u srcs ∧
      ((tick : Int) = (s.cluster cl).enb.ct → u.mem = s.mem ∧ u.am = (s.putAm (neuronKey cl n j + 4) 4
        (mod32 (leNat (memBytes s.am (span (neuronKey cl n j + 4) 4)) + evInput w0))).am) ∧
      ((s.cluster cl).enb.ct < tick → (tick : Int) ≤ (s.cluster cl).enb.ct + 15 →
        badAmong s (span (calendarKey s cl n (tick % 16) j) 4) = none → u.am = s.am ∧
        u.mem = (s.addCalendar cl n (tick % 16) j (evInput w0)).mem) := by
  have hruns : clusterRuns s cl = true := (Bool.and_eq_true_iff.1 harrives).1
  have hexec := exec_neuronEventArrival hflight hcl harrives (by rw [hn, hj]; exact hgood)
  have hthread (m : Nat) : ((arrived s i).placeEvent w0 w1).thread m = s.thread m := congrArg (mget · m) placeEvent_threads
  refine ⟨_, hexec, ?_, ⟨fun m hm => (eachThread_other hm).trans (hthread m), fun hnodup m hm => ?_⟩, fun hnow => ?_, fun hafter hwithin hword => ?_⟩
  · exact (eachThread_field (·.flights) fun _ _ _ => rfl).trans placeEvent_flights
  · exact (eachThread_thread hnodup hm).trans (congrArg _ (hthread m))
  · have hplace := placeEvent_now (s := arrived s i) hcl hn hj htick hmode hen hnow
    rw [hplace]
    exact ⟨eachThread_field (·.mem) fun _ _ _ => rfl, eachThread_field (·.am) fun _ _ _ => rfl⟩
  · have hplace := placeEvent_later (s := arrived s i) hcl hn hj htick hmode hen hafter hwithin
    have hlt : j < 2048 := hj ▸ Nat.mod_lt _ (by decide)
    have hctx : ((counted (arrived s i) cl tick).cluster cl).enb.ctx = (s.cluster cl).enb.ctx := by
      rw [counted, enb_modEnb]
      rfl
    obtain ⟨hmem, ham⟩ := addCalendar_congr (u := counted (arrived s i) cl tick) (s := s) (n := n) (tick := tick) (z := evInput w0)
      (cluster_lt_of_runs hruns) hlt hctx rfl rfl hword
    rw [hplace]
    exact ⟨(eachThread_field (·.am) fun _ _ _ => rfl).trans ham, (eachThread_field (·.mem) fun _ _ _ => rfl).trans hmem⟩

theorem eventArrival_refused {w0 w1 : Word} {j reason : Nat} (hflight : s.flights[i]? = some (.event w0 w1 [])) (hcl : evCLU w0 = cl)
    (hn : evBANK w0 = n) (hj : evNEUR w0 = j) (htick : bitsOf 0 32 w1 = tick) (harrives : arrives s cl i = true)
    (hgood : badAm s (neuronKey cl n j) 16 = none) (hreason : RefusedFor s cl n j tick reason) :
    exec (.neuronEventArrival i) s = .next (((arrived s i).modEnb cl fun e => { e with recv := bump e.recv tick }).sendRecord cl
      (neuronRecord s cl reason w0 w1)) := by
  have hexec := exec_neuronEventArrival hflight hcl harrives (by rw [hn, hj]; exact hgood)
  rw [hexec]
  exact congrArg _ (placeEvent_refused (s := arrived s i) hcl hn hj htick hreason)

/-- Settles O40: each row of the neuron banks by what its one operation leaves of the threads, AM, memory and the cluster's registers. -/
theorem neuronEventsComplete : Obligations.NeuronEventsComplete := by
  intro s cl hruns
  refine ⟨?_, ?_, ?_, ?_, ?_, ?_, ?_, ?_, ?_, ?_⟩
  · rintro c rest v hqueue hdone hfn rfl hn
    refine ⟨fun hon hoff hroom hother hidle => ⟨_, exec_neuronModeSwitch_enter hruns hqueue hdone hfn rfl hon hoff hroom hidle,
        neuronMode_enters hruns hqueue hn hon hother rfl⟩,
      fun hoff hon => ⟨_, exec_neuronModeSwitch_leave hruns hqueue hdone hfn rfl hoff hon, neuronMode_leaves hqueue hn hoff rfl⟩⟩
  · intro c rest k t hqueue hdone hkeys ht
    refine ⟨?_, ?_⟩
    · rintro v (⟨hfn, hgood, rfl⟩ | ⟨hfn, rfl⟩)
      · exact enbRead_effect hqueue hkeys ht (exec_nrd hruns hqueue hdone hfn hgood)
      · exact enbRead_effect hqueue hkeys ht (exec_nspk hruns hqueue hdone hfn)
    · intro va lw l hfn hva hlw haligned hmode hl
      refine ⟨fun pieces rlt hnew hlocate hrlt hne hroom => ?_, fun addrs hgranted haddrs => ?_⟩
      · rw [exec_nld hruns hqueue hdone hfn, runNld_granted hva.symm hlw.symm haligned hmode hl.symm hnew hlocate hrlt.symm hne hroom]
      · obtain ⟨hthread, hrest⟩ := copied_effect (bytes := addrs.map s.byteAt) (first := bitsOf 0 11 lw) (addrs := addrs) (l := l) (cl := cl)
          hkeys ht rfl
        refine ⟨_, _, (exec_nld hruns hqueue hdone hfn).trans (congrArg _ ?_), hthread, rfl, hrest⟩
        exact runNld_copies hva.symm hlw.symm haligned hmode hl.symm hgranted haddrs
  · intro i w0 w1 srcs n j tick hflight hcl hn hj htick hmode hen harrives hgood
    exact eventArrival_accepted hflight hcl hn.symm hj.symm htick.symm hmode hen harrives hgood
  · intro i w0 w1 n j tick reason hflight hcl hn hj htick harrives hgood hreason
    exact eventArrival_refused hflight hcl hn.symm hj.symm htick.symm harrives hgood hreason
  · intro x tick fuel va u
    refine ⟨fun w keys hread hreserved hinside hu => ?_, emit_fault⟩
    have hemit (m : Nat) := emit_event (tick := tick) (fuel := m) hread hreserved hinside
    subst hu
    refine ⟨fun hlast => ?_, fun hmore => ⟨?_, ?_⟩⟩
    · rw [hemit, if_pos hlast]
      rfl
    · rintro m rfl
      rw [hemit, if_neg (by simp [hmore])]
      rfl
    · rintro rfl
      rw [hemit, if_neg (by simp [hmore])]
      rfl
  · intro t n i x r v hx hr hactive hfires hfan hv
    rw [hv]
    exact stepNeuron_fires hx.symm hr.symm hactive hfires hfan
  · intro k ks p g tick sent recv e x hkey hk hflights hx he hhome htick
    exact ntickArrival_effect hkey hk hflights hx he hhome htick
  · intro p g e x tick hx he htick hcores hhome hlive hsums
    exact tickRecvGather_effect hx he htick hcores hhome hlive hsums
  · intro tick rest hdue hgood hidle
    exact tickStep_effect hruns hdue hgood hidle
  · intro x tick r v1 hv _
    exact neuronStep_fields hv

end Sys2Proof.Safety
end
